-- ==== Sys2Proof/Word.lean ====
section
/-!
DEFINITION. The words of the device and the operand types of its commands.
-/

namespace Sys2Proof

/-- A byte (R5). -/
abbrev Byte := BitVec 8

/-- A status code, 16 bits (R11, R256). -/
abbrev Status := BitVec 16

/-- A table keyed by a number; `Tab.get`-like operations stand in Machine/Tab.lean. -/
abbrev Tab (α : Type) := List (Nat × α)

/-- Bytes by address; an address not listed reads as zero. -/
abbrev Mem := Tab Byte

/-- A matrix core by its logical number: shelf S0 to S15 and C0 to C7 (00_scope, Names). -/
structure CoreRef where
  sh : Fin 16
  c : Fin 8
deriving DecidableEq, Repr

/-- A trim core: shelf and number 0 to 3 (R13). Shelf number 16 stands for the management complex, whose cores 0 and 1
run the same extension (R137). -/
structure TrimRef where
  sh : Fin 17
  k : Fin 4
deriving DecidableEq, Repr

/-- Who sent a remote request, with the world and partition that R260 gives it. -/
inductive Origin where
  /-- a host, on the device's partner context of this number (R274) -/
  | host (ctx : Fin 16384)
  /-- a fabric peer, with the WORLD and IPART of its operation header and its TXID (R297) -/
  | peer (dev : Fin 8) (secure : Bool) (part : Fin 4) (txid : BitVec 32)
  /-- a trim core of this device, the operation being number `op` of the device's list -/
  | trim (t : TrimRef) (op : Nat)
  /-- firmware of this device, secure world (R260) -/
  | firmware (op : Nat)
deriving DecidableEq, Repr

/-- A remote request as it lands at this device (R262, R271, R297). `msn` is the message number that its
response carries. Fields an operation does not use are ignored. -/
structure Request where
  origin : Origin
  msn : BitVec 32
  addr : BitVec 64
  /-- total length in bytes -/
  len : Nat
  /-- byte offset of the data within the message: 0 unless the message came in segments -/
  off : Nat
  data : List Byte
  opnd1 : BitVec 64
  opnd2 : BitVec 64
  signal : BitVec 64
  point : BitVec 8
  /-- carried flags SAT, NFI, NFS in bits 2, 1, 0 (R271) -/
  cfl : BitVec 3
deriving DecidableEq, Repr

/-- What the far side answered to an operation of this device (R272, R297). -/
structure Answer where
  status : Status
  sat : Bool
  data : List Byte
deriving DecidableEq, Repr

/-- A PMP entry: its configuration byte and its address register (R133). PRESUMED, log 9. -/
structure PmpEntry where
  cfg : BitVec 8 := 0
  addr : BitVec 64 := 0
deriving DecidableEq, Repr

/-- Where the RV64 instructions between two extension instructions have brought a trim core: its pc and mode, MIE, mtvec,
CSR twtmo as last written, and the PMP entries that firmware set (R133, R143, R337; logs 8 and 9). -/
structure TrimBase where
  pc : BitVec 64
  machine : Bool
  mie : Bool
  mtvec : BitVec 64
  twtmo : BitVec 64
  pmp : Tab PmpEntry := []
deriving DecidableEq, Repr

/-- What a core does when an exception stops it: a load, a store or a fetch of `n` bytes at a local address (R135); an
instruction word that the core does not execute (R137, R139, R337); or another exception of RV64, by its cause. -/
inductive TrimExc where
  | load (a n : Nat)
  | store (a n : Nat)
  | fetch (a n : Nat)
  | illegal (w : BitVec 32)
  | other (cause : BitVec 63)
deriving DecidableEq, Repr

/-- Register operands of a trim-core extension instruction (R139): the number of rd and the values of rs1 and rs2. -/
structure TrimOps where
  rd : Fin 32
  rs1 : BitVec 64
  rs2 : BitVec 64
  base : TrimBase
deriving DecidableEq, Repr

/-- A directory command as it reaches the walker: the work slot that carries it, or none for a command of
firmware (08, Directory commands), with the 96-byte command block of R160 as one little-endian number. -/
structure DirCmd where
  slot : Option (Fin 16384)
  /-- the submitting partition; 0 in whole-device mode -/
  part : Fin 4
  block : BitVec 768
deriving DecidableEq, Repr

/-- The UDP checksum of a datagram: it agrees, it does not, or the field is zero (R268). -/
inductive UdpSum where
  | good
  | bad
  | zero
deriving DecidableEq, Repr

/-- What firmware answers beside Marale (R268). -/
inductive NetQuery where
  | arp
  | neighbour
  | echo
deriving DecidableEq, Repr

/-- What an Ethernet frame brings: a UDP datagram, whose IP header has the ECN field CE or not; a request that firmware
answers; or anything else, PAUSE and priority flow control among it (R268). -/
inductive FrameContent where
  | udp (port : BitVec 16) (sum : UdpSum) (ce : Bool) (bytes : List Byte)
  | query (k : NetQuery)
  | other
deriving DecidableEq, Repr

/-- An Ethernet frame at the host port, as far as R268 tells frames apart. -/
structure Frame where
  /-- source IP address -/
  src : BitVec 128
  ipv6 : Bool
  /-- VLAN tags -/
  tags : Nat
  /-- IPv6 extension headers, IPv4 options, or an IPv4 fragment -/
  special : Bool
  content : FrameContent
deriving DecidableEq, Repr

/-- The 24-byte common header of a Marale packet (R269), with what follows it as bytes, and the address that sent it. -/
structure Packet where
  src : BitVec 128
  ver : BitVec 8
  typ : BitVec 8
  flags : BitVec 8
  rsv : BitVec 8
  dctx : BitVec 16
  sctx : BitVec 16
  psn : BitVec 32
  ackpsn : BitVec 32
  msn : BitVec 32
  segoff : BitVec 32
  /-- bytes from offset 24 of the UDP payload on -/
  body : List Byte
  /-- the ECN field of the IP header read CE (R283) -/
  ce : Bool
deriving DecidableEq, Repr

/-- The fields of a Stavuc flit (R293). -/
structure Flit where
  vc : Fin 4
  part : Fin 4
  seq : BitVec 12
  ackseq : BitVec 12
  nak : Bool
  cr0 : BitVec 8
  cr1 : BitVec 8
  cr2 : BitVec 8
  crp : Fin 4
  /-- 492 bytes of the VC's message stream -/
  payload : List Byte
deriving DecidableEq, Repr

/-- A session's object-dictionary write (R270 OD_REQ with OP 1): the context, the message number, the entry and the value bytes. -/
structure OdReq where
  ctx : Fin 16384
  msn : BitVec 32
  index : BitVec 16
  sub : BitVec 8
  value : List Byte
deriving DecidableEq, Repr

/-- The identity a peer sends in phase 6 of link training (R303, R304, R356). -/
structure PeerIdent where
  position : Fin 8
  stepping : BitVec 16
  firmware : BitVec 32
  vmajHi : Nat
  vmin : Nat
  vmajLo : Nat
  caps : BitVec 64
  /-- the challenge that the peer sends (R356) -/
  challenge : BitVec 256
  /-- Saggar verified its certificate to the Nordor root -/
  certOk : Bool
  /-- Saggar verified its signature over the challenge -/
  sigOk : Bool
  /-- SHA-256 of its owner public key -/
  ownerDigest : BitVec 256
  claimed : Bool
deriving DecidableEq, Repr

/-- The payload of a POWER_CREDIT message (R302); CAPW and SHIFTW in milliwatts. -/
structure Credit where
  round : BitVec 32
  barriers : BitVec 32
  capmW : Nat
  shiftmW : Int
  waitns : BitVec 64
deriving DecidableEq, Repr

/-- One island's activity counters n_i of an estimation period and its hottest sensor (R367). -/
structure Activity where
  mac : Nat
  tree : Nat
  tally : Nat
  adapter : Nat
  vector : Nat
  churn : Nat
  sram : Nat
  clock : Nat
  /-- hottest junction sensor of the island, in degrees Celsius -/
  temp : Int
deriving DecidableEq, Repr

/-- One step of a SERVE work's request program (R243): what PROG does is the toolchain's (00_scope), so what it
delivers is the command's operand. -/
inductive ServeAct where
  /-- firmware starts the work on a shelf (R239, R165) -/
  | start (sh : Fin 16)
  /-- the work completes its next commit unit: outputs staged at offsets of OUT, flags of R240, and whether it is the
  last unit -/
  | unit (outs : List (Nat × List Byte)) (flags : BitVec 5) (last : Bool)
  /-- the program fails with its own status -/
  | fail (st : Status)
deriving DecidableEq, Repr

/-- Where firmware has Churn emit the working copy of one matrix (R92, R188): tensor tag, code array, scale vector,
completion word. -/
structure EmitPlace where
  tag : BitVec 12
  dst : BitVec 64
  sdst : BitVec 64
  done : BitVec 64
deriving DecidableEq, Repr

/-- A sequence of a micro-batch: its tokens, and the HBM area that takes the gradients for the keys, values and carried state
of its earlier chunks (R203). -/
structure SeqIn where
  tokens : Nat
  kvOff : Nat
  kvLen : Nat
deriving DecidableEq, Repr

/-- Where a maximum stands: an entry of a core's maxima file, token half or row half (R90), or an FP32 value that a
store-maxima form put into a shelf SRAM (R75, R88). -/
inductive MaxPlace where
  | file (c : CoreRef) (tok : Bool) (i : Fin 4096)
  | kept (sh : Fin 16) (off : Nat)
deriving DecidableEq, Repr

/-- A gradient channel at a micro-step's end: 65,536 × tag + channel, the maxima of every core that drained it, and the
row-scale entries that take 1/σ (R97). -/
structure GradChan where
  key : Nat
  drained : List MaxPlace
  loads : List (CoreRef × Fin 4096)
deriving DecidableEq, Repr

/-- A column of a rank vector: 65,536 × tag + column, the maxima of the BF16 drains of a job's first micro-step, and those
of its E4M3 drains (R193). -/
structure RankCol where
  key : Nat
  first : List MaxPlace
  drained : List MaxPlace
deriving DecidableEq, Repr

/-- What a micro-step's end brings with its gradient tags: its gradient channels, the columns of its rank vectors, and the
shelves in the order in which they reached the barrier (R97, R193, R204). -/
structure MicroEnd where
  chans : List GradChan
  cols : List RankCol
  arrived : List (Fin 16)
deriving DecidableEq, Repr

/-- What a self-test found in a block (R397, R399). -/
inductive TestFinding where
  | pass
  /-- failing row of an array -/
  | arrayRow (array : Fin 4) (row : Fin 66)
  /-- failing cell of core memory MEM 0 to 7: memory, word and bit -/
  | cell (mem : Fin 8) (word : BitVec 32) (bit : BitVec 16)
  /-- logic BIST signature differs (R396) -/
  | logic
  /-- more than 64 failing cells (R397) -/
  | unrepairable
deriving DecidableEq, Repr

/-- What the start-up self-test, or the training of a stack, found wrong (R393, R399, R429). -/
inductive StartFault where
  | core (sh : Fin 16) (p : Fin 9) (f : TestFinding)
  /-- a trim core fails logic BIST or memory BIST -/
  | trim (t : TrimRef) (memory : Bool)
  /-- a shelf SRAM cell: bank, word and bit -/
  | sram (sh : Fin 16) (bank : Fin 32) (word : BitVec 32) (bit : BitVec 16)
  /-- a block without repair: BLK, INST and UNIT of R398 -/
  | block (blk : Fin 12) (inst : Fin 16) (unit : Fin 64) (memory : Bool)
  /-- an HBM stack fails training -/
  | stack (h : Fin 12)
  /-- spare lane 0 fails its loopback -/
  | loopback
deriving DecidableEq, Repr

/-- What a start-up finds: faults, whether spare lane 0 is looped back (R290), whether the store's persistent entries
and its repair record verify (R401, R418), and the rows of the repair record whose DRAM bank has no spare left, by stack,
pseudo-channel and row (R324). -/
structure StartReport where
  faults : List StartFault
  looped : Bool
  storeOk : Bool
  recordOk : Bool
  noSpare : List (Nat × Nat × Nat) := []
deriving DecidableEq, Repr

/-- Bits of a burst, 32 data bytes and then 4 ECC bytes, that the dies hold wrong, and whether on-die ECC finds the error
where it cannot correct it (R317, R318). -/
structure BurstError where
  burst : Fin 16
  bits : List (Fin 288)
  found : Bool
deriving DecidableEq, Repr

/-- What a DIGEST message says (R328 to R330): a member's digest of a shard, in a round or after its refetch; the
coordinator's orders to quarantine a member, to restore it or to start a round, and the word of a member that a reset has
restored; or the digest of a committed output of a paired work, with its UTAG, slot and generation. The uses beside the
first are the model's, log 38. -/
inductive DigestUse where
  | round
  | refetched
  | quarantine
  | restore
  | start
  | output (utag : BitVec 64) (slot : Nat) (gen : BitVec 32)
deriving DecidableEq, Repr

/-- A shard's digest with the member's ECC record (R328). -/
structure ShardDigest where
  digest : BitVec 256
  ecc : Nat
deriving DecidableEq, Repr

/-- Errors that have arisen in the 512-byte granule of this number, the HBM offset divided by 512, and its DRAM row (R318,
R323). -/
structure GranuleError where
  granule : Nat
  row : Nat
  bursts : List BurstError
deriving DecidableEq, Repr

/-- How far the training of a group has come: the last phase completed, 1 to 7; the symbol error ratio of each lane that
phase 3 measured, as FP32; the peer's good-lane mask of phase 5; its identification of phase 6 (R303). For a spare lane,
lane 0. -/
structure Training where
  phase : Fin 8
  ratios : List (BitVec 32)
  theirs : BitVec 8
  ident : PeerIdent
deriving DecidableEq, Repr

/-- Why a group's clock channel falls silent (R292, R306, R308): the channel alone; the peer's reset or loss of power; or a
fault of the Ophel engine that carries the group. -/
inductive ClockLoss where
  | channel
  | peerReset
  | engine
deriving DecidableEq, Repr

/-- The clock channel of a fabric group, or of a spare lane, falls silent. -/
structure ClockEvent where
  group : Fin 16
  why : ClockLoss
deriving DecidableEq, Repr

/-- The question of a device that holds no decision: its position, and the number of the BOARD change (R254, log 84). -/
structure BoardQuery where
  from_ : Fin 8
  change : BitVec 32
deriving DecidableEq, Repr

/-- What happens to the host port's link: it goes down, trains, comes up; or a lane of it fails (R21, R288). -/
inductive PortEvent where
  | down
  | training
  | up
  | laneFault
deriving DecidableEq, Repr

end Sys2Proof
end

