-- ==== Sys2Proof/Syntax.lean ====
section
/-!
DEFINITION. The commands of the block: one constructor per row of spec/opcode_table.json.
-/

namespace Sys2Proof

/-- A command (opcode_table.json, one constructor per row). -/
inductive Instr where
  /-- TILE_NOP (R61) -/
  | tileNop (c : CoreRef)
  /-- TILE_LD (R54) -/
  | tileLd (c : CoreRef)
  /-- TILE_LD_DONE (R68) -/
  | tileLdDone (c : CoreRef)
  /-- TILE_SWAP (R55) -/
  | tileSwap (c : CoreRef)
  /-- TILE_RUN (R69) -/
  | tileRun (c : CoreRef) (cold : Bool)
  /-- RUN_COMPLETE (R69) -/
  | runComplete (c : CoreRef)
  /-- TALLY_DRAIN (R65) -/
  | tallyDrain (c : CoreRef)
  /-- DRAIN_COMPLETE (R72) -/
  | drainComplete (c : CoreRef)
  /-- TILE_MASK (R66) -/
  | tileMask (c : CoreRef)
  /-- TILE_END (R58) -/
  | tileEnd (c : CoreRef)
  /-- WAKE_WAVE (R73) -/
  | wakeWave (part : Fin 4)
  /-- RETIRE_CORE (R75) -/
  | retireCore (c : CoreRef) (answers : Bool) (dst : Fin 12288001) (combine : Option (Fin 16384))
  /-- MAXIMA_READ_TIMEOUT (R75) -/
  | maximaReadTimeout (c : CoreRef)
  /-- DISCARD_IDLE (R146) -/
  | discardIdle (c : CoreRef)
  /-- TALLY_ADD (R80) -/
  | tallyAdd (r : Request)
  /-- PUT (R264) -/
  | put (r : Request)
  /-- GET (R262) -/
  | get (r : Request)
  /-- ATOMIC_ADD (R262) -/
  | atomicAdd (r : Request)
  /-- ATOMIC_SWAP (R262) -/
  | atomicSwap (r : Request)
  /-- ATOMIC_CAS (R262) -/
  | atomicCas (r : Request)
  /-- PUT_SIGNAL (R265) -/
  | putSignal (r : Request)
  /-- FENCE (R267) -/
  | fence (r : Request)
  /-- RESPONSE (R266) -/
  | response (op : Nat) (a : Answer)
  /-- LOAD_ROW_SCALES (R88) -/
  | loadRowScales (t : TrimRef) (o : TrimOps)
  /-- LOAD_TOKEN_SCALES (R88) -/
  | loadTokenScales (t : TrimRef) (o : TrimOps)
  /-- STORE_ROW_MAXIMA (R90) -/
  | storeRowMaxima (t : TrimRef) (o : TrimOps)
  /-- STORE_TOKEN_MAXIMA (R90) -/
  | storeTokenMaxima (t : TrimRef) (o : TrimOps)
  /-- SC_SEED (R148) -/
  | scSeed (t : TrimRef) (o : TrimOps)
  /-- SEED_WRITE_APPLY (R148) -/
  | seedWriteApply (c : CoreRef)
  /-- SNAPSHOT_COMMAND (R102) -/
  | snapshotCommand (q : OdReq)
  /-- SNAPSHOT_DONE (R102) -/
  | snapshotDone (part : Fin 4)
  /-- VLAUNCH (R107) -/
  | vlaunch (r : Request)
  /-- VECTOR_PROGRAM_START (R106) -/
  | vectorProgramStart (c : CoreRef)
  /-- VNOP (R113) -/
  | vnop (c : CoreRef)
  /-- VEND (R109) -/
  | vend (c : CoreRef)
  /-- VSETVL (R113) -/
  | vsetvl (c : CoreRef)
  /-- VSETVL_M (R113) -/
  | vsetvlM (c : CoreRef)
  /-- VSUM (R129) -/
  | vsum (c : CoreRef)
  /-- SUMMARY_DELIVER (R130) -/
  | summaryDeliver (t : TrimRef)
  /-- VRAND (R119) -/
  | vrand (c : CoreRef)
  /-- VLD (R127) -/
  | vld (c : CoreRef)
  /-- VST (R127) -/
  | vst (c : CoreRef)
  /-- VLDX (R127) -/
  | vldx (c : CoreRef)
  /-- VSTX (R127) -/
  | vstx (c : CoreRef)
  /-- VSXADD (R127) -/
  | vsxadd (c : CoreRef)
  /-- VMLD (R127) -/
  | vmld (c : CoreRef)
  /-- VMST (R127) -/
  | vmst (c : CoreRef)
  /-- VADD (R115) -/
  | vadd (c : CoreRef)
  /-- VSUB (R115) -/
  | vsub (c : CoreRef)
  /-- VMUL (R115) -/
  | vmul (c : CoreRef)
  /-- VMIN (R113) -/
  | vmin (c : CoreRef)
  /-- VMAX (R113) -/
  | vmax (c : CoreRef)
  /-- VMINU (R113) -/
  | vminu (c : CoreRef)
  /-- VMAXU (R113) -/
  | vmaxu (c : CoreRef)
  /-- VAND (R113) -/
  | vand (c : CoreRef)
  /-- VOR (R113) -/
  | vor (c : CoreRef)
  /-- VXOR (R113) -/
  | vxor (c : CoreRef)
  /-- VSLL (R113) -/
  | vsll (c : CoreRef)
  /-- VSRL (R113) -/
  | vsrl (c : CoreRef)
  /-- VSRA (R113) -/
  | vsra (c : CoreRef)
  /-- VSADD (R115) -/
  | vsadd (c : CoreRef)
  /-- VMERGE (R113) -/
  | vmerge (c : CoreRef)
  /-- VMV (R113) -/
  | vmv (c : CoreRef)
  /-- VID (R113) -/
  | vid (c : CoreRef)
  /-- VFADD (R117) -/
  | vfadd (c : CoreRef)
  /-- VFSUB (R117) -/
  | vfsub (c : CoreRef)
  /-- VFMUL (R117) -/
  | vfmul (c : CoreRef)
  /-- VFMA (R117) -/
  | vfma (c : CoreRef)
  /-- VFMIN (R117) -/
  | vfmin (c : CoreRef)
  /-- VFMAX (R117) -/
  | vfmax (c : CoreRef)
  /-- VFABS (R113) -/
  | vfabs (c : CoreRef)
  /-- VFNEG (R113) -/
  | vfneg (c : CoreRef)
  /-- VFDIV (R118) -/
  | vfdiv (c : CoreRef)
  /-- VFSQRT (R118) -/
  | vfsqrt (c : CoreRef)
  /-- VFEXP2 (R118) -/
  | vfexp2 (c : CoreRef)
  /-- VFEXP (R118) -/
  | vfexp (c : CoreRef)
  /-- VFLOG2 (R118) -/
  | vflog2 (c : CoreRef)
  /-- VFRCP (R118) -/
  | vfrcp (c : CoreRef)
  /-- VFRSQRT (R118) -/
  | vfrsqrt (c : CoreRef)
  /-- VFTANH (R118) -/
  | vftanh (c : CoreRef)
  /-- VFSIGM (R118) -/
  | vfsigm (c : CoreRef)
  /-- VCVT (R118) -/
  | vcvt (c : CoreRef)
  /-- VCMP_EQ (R113) -/
  | vcmpEq (c : CoreRef)
  /-- VCMP_NE (R113) -/
  | vcmpNe (c : CoreRef)
  /-- VCMP_LT (R113) -/
  | vcmpLt (c : CoreRef)
  /-- VCMP_LTU (R113) -/
  | vcmpLtu (c : CoreRef)
  /-- VCMP_LE (R113) -/
  | vcmpLe (c : CoreRef)
  /-- VCMP_LEU (R113) -/
  | vcmpLeu (c : CoreRef)
  /-- VFCMP_EQ (R113) -/
  | vfcmpEq (c : CoreRef)
  /-- VFCMP_LT (R113) -/
  | vfcmpLt (c : CoreRef)
  /-- VFCMP_LE (R113) -/
  | vfcmpLe (c : CoreRef)
  /-- VFCMP_UNO (R113) -/
  | vfcmpUno (c : CoreRef)
  /-- VMAND (R113) -/
  | vmand (c : CoreRef)
  /-- VMOR (R113) -/
  | vmor (c : CoreRef)
  /-- VMXOR (R113) -/
  | vmxor (c : CoreRef)
  /-- VMANDN (R113) -/
  | vmandn (c : CoreRef)
  /-- VMSET (R113) -/
  | vmset (c : CoreRef)
  /-- VRED_ADD (R120) -/
  | vredAdd (c : CoreRef)
  /-- VRED_MAX (R120) -/
  | vredMax (c : CoreRef)
  /-- VRED_MAXU (R120) -/
  | vredMaxu (c : CoreRef)
  /-- VRED_MIN (R120) -/
  | vredMin (c : CoreRef)
  /-- VRED_MINU (R120) -/
  | vredMinu (c : CoreRef)
  /-- VFRED_ADD (R121) -/
  | vfredAdd (c : CoreRef)
  /-- VFRED_MAX (R121) -/
  | vfredMax (c : CoreRef)
  /-- VFRED_MIN (R121) -/
  | vfredMin (c : CoreRef)
  /-- VSCAN_ADD (R122) -/
  | vscanAdd (c : CoreRef)
  /-- VSCANX_ADD (R122) -/
  | vscanxAdd (c : CoreRef)
  /-- VSCAN_MAX (R122) -/
  | vscanMax (c : CoreRef)
  /-- VSCAN_MAXU (R122) -/
  | vscanMaxu (c : CoreRef)
  /-- VFSCAN_ADD (R122) -/
  | vfscanAdd (c : CoreRef)
  /-- VFSCANX_ADD (R122) -/
  | vfscanxAdd (c : CoreRef)
  /-- VSSCAN_ADD (R122) -/
  | vsscanAdd (c : CoreRef)
  /-- VSSCANX_ADD (R122) -/
  | vsscanxAdd (c : CoreRef)
  /-- VFSSCAN_ADD (R122) -/
  | vfsscanAdd (c : CoreRef)
  /-- VSSCAN_MAX (R122) -/
  | vsscanMax (c : CoreRef)
  /-- VCOMPRESS (R123) -/
  | vcompress (c : CoreRef)
  /-- VEXPAND (R123) -/
  | vexpand (c : CoreRef)
  /-- VPERM (R124) -/
  | vperm (c : CoreRef)
  /-- VRANK (R125) -/
  | vrank (c : CoreRef)
  /-- RM_CMD (R141) -/
  | rmCmd (t : TrimRef) (o : TrimOps)
  /-- RM_COMPLETION (R142) -/
  | rmCompletion (op : Nat)
  /-- COUNTER_STORE (R142) -/
  | counterStore (t : TrimRef) (err : Bool) (i : Fin 16) (v : BitVec 64)
  /-- WAIT_W_NE (R143) -/
  | waitWNe (t : TrimRef) (o : TrimOps)
  /-- WAIT_W_EQ (R143) -/
  | waitWEq (t : TrimRef) (o : TrimOps)
  /-- WAIT_W_GEU (R143) -/
  | waitWGeu (t : TrimRef) (o : TrimOps)
  /-- WAIT_WAKE (R143) -/
  | waitWake (t : TrimRef)
  /-- WAIT_TIMEOUT (R143) -/
  | waitTimeout (t : TrimRef)
  /-- WAIT_INTERRUPT (R143) -/
  | waitInterrupt (t : TrimRef) (cause : BitVec 64)
  /-- TP_ISSUE (R144) -/
  | tpIssue (t : TrimRef) (o : TrimOps)
  /-- TP_STAT (R145) -/
  | tpStat (t : TrimRef) (o : TrimOps)
  /-- TP_DISCARD (R146) -/
  | tpDiscard (t : TrimRef) (o : TrimOps)
  /-- SUM_RECV (R149) -/
  | sumRecv (t : TrimRef) (o : TrimOps)
  /-- SUM_POLL (R149) -/
  | sumPoll (t : TrimRef) (o : TrimOps)
  /-- SUM_FLUSH (R149) -/
  | sumFlush (t : TrimRef) (o : TrimOps)
  /-- TRIM_EXCEPTION (R151) -/
  | trimException (t : TrimRef) (b : TrimBase) (e : TrimExc)
  /-- CREATE (R161) -/
  | create (d : DirCmd)
  /-- LOAD (R163) -/
  | load (d : DirCmd)
  /-- LOAD_COMPLETE (R163) -/
  | loadComplete (didx : Nat) (fetched : Answer)
  /-- PARK (R161) -/
  | park (d : DirCmd)
  /-- PIN (R164) -/
  | pin (d : DirCmd)
  /-- UNPIN (R161) -/
  | unpin (d : DirCmd)
  /-- TRAIN_BEGIN (R183) -/
  | trainBegin (d : DirCmd)
  /-- TRAIN_END (R162) -/
  | trainEnd (d : DirCmd)
  /-- REVOKE (R167) -/
  | revoke (d : DirCmd)
  /-- REVOKE_TENANT (R167) -/
  | revokeTenant (d : DirCmd)
  /-- FREE (R161) -/
  | free (d : DirCmd)
  /-- REFCNT_ZERO (R166) -/
  | refcntZero (didx : Nat)
  /-- COMMAND_TMO_EXPIRY (R166) -/
  | commandTmoExpiry (didx : Nat)
  /-- CACHE_LINE_AVAILABLE (R159) -/
  | cacheLineAvailable (part : Fin 4)
  /-- TOKEN_BOUNDARY (R167) -/
  | tokenBoundary (slot : Fin 16384)
  /-- FILL_DESCRIPTOR (R170) -/
  | fillDescriptor (r : Request)
  /-- FILL_START (R171) -/
  | fillStart (c : CoreRef) (k : Fin 8)
  /-- FILL_COPY_DONE (R171) -/
  | fillCopyDone (c : CoreRef) (k : Fin 8)
  /-- CHUNK_FETCH_DONE (R173) -/
  | chunkFetchDone (c : CoreRef) (k : Fin 8)
  /-- SCANNER_SWEEP (R237) -/
  | scannerSweep
  /-- BATCH_WINDOW_EXPIRY (R239) -/
  | batchWindowExpiry
  /-- SERVE_WORK (R243) -/
  | serveWork (slot : Fin 16384) (a : ServeAct)
  /-- TRAIN_WORK (R186) -/
  | trainWork (slot : Fin 16384)
  /-- EXPORT_WORK (R226) -/
  | exportWork (slot : Fin 16384)
  /-- IMPORT_WORK (R229) -/
  | importWork (slot : Fin 16384)
  /-- WORK_END (R233) -/
  | workEnd (slot : Fin 16384)
  /-- ABORT_WORK (R247) -/
  | abortWork (q : OdReq)
  /-- ABORT_GROUP (R246) -/
  | abortGroup (q : OdReq)
  /-- GROUP_REGISTER (R245) -/
  | groupRegister (from_ : Fin 8) (h : BitVec 64) (part : Fin 64) (npart : Nat)
  /-- GROUP_READY (R243) -/
  | groupReady (h : BitVec 64) (part : Fin 64) (unit : Nat) (last : Bool)
  /-- GROUP_FAIL (R244) -/
  | groupFail (h : BitVec 64) (part : Fin 64) (st : Status)
  /-- GROUP_COMMIT (R243) -/
  | groupCommit (h : BitVec 64) (unit : Nat)
  /-- GROUP_DISCARD (R244) -/
  | groupDiscard (h : BitVec 64) (fpart : Nat) (pstat : Status) (tokens : Nat)
  /-- GROUP_COPIED (R243) -/
  | groupCopied (h : BitVec 64) (part : Fin 64) (unit : Nat)
  /-- GROUP_END (R243) -/
  | groupEnd (h : BitVec 64) (tokens : Nat)
  /-- GROUP_ABORT (R246) -/
  | groupAbort (h : BitVec 64) (tokens : Nat)
  /-- GROUP_ASSEMBLY_TIMEOUT (R244) -/
  | groupAssemblyTimeout (h : BitVec 64)
  /-- GROUP_DECISION_TIMEOUT (R244) -/
  | groupDecisionTimeout (slot : Fin 16384)
  /-- MODE_COMMAND_DEVICE (R253) -/
  | modeCommandDevice (q : OdReq)
  /-- MODE_COMMAND_BOARD (R254) -/
  | modeCommandBoard (q : OdReq)
  /-- UNIT_QUIESCED (R253) -/
  | unitQuiesced (u : Fin 24)
  /-- MODE_TIMEOUT (R253) -/
  | modeTimeout
  /-- SCRUB_COMPLETE (R359) -/
  | scrubComplete (part : Fin 4)
  /-- MODE_PREPARE (R254) -/
  | modePrepare
  /-- MODE_READY (R254) -/
  | modeReady (from_ : Fin 8)
  /-- MODE_FAIL (R254) -/
  | modeFail (from_ : Fin 8)
  /-- MODE_COMMIT (R254) -/
  | modeCommit
  /-- MODE_ROLLBACK (R254) -/
  | modeRollback
  /-- MODE_QUERY (R254) -/
  | modeQuery (q : BoardQuery)
  /-- MODE_ANSWER (R254) -/
  | modeAnswer (from_ : Fin 8) (committed : Bool)
  /-- MODE_DECISION_TIMEOUT (R254) -/
  | modeDecisionTimeout
  /-- OPEN (R277) -/
  | open_ (p : Packet)
  /-- CLOSE (R275) -/
  | close (c : Fin 16384) (fromHost : Bool)
  /-- CLOSED (R275) -/
  | closed (c : Fin 16384)
  /-- DRAIN_TIMEOUT (R275) -/
  | drainTimeout (c : Fin 16384)
  /-- PACKET_RECEIVE (R280) -/
  | packetReceive (f : Frame)
  /-- ACK (R282) -/
  | ack (c : Fin 16384) (q : Bool) (ack : BitVec 32) (sack : List (BitVec 32 × BitVec 32))
  /-- ACK_TIMER (R281) -/
  | ackTimer (c : Fin 16384) (q : Bool)
  /-- RETRANSMIT_TIMEOUT (R282) -/
  | retransmitTimeout (c : Fin 16384) (q : Bool)
  /-- CNP (R284) -/
  | cnp (c : Fin 16384)
  /-- RATE_TICK (R284) -/
  | rateTick (c : Fin 16384)
  /-- KEEPALIVE (R286) -/
  | keepalive (c : Fin 16384)
  /-- KEEPALIVE_TIMER (R286) -/
  | keepaliveTimer (c : Fin 16384)
  /-- PORT_STATE_CHANGE (R288) -/
  | portStateChange (e : PortEvent)
  /-- FLIT_RECEIVE (R294) -/
  | flitReceive (peer : Fin 8) (bytes : List Byte)
  /-- GROUP_TRAINING (R303) -/
  | groupTraining (g : Fin 16) (t : Training)
  /-- TRAINING_PHASE_TIMEOUT (R303) -/
  | trainingPhaseTimeout (g : Fin 16) (light : Bool)
  /-- GROUP_RESTORE_TIMER (R303) -/
  | groupRestoreTimer (g : Fin 16)
  /-- RETRAIN_GROUP (R307) -/
  | retrainGroup (q : OdReq)
  /-- LANE_ERROR_WINDOW (R305) -/
  | laneErrorWindow (g : Fin 16) (ratios : List (BitVec 32))
  /-- LANE_LOCK_LOSS (R305) -/
  | laneLockLoss (g : Fin 16) (lane : Fin 8)
  /-- CLOCK_CHANNEL_LOSS (R292) -/
  | clockChannelLoss (e : ClockEvent)
  /-- FABRIC_OP_TIMEOUT (R299) -/
  | fabricOpTimeout (op : Nat)
  /-- LINK_STATE (R300) -/
  | linkState (peer : Fin 8) (words : List (BitVec 32))
  /-- POWER_CREDIT (R302) -/
  | powerCredit (peer : Fin 8) (c : Credit)
  /-- POWER_ROUND (R384) -/
  | powerRound (barriers : BitVec 32) (waitns : BitVec 64)
  /-- DIGEST (R328) -/
  | digest (use : DigestUse) (member : Fin 32) (shard : Nat) (d : ShardDigest)
  /-- PATROL_READ (R322) -/
  | patrolRead (h : Fin 12) (arisen : List GranuleError) (intervened : Bool)
  /-- ROW_REMAP (R323) -/
  | rowRemap (h : Fin 12) (pc : Fin 32) (row : Nat)
  /-- REGION_ENTRY (R314) -/
  | regionEntry (q : OdReq)
  /-- REPLICA_CHECK (R328) -/
  | replicaCheck
  /-- REPLICA_REFETCH_DONE (R329) -/
  | replicaRefetchDone (member : Fin 32) (shard : Nat) (a : Answer)
  /-- OWNER_KEY_CLAIM (R345) -/
  | ownerKeyClaim (q : OdReq)
  /-- OWNER_RELEASE (R347) -/
  | ownerRelease (q : OdReq)
  /-- NONCE_REFRESH (R346) -/
  | nonceRefresh
  /-- SECURE_OPEN_LOCKOUT_END (R346) -/
  | secureOpenLockoutEnd
  /-- QUOTE_REQUEST (R351) -/
  | quoteRequest (q : OdReq)
  /-- QUOTE_CAPTURE (R352) -/
  | quoteCapture (c : Fin 16384)
  /-- SECURITY_VERSION_COMMIT (R350) -/
  | securityVersionCommit (q : OdReq)
  /-- PARTITION_RESET (R358) -/
  | partitionReset (q : OdReq)
  /-- REGION_SCRUB (R360) -/
  | regionScrub (q : OdReq)
  /-- SCAN_GRANT_REQUEST (R395) -/
  | scanGrantRequest (blk : Fin 12) (inst : Fin 16) (unit : Fin 64)
  /-- ESTIMATION_PERIOD (R367) -/
  | estimationPeriod (acts : List Activity) (hbm : Nat)
  /-- SLEW_DONE (R370) -/
  | slewDone (i : Fin 4)
  /-- THERMAL_TICK (R376) -/
  | thermalTick (temp : Int)
  /-- JUNCTION_LIMIT (R377) -/
  | junctionLimit
  /-- THERMAL_RESTART (R377) -/
  | thermalRestart
  /-- DROOP_DETECT (R379) -/
  | droopDetect (i : Fin 4)
  /-- DROOP_CLEAR (R379) -/
  | droopClear (i : Fin 4)
  /-- SUPPLY_WARNING (R381) -/
  | supplyWarning (i : Fin 4)
  /-- SUPPLY_RECOVERY (R381) -/
  | supplyRecovery (i : Fin 4)
  /-- SUPPLY_RESET (R382) -/
  | supplyReset (i : Fin 4)
  /-- DEFERRED_STEP (R380) -/
  | deferredStep (i : Fin 4)
  /-- IDLE_READY_ENTRY (R389) -/
  | idleReadyEntry
  /-- IDLE_READY_EXIT (R389) -/
  | idleReadyExit
  /-- PARKED_WAKE (R390) -/
  | parkedWake
  /-- IN_SERVICE_TEST (R403) -/
  | inServiceTest (findings : List TestFinding) (retestOk : Bool) (dst : Fin 12288001)
  /-- IN_SERVICE_HANDBACK (R403) -/
  | inServiceHandback (dst : Fin 12288001)
  /-- TRIM_FETCH_FAULT (R402) -/
  | trimFetchFault (t : TrimRef) (o : Fin 0x10000000) (us : Nat)
  /-- MANAGEMENT_DATA_FAULT (R402) -/
  | managementDataFault (core : Fin 2) (o : Fin 0x1000000) (us : Nat)
  /-- SHELF_RESET (R426) -/
  | shelfReset (q : Option OdReq) (sh : Fin 16) (st : Status)
  /-- STEP_START (R188) -/
  | stepStart (slot : Fin 16384) (garea : List (Nat × Nat)) (copies : List EmitPlace) (batches : List (List SeqIn))
  /-- TRAINING_IMAGE_BUILD (R189) -/
  | trainingImageBuild (slot : Fin 16384) (image timage : Nat)
  /-- MICRO_STEP_END (R198) -/
  | microStepEnd (slot : Fin 16384) (tags : List (BitVec 12)) (m : MicroEnd)
  /-- STEP_COMMIT (R223) -/
  | stepCommit (slot : Fin 16384) (recs : List (BitVec 64)) (flagAt doneAt : BitVec 64)
  /-- COMMIT_RESTART (R224) -/
  | commitRestart (didx : Nat)
  /-- SERVING_PREEMPT (R201) -/
  | servingPreempt (sh : Fin 16)
  /-- TRAINING_RESUME (R202) -/
  | trainingResume (sh : Fin 16)
  /-- STEPF_WRITE (R198) -/
  | stepfWrite (r : Request)
  /-- EMIT (R92) -/
  | emit (sh : Fin 16)
  /-- UPDATE (R211) -/
  | update (sh : Fin 16)
  /-- SETEPOCH (R221) -/
  | setepoch (sh : Fin 16)
  /-- SKETCH (R225) -/
  | sketch (sh : Fin 16) (codes : List (BitVec 12)) (bf16 : Bool)
  /-- EXPORT (R226) -/
  | export_ (sh : Fin 16) (moved : Bool)
  /-- IMPORT (R229) -/
  | import_ (sh : Fin 16)
  /-- STEPF_RD (R210) -/
  | stepfRd (sh : Fin 16)
  /-- STEPF_WR (R210) -/
  | stepfWr (sh : Fin 16)
  /-- SERVE (R228) -/
  | serve (sh : Fin 16)
  /-- OD_WRITE (R415) -/
  | odWrite (q : OdReq)
  /-- SESSION_LEVEL (R416) -/
  | sessionLevel (q : OdReq)
  /-- EXPERT_SESSION_TIMEOUT (R416) -/
  | expertSessionTimeout (c : Fin 16384)
  /-- DEVICE_RESET (R427) -/
  | deviceReset (q : OdReq)
  /-- UPDATE_STAGE (R423) -/
  | updateStage (q : OdReq)
  /-- UPDATE_VERIFY_DONE (R423) -/
  | updateVerifyDone
  /-- UPDATE_ACTIVATE (R424) -/
  | updateActivate (q : OdReq)
  /-- UPDATE_ABANDON (R423) -/
  | updateAbandon (q : OdReq)
  /-- TRF_SHELF_SWITCH (R424) -/
  | trfShelfSwitch
  /-- TRF_START_FAILURE (R425) -/
  | trfStartFailure (t : TrimRef) (st : Status)
  /-- RESET_N_ASSERT (R427) -/
  | resetNAssert
  /-- STARTUP (R428) -/
  | startup (r : StartReport)
  /-- INPUT_POWER_APPLIED (R442) -/
  | inputPowerApplied (straps : Fin 8)
  /-- PWR_EN_RISE (R442) -/
  | pwrEnRise
  /-- PWR_EN_FALL (R443) -/
  | pwrEnFall
  /-- INPUT_UNDERVOLTAGE (R443) -/
  | inputUndervoltage
  /-- INPUT_OVERVOLTAGE (R443) -/
  | inputOvervoltage
  /-- RAIL_FAULT (R441) -/
  | railFault (rail : Fin 6)
  /-- CARTRIDGE_RELEASE (R436) -/
  | cartridgeRelease (bay : Bool)
  /-- CARTRIDGE_OFF (R436) -/
  | cartridgeOff (bay : Bool)
  /-- CARTRIDGE_PULL (R436) -/
  | cartridgePull (bay : Bool)
  /-- CARTRIDGE_LATCH (R435) -/
  | cartridgeLatch (bay : Bool)
  /-- CARTRIDGE_WARMUP_DONE (R436) -/
  | cartridgeWarmupDone (bay : Bool)
  /-- LEAK_SENSOR_WET (R438) -/
  | leakSensorWet
  /-- ENTER_PARKED (R390) -/
  | enterParked (q : OdReq)
  /-- POWER_CREDIT_STALE (R302) -/
  | powerCreditStale (peer : Fin 8)
  /-- BOARD_READY_TIMEOUT (R254) -/
  | boardReadyTimeout
  /-- MANAGEMENT_RESTART_DONE (R285) -/
  | managementRestartDone
  /-- ARITHMETIC_DOMAIN_RESTORE (R382) -/
  | arithmeticDomainRestore (i : Fin 4)
  /-- CARTRIDGE_FAULT (R438) -/
  | cartridgeFault (bay : Bool)
  /-- LEAK_SENSOR_DRY (R438) -/
  | leakSensorDry
  /-- REGION_SCRUB_DONE (R360) -/
  | regionScrubDone (e : Fin 256)
deriving DecidableEq, Repr

end Sys2Proof
end

