-- ==== Sys2Proof/Machine/State.lean ====
section
/-!
DEFINITION. The state of the module as plain data: every register, memory, queue, table, counter and mode the
spec gives it, the reasons a step can stop, and the state after reset.
-/

namespace Sys2Proof.Machine

/-- Why a command could stop the machine. None of the spec's commands does: every rejection of the spec is a status that
the device returns (R256). -/
inductive Fault where
  /-- raised by nothing; it stands so that the type is not empty; safe -/
  | unreachable
deriving DecidableEq, Repr

/-- Why a command has no meaning in this model. -/
inductive Refusal where
  /-- the command has no meaning yet; raised by exec's refused arms only; safe -/
  | notModelled (mnemonic : String)
deriving DecidableEq, Repr

/-- The orderable part (R1): it fixes the HBM capacity only. -/
inductive Part where
  | t432
  | t288
deriving DecidableEq, Repr

/-! ### The matrix core (chapters 02, 03, 05, 08, 09) -/

/-- A Tally slot status word by its fields (R34); the gradient store's status uses POINT, NFI, SAT, LIVE (R196). -/
structure SlotStatus where
  point : BitVec 8 := 0
  nfs : Bool := false
  dclip : Bool := false
  nfi : Bool := false
  sat : Bool := false
  live : Bool := false
deriving DecidableEq, Repr

/-- A valid repair map entry: logical row `row` of array `array` lives in spare row `spare` (R56). -/
structure RepairEntry where
  array : Nat
  row : Nat
  spare : Nat
deriving DecidableEq, Repr

/-- A background load: the shadow cells it has still to write, keyed 128 × row + code index (R54). -/
structure Load where
  seq : Nat
  cells : List (Nat × BitVec 12)
deriving DecidableEq, Repr

/-- The adapter part of a run in flight (R156, R178, R190): slot and chunk, the decoded streaming integers of each
token position, and the streaming grid exponent. -/
structure AdptRun where
  aslot : Nat
  chunk : Nat
  gather : Bool
  gx : Int
  x : List (Nat × List Int)
  /-- gather entries of the run's token positions, as the run found them at issue (R178) -/
  gt : List (Nat × BitVec 64)
deriving DecidableEq, Repr

/-- A run in flight: its place in queue order, its slot and enabled rows, the run total of each Tally word
(R450) keyed 64 × channel + position, and for GRAD_W the terms of the gradient store keyed 64 × row + column. -/
structure Run where
  seq : Nat
  slot : Nat
  rows : BitVec 64
  base : List (Nat × Int)
  nfi : Bool
  adpt : Option AdptRun
  grad : Option (List (Nat × Int))
deriving DecidableEq, Repr

/-- What one drain or one descriptor adds to a monitor entry and to a skim pair (R99 to R101). -/
structure StatUpdate where
  count : Nat := 0
  sse : BitVec 64 := 0
  ssq : BitVec 64 := 0
  amax : BitVec 32 := 0
  clip : Nat := 0
  flush : Nat := 0
deriving DecidableEq, Repr

/-- A drain in flight: its outputs by byte address of the destination, and what its completion does (R46, R65, R72). -/
structure Drain where
  seq : Nat
  slot : Nat
  toSram : Bool
  outs : List (Nat × List Byte)
  rows : BitVec 64
  dclr : Bool
  fmt : Nat
  tag : BitVec 32
  br : Nat
  bc : Nat
  stochastic : Bool
  /-- the slot flags SAT, NFI and NFS after the conversion -/
  sat : Bool
  nfi : Bool
  nfs : Bool
  /-- the slot's DCLIP after the conversion, which the drain status returns (R46) -/
  dclip : Bool
  stat : StatUpdate
deriving DecidableEq, Repr

/-- A scale load or a maxima store that an sc.load started and a drain holds (R89): the half, the first index, the values. -/
structure ScaleLoad where
  trim : Nat
  rd : Nat
  tok : Bool
  first : Nat
  vals : List (BitVec 32)
deriving DecidableEq, Repr

/-- State of an adapter slot (R171). -/
inductive AState where
  | empty
  | filling
  | ready
  | fault
deriving DecidableEq, Repr

/-- An adapter slot: its status word's fields, descriptor, contents and buffers (R169 to R173). -/
structure AdptSlot where
  st : AState := .empty
  rank : Nat := 0
  gth : Bool := false
  gen : BitVec 8 := 0
  didx : Nat := 0
  /-- chunk in use; in FAULT the status stands in `fault` -/
  cursor : Nat := 0
  fault : Status := 0
  /-- the fill descriptor in force (R170) -/
  desc : BitVec 256 := 0
  /-- a fill accepted and held until no issued run names the slot (R171) -/
  held : Option (BitVec 256) := none
  /-- bytes 0x0000 to 0x7FFF of the slot -/
  bytes : Mem := []
  /-- chunks of the layer (R172) -/
  nch : Nat := 0
  /-- HBM offset of the image record the slot was filled from (R155) -/
  record : Nat := 0
  point : BitVec 8 := 0
  codeA : Nat := 0
  acode : Nat := 0
  bcode : Nat := 0
  /-- the first APPLY run has named the slot (R173) -/
  bound : Bool := false
  /-- which chunk A buffer 0 and A buffer 1 hold -/
  buf0 : Option Nat := none
  buf1 : Option Nat := none
deriving DecidableEq, Repr

/-- A tile.end that has issued and not completed, or that a rejection keeps: its place, PTAG and status (R58, R59). -/
structure TileEnd where
  seq : Nat
  ptag : BitVec 32
  st : Status
deriving DecidableEq, Repr

/-- The tile queue and what it has in flight (R58, R59, R67, R145). -/
structure TileUnit where
  queue : List (BitVec 128) := []
  /-- status of the rejection whose tile program is being discarded up to its tile.end (R59) -/
  rej : Option Status := none
  loads : List Load := []
  runs : List Run := []
  drains : List Drain := []
  ends : List TileEnd := []
  /-- an instruction of a tile program has issued whose tile.end has not (R58) -/
  mid : Bool := false
  /-- queue order of the next instruction to issue -/
  seq : Nat := 0
  tqout : BitVec 64 := 0
  tends : BitVec 64 := 0
  tlast : BitVec 64 := 0
  /-- a discard is ordered and the core is not yet idle (R77, R146) -/
  discarding : Bool := false
  /-- a wake-ramp grant is held, from the wave to the run's issue (R73) -/
  granted : Bool := false
deriving DecidableEq, Repr

/-- Scale file, maxima file, seed register and loads held on them (R87 to R90, R148). -/
structure ScaleUnit where
  rowScale : Tab (BitVec 32) := []
  tokScale : Tab (BitVec 32) := []
  rowMax : Tab (BitVec 32) := []
  tokMax : Tab (BitVec 32) := []
  seed : BitVec 64 := 0
  /-- a seed write accepted and not landed: the seed, the trim core that waits and its rd (R148) -/
  seedHeld : Option (BitVec 64 × Nat × Nat) := none
  loads : List ScaleLoad := []
deriving DecidableEq, Repr

/-- The vector program that runs (R106 to R111): the launch word's fields, the address of the next instruction in
8-byte units, and OD 2050.01 as read at launch (R132). -/
structure VecProg where
  ptag : BitVec 32
  ttag : BitVec 12
  pc : Nat
  trap : Bool
deriving DecidableEq, Repr

/-- A vector engine (R105, R107). -/
structure Vec where
  v : Tab (BitVec 2048) := []
  m : Tab (BitVec 256) := []
  vl : Nat := 0
  nf : Bool := false
  oor : Bool := false
  clip : Bool := false
  queue : List (BitVec 64) := []
  prog : Option VecProg := none
  vseq : BitVec 64 := 0
  vlast : BitVec 64 := 0
deriving DecidableEq, Repr

/-- What a physical core is doing (R75, R394, R403). -/
inductive CoreUse where
  | active
  | retention
  | retired
  | fenced
deriving DecidableEq, Repr

/-- A physical matrix core with its vector engine and adapter unit (R49). -/
structure Core where
  use : CoreUse := .active
  stationary : Tab (BitVec 12) := []
  shadow : Tab (BitVec 12) := []
  opbuf : Mem := []
  /-- Tally words, keyed 4,096 × slot + 64 × channel + position (R33) -/
  tally : Tab (BitVec 128) := []
  tslot : Tab SlotStatus := []
  /-- slots that have taken a TALLY_ADD since their last clear or drain (R85) -/
  tadds : List Nat := []
  /-- row-enable masks; an unlisted entry enables all 64 rows (R49) -/
  maskTab : Tab (BitVec 64) := []
  repair : List RepairEntry := []
  tile : TileUnit := {}
  scale : ScaleUnit := {}
  stepf : BitVec 64 := 0
  aslot : Tab AdptSlot := []
  gather : Tab (BitVec 64) := []
  grad : Tab (BitVec 128) := []
  gradst : SlotStatus := {}
  vec : Vec := {}
deriving DecidableEq, Repr

/-! ### Shelves (chapters 07, 10) -/

/-- What a trim core waits for: a word (R143), a summary (R149), the transfer of a held sc.load (R89), the landing of
an sc.seed (R148), or room for an rm.cmd (R141). -/
inductive Wait where
  | word (cond : Nat) (addr : Nat) (cmp : BitVec 64) (rd : Nat)
  | summary (rd : Nat)
  | scale
  | seed
  /-- an rm.cmd at issue while 64 operations are outstanding (R141): rd, rs1, rs2 -/
  | cmd (rd : Nat) (rs1 rs2 : BitVec 64)
deriving DecidableEq, Repr

/-- A trim core (R133, R141 to R143, R130, R337). -/
structure Trim where
  /-- integer registers that rd names; x0 reads zero -/
  x : Tab (BitVec 64) := []
  pc : BitVec 64 := 0
  mepc : BitVec 64 := 0
  mtvec : BitVec 64 := 0
  mcause : BitVec 64 := 0
  /-- machine mode; otherwise user mode -/
  machine : Bool := true
  mie : Bool := false
  mpie : Bool := false
  mppMachine : Bool := false
  twtmo : BitVec 64 := 0
  /-- floating-point registers, their control and status register, mscratch, the address of an LR.D or LR.W, and the 16
  PMP entries (R133) -/
  f : Tab (BitVec 64) := []
  fcsr : BitVec 32 := 0
  mscratch : BitVec 64 := 0
  reserved : Option (BitVec 64) := none
  pmp : Tab PmpEntry := []
  counters : Tab (BitVec 64) := []
  errors : Tab (BitVec 64) := []
  /-- bit i: an operation has failed since error word i was last written (R142) -/
  failed : BitVec 16 := 0
  /-- summaries on their way from a vsum, oldest first (R130) -/
  coming : List (BitVec 64) := []
  /-- summary receive port, oldest first, at most 16 (R130) -/
  port : List (BitVec 64) := []
  wait : Option Wait := none
  /-- disabled by self-test (R399) -/
  off : Bool := false
deriving DecidableEq, Repr

/-- A shelf: SRAM, core map, owners, trim cores, Churn unit (R13). -/
structure Shelf where
  sram : Mem := []
  /-- physical core behind C0 to C7; 15 means none (R420, OD 7010) -/
  map : List Nat := [0, 1, 2, 3, 4, 5, 6, 7]
  /-- Core owner, OD 2060: bits [2c+1:2c] (R138) -/
  owner : BitVec 16 := 0xFA50
  trims : Tab Trim := []
  /-- Churn's step flag register (R206) -/
  churnFlags : BitVec 64 := 0
  /-- Churn buffer, 4 MiB (R206) -/
  churnBuf : Mem := []
  /-- the command ring's entries not yet completed carry a dropped mark after an abort (R230) -/
  churnDropped : List Nat := []
  /-- idle-class placing is stopped because serving work is on the shelf (R201) -/
  serving : Bool := false
  /-- logical numbers whose retired core has not answered firmware's reads (R75) -/
  awaiting : List Nat := []
deriving DecidableEq, Repr

/-! ### Remote operations that this device issues (R141, R266) -/

/-- The issuer of an operation of this device: a trim core with its counter, firmware, or firmware for a work: an
output copy (R243) or the completion record (R241) of a slot. -/
inductive Issuer where
  | trim (shelf k counter : Nat)
  | firmware
  | output (slot : Nat)
  | record (slot : Nat)
deriving DecidableEq, Repr

/-- An outstanding operation of this device, with its answer once the response has arrived. -/
structure RemOp where
  id : Nat
  who : Issuer
  /-- the job's partition and world that the request carries (R260) -/
  part : Nat
  secure : Bool
  opc : Nat
  remote : BitVec 64
  len : Nat
  local_ : Nat
  data : List Byte
  opnd1 : BitVec 64
  opnd2 : BitVec 64
  signal : BitVec 64
  point : BitVec 8
  cfl : BitVec 3
  /-- the target has applied it and sent its response -/
  answered : Option Answer
  /-- the response has arrived (R266) -/
  done : Bool
  /-- it has been sent: no unfinished FENCE of its domain stands before it (R267) -/
  sent : Bool := false
  /-- number of its message in its context (R269), and the response segments that have arrived: offset and data -/
  msn : BitVec 32 := 0
  parts : List (Nat × List Byte) := []
deriving DecidableEq, Repr

/-! ### Memory (chapter 14) and statistics (chapter 05) -/

/-- A region-table entry (R313). -/
structure Region where
  v : Bool := false
  sec : Bool := false
  owner : Nat := 0
  baseRo : Bool := false
  noHost : Bool := false
  base : Nat := 0
  npg : Nat := 0
deriving DecidableEq, Repr

/-- Faults and repairs of the stacks (R319 to R324). Granules are named by their HBM offset divided by 512. -/
structure Ecc where
  /-- uncorrectable granules -/
  bad : List Nat := []
  /-- granules in which the controllers' decoder sees an error: the pseudo-channels of the bursts that hold it, and the
  DRAM row; those not in `bad` are corrected on every read (R319, R323) -/
  errors : Tab (List Nat × Nat) := []
  /-- corrected granules: time, stack, pseudo-channel, row (R323, R328) -/
  hits : List (Nat × Nat × Nat × Nat) := []
  /-- uncorrectable events: time, stack (R328) -/
  losses : List (Nat × Nat) := []
  /-- rows that showed an uncorrectable error: stack, pseudo-channel, row (R323) -/
  lostRows : List (Nat × Nat × Nat) := []
  /-- remap entries in use: stack, pseudo-channel, row, spare row -/
  remaps : List (Nat × Nat × Nat × Nat) := []
  corrected : Tab Nat := []
  uncorrectable : Tab Nat := []
  alarm : Tab Nat := []
  /-- next granule of the stack that patrol reads, by stack -/
  patrol : Tab Nat := []
  selfRefresh : Bool := false
deriving DecidableEq, Repr

/-- A monitor entry (R99). -/
structure Monitor where
  count : BitVec 64 := 0
  sse : BitVec 64 := 0
  ssq : BitVec 64 := 0
  amax : BitVec 32 := 0
deriving DecidableEq, Repr

/-- A skim pair (R101). -/
structure Skim where
  clip : BitVec 64 := 0
  flush : BitVec 64 := 0
deriving DecidableEq, Repr

/-- Snapshot state of a partition (R102). -/
inductive SnapState where
  | idle
  | busy
  | done
  | failed
deriving DecidableEq, Repr

/-- A snapshot in progress or last made (R102). -/
structure Snapshot where
  st : SnapState := .idle
  cmd : BitVec 32 := 0
  addr : BitVec 64 := 0
  started : Nat := 0
  /-- world of the session that commanded it (R361) -/
  secure : Bool := false
  /-- body of the record copied at the command, written when the record completes -/
  body : List Byte := []
deriving DecidableEq, Repr

/-- The statistics unit: four banks of three tables. Monitors are keyed 4,096 × bank + tag, skim pairs
16 × (4,096 × bank + tag) + format index (R98 to R101). -/
structure Stats where
  drainMon : Tab Monitor := []
  emitMon : Tab Monitor := []
  skim : Tab Skim := []
  snap : Tab Snapshot := []
deriving DecidableEq, Repr

/-- The digest of a committed token's output of a paired work (R330): UTAG, replica member, slot, generation, unit, digest. -/
structure OutDigest where
  utag : BitVec 64 := 0
  member : Nat := 0
  slot : Nat := 0
  gen : BitVec 32 := 0
  unit : Nat := 0
  digest : BitVec 256 := 0
deriving DecidableEq, Repr

/-- Replica digests (R327 to R329): digests of the round by member and shard, quarantined members, events. -/
structure Replica where
  /-- latest digest of each member's shard: member number, shard, digest, ECC record -/
  digests : List (Nat × Nat × BitVec 256 × Nat) := []
  /-- coordinator: digests that have come since their shard was last compared: member, shard -/
  fresh : List (Nat × Nat) := []
  /-- coordinator: shards that the round has compared -/
  compared : List Nat := []
  /-- coordinator: the round has found a shard whose digests differ -/
  differ : Bool := false
  quarantined : List Nat := []
  /-- a digest round is in progress -/
  round : Bool := false
  /-- coordinator: digests of committed outputs of paired works whose pair has not come yet (R330) -/
  pairs : List OutDigest := []
  /-- the pair whose outputs differed and started the round (R330) -/
  cause : Option (OutDigest × OutDigest) := none
  /-- shards that this device's quarantined members have to refetch: member, shard -/
  refetch : List (Nat × Nat) := []
  events : Nat := 0
  /-- when each quarantined member of a whole device was quarantined: member, tsc (R404) -/
  since : List (Nat × Nat) := []
  /-- last digest and time of each shard, by 2^16 × member + shard -/
  table : List (Nat × BitVec 256 × Nat) := []
deriving DecidableEq, Repr

/-! ### Adapter Directory (chapter 08) -/

/-- STATE of an entry (R158). -/
inductive DState where
  | empty
  | parked
  | loading
  | resident
  | pinned
  | training
  | revoked
deriving DecidableEq, Repr

/-- A directory entry (R158); `refcnt` is the live count, `refMem` the one last written back to HBM (R159). -/
structure DirEntry where
  st : DState := .empty
  owner : Nat := 0
  tenant : BitVec 24 := 0
  gen : BitVec 8 := 0
  pub : Bool := false
  wait : Bool := false
  refcnt : Nat := 0
  refMem : Nat := 0
  lmask : BitVec 64 := 0
  ranks : BitVec 24 := 0
  acode : Nat := 0
  bcode : Nat := 0
  epoch : BitVec 32 := 0
  /-- HBM offset of the image in 4 KiB units -/
  loc : Nat := 0
  /-- the digest record (R158): digest, park source, length -/
  digest : BitVec 256 := 0
  src : BitVec 64 := 0
  len : BitVec 64 := 0
  /-- HBM offset of the state area that the last TRAIN or IMPORT work on the entry named (firmware's record) -/
  area : Option Nat := none
deriving DecidableEq, Repr

/-- A directory-cache line: its number, the index it holds, and when it was last used (R159). -/
structure Line where
  num : Nat
  didx : Nat
  used : Nat
deriving DecidableEq, Repr

/-- What waits for a directory-cache line (R159). -/
inductive LineWait where
  | ref (slot : Nat)
  | cmd (c : DirCmd)
  | fill (core slot : Nat)
deriving DecidableEq, Repr

/-- A command that waits for REFCNT 0 (R166). -/
structure DirWait where
  didx : Nat
  cmd : DirCmd
deriving DecidableEq, Repr

/-- A load in progress (R163): the entry, and the LOAD command that started it, if one did and still waits. -/
structure LoadRec where
  didx : Nat
  cmd : Option DirCmd
deriving DecidableEq, Repr

/-- The walker, its cache and the adapter pools. -/
structure Directory where
  entries : Tab DirEntry := []
  lines : List Line := []
  clock : Nat := 0
  lineWaits : List LineWait := []
  waits : List DirWait := []
  loads : List LoadRec := []
  /-- pool space in use: HBM offset, length, index of the entry -/
  alloc : List (Nat × Nat × Nat) := []
  /-- builds of TRAIN_END commands that have ended their wait (R162) -/
  builds : List DirWait := []
deriving DecidableEq, Repr

/-! ### Work (chapter 11) and training jobs (chapters 09, 10) -/

/-- STATE of a work slot (R235). -/
inductive WState where
  | free
  | held
  | running
  | ending
deriving DecidableEq, Repr

/-- A work slot beside its 256 bytes in HBM (R233 to R243). -/
structure Work where
  st : WState := .free
  /-- expected generation while free, generation of the work otherwise (R235) -/
  gen : BitVec 32 := 1
  /-- the descriptor as copied at acceptance (R236) -/
  desc : BitVec 2048 := 0
  /-- its place in the order of acceptance (R238) -/
  seq : Nat := 0
  tacc : Nat := 0
  tend : Nat := 0
  status : Status := 0
  tokens : Nat := 0
  flags : BitVec 5 := 0
  value : BitVec 64 := 0
  fpart : Nat := 0
  pstat : Status := 0
  /-- directory index it holds a reference on (R165) -/
  ref : Option Nat := none
  /-- it waits for the load of its entry -/
  waitLoad : Bool := false
  /-- in the batch being gathered (R239) -/
  gathering : Bool := false
  /-- handed to a shelf (R239) -/
  handed : Bool := false
  shelf : Nat := 0
  /-- staged outputs of the unit in progress (R243) -/
  staged : List (Nat × List Byte) := []
  /-- READY sent and no decision held -/
  ready : Bool := false
  /-- COPIED held and no END or next COMMIT (R244) -/
  copiedHeld : Bool := false
  /-- commit unit in progress -/
  unit : Nat := 0
  /-- no commit unit is left -/
  last : Bool := false
  /-- bytes written to OUT, or export shards written to DST (VALUE of SERVE and of EXPORT) -/
  bytes : Nat := 0
  /-- its group was aborted while it copied a unit that had its COMMIT: it ends ABORTED after the copy (R257) -/
  aborting : Bool := false
  /-- its group was aborted after it had written PREPARED for its last step: it ends by itself (R249) -/
  alone : Bool := false
  /-- a copy of staged outputs to OUT is in progress (R243) -/
  copying : Bool := false
  /-- a part that sent FAIL and waits for the leader's decision (R244) -/
  stopped : Bool := false
deriving DecidableEq, Repr

/-- One registered part of a group: part, device. -/
structure PartRec where
  part : Nat
  dev : Nat
deriving DecidableEq, Repr

/-- A group in the leader's table (R243 to R245). -/
structure Group where
  handle : BitVec 64
  npart : Nat
  parts : List PartRec := []
  unit : Nat := 0
  ready : List Nat := []
  copied : List Nat := []
  /-- COMMIT of the unit has been sent -/
  committed : Bool := false
  /-- units for which COPIED came from every part -/
  tokens : Nat := 0
  /-- parts that have said their unit is the last -/
  lastBy : List Nat := []
  /-- aborted after COMMIT of the unit: it ends once the parts have copied (R257) -/
  aborting : Bool := false
deriving DecidableEq, Repr

/-- A commit in progress (R223): the phase (0: UPDATEs, 1: SETEPOCHs), the record's KIND and target epoch, the shards
whose command of the phase has been placed, and what firmware passes to Churn: tensor records, step flag word, first
completion word. -/
structure Commit where
  phase : Nat
  kind : Nat
  target : BitVec 32
  placed : Nat
  recs : List (BitVec 64)
  flagAt : BitVec 64
  doneAt : BitVec 64
deriving DecidableEq, Repr

/-- Job state of one core that an idle-class job gets back after preemption (R202). -/
structure SavedCore where
  rowScale : Tab (BitVec 32)
  tokScale : Tab (BitVec 32)
  seed : BitVec 64
  maskTab : Tab (BitVec 64)
  stepf : BitVec 64
  aslot : Tab AdptSlot
deriving DecidableEq, Repr

/-- A batch of SERVE requests that firmware has handed to shelves (R175, R177, R239). -/
structure Batch where
  part : Nat
  /-- slot of each request, by its number REQ -/
  reqs : List Nat
  /-- KEY and REQ of each adapted request, in arrival order -/
  records : List (BitVec 32) := []
  /-- the records sorted by KEY, and where each sub-batch begins -/
  order : List (BitVec 32) := []
  starts : List Nat := []
  /-- sub-batches as they run: ADPT_MODE (1 APPLY, 2 GATHER, 0 NONE) and REQ numbers -/
  runs : List (Nat × List Nat) := []
  /-- shelves to which the order and the starts have been copied -/
  shelves : List Nat := []
deriving DecidableEq, Repr

/-- Where a sequence of the micro-batch runs: its number, the tokens of its chunks in the forward order, the shelves that
each chunk runs divided across, and its area for the gradients of keys, values and carried state (R203, R204). -/
structure SeqPlan where
  seq : Nat
  chunks : List Nat
  shelves : List Nat
  kv : Nat × Nat
deriving DecidableEq, Repr

/-- Policy and bookkeeping of a training job (R187 to R205, R222), keyed by its work slot. -/
structure Job where
  slot : Nat
  didx : Nat
  part : Nat
  /-- global address of the state area, with the commit record at its start -/
  area : BitVec 64
  /-- steps this work has committed, and the step in progress -/
  committed : Nat := 0
  step : Nat := 0
  micro : Nat := 0
  flags : BitVec 64 := 0
  /-- consecutive flagged steps (R200) -/
  flagged : Nat := 0
  /-- steering margins by tensor tag (R104) -/
  margins : Tab Int := []
  /-- channel scales by 65,536 × tag + channel, as exponents (R97) -/
  sigma : Tab Int := []
  /-- tags that AUTO moved to MSE8 (R104) -/
  mse8 : List Nat := []
  /-- HBM offsets of the training image and the transposed image, 0 while none (R188) -/
  image : Nat := 0
  timage : Nat := 0
  /-- κ of each layer group's record, by 8 × layer + group (R189) -/
  kappa : Tab Int := []
  /-- the step's working copies are emitted -/
  emitted : Nat := 0
  /-- preempted, with state kept (R201) -/
  preempted : Bool := false
  /-- an interrupted commit record must be restarted first (R224) -/
  restart : Bool := false
  /-- borrow threshold copied at job start (R219) -/
  borrow : Nat := 0
  /-- the step runs again on the same micro-batches (R200) -/
  rerun : Bool := false
  /-- the step's gradient areas: HBM offset and bytes (R187) -/
  garea : List (Nat × Nat) := []
  commit : Option Commit := none
  /-- a step is in progress: its gradient areas are zeroed -/
  begun : Bool := false
  /-- the residual initialisation that the work asked for has committed, or it asked for none (R180) -/
  sketched : Bool := true
  /-- places of the step's working copies, in the order of SHTAB (R188) -/
  copies : List EmitPlace := []
  /-- the job's gradient tags (R104) -/
  gradTags : List Nat := []
  /-- rank-vector scales by 65,536 × tag + column, as exponents (R193) -/
  omega : Tab Int := []
  /-- largest rank-vector outputs of the step by 65,536 × tag + column, in units of ω (R193) -/
  rankMax : Tab (BitVec 32) := []
  /-- the sequences of the step's micro-batches, and where those of the micro-batch in progress run (R203, R204) -/
  batches : List (List SeqIn) := []
  plan : List SeqPlan := []
  /-- shelves in the order in which they arrived at the barrier of each micro-step so far (R204) -/
  arrivals : List (List Nat) := []
  /-- saved job state by 8 × shelf + logical core, and the Churn units' step flag registers by shelf, while preempted
  (R202) -/
  saved : Tab SavedCore := []
  savedChurn : Tab (BitVec 64) := []
deriving DecidableEq, Repr

/-- Work, groups and jobs. -/
structure WorkUnit where
  slots : Tab Work := []
  groups : List Group := []
  jobs : List Job := []
  batches : List Batch := []
  /-- works accepted so far (R238) -/
  accepted : Nat := 0
  /-- the scanner's start slot (R238) -/
  sweepFrom : Nat := 0
  undeliverable : Nat := 0
deriving DecidableEq, Repr

/-! ### Modes (chapter 11) -/

/-- STATE of OD 2000.01 (R251). -/
inductive MState where
  | stable
  | transitioning
  | scrubbing
deriving DecidableEq, Repr

/-- The mode items (R250): layout FOUR, default drain format, power profile. -/
structure ModeItems where
  four : Bool := false
  drainFmt : BitVec 8 := 1
  profile : Nat := 0
deriving DecidableEq, Repr

/-- Mode changes (R250 to R254). -/
structure Mode where
  st : MState := .stable
  applied : BitVec 24 := 0
  epoch : BitVec 32 := 0
  result : Status := 0
  cur : ModeItems := {}
  staged : ModeItems := {}
  pend : ModeItems := {}
  /-- a BOARD change is in progress here -/
  board : Bool := false
  /-- D0: devices that have sent READY -/
  ready : List Nat := []
  /-- this device replied READY and holds no decision (R254) -/
  waiting : Bool := false
  /-- the last decision held for a BOARD change: committed -/
  committed : Bool := false
  /-- number of the BOARD change that is, or was last, in progress here (log 84) -/
  change : BitVec 32 := 0
  /-- peers asked for the decision that have not answered (R254) -/
  asked : List Nat := []
  /-- partitions whose scrub is in progress -/
  scrub : List Nat := []
deriving DecidableEq, Repr

/-! ### Host port (chapter 12) -/

/-- STATE of a partner context (R275, R279). -/
inductive CState where
  | closed
  | open_
  | draining
  | failed
deriving DecidableEq, Repr

/-- A Marale packet that the device sends, by the fields of R269 that vary and the bytes from offset 24 on. -/
structure TxPacket where
  typ : BitVec 8
  psn : BitVec 32
  msn : BitVec 32
  segoff : Nat
  first : Bool
  last : Bool
  body : List Byte
deriving DecidableEq, Repr

/-- A Marale packet as it leaves the port (R268, R269, R283, R287): destination address and UDP port, VLAN ID (0: untagged) and
priority, DSCP, ECN field, and the bytes of the UDP payload. -/
structure Wire where
  dst : BitVec 128
  port : Nat
  vlan : Nat
  pcp : Nat
  dscp : Nat
  ecn : Nat
  bytes : List Byte
deriving DecidableEq, Repr

/-- What the device sends in phase 6 of link training (R303, R304, R356): position, stepping, firmware version, Stavuc
VMAJ_HI, VMIN and VMAJ_LO, capability bits, challenge, owner-key digest, and the proof by its IK. -/
structure OwnIdent where
  position : Nat
  stepping : BitVec 16
  firmware : BitVec 32
  vmajHi : Nat
  vmin : Nat
  vmajLo : Nat
  caps : BitVec 64
  cert : List Byte
  challenge : BitVec 256
  ownerDigest : BitVec 256
  proof : List Byte
deriving DecidableEq, Repr

/-- A packet sent and not yet acknowledged (R280, R282). -/
structure Sent where
  pkt : TxPacket
  /-- timer expiries, and SACK acknowledgements of later packets -/
  expiries : Nat := 0
  sacked : Nat := 0
  /-- inside a SACK range -/
  got : Bool := false
deriving DecidableEq, Repr

/-- One queue of a context, both directions (R280 to R282). -/
structure Queue where
  tx : BitVec 32 := 0
  unacked : List Sent := []
  /-- packets that wait for room in the window of 1,024 (R280), oldest first, numbered when they are sent -/
  backlog : List TxPacket := []
  rx : BitVec 32 := 0
  /-- PSNs received beyond `rx` -/
  marks : List Nat := []
  /-- packets accepted and not yet acknowledged -/
  due : Nat := 0
  /-- retransmit timer of the queue, in microseconds -/
  timer : Nat := 64
  /-- a CNP was sent on the queue in the present 50 µs interval (R283) -/
  cnpSent : Bool := false
  /-- FENCEs of the host that wait for requests of lower PSN: PSN, message number (R267) -/
  early : List (BitVec 32 × BitVec 32) := []
deriving DecidableEq, Repr

/-- A message that arrives in segments (R263, R271): its number, the target's one decision, the bytes still missing, and
the SAT indication so far (R82). -/
structure Assembly where
  msn : BitVec 32
  status : Status
  missing : Nat
  sat : Bool := false
  /-- the physical core whose slot a TALLY_ADD was accepted for (R80, R85) -/
  core : Option Nat := none
deriving DecidableEq, Repr

/-- Quote state (R351). -/
inductive QState where
  | idle
  | busy
  | done
deriving DecidableEq, Repr

/-- A partner context (R274 to R286), with what its session keeps per context (R351, R414, R416). -/
structure Ctx where
  st : CState := .closed
  part : Nat := 0
  secure : Bool := false
  hctx : BitVec 16 := 0
  hbase : BitVec 64 := 0
  hlen : BitVec 64 := 0
  mtu : Nat := 1500
  /-- A020.02 to A020.04 as they stood at OPEN: start of the timer in microseconds, retry limit, keepalive interval in
  milliseconds (R287) -/
  rto : Nat := 64
  retry : Nat := 12
  keep : Nat := 10000
  /-- bulk rate R in bits per second (R284) -/
  rate : Nat := 0
  /-- a CNP, or an expiry, in the present 50 µs interval (R284) -/
  cnpSeen : Bool := false
  cutSeen : Bool := false
  /-- address of the host endpoint, and what followed the header of the OPEN that it sent (R277) -/
  host : BitVec 128 := 0
  openBody : List Byte := []
  /-- the device's KEEPALIVE has no answer yet (R286) -/
  kaOut : Bool := false
  rqin : BitVec 64 := 0
  rqout : BitVec 64 := 0
  rqfail : BitVec 64 := 0
  retx : BitVec 64 := 0
  ce : BitVec 64 := 0
  drop : BitVec 64 := 0
  ctl : Queue := {}
  bulk : Queue := {}
  asm : List Assembly := []
  /-- FENCEs that wait, each with the messages before it that still arrive (R267) -/
  fences : List (Request × List (BitVec 32)) := []
  /-- message number of the device's next request -/
  msn : BitVec 32 := 0
  /-- session level (R416) -/
  expert : Bool := false
  quote : QState := .idle
  /-- the partition of the quote's scope was reset while it was BUSY (R355) -/
  quoteReset : Bool := false
  quoteReq : BitVec 264 := 0
  quoteBytes : List Byte := []
  /-- OD A030.02, 4020.01, 7020.01 of the session (R414) -/
  ctxSel : BitVec 16 := 0
  regSel : BitVec 8 := 16
  resSel : BitVec 16 := 0
deriving DecidableEq, Repr

/-- State of the host port (OD A040.01). -/
inductive PortState where
  | down
  | training
  | up
deriving DecidableEq, Repr

/-- The host port. -/
structure HostPort where
  port : PortState := .down
  ctxs : Tab Ctx := []
  /-- A010 values in force since the port last trained, by subindex, plus 1 (R287) -/
  cfg : Tab Nat := []
  /-- when the last REFUSE for a packet went out, by context number: tsc plus 1 (R275) -/
  refused : Tab Nat := []
deriving DecidableEq, Repr

/-! ### Fabric (chapter 13) -/

/-- STATE of a group (R307). -/
inductive GState where
  | dark
  | training
  | up8
  | up7
  | spared
  | failed
  | miswired
  | version
  | authFailed
deriving DecidableEq, Repr

/-- A lane group (R303 to R307); group 0 is the spare group, whose LANES bits are the trained spare lanes. -/
structure LaneGroup where
  st : GState := .dark
  lanes : BitVec 8 := 0
  ver : BitVec 8 := 0
  /-- last phase of training completed (R303) -/
  phase : Nat := 0
  attempts : Nat := 0
  /-- agreed capability bits (R304) -/
  caps : BitVec 64 := 0
  replays : Nat := 0
  retirements : Nat := 0
  failovers : Nat := 0
  crcFails : Nat := 0
deriving DecidableEq, Repr

/-- The link to one peer (R294, R296, R302, R356). -/
structure Peer where
  /-- next SEQ to send; sent flits not covered by ACKSEQ: SEQ, VC, partition, payload -/
  seq : BitVec 12 := 0
  replay : List (BitVec 12 × Nat × Nat × List Byte) := []
  /-- next SEQ expected -/
  rx : BitVec 12 := 0
  /-- replays of one flit without progress -/
  stuck : Nat := 0
  /-- credits held, keyed 4 × VC + PARTN -/
  credits : Tab Int := []
  /-- bytes that have come of each message stream and that no whole message has consumed, keyed as the credits -/
  stream : Tab (List Byte) := []
  /-- bytes of the request and response streams that wait for a slot, keyed as the credits (R293) -/
  out : Tab (List Byte) := []
  /-- control messages that wait for a slot of VC 2, each with the partition that it is for in partition mode (R296) -/
  ctlq : List (Option Nat × List Byte) := []
  /-- partitions of the VC 2 flits whose credits have not come back, oldest first (R296) -/
  held : List (Option Nat) := []
  /-- next slot of the table of 64 (R295) -/
  slot : Nat := 0
  /-- the peer passed authentication with this device's owner key (R298, R356) -/
  auth : Bool := false
  /-- the peer's group states, from its last LINK_STATE (R300) -/
  links : List (BitVec 32) := []
  credit : Option Credit := none
  /-- no message of the peer is younger than 300 µs (R302) -/
  stale : Bool := true
  /-- request messages that arrive in segments, by TXID (R263, R297) -/
  asm : List Assembly := []
  /-- FENCEs that wait, each with the messages before it that still arrive (R267) -/
  fences : List (Request × List (BitVec 32)) := []
deriving DecidableEq, Repr

/-- The fabric engine. -/
structure Fabric where
  groups : Tab LaneGroup := []
  peers : Tab Peer := []
  /-- TXID of the next request; fabric operations outstanding: number of the operation, TXID, peer -/
  txid : BitVec 32 := 0
  ops : List (Nat × BitVec 32 × Nat) := []
deriving DecidableEq, Repr

/-! ### Power (chapter 16) -/

/-- A voltage-frequency island (R369 to R382). -/
structure Island where
  /-- step decided, step of the clock in force when no response acts, and rail target in mV -/
  step : Nat := 0
  clk : Nat := 0
  mV : Nat := 600
  /-- a voltage slew toward this step is in progress, its clock switch to follow -/
  slew : Option Nat := none
  droop : Bool := false
  warn : Bool := false
  /-- a step change deferred by a response (R380) -/
  deferred : Option Nat := none
  /-- estimation periods since the last lowering, and periods of the current-limit hold left (R373, R374) -/
  sinceLower : Nat := 0
  hold : Nat := 0
  /-- estimates of past periods in microwatts, newest first (R373; partition caps R375) -/
  hist : List Nat := []
  /-- the arithmetic domain of the island is down after a reset below the reset level (R382), since when -/
  down : Bool := false
  downAt : Nat := 0
deriving DecidableEq, Repr

/-- Sleep state (R388). -/
inductive Sleep where
  | active
  | idleReady
  | parked
deriving DecidableEq, Repr

/-- Cone. -/
structure Power where
  islands : Tab Island := []
  /-- a write of Park was accepted and contexts still drain (R390) -/
  parking : Bool := false
  /-- estimates of the whole module, newest first (R373) -/
  hist : List Nat := []
  ceiling : Nat := 15
  trip : Bool := false
  sleep : Sleep := .active
  /-- shift in milliwatts (R383, R384), round number, barriers of the round, waiting time -/
  shiftmW : Int := 0
  round : BitVec 32 := 0
  /-- a current message from every present peer has been held for one full round (R302) -/
  fresh : Bool := false
  warnings : Nat := 0
  resets : Nat := 0
  /-- cores that wait for a ramp grant, by logical index 8 × shelf + core (R73) -/
  ramp : List Nat := []
  /-- voltage curve in force in mV by step; the OD entry's value takes over at a mode epoch (R369) -/
  curve : List Nat := [600, 610, 620, 630, 640, 650, 660, 670, 680, 690, 700, 710, 720, 730, 740, 750]
deriving DecidableEq, Repr

/-! ### Security, firmware, self-test (chapters 15, 17, 18) -/

/-- A verified firmware image: measurement, VERSION and SVN (R348). -/
structure Image where
  kind : Nat := 0
  measure : BitVec 256 := 0
  version : BitVec 32 := 0
  svn : Nat := 0
  valid : Bool := true
deriving DecidableEq, Repr

/-- A bank: SGF, MGF, TRF (R348, R444). -/
structure Bank where
  sgf : Image := {}
  mgf : Image := {}
  trf : Image := {}
  valid : Bool := true
deriving DecidableEq, Repr

/-- OD 4040.03 Update state. -/
inductive UState where
  | idle
  | verifying
  | pending
  | switching
  | rollout
  | reverting
  | failed
deriving DecidableEq, Repr

/-- Firmware: banks, running images, update in progress (R348 to R350, R423 to R425). -/
structure Firmware where
  bankA : Bank := {}
  bankB : Bank := { valid := false }
  activeB : Bool := false
  /-- bank of the running SGF -/
  runB : Bool := false
  running : Bank := {}
  ust : UState := .idle
  result : Status := 0
  pend : Option Image := none
  /-- shelves that run the pending TRF -/
  trfsh : BitVec 16 := 0
  /-- management pause, with the OD requests it holds (R285, R424) -/
  pause : Bool := false
  pauseAt : Nat := 0
  /-- held requests, each with whether it is a write -/
  heldReqs : List (OdReq × Bool) := []
  /-- KIND under verification and address of its image -/
  stage : Option (Nat × BitVec 64) := none
  fused : List Nat := [0, 0, 0]
deriving DecidableEq, Repr

/-- Saggar's secret-holding registers beside the working copy of K_own (R344): working copies of HUK, IK and AK, DRBG state,
AES round keys, ECDSA and ECDH working registers. The spec gives no width of the last four; the model has 256 bits. -/
structure Secrets where
  huk : BitVec 256 := 0
  ik : BitVec 256 := 0
  ak : BitVec 256 := 0
  drbg : BitVec 256 := 0
  aes : BitVec 256 := 0
  ecdsa : BitVec 256 := 0
  ecdh : BitVec 256 := 0
deriving DecidableEq, Repr

/-- Saggar's state that software can see the effect of (R345 to R360, R395). -/
structure Security where
  claimed : Bool := false
  ownerKey : BitVec 520 := 0
  /-- working copy of K_own -/
  kown : BitVec 256 := 0
  /-- the other secret-holding registers -/
  keys : Secrets := {}
  nonce : BitVec 64 := 0
  /-- timestamps of counted refusals (R346) -/
  refusals : List Nat := []
  lockout : Bool := false
  /-- partitions under reset, and counts of partition resets since power-on (R358) -/
  resetting : List Nat := []
  presets : Tab (BitVec 32) := []
  /-- region scrubs in progress: entry number (R360) -/
  scrubs : List Nat := []
  /-- block with scan enabled, and registers cleared and reported (R395) -/
  grant : Option (Nat × Nat × Nat) := none
  cleared : Nat := 0
deriving DecidableEq, Repr

/-- A self-test result entry's first and second words (R398). -/
structure Result where
  w0 : BitVec 64
  w1 : BitVec 64
deriving DecidableEq, Repr

/-- In-service test state (R407). -/
inductive TState where
  | idle
  | handover
  | testing
  | returning
deriving DecidableEq, Repr

/-- Self-test and repair (R393 to R407). -/
structure SelfTest where
  st : TState := .idle
  /-- shelf, logical and physical core under test -/
  shelf : Nat := 0
  logical : Nat := 0
  phys : Nat := 0
  /-- next logical index in turn -/
  next : Nat := 0
  startResults : List Result := []
  serviceResults : List Result := []
  repairs : List Result := []
  /-- spare columns in use, keyed 16 × physical core + MEM, or 2,304 + 32 × shelf + SRAM bank (R399) -/
  columns : Tab Nat := []
  /-- failed array rows of the repair record, oldest first: physical core, array, physical row, of which 64 and 65 are
  the spare rows (R56, R399) -/
  rows : List (Nat × Nat × Nat) := []
  /-- repairs of core memories: physical core, time, failing address (R400) -/
  fixes : List (Nat × Nat × Nat) := []
  /-- spare lane 0 failed its loopback (R399) -/
  loopBad : Bool := false
  /-- downtime D in core-microseconds, service-ending events -/
  downtime : Nat := 0
  ending : Nat := 0
deriving DecidableEq, Repr

/-! ### The module (chapter 19) and start-up -/

/-- A laser cartridge (R435, R436). -/
inductive Cart where
  | absent
  | warming
  | supplying
  | releasing
  | off
  | faulted
deriving DecidableEq, Repr

/-- OD 1000.05, and the die held in reset (R420, R429). -/
inductive Boot where
  | held
  | starting
  | ready
  | degraded
  | failed
  | dead
deriving DecidableEq, Repr

/-- OD 1000.06 Reset cause. -/
inductive Cause where
  | powerOn
  | resetPin
  | deviceCommand
  | ownerRelease
  | firmwareActivate
deriving DecidableEq, Repr

/-- Pins, rails and cartridges (R435 to R443). -/
structure Module where
  input : Bool := true
  aon : Bool := true
  pwrEn : Bool := true
  rails : Bool := true
  /-- PGOOD released high -/
  pgood : Bool := true
  /-- RESET_N level -/
  resetN : Bool := false
  railFault : Bool := false
  /-- the next start-up follows a power-on (R426) -/
  cold : Bool := true
  /-- board position latched when VDD_AON came into regulation (R439) -/
  pos : Fin 8 := 0
  cart0 : Cart := .supplying
  cart1 : Cart := .supplying
  /-- a bay's indicator flashes amber after a refused release (R436) -/
  refused : Option Bool := none
  wet : Bool := false
  /-- a lane of the host port has failed: the port stays down until the module is replaced (R21) -/
  portBad : Bool := false
  /-- Ophel engines F0 and F1 that have failed (R21, R306) -/
  engineBad : List Nat := []
deriving DecidableEq, Repr

/-! ### What leaves the device -/

/-- What a log record is about. -/
inductive LogKind where
  | uncorrectable
  | remap
  | repairAlarm
  | margin
  | flaggedStep
  | replica
  | outputMismatch
  | refusal
  | firmware
  | selfTest
  | power
  | trap
  | module
  | mode
  | undeliverable
deriving DecidableEq, Repr

/-- What the device has sent or recorded, oldest first: the model's own trace of its outputs. -/
inductive Emit where
  /-- a Marale packet on a context in queue Q (R269, R270) -/
  | packet (ctx : Nat) (q : Bool) (w : Wire)
  /-- a REFUSE to a host context number (R275, R277) -/
  | refuse (hctx : BitVec 16) (st : Status) (w : Wire)
  /-- an answer to ARP, a neighbour solicitation or an echo request (R268) -/
  | netReply (k : NetQuery) (dst : BitVec 128)
  /-- a flit to a peer, up to its CRC (R293) -/
  | flit (peer : Nat) (bytes : List Byte)
  /-- the identification sent on a group in phase 6 of its training (R303) -/
  | ident (g : Nat) (i : OwnIdent)
  /-- a control message to a peer (R300): MSGT, then its fields -/
  | control (peer : Nat) (msgt : Nat) (args : List Nat)
  /-- a request to a fabric peer: TXID and the operation (R297) -/
  | request (peer : Nat) (txid : BitVec 32) (op : RemOp)
  /-- a response to a fabric peer (R297) -/
  | response (peer : Nat) (txid : BitVec 32) (ans : Answer)
  /-- a completion record, as one PUT_SIGNAL in its context (R241): slot, context, CADDR, SADDR, record -/
  | record (slot ctx : Nat) (caddr saddr : BitVec 64) (rec : BitVec 512)
  /-- output bytes of a work copied to the host (R243) -/
  | output (slot ctx : Nat) (addr : BitVec 64) (data : List Byte)
  /-- a log record in the device log or in a partition's event log (R321, R361) -/
  | log (part : Option Nat) (kind : LogKind) (args : List Nat)
deriving DecidableEq, Repr

/-- The whole module. -/
structure State where
  /-- commands that wait, first in first out (the model's queue) -/
  pending : List Instr := []
  /-- counter that numbers free values (the model's own) -/
  free : Nat := 0
  part : Part := .t432
  /-- device timestamp counter in ns (00_scope, Units and clocks) -/
  tsc : Nat := 0
  /-- matrix cores by 9 × shelf + physical core -/
  cores : Tab Core := []
  /-- shelves S0 to S15; number 16 stands for the management complex, of which the trim cores 0 and 1 are the two
  management cores (R137) -/
  shelves : Tab Shelf := []
  /-- trim cores, as 4 × shelf + number, whose watched word a write has made meet the condition of their wait.w (R143) -/
  woken : List Nat := []
  /-- operations this device has issued and not retired -/
  ops : List RemOp := []
  nextOp : Nat := 0
  hbm : Mem := []
  regions : Tab Region := []
  ecc : Ecc := {}
  stats : Stats := {}
  replica : Replica := {}
  dir : Directory := {}
  work : WorkUnit := {}
  mode : Mode := {}
  port : HostPort := {}
  fabric : Fabric := {}
  power : Power := {}
  fw : Firmware := {}
  sec : Security := {}
  test : SelfTest := {}
  boot : Boot := .held
  cause : Cause := .powerOn
  mod : Module := {}
  /-- object-dictionary values that no other field holds, keyed 256 × index + subindex (per partition: plus
  2^24 × partition): the value plus 1; an unlisted entry holds its default (R409) -/
  od : Tab Nat := []
  /-- persistent entries in the firmware store (R418), in the same form -/
  odStore : Tab Nat := []
  out : List Emit := []
deriving DecidableEq, Repr

/-- What a command answers. -/
abbrev Out := Host.Outcome State Fault Refusal

/-- The module right after a power-on reset (R426): rails up, PGOOD high, RESET_N still low, the die in reset, nothing
in any memory; STARTUP (R428) runs the start-up sequence from here. -/
def State.reset : State := {}

end Sys2Proof.Machine
end

