-- ==== Sys2Proof/Decode.lean ====
section
/-!
DEFINITION. Reading a command from a table word. Every row of spec/opcode_table.json has an empty field list: the
block has no instruction words of its own, so no word spells a command.
-/

namespace Sys2Proof

/-- The command that `nbits` bits `w` spell by the table: none, since no row of the table gives bits. -/
def decodeTableWord (_nbits _w : Nat) : Option Instr := none

end Sys2Proof
end

