-- ==== Sys2Proof/Config.lean ====
section
/-!
DEFINITION. Free values: what the spec leaves open, as constants without a body. A statement about the model holds
whatever they are.
-/

namespace Sys2Proof.Config

/-- The n-th free value that a run of the machine meets, as a number whose low bits are used; `State.free` counts
the uses. Log 3. -/
opaque freeNat : Nat → Nat

/-- What the approximating vector instruction of opcode `op` picks, among the FP32 values within its bound, for input
bits `x`: a fixed function of the operand (R116, R118). Log 14. -/
opaque approx : (op x : Nat) → Nat

/-- The instruction word that a vector engine fetches at a word address beyond its operand buffer. Log 15. -/
opaque wordBeyond : Nat → Nat

/-- The adapter term of a product sum `d` whose shift `k` lies outside 0 to 32, which no image that the device built
has (R154, R156). Log 17. -/
opaque shiftBeyond : (d k : Int) → Int

/-- What the fuses of the module hold and the spec does not state: MAC address, serial number, certificates, estimator
weights, key hashes, by object-dictionary key or by a key of the model. Log 19. -/
opaque fuse : Nat → Nat

/-- Whether the device asks for an acknowledgement at once of the packet of this PSN (R269, ACKREQ): the spec does not say
when it does. Log 48. -/
opaque ackReq : Nat → Bool

/-- Values that Saggar draws from its DRBG, by a running number. Log 3. -/
opaque drbg : Nat → Nat

/-- x-coordinate of ECDH on P-256 between a private key of Saggar's (0: the AK; otherwise an ephemeral key by its
draw) and a public point. Log 20. -/
opaque ecdh : (key point : Nat) → Nat

/-- Public point of an ephemeral private key. Log 20. -/
opaque ecPub : Nat → Nat

/-- ECDSA P-256: the signature by the IK over a digest, and the verification of one. Log 20. -/
opaque ecdsaSign : Nat → Nat
opaque ecdsaOk : (point digest sig : Nat) → Bool

/-- AES-256-GCM with a zero nonce: byte i of ciphertext and tag, of a key, the additional data and the plaintext as
numbers. Log 20. -/
opaque gcmByte : (key aad plain len i : Nat) → Nat

end Sys2Proof.Config
end

