-- ==== Sys2Proof/Machine/Tab.lean ====
section
/-!
DEFINITION. Tables in canonical form: keys strictly rising, no entry equal to the default, which is what an
unlisted key reads as. Byte memories are tables of bytes with default 0, little-endian (R5).
-/

namespace Sys2Proof.Machine

variable {α : Type}

/-- Value at key `k`; an unlisted key reads `d`. -/
def tabGet (d : α) : Tab α → Nat → α
  | [], _ => d
  | (j, v) :: t, k => if j = k then v else tabGet d t k

/-- Insert at key `k`, keys staying strictly rising. -/
def tabPut : Tab α → Nat → α → Tab α
  | [], k, v => [(k, v)]
  | (j, w) :: t, k, v =>
    if k < j then (k, v) :: (j, w) :: t
    else if k = j then (k, v) :: t
    else (j, w) :: tabPut t k v

/-- Remove key `k`. -/
def tabDel (t : Tab α) (k : Nat) : Tab α := t.filter fun kv => kv.1 != k

/-- Write `v` at key `k`; writing the default removes the entry. -/
def tabSet [DecidableEq α] (d : α) (t : Tab α) (k : Nat) (v : α) : Tab α :=
  if v = d then tabDel t k else tabPut t k v

/-- Change the value at key `k`. -/
def tabMod [DecidableEq α] (d : α) (t : Tab α) (k : Nat) (f : α → α) : Tab α :=
  tabSet d t k (f (tabGet d t k))

/-- Drop every entry whose key lies in [lo, lo + n): the range then reads as the default. -/
def tabClear (t : Tab α) (lo n : Nat) : Tab α :=
  t.filter fun kv => kv.1 < lo || lo + n ≤ kv.1

/-- Drop every entry whose key satisfies `p`. -/
def tabClearIf (t : Tab α) (p : Nat → Bool) : Tab α := t.filter fun kv => !p kv.1

/-- Write consecutive keys from `k`. -/
def tabSetList [DecidableEq α] (d : α) (t : Tab α) (k : Nat) : List α → Tab α
  | [] => t
  | v :: vs => tabSetList d (tabSet d t k v) (k + 1) vs

/-- Read `n` consecutive keys from `k`. -/
def tabGetList (d : α) (t : Tab α) (k : Nat) : Nat → List α
  | 0 => []
  | n + 1 => tabGet d t k :: tabGetList d t (k + 1) n

/-- Keys from `lo` on strictly rising, none equal to the default. -/
def tabWfFrom [DecidableEq α] (d : α) (lo : Nat) : Tab α → Bool
  | [] => true
  | (k, v) :: t => decide (lo ≤ k) && decide (v ≠ d) && tabWfFrom d (k + 1) t

/-- The canonical form. -/
def tabWf [DecidableEq α] (d : α) (t : Tab α) : Bool := tabWfFrom d 0 t

/-! ### Bytes (R5) -/

/-- `n` bytes at address `a`. -/
def memRead (m : Mem) (a n : Nat) : List Byte := tabGetList 0 m a n

/-- Bytes written at address `a`. -/
def memWrite (m : Mem) (a : Nat) (bs : List Byte) : Mem := tabSetList 0 m a bs

/-- Value of bytes, least significant first. -/
def leNat : List Byte → Nat
  | [] => 0
  | b :: bs => b.toNat + 256 * leNat bs

/-- The low `n` bytes of a value, least significant first. -/
def natLE : Nat → Nat → List Byte
  | _, 0 => []
  | v, n + 1 => BitVec.ofNat 8 v :: natLE (v / 256) n

/-- `n` bytes at `a` as a number. -/
def memNat (m : Mem) (a n : Nat) : Nat := leNat (memRead m a n)

/-- The low `n` bytes of `v` at `a`. -/
def memPutNat (m : Mem) (a v n : Nat) : Mem := memWrite m a (natLE v n)

/-- The canonical form of a memory. -/
abbrev Memory.wf (m : Mem) : Bool := tabWf 0 m

/-- Bits [hi:lo] of a number. -/
def bits (w hi lo : Nat) : Nat := w / 2 ^ lo % 2 ^ (hi + 1 - lo)

/-- Bit i of a number. -/
def bit (w i : Nat) : Bool := Nat.testBit w i

/-- An n-bit two's-complement field as an integer. -/
def sext (n v : Nat) : Int := if v < 2 ^ (n - 1) then (v : Int) else (v : Int) - 2 ^ n

/-- An integer as an n-bit two's-complement field. -/
def unsext (n : Nat) (i : Int) : Nat := (i % (2 ^ n : Int)).toNat

/-- Split a list into pieces of `n`. -/
def chunks (n : Nat) : Nat → List α → List (List α)
  | 0, _ => []
  | fuel + 1, l => if l.isEmpty then [] else l.take n :: chunks n fuel (l.drop n)

end Sys2Proof.Machine
end

