-- ==== Sys2Proof/Machine/Num.lean ====
section
/-!
DEFINITION. Exact rationals, the operand codes of R22, and the roundings of R43, R48 and R93.
-/

namespace Sys2Proof.Machine

/-- An exact rational: `num / den`, with `den` above 0. -/
structure Q where
  num : Int
  den : Nat
deriving DecidableEq, Repr

/-- Lowest terms. -/
def Q.norm (x : Q) : Q :=
  let g := Nat.gcd x.num.natAbs x.den
  if g ≤ 1 then x else ⟨x.num / (g : Int), x.den / g⟩

def Q.ofInt (i : Int) : Q := ⟨i, 1⟩
def Q.zero : Q := ⟨0, 1⟩

/-- 2^e. -/
def Q.pow2 : Int → Q
  | .ofNat n => ⟨(2 ^ n : Nat), 1⟩
  | .negSucc n => ⟨1, 2 ^ (n + 1)⟩

def Q.mul (x y : Q) : Q := Q.norm ⟨x.num * y.num, x.den * y.den⟩
def Q.add (x y : Q) : Q := Q.norm ⟨x.num * y.den + y.num * x.den, x.den * y.den⟩
def Q.neg (x : Q) : Q := ⟨-x.num, x.den⟩
def Q.sub (x y : Q) : Q := x.add y.neg
def Q.abs (x : Q) : Q := ⟨x.num.natAbs, x.den⟩

/-- x / y, for y not 0. -/
def Q.div (x y : Q) : Q :=
  if y.num < 0 then Q.norm ⟨-(x.num * y.den), x.den * y.num.natAbs⟩
  else Q.norm ⟨x.num * y.den, x.den * y.num.natAbs⟩

def Q.lt (x y : Q) : Bool := decide (x.num * y.den < y.num * x.den)
def Q.le (x y : Q) : Bool := decide (x.num * y.den ≤ y.num * x.den)
def Q.isZero (x : Q) : Bool := x.num == 0
def Q.max (x y : Q) : Q := if x.lt y then y else x

/-- Greatest e with 2^e at most x, for x above 0. -/
def Q.floorLog2 (x : Q) : Int :=
  let e : Int := (Nat.log2 x.num.natAbs : Int) - (Nat.log2 x.den : Int)
  if (Q.pow2 e).le x.abs then e else e - 1

/-- Least e with 2^e at least x, for x above 0 (R97, R154). -/
def Q.ceilLog2 (x : Q) : Int :=
  let e := x.floorLog2
  if x.abs.le (Q.pow2 e) then e else e + 1

def Q.floor (x : Q) : Int := x.num / (x.den : Int)

/-- Nearest integer, ties to even. -/
def Q.roundInt (x : Q) : Int :=
  let f := x.floor
  let r := 2 * (x.num - f * x.den)
  if r < x.den then f else if r > x.den then f + 1 else if f % 2 = 0 then f else f + 1

/-- A binary format: exponent width, mantissa width, bias, magnitude code of the largest finite value. -/
structure Fmt where
  e : Nat
  m : Nat
  bias : Nat
  max : Nat
deriving DecidableEq, Repr

def Fmt.fp64 : Fmt := ⟨11, 52, 1023, 0x7FEFFFFFFFFFFFFF⟩
def Fmt.fp32 : Fmt := ⟨8, 23, 127, 0x7F7FFFFF⟩
def Fmt.bf16 : Fmt := ⟨8, 7, 127, 0x7F7F⟩
def Fmt.fp16 : Fmt := ⟨5, 10, 15, 0x7BFF⟩
def Fmt.e4m3 : Fmt := ⟨4, 3, 7, 0x7E⟩
def Fmt.e5m2 : Fmt := ⟨5, 2, 15, 0x7B⟩
def Fmt.e3m2 : Fmt := ⟨3, 2, 3, 0x1F⟩
def Fmt.e2m3 : Fmt := ⟨2, 3, 1, 0x1F⟩
def Fmt.e2m1 : Fmt := ⟨2, 1, 1, 0x7⟩

/-- Position of the sign bit. -/
def Fmt.signBit (f : Fmt) : Nat := f.e + f.m

/-- Grid exponent 1 − bias − M (R22). -/
def Fmt.grid (f : Fmt) : Int := 1 - (f.bias : Int) - (f.m : Int)

/-- Grid integer of a magnitude code (R24). -/
def Fmt.gridMag (f : Fmt) (c : Nat) : Nat :=
  let e := c / 2 ^ f.m
  let m := c % 2 ^ f.m
  if e = 0 then m else (2 ^ f.m + m) * 2 ^ (e - 1)

/-- Value of a magnitude code. -/
def Fmt.mag (f : Fmt) (c : Nat) : Q := Q.norm ((Q.ofInt (f.gridMag c)).mul (Q.pow2 f.grid))

/-- Magnitude code just at or below x (x at least 0), with the fraction of the step left over. -/
def Fmt.below (f : Fmt) (x : Q) : Nat × Nat × Nat :=
  if x.num = 0 then (0, 0, 1) else
  let emin : Int := 1 - (f.bias : Int)
  let e := x.floorLog2
  let q := if e < emin then emin else e
  let y := x.mul (Q.pow2 (f.m - q))
  let n := y.num.natAbs / y.den
  ((q - emin).toNat * 2 ^ f.m + n, y.num.natAbs % y.den, y.den)

/-- Round to nearest even, exponent unbounded above (R43). -/
def Fmt.nearest (f : Fmt) (x : Q) : Nat :=
  let (c, r, d) := f.below x
  if 2 * r > d ∨ (2 * r = d ∧ c % 2 = 1) then c + 1 else c

/-- Round up in magnitude. -/
def Fmt.up (f : Fmt) (x : Q) : Nat :=
  let (c, r, _) := f.below x
  if r = 0 then c else c + 1

/-- IEEE 754 rounding to nearest even with overflow to infinity; a negative zero result is given by `negZero`. -/
def Fmt.ieee (f : Fmt) (x : Q) (negZero : Bool := false) : Nat :=
  let c := f.nearest x.abs
  let c := if c > f.max then f.max + 1 else c
  if x.num < 0 ∨ (x.num = 0 ∧ negZero) then 2 ^ f.signBit + c else c

/-- What a bit pattern of an IEEE format stands for. -/
inductive Fp where
  | nan
  | inf (neg : Bool)
  | fin (neg : Bool) (x : Q)
deriving DecidableEq, Repr

/-- Decode a pattern of an IEEE format (infinity is the code above the largest finite one). -/
def Fmt.decode (f : Fmt) (w : Nat) : Fp :=
  let s := bit w f.signBit
  let c := w % 2 ^ f.signBit
  if c > f.max + 1 then .nan
  else if c = f.max + 1 then .inf s
  else .fin s (if s then (f.mag c).neg else f.mag c)

/-- FP32 value, with a NaN or an infinity read as 0 and reported (R45). -/
def f32Scale (w : BitVec 32) : Q × Bool :=
  match Fmt.fp32.decode w.toNat with
  | .fin _ x => (x, false)
  | _ => (Q.zero, true)

/-- FP32 bits of the least FP32 value at or above x ≥ 0; +∞ above the largest finite one (R90). -/
def f32Up (x : Q) : BitVec 32 :=
  let c := Fmt.fp32.up x
  BitVec.ofNat 32 (if c > Fmt.fp32.max then Fmt.fp32.max + 1 else c)

/-- Sum of two FP64 patterns that are not negative and not NaN, to nearest even. -/
def f64Add (a b : BitVec 64) : BitVec 64 :=
  match Fmt.fp64.decode a.toNat, Fmt.fp64.decode b.toNat with
  | .fin _ x, .fin _ y => BitVec.ofNat 64 (Fmt.fp64.ieee (x.add y))
  | .inf _, _ => a
  | _, _ => b

/-- Square of x: x rounded to FP64, the square rounded to FP64 (R100). -/
def f64Square (x : Q) : BitVec 64 :=
  match Fmt.fp64.decode (Fmt.fp64.ieee x) with
  | .fin _ y => BitVec.ofNat 64 (Fmt.fp64.ieee (y.mul y))
  | _ => BitVec.ofNat 64 (Fmt.fp64.max + 1)

/-! ### Operand codes (R22 to R28, R449) -/

/-- Width in bits of code number c (R22). -/
def codeWidth (c : Nat) : Nat :=
  match c with
  | 0 | 1 | 5 => 8
  | 2 | 3 => 6
  | 4 | 6 => 4
  | _ => 12

/-- The minifloat format of code number c, if it is one. -/
def codeFmt (c : Nat) : Option Fmt :=
  match c with
  | 0 => some .e4m3
  | 1 => some .e5m2
  | 2 => some .e3m2
  | 3 => some .e2m3
  | 4 => some .e2m1
  | _ => none

/-- Grid exponent g (R22). -/
def codeGrid (c : Nat) : Int :=
  match codeFmt c with
  | some f => f.grid
  | none => 0

/-- Grid integer of a code and whether it is a special code, which decodes to 0 (R24, R25). -/
def codeInt (c w : Nat) : Int × Bool :=
  match codeFmt c with
  | none => (sext (codeWidth c) w, false)
  | some f =>
    let m := w % 2 ^ f.signBit
    if m > f.max then (0, true)
    else if bit w f.signBit then (-(f.gridMag m : Int), false) else (f.gridMag m, false)

/-- Value of a code. -/
def codeVal (c w : Nat) : Q := (Q.ofInt (codeInt c w).1).mul (Q.pow2 (codeGrid c))

/-- Largest finite positive value M of a code (R449). -/
def codeMax (c : Nat) : Q :=
  match codeFmt c with
  | some f => f.mag f.max
  | none => Q.ofInt (2 ^ (codeWidth c - 1) - 1)

/-- Bytes of n codes, padded to a whole group (R28). -/
def codeBytes (c n : Nat) : Nat :=
  match codeWidth c with
  | 4 => (n + 1) / 2
  | 6 => (n + 3) / 4 * 3
  | 12 => (n + 1) / 2 * 3
  | _ => n

/-- Code i of packed codes at byte address a (R26, R28). -/
def codeAt (m : Mem) (a c i : Nat) : Nat :=
  match codeWidth c with
  | 4 => (memNat m (a + i / 2) 1) / 2 ^ (4 * (i % 2)) % 16
  | 6 => (memNat m (a + i / 4 * 3) 3) / 2 ^ (6 * (i % 4)) % 64
  | 12 => (memNat m (a + i / 2 * 3) 3) / 2 ^ (12 * (i % 2)) % 4096
  | _ => memNat m (a + i) 1

/-- Packed bytes of codes, padded to a whole group with zero codes (R28). -/
def packCodes (c : Nat) (l : List Nat) : List Byte :=
  match codeWidth c with
  | 4 => (chunks 2 l.length l).flatMap fun g => natLE (g.foldr (fun x a => x + 16 * a) 0) 1
  | 6 => (chunks 4 l.length l).flatMap fun g => natLE (g.foldr (fun x a => x + 64 * a) 0) 3
  | 12 => (chunks 2 l.length l).flatMap fun g => natLE (g.foldr (fun x a => x + 4096 * a) 0) 3
  | _ => l.map (BitVec.ofNat 8)

/-- A rounded output: its bits, the value they stand for, and the clip and flush events (R44, R93). -/
structure Rounded where
  bits : Nat
  val : Q
  clip : Bool
  flush : Bool
deriving DecidableEq, Repr

/-- Sign, magnitude code and clip of a binary format, with the zero-sign rule of R44. -/
def Fmt.output (f : Fmt) (x : Q) (c : Nat) : Rounded :=
  let clip := decide (c > f.max)
  let c := if clip then f.max else c
  let v := f.mag c
  if x.num < 0 then ⟨2 ^ f.signBit + c, v.neg, clip, c == 0⟩
  else ⟨c, v, clip, c == 0 && x.num != 0⟩

/-- An integer output of n bits clipped to its range. -/
def intOutput (n : Nat) (x : Q) (i : Int) : Rounded :=
  let hi : Int := 2 ^ (n - 1) - 1
  let lo : Int := -(2 ^ (n - 1))
  let j := if i > hi then hi else if i < lo then lo else i
  ⟨unsext n j, Q.ofInt j, decide (j ≠ i), j == 0 && x.num != 0⟩

/-- One rounding into code number c (R93). -/
def roundCode (c : Nat) (x : Q) : Rounded :=
  match codeFmt c with
  | some f => f.output x (f.nearest x.abs)
  | none => intOutput (codeWidth c) x x.roundInt

/-- Output format of a drain (R41); none for INT8. -/
def drainFmt (f : Nat) : Option Fmt :=
  match f with
  | 0 => some .fp32
  | 1 => some .bf16
  | 2 => some .fp16
  | 3 => some .e4m3
  | 4 => some .e5m2
  | _ => none

/-- Output width of a drain in bytes (R65). -/
def drainWidth (f : Nat) : Nat :=
  match f with
  | 0 => 4
  | 1 | 2 => 2
  | 6 => 16
  | _ => 1

/-- Round to nearest even into drain format f (R43, R44). -/
def roundNearest (f : Nat) (x : Q) : Rounded :=
  match drainFmt f with
  | some g => g.output x (g.nearest x.abs)
  | none => intOutput 8 x x.roundInt

/-- Stochastic rounding with draw r (R48, sr_round). -/
def roundStoch (f : Nat) (x : Q) (r : Nat) : Rounded :=
  match drainFmt f with
  | some g =>
    if (g.mag g.max).lt x.abs then g.output x (g.max + 1)
    else
      let (c, rem, den) := g.below x.abs
      if rem = 0 then g.output x c
      else if x.num < 0 then
        g.output x (if r < (den - rem) * 2 ^ 32 / den then c else c + 1)
      else g.output x (if r < rem * 2 ^ 32 / den then c + 1 else c)
  | none =>
    let lo := x.floor
    let rem := (x.num - lo * x.den).natAbs
    if (Q.ofInt 127).lt x then intOutput 8 x 128
    else if x.lt (Q.ofInt (-128)) then intOutput 8 x (-129)
    else if rem = 0 then intOutput 8 x lo
    else intOutput 8 x (if r < rem * 2 ^ 32 / x.den then lo + 1 else lo)

/-! ### Stochastic draws (R48) -/

/-- Start state from the seed register and the tile tag. -/
def srStart (seed tag : Nat) : Nat :=
  let s := Nat.xor seed (tag * 0x9E3779B97F4A7C15 % 2 ^ 64)
  if s = 0 then 1 else s

/-- One step of the 64-bit LFSR, taps 64, 63, 61, 60. -/
def lfsrStep (s : Nat) : Nat :=
  let b := Bool.xor (Bool.xor (bit s 63) (bit s 62)) (Bool.xor (bit s 60) (bit s 59))
  s * 2 % 2 ^ 64 + b.toNat

/-- Thirty-two steps; the draw is the low 32 bits of the new state. -/
def srNext (s : Nat) : Nat := Nat.repeat lfsrStep 32 s

/-- The draw that a state gives. -/
def srDraw (s : Nat) : Nat := s % 2 ^ 32

/-! ### The Tally word (R35) -/

/-- 2^127 − 1. -/
def tallyMax : Int := 2 ^ 127 - 1

/-- A stored word as read: −2^127 reads as −(2^127 − 1), and says so. -/
def tallyRead (w : BitVec 128) : Int × Bool :=
  if w.toInt < -tallyMax then (-tallyMax, true) else (w.toInt, false)

/-- One saturating addition: the new word and whether it saturated (R35). -/
def tallyAdd (w : BitVec 128) (x : Int) : BitVec 128 × Bool :=
  let (a, b) := tallyRead w
  let y := a + x
  if y > tallyMax then (BitVec.ofInt 128 tallyMax, true)
  else if y < -tallyMax then (BitVec.ofInt 128 (-tallyMax), true)
  else (BitVec.ofInt 128 y, b)

end Sys2Proof.Machine
end

