-- ==== Sys2Proof/Machine/Status.lean ====
section
/-!
DEFINITION. The status codes of R256 (11_work).
-/

namespace Sys2Proof.Machine.St

/-- R256 -/
abbrev ok : Status := 0x0000
/-- WORK_DESC_INVALID: Descriptor field or KIND invalid (R237, R242) -/
abbrev workDescInvalid : Status := 0x0101
/-- WORK_GEN_MISMATCH: VALID differs from the expected generation (R237) -/
abbrev workGenMismatch : Status := 0x0102
/-- ABORTED: Ended by abort or discard (R246, R146) -/
abbrev aborted : Status := 0x0103
/-- GROUP_PART_FAILED: Group failed; FPART and PSTAT name the cause (R244) -/
abbrev groupPartFailed : Status := 0x0104
/-- GROUP_MISMATCH: Parts disagree on NPART -/
abbrev groupMismatch : Status := 0x0105
/-- GROUP_PART_DUPLICATE: Two parts share one PART number -/
abbrev groupPartDuplicate : Status := 0x0106
/-- GROUP_TABLE_FULL: Leader's group table full (R245) -/
abbrev groupTableFull : Status := 0x0107
/-- GROUP_ASSEMBLY_TIMEOUT: Not every part registered in time -/
abbrev groupAssemblyTimeout : Status := 0x0108
/-- GROUP_LEADER_LOST: No decision from the leader in time -/
abbrev groupLeaderLost : Status := 0x0109
/-- SEQUENCE_TOO_LONG: More than 10,485,760 tokens (R203) -/
abbrev sequenceTooLong : Status := 0x010A
/-- COMBINE_TARGET_LOST: Reduction owner retired during a combine (R85) -/
abbrev combineTargetLost : Status := 0x010B
/-- TRIM_FAULT: Unhandled trim-core exception in job code (R151) -/
abbrev trimFault : Status := 0x010C
/-- TILE_FIELD_INVALID: Tile instruction field invalid (R59) -/
abbrev tileFieldInvalid : Status := 0x0201
/-- TILE_CODE_INVALID: Code, pair, format or mode invalid (R23, R29, R41, R157) -/
abbrev tileCodeInvalid : Status := 0x0202
/-- TILE_POINT_INVALID: Alignment shift out of range (R30, R194) -/
abbrev tilePointInvalid : Status := 0x0203
/-- TALLY_POINT_MISMATCH: Point differs from the slot's, or slot not LIVE (R31, R80) -/
abbrev tallyPointMismatch : Status := 0x0204
/-- CORE_UNAVAILABLE: No core behind the logical number (R76) -/
abbrev coreUnavailable : Status := 0x0205
/-- VECTOR_FIELD_INVALID: Vector instruction or launch word invalid (R108, R112) -/
abbrev vectorFieldInvalid : Status := 0x0301
/-- VECTOR_QUEUE_FULL: Eight launches queued or running (R107) -/
abbrev vectorQueueFull : Status := 0x0302
/-- PERMUTE_OUT_OF_RANGE: Permute trap (R124) -/
abbrev permuteOutOfRange : Status := 0x0303
/-- SUMMARY_NOT_LEAD: `vsum` on a core other than the lead core (R130) -/
abbrev summaryNotLead : Status := 0x0304
/-- TRIM_NOT_OWNER: Trim core does not own the core (R138) -/
abbrev trimNotOwner : Status := 0x0305
/-- RM_CMD_INVALID: Command block or scale-load operand invalid (R141, R147) -/
abbrev rmCmdInvalid : Status := 0x0306
/-- ADDRESS_INVALID: Address out of range, misaligned or in a refused range -/
abbrev addressInvalid : Status := 0x0401
/-- REGION_READ_ONLY: Write into a BASE_RO region (R183) -/
abbrev regionReadOnly : Status := 0x0402
/-- ACCESS_DENIED: World or partition of the initiator not allowed -/
abbrev accessDenied : Status := 0x0403
/-- MEMORY_UNCORRECTABLE: HBM or SRAM error beyond correction -/
abbrev memoryUncorrectable : Status := 0x0404
/-- REMOTE_TIMEOUT: Remote operation unanswered within its retransmission limit -/
abbrev remoteTimeout : Status := 0x0405
/-- CONTEXT_INVALID: Partner context closed or unknown -/
abbrev contextInvalid : Status := 0x0406
/-- PEER_UNREACHABLE: Fabric peer not reachable -/
abbrev peerUnreachable : Status := 0x0407
/-- VERSION_UNSUPPORTED: No common major version with the other side -/
abbrev versionUnsupported : Status := 0x0408
/-- OPEN_INVALID: OPEN field out of range (R277) -/
abbrev openInvalid : Status := 0x0409
/-- ADAPTER_CMD_INVALID: Directory command or fill descriptor invalid (R160, R170) -/
abbrev adapterCmdInvalid : Status := 0x0501
/-- ADAPTER_INDEX_INVALID: Index outside the partition's range (R159) -/
abbrev adapterIndexInvalid : Status := 0x0502
/-- ADAPTER_STALE: GEN differs from the entry's (R160, R165) -/
abbrev adapterStale : Status := 0x0503
/-- ADAPTER_STATE_INVALID: Command not allowed in the entry's state (R161, R186) -/
abbrev adapterStateInvalid : Status := 0x0504
/-- ADAPTER_NOT_FOUND: Entry EMPTY -/
abbrev adapterNotFound : Status := 0x0505
/-- ADAPTER_NOT_READY: No published image (R165, R171) -/
abbrev adapterNotReady : Status := 0x0506
/-- ADAPTER_REVOKED: Entry revoked (R167) -/
abbrev adapterRevoked : Status := 0x0507
/-- ADAPTER_BUSY: Command waiting, or REFCNT not zero within TMO (R166) -/
abbrev adapterBusy : Status := 0x0508
/-- ADAPTER_PIN_LIMIT: Pin limit reached (R164) -/
abbrev adapterPinLimit : Status := 0x0509
/-- ADAPTER_POOL_FULL: No room in the adapter pool (R163) -/
abbrev adapterPoolFull : Status := 0x050A
/-- ADAPTER_FETCH_FAILED: GET from the park source failed -/
abbrev adapterFetchFailed : Status := 0x050B
/-- ADAPTER_DIGEST_MISMATCH: Serving copy digest differs -/
abbrev adapterDigestMismatch : Status := 0x050C
/-- ADAPTER_BASE_SCALE_INVALID: Base-map record invalid, or a zero or non-finite base row scale (R154, R189) -/
abbrev adapterBaseScaleInvalid : Status := 0x050D
/-- ADAPTER_BASE_UNLOCKED: Base region list empty, or a region not BASE_RO (R183, R186) -/
abbrev adapterBaseUnlocked : Status := 0x050E
/-- ADAPTER_SLOT_BUSY: Fill while the slot is FILLING -/
abbrev adapterSlotBusy : Status := 0x050F
/-- ADAPTER_SLOT_FAULT: Slot empty, faulted or of the wrong kind (R173) -/
abbrev adapterSlotFault : Status := 0x0510
/-- ADAPTER_LAYER_INVALID: Layer, group, block or chunk outside the adaptation (R171) -/
abbrev adapterLayerInvalid : Status := 0x0511
/-- ADAPTER_POINT_MISMATCH: Point or streaming code differs from the image's -/
abbrev adapterPointMismatch : Status := 0x0512
/-- ADAPTER_CHUNK_RANGE: Chunk past the last chunk, or K above the slot's chunk rows (R173) -/
abbrev adapterChunkRange : Status := 0x0513
/-- ADAPTER_COPY_INVALID: Serving copy malformed, or holding a non-finite scale (R163) -/
abbrev adapterCopyInvalid : Status := 0x0514
/-- EMIT_DESC_INVALID: Emitter descriptor invalid (R92) -/
abbrev emitDescInvalid : Status := 0x0601
/-- CHURN_CMD_INVALID: Churn command or tensor record invalid (R209, R212) -/
abbrev churnCmdInvalid : Status := 0x0602
/-- STEP_FLAGGED: UPDATE found a step flag set (R223) -/
abbrev stepFlagged : Status := 0x0603
/-- TRAIN_STOPPED: Flagged-step policy or retry limit stopped the job (R200) -/
abbrev trainStopped : Status := 0x0604
/-- SHARD_HEADER_INVALID: Shard header invalid or mismatched (R220, R229) -/
abbrev shardHeaderInvalid : Status := 0x0605
/-- SHARD_EPOCH_MISMATCH: Epoch word or target epoch unexpected (R221, R226) -/
abbrev shardEpochMismatch : Status := 0x0606
/-- SHARD_DIGEST_MISMATCH: Export shard digest differs (R229) -/
abbrev shardDigestMismatch : Status := 0x0607
/-- EXPORT_KEY_INVALID: Tenant key not a valid P-256 point (R227) -/
abbrev exportKeyInvalid : Status := 0x0608
/-- POWER_FAULT: Arithmetic domain reset below the supply reset level -/
abbrev powerFault : Status := 0x0701
/-- PARTITION_RESET: Work ended by a reset of its partition -/
abbrev partitionReset : Status := 0x0702
/-- THERMAL_TRIP: Work ended by a shutdown at the junction limit -/
abbrev thermalTrip : Status := 0x0703
/-- OD_BUSY: Entry busy (R102) -/
abbrev odBusy : Status := 0x0801
/-- OD_NO_ENTRY: No such index or subindex -/
abbrev odNoEntry : Status := 0x0802
/-- OD_ACCESS_DENIED: Access right or world does not allow the operation -/
abbrev odAccessDenied : Status := 0x0803
/-- OD_VALUE_INVALID: Value out of range for the entry -/
abbrev odValueInvalid : Status := 0x0804
/-- OD_EXPERT_REQUIRED: Expert entry outside an expert session -/
abbrev odExpertRequired : Status := 0x0805
/-- MODE_ROLLED_BACK: Mode change reverted (R253, R254) -/
abbrev modeRolledBack : Status := 0x0806
/-- MODE_BUSY: Mode change already in progress -/
abbrev modeBusy : Status := 0x0807
/-- MODE_WORK_ACTIVE: Work present in a partition the layout changes -/
abbrev modeWorkActive : Status := 0x0808
/-- MODE_NOT_LEADER: BOARD scope on a device other than D0 -/
abbrev modeNotLeader : Status := 0x0809
/-- UPDATE_IN_PROGRESS: Quote taken during a firmware update -/
abbrev updateInProgress : Status := 0x0901
/-- PARTITION_RESETTING: Quote for a partition under reset -/
abbrev partitionResetting : Status := 0x0902
/-- SIGNATURE_INVALID: Firmware image signature does not verify -/
abbrev signatureInvalid : Status := 0x0903

/-- The codes of the table; every other code is reserved, and the device never returns one (R256). -/
def all : List Status :=
  [ok, workDescInvalid, workGenMismatch, aborted, groupPartFailed, groupMismatch, groupPartDuplicate, groupTableFull,
    groupAssemblyTimeout, groupLeaderLost, sequenceTooLong, combineTargetLost, trimFault, tileFieldInvalid,
    tileCodeInvalid, tilePointInvalid, tallyPointMismatch, coreUnavailable, vectorFieldInvalid, vectorQueueFull,
    permuteOutOfRange, summaryNotLead, trimNotOwner, rmCmdInvalid, addressInvalid, regionReadOnly, accessDenied,
    memoryUncorrectable, remoteTimeout, contextInvalid, peerUnreachable, versionUnsupported, openInvalid,
    adapterCmdInvalid, adapterIndexInvalid, adapterStale, adapterStateInvalid, adapterNotFound, adapterNotReady,
    adapterRevoked, adapterBusy, adapterPinLimit, adapterPoolFull, adapterFetchFailed, adapterDigestMismatch,
    adapterBaseScaleInvalid, adapterBaseUnlocked, adapterSlotBusy, adapterSlotFault, adapterLayerInvalid,
    adapterPointMismatch, adapterChunkRange, adapterCopyInvalid, emitDescInvalid, churnCmdInvalid, stepFlagged,
    trainStopped, shardHeaderInvalid, shardEpochMismatch, shardDigestMismatch, exportKeyInvalid, powerFault,
    partitionReset, thermalTrip, odBusy, odNoEntry, odAccessDenied, odValueInvalid, odExpertRequired, modeRolledBack,
    modeBusy, modeWorkActive, modeNotLeader, updateInProgress, partitionResetting, signatureInvalid]

/-- A code of the table. -/
def known (st : Status) : Bool := all.contains st

end Sys2Proof.Machine.St
end

