-- ==== Sys2Proof/Machine/Ops.lean ====
section
/-!
DEFINITION. The named operations over State: cores, shelves, trim cores, partitions, free values, and what leaves
the device.
-/

namespace Sys2Proof.Machine

/-- Rank of a rank code (R152); 0 where no rank has the code. -/
def rankOf (code : Nat) : Nat :=
  match code with
  | 1 => 4
  | 2 => 8
  | 3 => 16
  | 4 => 32
  | 5 => 64
  | _ => 0

/-! ### Partitions (R20) -/

/-- Partition of a shelf: P0 for all of them in whole-device mode (R20, R98). -/
def State.partOf (s : State) (sh : Nat) : Nat := if s.mode.cur.four then sh / 4 else 0

/-- Shelves of a partition. -/
def State.shelvesOf (s : State) (p : Nat) : List Nat :=
  if s.mode.cur.four then [4 * p, 4 * p + 1, 4 * p + 2, 4 * p + 3] else List.range 16

/-! ### Free values (log 3) -/

/-- The next free value, and the state that has used it. -/
def State.takeFree (s : State) : Nat × State := (Config.freeNat s.free, { s with free := s.free + 1 })

/-! ### Shelves, trim cores and matrix cores as they stand (R13, R49, R75) -/

def State.shelf (s : State) (sh : Nat) : Shelf := tabGet {} s.shelves sh

def State.sram (s : State) (sh : Nat) : Mem := (s.shelf sh).sram

def Shelf.trim (h : Shelf) (k : Nat) : Trim := tabGet {} h.trims k

def State.trim (s : State) (sh k : Nat) : Trim := (s.shelf sh).trim k

/-- Size of a shelf SRAM, 12 MiB (R135). -/
def sramSize : Nat := 0xC00000

/-- First byte of the range kept for firmware (R136). -/
def sramFirm : Nat := 0xBC0000

/-- Size of an operand buffer, 1.5 MiB (R49). -/
def opbufSize : Nat := 0x180000

/-- Owner of logical core c, OD 2060 (R138). -/
def Shelf.ownerOf (h : Shelf) (c : Nat) : Nat := bits h.owner.toNat (2 * c + 1) (2 * c)

/-- Trim core k owns logical core c of the shelf (R138). -/
def State.owns (s : State) (sh k c : Nat) : Bool := (s.shelf sh).ownerOf c == k

/-- Physical core behind a logical number, if one is (R75, R76). -/
def State.phys (s : State) (sh c : Nat) : Option Nat :=
  match (s.shelf sh).map[c]? with
  | some p => if p < 9 then some (9 * sh + p) else none
  | none => none

/-- A physical core by its key 9 × shelf + core. -/
def State.core (s : State) (p : Nat) : Core := tabGet {} s.cores p

/-- The core behind a logical number, or a core in its reset state. -/
def State.lcore (s : State) (sh c : Nat) : Core :=
  match s.phys sh c with
  | some p => s.core p
  | none => {}

/-- Lead core: the enabled core of lowest logical number (R13). -/
def State.lead (s : State) (sh : Nat) : Option Nat :=
  (List.range 8).find? fun c => (s.phys sh c).isSome

/-! ### Status windows (R107, R145) -/

/-- Launches queued or running (R107). -/
def Vec.launches (e : Vec) : Nat := e.queue.length + e.prog.isSome.toNat

/-- A word of a core's status window (R145, R107). -/
def Core.windowWord (k : Core) (off : Nat) : Nat :=
  match off with
  | 0x000 => k.vec.launches
  | 0x008 => k.vec.vseq.toNat
  | 0x010 => k.vec.vlast.toNat
  | 0x100 => k.tile.tqout.toNat
  | 0x108 => k.tile.tends.toNat
  | 0x110 => k.tile.tlast.toNat
  | 0x118 => 64 - k.tile.queue.length
  | _ => 0

/-- The same for a logical number: zero where no core is behind it. -/
def State.windowWord (s : State) (sh c off : Nat) : Nat :=
  match s.phys sh c with
  | some p => (s.core p).windowWord off
  | none => 0

/-! ### Physical memory protection (R133, R337). PRESUMED, log 9 -/

/-- Trailing ones of an address register. -/
def trailingOnes : Nat → Nat → Nat
  | 0, _ => 0
  | fuel + 1, v => if v % 2 = 1 then 1 + trailingOnes fuel (v / 2) else 0

/-- First byte and end of the range of PMP entry i; none where it is off. -/
def pmpRange (t : Tab PmpEntry) (i : Nat) : Option (Nat × Nat) :=
  let e := tabGet {} t i
  let a := e.addr.toNat
  match bits e.cfg.toNat 4 3 with
  | 0 => none
  | 1 => some (if i = 0 then 0 else 4 * (tabGet {} t (i - 1)).addr.toNat, 4 * a)
  | 2 => some (4 * a, 4 * a + 4)
  | _ =>
    let n := trailingOnes 54 a
    let base := a / 2 ^ (n + 1) * 2 ^ (n + 1)
    some (4 * base, 4 * base + 2 ^ (n + 3))

/-- PMP lets an access of `n` bytes at `a` pass; `perm`: bit 0 read, 1 write, 2 fetch. The lowest entry that holds a byte
of it decides, and must hold all of them; machine mode is bound by locked entries only. -/
def pmpOk (t : Tab PmpEntry) (machine : Bool) (a n perm : Nat) : Bool :=
  let hit := (List.range 16).find? fun i => match pmpRange t i with
    | some (lo, hi) => decide (lo < hi) && decide (a < hi) && decide (lo < a + max n 1)
    | none => false
  match hit with
  | none => machine
  | some i =>
    let c := (tabGet {} t i).cfg.toNat
    (machine && !bit c 7) || (bit c perm && match pmpRange t i with
      | some (lo, hi) => decide (lo ≤ a) && decide (a + n ≤ hi)
      | none => false)

/-! ### The local map (R135 to R137, R337) -/

/-- A range of the shelf SRAM that a trim core may reach: in user mode the PMP entries bound it to the job's share, and
the device keeps the firmware range from it (R136, R337). -/
def Trim.sramOk (r : Trim) (a n : Nat) (perm : Nat := 0) : Bool :=
  decide (a + n ≤ (if r.machine then sramSize else sramFirm)) && pmpOk r.pmp r.machine a n perm

/-- The word that a wait.w of core k watches: none where the address raises an access fault (R143). A management core has
the counter window only. DEDUCED, log 74. -/
def State.localWord (s : State) (sh k a : Nat) : Option Nat :=
  let r := s.trim sh k
  if a % 8 ≠ 0 then none
  else if sh < 16 ∧ r.sramOk a 8 then some (memNat (s.sram sh) a 8)
  else if sh < 16 ∧ 0x02000000 ≤ a ∧ a < 0x02001000 then
    let c := (a - 0x02000000) / 0x200
    if r.machine ∨ s.owns sh k c then some (s.windowWord sh c (a % 0x200)) else none
  else if 0x03000000 ≤ a ∧ a < 0x03000080 then some (tabGet 0 r.counters ((a - 0x03000000) / 8)).toNat
  else if 0x03000080 ≤ a ∧ a < 0x03000100 then some (tabGet 0 r.errors ((a - 0x03000080) / 8)).toNat
  else none

/-- The condition of a wait.w form: 0 differs, 1 equals, 2 unsigned at or above (R143). -/
def waitHolds (cond w cmp : Nat) : Bool :=
  match cond with
  | 0 => w != cmp
  | 1 => w == cmp
  | _ => decide (cmp ≤ w)

/-- The word that core k of a shelf watches meets its condition. -/
def State.sees (s : State) (sh k : Nat) : Bool :=
  match (s.trim sh k).wait with
  | some (.word cond a cmp _) => (s.localWord sh k a).any fun w => waitHolds cond w cmp.toNat
  | _ => false

/-- After a write in a shelf: the cores whose watched word now meets their condition are woken, whatever is written to it
before they complete (R143, R151). -/
def State.noteWakes (s : State) (sh : Nat) : State :=
  { s with woken := s.woken ++ (((List.range 4).filter fun k => s.sees sh k).map (4 * sh + ·)).filter (!s.woken.contains ·) }

/-! ### Changes of shelves and cores -/

def State.modShelf (s : State) (sh : Nat) (f : Shelf → Shelf) : State :=
  { s with shelves := tabMod {} s.shelves sh f : State }.noteWakes sh

def State.sramWrite (s : State) (sh a : Nat) (bs : List Byte) : State :=
  s.modShelf sh fun h => { h with sram := memWrite h.sram a bs }

def State.modTrim (s : State) (sh k : Nat) (f : Trim → Trim) : State :=
  s.modShelf sh fun h => { h with trims := tabMod {} h.trims k f }

/-- Complete an extension instruction: rd receives the value, the pc passes the instruction, no wait is left (R139). -/
def Trim.retire (t : Trim) (rd : Nat) (v : BitVec 64) : Trim :=
  { t with x := if rd = 0 then t.x else tabSet 0 t.x rd v, pc := t.pc + 4, wait := none }

def State.modCore (s : State) (p : Nat) (f : Core → Core) : State :=
  { s with cores := tabMod {} s.cores p f : State }.noteWakes (p / 9)

/-- Change the core behind a logical number; nothing where none is. -/
def State.onCore (s : State) (sh c : Nat) (f : Core → Core) : State :=
  match s.phys sh c with
  | some p => s.modCore p f
  | none => s

/-! ### Islands (R369) -/

/-- Island of a shelf (R369): four shelves each. -/
def islandOf (sh : Nat) : Nat := sh / 4

def State.island (s : State) (i : Nat) : Island := tabGet {} s.power.islands i

def State.modIsland (s : State) (i : Nat) (f : Island → Island) : State :=
  { s with power := { s.power with islands := tabMod {} s.power.islands i f } }

/-- The shelf has quiesced in a mode change that has neither committed nor rolled back (R253). -/
def State.quiesced (s : State) (sh : Nat) : Bool := s.mode.st = .transitioning && s.mode.applied.getLsbD sh

/-- No instruction issues on the shelf's matrix cores and vector engines: a supply warning holds issue (R381), the
arithmetic domain is down (R377, R382), or the shelf has quiesced (R253). -/
def State.issueHeld (s : State) (sh : Nat) : Bool :=
  let i := s.island (islandOf sh)
  i.warn || i.down || s.power.trip || s.quiesced sh

/-! ### Work slots (R231, R232) -/

def State.wk (s : State) (i : Nat) : Work := tabGet {} s.work.slots i

def State.modWork (s : State) (i : Nat) (f : Work → Work) : State :=
  { s with work := { s.work with slots := tabMod {} s.work.slots i f } }

/-- Bits [hi:lo] of the descriptor word at byte offset `off` (R232). -/
def descAt (d : BitVec 2048) (off hi lo : Nat) : Nat := bits d.toNat (8 * off + hi) (8 * off + lo)

def Work.at (w : Work) (off hi lo : Nat) : Nat := descAt w.desc off hi lo

def Work.kind (w : Work) : Nat := w.at 0 63 56

/-- Partition of a slot (R231). -/
def State.slotPart (s : State) (i : Nat) : Nat := if s.mode.cur.four then i / 4096 else 0

/-- Works whose job code runs on a shelf: its running SERVE works, or, where none runs there, the partition's TRAIN
works. DESIGN CHOICE, log 25. -/
def State.worksOn (s : State) (sh : Nat) : List Nat :=
  let run := s.work.slots.filter fun e => e.2.st = .running
  let serve := run.filter fun e => e.2.kind == 1 && e.2.shelf == sh
  let train := run.filter fun e => e.2.kind == 2 && s.slotPart e.1 == s.partOf sh
  (if serve.isEmpty then train else serve).map (·.1)

/-- OR flags into the completion-record flags of the works whose job code runs on a shelf (R46, R86, R110, R240). -/
def State.flagWorks (s : State) (sh : Nat) (fl : BitVec 5) : State :=
  if fl = 0 then s
  else (s.worksOn sh).foldl (fun s i => s.modWork i fun w => { w with flags := w.flags ||| fl }) s

/-! ### Object-dictionary values (R409) -/

/-- Value of an entry of key 256 × index + subindex, whose default is `d`. -/
def State.odVal (s : State) (key d : Nat) : Nat :=
  match tabGet 0 s.od key with
  | 0 => d
  | n + 1 => n

def State.odSet (s : State) (key v : Nat) : State := { s with od := tabSet 0 s.od key (v + 1) }

/-! ### What leaves the device -/

def State.emit (s : State) (e : Emit) : State := { s with out := s.out ++ [e] }

end Sys2Proof.Machine
end

