-- ==== Sys2Proof/Machine/Flags.lean ====
section
/-!
DEFINITION. Flags and counts: the step flag word (R198), Tally slot flags (R34), monitors and skim counters (R98 to
R101).
-/

namespace Sys2Proof.Machine

/-! ### Step flags (R198) -/

/-- OR flag bits [8:0] into a step flag register or word; a lower tag, or a first tag, takes FTAG and FT. -/
def stepFlagOr (f : BitVec 64) (flags : Nat) (tag : Nat) : BitVec 64 :=
  if flags = 0 then f else
  let f' := f ||| BitVec.ofNat 64 flags
  let ftag := bits f.toNat 31 20
  if !bit f.toNat 7 || tag < ftag then
    (f' &&& ~~~(0xFFF00000 : BitVec 64)) ||| BitVec.ofNat 64 (tag * 2 ^ 20 + 128)
  else f'

/-- OR a whole register into another (R198): flags, and the lower of the two tags. -/
def stepFlagMerge (f g : BitVec 64) : BitVec 64 :=
  let g' := bits g.toNat 8 0
  if bit g.toNat 7 then stepFlagOr f (g' - 128) (bits g.toNat 31 20) else f ||| BitVec.ofNat 64 g'

/-! ### Statistics (R98 to R101) -/

def satAdd64 (a : BitVec 64) (n : Nat) : BitVec 64 :=
  BitVec.ofNat 64 (min (a.toNat + n) (2 ^ 64 - 1))

/-- FP32 magnitudes and +∞ order as their bits. -/
def f32Max (a b : BitVec 32) : BitVec 32 := if a.toNat < b.toNat then b else a

def Monitor.post (m : Monitor) (u : StatUpdate) : Monitor :=
  { count := satAdd64 m.count u.count
    sse := f64Add m.sse u.sse
    ssq := f64Add m.ssq u.ssq
    amax := f32Max m.amax u.amax }

def Skim.post (k : Skim) (u : StatUpdate) : Skim :=
  { clip := satAdd64 k.clip u.clip, flush := satAdd64 k.flush u.flush }

/-- One conversion more in an update (R100): its input, its rounded output, its exact error, and whether a zero scale
made it. -/
def StatUpdate.add (u : StatUpdate) (x err : Q) (clip flush : Bool) : StatUpdate :=
  { count := u.count + 1
    sse := f64Add u.sse (f64Square err)
    ssq := f64Add u.ssq (f64Square x)
    amax := f32Max u.amax (f32Up x.abs)
    clip := u.clip + clip.toNat
    flush := u.flush + flush.toNat }

/-- Post one update to a partition's bank: the monitor entry of the tag and its skim pair of format index f. -/
def State.postStat (s : State) (drain : Bool) (part tag f : Nat) (u : StatUpdate) : State :=
  let key := 4096 * part + tag
  let st := s.stats
  { s with stats := { st with
      drainMon := if drain then tabMod {} st.drainMon key (·.post u) else st.drainMon
      emitMon := if drain then st.emitMon else tabMod {} st.emitMon key (·.post u)
      skim := tabMod {} st.skim (16 * key + f) (·.post u) } }

/-- Skim format index of an operand code (R101). -/
def codeSkim (c : Nat) : Nat :=
  match c with
  | 0 => 3
  | 1 => 4
  | 2 => 6
  | 3 => 7
  | 4 => 8
  | 5 => 5
  | 6 => 9
  | _ => 10

/-! ### Slot flags (R34) -/

/-- The slot status word as a GET reads it (R34). -/
def SlotStatus.word (t : SlotStatus) : BitVec 32 :=
  BitVec.ofNat 32 (t.point.toNat * 65536 + t.nfs.toNat * 16 + t.dclip.toNat * 8 + t.nfi.toNat * 4 + t.sat.toNat * 2
    + t.live.toNat)

/-- A clear records the point, sets LIVE and clears the flags (R31). -/
def SlotStatus.clear (p : BitVec 8) : SlotStatus := { point := p, live := true }

/-- A DCLR drain clears SAT, NFI, NFS and DCLIP and keeps POINT and LIVE (R34, R65). -/
def SlotStatus.dclr (t : SlotStatus) : SlotStatus := { point := t.point, live := t.live }

/-- A step flag register as software writes it: the reserved bits [63:32] and [19:9] are ignored and read as zero (R7,
R198). -/
def stepfWritten (v : BitVec 64) : BitVec 64 := v &&& 0x00000000FFF001FF

/-- A gather entry as software writes it: the reserved bits [55:45] and [25:1] are ignored and read as zero (R7, R178). -/
def gatherWritten (v : BitVec 64) : BitVec 64 := v &&& 0xFF001FFFFC000001

/-- Flags of a completion record: SAT, NFI, NFS, DCLIP and NF (R240). -/
def recordBits (sat nfi nfs dclip nf : Bool) : BitVec 5 :=
  BitVec.ofNat 5 (sat.toNat + 2 * nfi.toNat + 4 * nfs.toNat + 8 * dclip.toNat + 16 * nf.toNat)

/-- Step-flag bits SAT, NFI, NFS (R46, R198). -/
def drainFlags (sat nfi nfs : Bool) : Nat := sat.toNat + 2 * nfi.toNat + 4 * nfs.toNat

end Sys2Proof.Machine
end

