-- ==== Sys2Proof/Machine/Hbm.lean ====
section
/-!
DEFINITION. HBM space: the address map, the region checks, uncorrectable granules, and the structures that read back
as bytes (chapter 14; R158, R231, R235).
-/

namespace Sys2Proof.Machine

/-! ### The address map (R258, R309 to R312) -/

/-- HBM capacity C (R309). -/
def State.hbmCap (s : State) : Nat :=
  match s.part with
  | .t432 => 0x6C00000000
  | .t288 => 0x4800000000

/-- Base of the system area, the top 1.5 GiB (0x6000_0000 bytes) of the capacity; the user area lies below it. -/
def State.sysBase (s : State) : Nat :=
  match s.part with
  | .t432 => 0x6BA0000000
  | .t288 => 0x47A0000000

/-- A quarter of the user area. -/
def State.quarter (s : State) : Nat := s.sysBase / 4

def State.dirBase (s : State) : Nat := s.sysBase + 0x12000000
def State.slotBase (s : State) : Nat := s.sysBase + 0x13000000
def State.regionBase (s : State) : Nat := s.sysBase + 0x13800000

/-- Where the model keeps digest records, 64 bytes for each directory index, in the range of firmware's records (the
spec leaves the place to firmware). DESIGN CHOICE, log 16. -/
def State.digestBase (s : State) : Nat := s.sysBase + 0x13C00000

/-- Stack and stack address of an HBM offset under a layout (R310); quarter q holds stacks 3q to 3q + 2 (R334). -/
def State.stackIn (s : State) (four : Bool) (o : Nat) : Nat × Nat :=
  let b := o % 512
  if s.sysBase ≤ o then
    let m := (o - s.sysBase) / 512
    (m % 12, s.sysBase / 12 + m / 12 * 512 + b)
  else if four then
    let q := o / s.quarter
    let n := (o - q * s.quarter) / 512
    (3 * q + n % 3, n / 3 * 512 + b)
  else
    let n := o / 512
    (n % 12, n / 12 * 512 + b)

/-- The same under the present layout. -/
def State.stackOf (s : State) (o : Nat) : Nat × Nat := s.stackIn s.mode.cur.four o

/-- HBM offset under a layout of granule g of stack h: the inverse of R310. -/
def State.granuleIn (s : State) (four : Bool) (h g : Nat) : Nat :=
  let user := s.sysBase / 12 / 512
  if user ≤ g then s.sysBase + ((g - user) * 12 + h) * 512
  else if four then h / 3 * s.quarter + (g * 3 + h % 3) * 512
  else (g * 12 + h) * 512

/-- Where a change of layout leaves the byte at HBM offset `o`: at the same stack address (R310, R311). -/
def State.remapOffset (s : State) (four four' : Bool) (o : Nat) : Nat :=
  let x := s.stackIn four o
  s.granuleIn four' x.1 (x.2 / 512) + x.2 % 512

/-- Partition that owns an HBM offset of the user area, none for the system area (R321). -/
def State.offsetPart (s : State) (o : Nat) : Option Nat :=
  if s.sysBase ≤ o then none else if s.mode.cur.four then some (o / s.quarter) else some 0

/-- Fields of a global address (R258). -/
def gaSpace (a : BitVec 64) : Nat := bits a.toNat 63 60
def gaDev (a : BitVec 64) : Nat := bits a.toNat 59 57
def gaPart (a : BitVec 64) : Nat := bits a.toNat 56 55
def gaOff (a : BitVec 64) : Nat := bits a.toNat 54 0

/-- A range of SPACE 0 of this device, as an HBM offset. -/
def State.localHbm (s : State) (a : BitVec 64) (n : Nat) : Option Nat :=
  if gaSpace a = 0 ∧ gaDev a = s.mod.pos.val ∧ gaOff a + n ≤ s.hbmCap then some (gaOff a) else none

/-! ### Structures that read as bytes -/

def DState.code : DState → Nat
  | .empty => 0
  | .parked => 1
  | .loading => 2
  | .resident => 3
  | .pinned => 4
  | .training => 5
  | .revoked => 6

/-- The 32 bytes of a directory entry (R158). -/
def State.dirBytes (s : State) (i : Nat) : List Byte :=
  let e := tabGet {} s.dir.entries i
  natLE (e.st.code * 2 ^ 60 + e.owner * 2 ^ 58 + e.tenant.toNat * 2 ^ 32 + e.gen.toNat * 2 ^ 24 + e.pub.toNat * 2 ^ 23
      + e.wait.toNat * 2 ^ 22 + e.refMem) 8
    ++ natLE e.lmask.toNat 8
    ++ natLE (e.ranks.toNat * 2 ^ 40 + e.acode * 2 ^ 36 + e.bcode * 2 ^ 32 + e.epoch.toNat) 8
    ++ natLE (e.loc * 2 ^ 36 + (if e.st = .empty then 0 else (s.digestBase + 64 * i) / 64)) 8

/-- The 64 bytes of a digest record (R158). -/
def State.digestBytes (s : State) (i : Nat) : List Byte :=
  let e := tabGet {} s.dir.entries i
  natLE e.digest.toNat 32 ++ natLE e.src.toNat 8 ++ natLE e.len.toNat 8 ++ natLE 0 16

def WState.code : WState → Nat
  | .free => 0
  | .held => 1
  | .running => 2
  | .ending => 3

/-- The 64 bytes of a record of the replica digest table (R312, R327): record 8,192 × p + k holds the last digest of shard k
of this device's member in partition p, and the time at which it was taken. Its layout is a DESIGN CHOICE, log 16. -/
def State.replicaBytes (s : State) (i : Nat) : List Byte :=
  let key := 2 ^ 16 * (4 * s.mod.pos.val + i / 8192) + i % 8192
  match s.replica.table.find? (·.1 = key) with
  | some e => natLE e.2.1.toNat 32 ++ natLE e.2.2 8 ++ natLE 0 24
  | none => natLE 0 64

/-- Where the model keeps the copy of the repair record, 16 bytes for each entry, in firmware's range (R312, R398). DESIGN
CHOICE, log 16. -/
def State.repairBase (s : State) : Nat := s.digestBase + 0x2000000

/-- The 16 bytes of an entry of the repair record. -/
def State.repairBytes (s : State) (i : Nat) : List Byte :=
  match s.test.repairs[i]? with
  | some r => natLE r.w0.toNat 8 ++ natLE r.w1.toNat 8
  | none => natLE 0 16

/-- The slot status word (R235). -/
def State.slotWord (s : State) (i : Nat) : Nat :=
  let w := tabGet {} s.work.slots i
  w.st.code * 2 ^ 60 + w.gen.toNat

/-- The 16 bytes of a region-table entry (R313). -/
def Region.bytes (r : Region) : List Byte :=
  natLE (r.v.toNat * 2 ^ 63 + r.sec.toNat * 2 ^ 62 + r.owner * 2 ^ 60 + r.baseRo.toNat * 2 ^ 59 + r.noHost.toNat * 2 ^ 58) 8
    ++ natLE (r.base * 2 ^ 32 + r.npg) 8

def Region.ofBytes (n : Nat) : Region :=
  { v := bit n 63, sec := bit n 62, owner := bits n 61 60, baseRo := bit n 59, noHost := bit n 58
    base := bits n 127 96, npg := bits n 95 64 }

/-- The byte that a read of HBM offset `a` delivers. -/
def State.hbmByte (s : State) (a : Nat) : Byte :=
  if a < s.dirBase then tabGet 0 s.hbm a
  else if a < s.dirBase + 0x1000000 then
    (s.dirBytes ((a - s.dirBase) / 32)).getD ((a - s.dirBase) % 32) 0
  else if s.slotBase + 0x400000 ≤ a ∧ a < s.slotBase + 0x420000 then
    (natLE (s.slotWord ((a - s.slotBase - 0x400000) / 8)) 8).getD (a % 8) 0
  else if s.regionBase ≤ a ∧ a < s.regionBase + 0x1000 then
    (tabGet {} s.regions ((a - s.regionBase) / 16)).bytes.getD (a % 16) 0
  else if s.regionBase + 0x200000 ≤ a ∧ a < s.digestBase then
    (s.replicaBytes ((a - s.regionBase - 0x200000) / 64)).getD (a % 64) 0
  else if s.digestBase ≤ a ∧ a < s.repairBase then
    (s.digestBytes ((a - s.digestBase) / 64)).getD (a % 64) 0
  else if s.repairBase ≤ a ∧ a < s.repairBase + 0x10000 then
    (s.repairBytes ((a - s.repairBase) / 16)).getD (a % 16) 0
  else tabGet 0 s.hbm a

/-- `n` bytes of HBM at offset `a`. -/
def State.hbmRead (s : State) (a n : Nat) : List Byte :=
  if a + n ≤ s.sysBase then memRead s.hbm a n else (List.range n).map fun i => s.hbmByte (a + i)

def State.hbmNat (s : State) (a n : Nat) : Nat := leNat (s.hbmRead a n)

/-! ### Errors (R319 to R321) -/

/-- A granule of the range is uncorrectable. -/
def State.hbmBad (s : State) (a n : Nat) : Bool :=
  s.ecc.bad.any fun g => decide (512 * g < a + n) && decide (a < 512 * g + 512)

/-- Rows of stack h that hold the error of granule g: stack, pseudo-channel, row (R323). -/
def State.errorRows (s : State) (h g : Nat) : List (Nat × Nat × Nat) :=
  let e := tabGet ([], 0) s.ecc.errors g
  e.1.map fun pc => (h, pc, e.2)

/-- Log an uncorrectable event with stack, stack address and HBM offset, and count it; its rows are due for a remap (R321,
R323, R331). -/
def State.eccEvent (s : State) (a : Nat) : State :=
  let x := s.stackOf a
  { s with ecc := { s.ecc with
    uncorrectable := tabMod 0 s.ecc.uncorrectable x.1 (· + 1), losses := s.ecc.losses ++ [(s.tsc, x.1)]
    lostRows := s.ecc.lostRows ++ (s.errorRows x.1 (a / 512)).filter (!s.ecc.lostRows.contains ·) } }.emit
    (.log (s.offsetPart a) .uncorrectable [x.1, x.2, a])

/-- A read has corrected the granule: it counts for its stack and for each row that held the error (R319, R323, R331). -/
def State.countCorrected (s : State) (g : Nat) : State :=
  let h := (s.stackOf (512 * g)).1
  { s with ecc := { s.ecc with
    corrected := tabMod 0 s.ecc.corrected h (· + 1)
    hits := s.ecc.hits ++ (s.errorRows h g).map fun r => (s.tsc, r) } }

/-- Granules of a range whose errors a read corrects. -/
def State.softGranules (s : State) (a n : Nat) : List Nat :=
  (s.ecc.errors.map (·.1)).filter fun g =>
    decide (512 * g < a + n) && decide (a < 512 * g + 512) && !s.ecc.bad.contains g

/-- What reads of these ranges correct (R319). -/
def State.noteCorrected (s : State) (l : List (Nat × Nat)) : State :=
  (l.flatMap fun r => s.softGranules r.1 r.2).foldl State.countCorrected s

/-- The first uncorrectable byte that reads of these ranges meet, in their order. -/
def State.firstBadByte (s : State) (l : List (Nat × Nat)) : Option Nat :=
  l.findSome? fun r =>
    match s.ecc.bad.filter fun g => decide (512 * g < r.1 + r.2) && decide (r.1 < 512 * g + 512) with
    | [] => none
    | g :: gs => some (max r.1 (512 * gs.foldl min g))

/-- An operation that read these ranges in their order and ended MEMORY_UNCORRECTABLE: the event is logged (R321). -/
def State.noteReads (s : State) (l : List (Nat × Nat)) : State :=
  match s.firstBadByte l with
  | some o => s.eccEvent o
  | none => s

/-- The same for an operation that ended with a status: without an uncorrectable granule, its reads count what they
corrected. -/
def State.noteFail (s : State) (st : Status) (l : List (Nat × Nat)) : State :=
  if st = St.memoryUncorrectable then s.noteReads l else s.noteCorrected l

/-- A global range as HBM ranges of this device. -/
def State.hbmRange (s : State) (a : BitVec 64) (n : Nat) : List (Nat × Nat) :=
  match s.localHbm a n with
  | some o => [(o, n)]
  | none => []

/-- Errors after a write of [a, a + n): a granule written whole has fresh check bytes, and so has one that the write's
read-modify-write corrected; an uncorrectable granule written in part keeps its error (R320, R321). -/
def Ecc.written (e : Ecc) (a n : Nat) : Ecc :=
  let whole (g : Nat) : Bool := decide (a ≤ 512 * g) && decide (512 * g + 512 ≤ a + n)
  let met (g : Nat) : Bool := decide (512 * g < a + n) && decide (a < 512 * g + 512)
  { e with
    bad := e.bad.filter fun g => !whole g
    errors := e.errors.filter fun x => !(whole x.1 || (met x.1 && !e.bad.contains x.1)) }

/-- Write bytes; every granule rewritten whole is good again (R321). -/
def State.hbmWrite (s : State) (a : Nat) (bs : List Byte) : State :=
  { s with hbm := memWrite s.hbm a bs, ecc := s.ecc.written a bs.length }

/-- First offset of a range that lies in an uncorrectable granule which the range does not cover whole. -/
def State.hbmBarrier (s : State) (a n : Nat) : Option Nat :=
  let hit := s.ecc.bad.filter fun g =>
    decide (512 * g < a + n) && decide (a < 512 * g + 512) && !(decide (a ≤ 512 * g) && decide (512 * g + 512 ≤ a + n))
  match hit with
  | [] => none
  | g :: gs => some (max a (512 * gs.foldl min g))

/-- What the read-modify-writes of a write correct: the granules that it covers in part (R319, R320). -/
def State.noteEdges (s : State) (a n : Nat) : State :=
  if n = 0 then s
  else ((s.softGranules a n).filter fun g => !(decide (a ≤ 512 * g) && decide (512 * g + 512 ≤ a + n))).foldl
    State.countCorrected s

/-- A write by a request or an engine: a partly covered uncorrectable granule ends it, with the granule unchanged and
the bytes below it written (R321). -/
def State.hbmStore (s : State) (a : Nat) (bs : List Byte) : State × Status :=
  match s.hbmBarrier a bs.length with
  | none => ((s.noteEdges a bs.length).hbmWrite a bs, St.ok)
  | some b => (((s.noteEdges a (b - a)).hbmWrite a (bs.take (b - a))).eccEvent b, St.memoryUncorrectable)

/-- A read by an engine: the bytes, unless a granule is uncorrectable (R321). -/
def State.hbmLoad (s : State) (a n : Nat) : Option (List Byte) :=
  if s.hbmBad a n then none else some (s.hbmRead a n)

/-- Zero a range: a scrub writes it whole. -/
def State.hbmZero (s : State) (a n : Nat) : State := { s with hbm := tabClear s.hbm a n, ecc := s.ecc.written a n }

/-! ### The region table (R313 to R316) -/

/-- Who makes an access: world, partition, whether it came in on the host port, whether it is firmware's own. -/
structure Init where
  secure : Bool
  part : Nat
  host : Bool
  fw : Bool
deriving DecidableEq, Repr

/-- Firmware acting for a partition. -/
def Init.firmware (p : Nat) : Init := ⟨true, p, false, true⟩

/-- A job of a partition. -/
def Init.job (p : Nat) (secure : Bool) : Init := ⟨secure, p, false, false⟩

/-- The valid entry that covers a range (entries do not overlap). -/
def State.regionOf (s : State) (a n : Nat) : Option (Nat × Region) :=
  s.regions.find? fun e =>
    e.2.v && decide (0x200000 * e.2.base ≤ a) && decide (a + n ≤ 0x200000 * (e.2.base + e.2.npg))

/-- Rules of the fixed entries (R137, R158, R231, R314, R315): a management core alone reaches its data region, which it
does by local addresses; the directory and the slots go by partition; firmware alone writes the region table and the
digest table; the controllers alone use the spare rows. -/
def State.fixedRule (s : State) (e : Nat) (i : Init) (a n : Nat) (write : Bool) : Option Status :=
  let own (lo size : Nat) : Bool :=
    i.secure || !s.mode.cur.four || (decide (lo + size * i.part ≤ a) && decide (a + n ≤ lo + size * (i.part + 1)))
  match e with
  | 1 => some St.accessDenied
  | 2 => if write then some St.addressInvalid else if own s.dirBase 0x400000 then none else some St.accessDenied
  | 3 =>
    let stat := s.slotBase + 0x400000
    if stat + 0x20000 < a + n then some St.addressInvalid
    else if stat < a + n ∧ write then some St.addressInvalid
    else if own (if a < stat then s.slotBase else stat) (if a < stat then 0x100000 else 0x8000) then none
    else some St.accessDenied
  | 4 | 5 => if write ∧ ¬ i.fw then some St.accessDenied else none
  | 7 => some St.accessDenied
  | _ => none

/-- The checks of R315, in order. -/
def State.regionCheck (s : State) (i : Init) (a n : Nat) (write : Bool) : Option Status :=
  match s.regionOf a n with
  | none => some St.accessDenied
  | some (e, r) =>
    if r.sec ∧ ¬ i.secure ∧ e ≠ 2 then some St.accessDenied
    else if 16 ≤ e ∧ r.owner ≠ i.part then some St.accessDenied
    else if r.noHost ∧ i.host then some St.accessDenied
    else if r.baseRo ∧ write then some St.regionReadOnly
    else s.fixedRule e i a n write

/-- A write of an engine or of firmware at an HBM offset, with the checks of R315 and R321. -/
def State.hbmPut (s : State) (i : Init) (o : Nat) (bs : List Byte) : State × Status :=
  match s.regionCheck i o bs.length true with
  | some st => (s, st)
  | none => s.hbmStore o bs

/-- Writes at HBM offsets in turn, up to the first that is refused. -/
def State.hbmPutAll (s : State) (i : Init) : List (Nat × List Byte) → State × Status
  | [] => (s, St.ok)
  | e :: l =>
    let (s, st) := s.hbmPut i e.1 e.2
    if st ≠ 0 then (s, st) else s.hbmPutAll i l

/-- A range in pieces that each lie in one 2 MiB page, the unit of the region table (R313). -/
def pagePieces (o : Nat) (bs : List Byte) : List (Nat × List Byte) :=
  let n := 0x200000 - o % 0x200000
  (o, bs.take n) :: (chunks 0x200000 (bs.length + 1) (bs.drop n)).zipIdx.map fun e => (o + n + 0x200000 * e.2, e.1)

/-- A write that may span regions. -/
def State.hbmPutLong (s : State) (i : Init) (o : Nat) (bs : List Byte) : State × Status := s.hbmPutAll i (pagePieces o bs)

/-- Go on only where what came before ended with status 0. -/
def andThen (x : State × Status) (f : State → State × Status) : State × Status := if x.2 ≠ 0 then x else f x.1

/-- A range in pages. -/
def pageRanges (o n : Nat) : List (Nat × Nat) :=
  let m := 0x200000 - o % 0x200000
  (o, min n m) :: (List.range ((n - m + 0x1FFFFF) / 0x200000)).map fun k =>
    (o + m + 0x200000 * k, min 0x200000 (n - m - 0x200000 * k))

/-- A read of an engine or of firmware at an HBM offset, with the checks of R315 and R321; it may span regions. -/
def State.hbmGet (s : State) (i : Init) (o n : Nat) : Except Status (List Byte) :=
  match (pageRanges o n).findSome? fun r => s.regionCheck i r.1 r.2 false with
  | some st => .error st
  | none => match s.hbmLoad o n with
    | some bs => .ok bs
    | none => .error St.memoryUncorrectable

/-- Zero a range by writes of firmware (R187). -/
def State.hbmPutZero (s : State) (i : Init) (o n : Nat) : State × Status :=
  match (pageRanges o n).findSome? fun r => s.regionCheck i r.1 r.2 true with
  | some st => (s, st)
  | none => match s.hbmBarrier o n with
    | some b => (((s.noteEdges o (b - o)).hbmZero o (b - o)).eccEvent b, St.memoryUncorrectable)
    | none => ((s.noteEdges o n).hbmZero o n, St.ok)

/-- The eight fixed entries (R312, R314). Entries 2 and 3 carry the rules of their own chapters; entry 3 is
non-secure. -/
def State.fixedRegions (s : State) : Tab Region :=
  let page (off mib : Nat) (sec : Bool) : Region :=
    { v := true, sec := sec, base := (s.sysBase + off) / 0x200000, npg := mib / 2 }
  [(0, page 0 256 true), (1, page 0x10000000 32 true), (2, page 0x12000000 16 true), (3, page 0x13000000 8 false),
    (4, page 0x13800000 2 true), (5, page 0x13A00000 2 true), (6, page 0x13C00000 1028 true), (7, page 0x54000000 192 true)]

/-- A write by an engine of the device or by firmware, with the checks of R315. -/
def State.engineWrite (s : State) (i : Init) (a : BitVec 64) (bs : List Byte) : State × Status :=
  match s.localHbm a bs.length with
  | none => (s, St.addressInvalid)
  | some o => s.hbmPutLong i o bs

/-- A read by an engine of the device, with the checks of R315. -/
def State.engineRead (s : State) (i : Init) (a : BitVec 64) (n : Nat) : Except Status (List Byte) :=
  match s.localHbm a n with
  | none => .error St.addressInvalid
  | some o => s.hbmGet i o n

end Sys2Proof.Machine
end

