-- ==== Sys2Proof/Machine/DirBase.lean ====
section
/-!
DEFINITION. The Adapter Directory's entries, cache lines, images and their records (R152 to R159, R165).
-/

namespace Sys2Proof.Machine

def State.entry (s : State) (i : Nat) : DirEntry := tabGet {} s.dir.entries i

def State.modEntry (s : State) (i : Nat) (f : DirEntry → DirEntry) : State :=
  { s with dir := { s.dir with entries := tabMod {} s.dir.entries i f } }

/-- An index lies in a partition's range; every index is valid in whole-device mode (R159). -/
def State.didxOk (s : State) (p i : Nat) : Bool :=
  decide (i < 524288) && (!s.mode.cur.four || decide (i / 131072 = p))

/-- Indices of a partition. -/
def State.inRange (s : State) (p i : Nat) : Bool := !s.mode.cur.four || decide (i / 131072 = p)

/-- Rank code of a layer group (R158). -/
def DirEntry.rankCode (e : DirEntry) (g : Nat) : Nat := bits e.ranks.toNat (3 * g + 2) (3 * g)

/-- An entry has a published image that a reference may use (R165). -/
def DirEntry.published (e : DirEntry) : Bool :=
  e.st = .resident || e.st = .pinned || (e.st = .training && e.pub)

/-! ### Cache lines (R159) -/

/-- First line number and number of lines that an index may use. -/
def State.linesFor (s : State) (i : Nat) : Nat × Nat :=
  if s.mode.cur.four then (4096 * (i / 131072), 4096) else (0, 16384)

/-- The lowest free line, if one is free. -/
def freeLine (l : List Line) (lo n : Nat) : Option Nat :=
  let usedN := (l.filter fun e => decide (lo ≤ e.num) && decide (e.num < lo + n)).length
  if n ≤ usedN then none
  else (List.range (usedN + 1)).findSome? fun i => if l.any (·.num = lo + i) then none else some (lo + i)

/-- The least recently used line that holds an unreferenced and unpinned entry. -/
def State.victim (s : State) (lo n : Nat) : Option Line :=
  let c := s.dir.lines.filter fun e =>
    decide (lo ≤ e.num) && decide (e.num < lo + n) && (s.entry e.didx).refcnt == 0 && (s.entry e.didx).st != .pinned
  match c with
  | [] => none
  | x :: xs => some (xs.foldl (fun a b => if b.used < a.used then b else a) x)

/-- The walker reads the entry from HBM: it has no line, and a granule that holds it is uncorrectable (R159, R321). -/
def State.walkFails (s : State) (i : Nat) : Bool :=
  s.dir.lines.all (·.didx ≠ i) && s.hbmBad (s.dirBase + 32 * i) 32

/-- The walk that failed: the event is logged (R321). -/
def State.noteWalk (s : State) (i : Nat) : State := s.noteReads [(s.dirBase + 32 * i, 32)]

/-- Line that holds an entry. -/
def State.lineOf (s : State) (i : Nat) : Option Nat := (s.dir.lines.find? (·.didx = i)).map (·.num)

/-- Bring an entry into the cache, evicting the least recently used line if it must; none where every usable line is
referenced or pinned (R159). A line that is evicted writes REFCNT back; an entry that had no line is read from HBM, which
counts what that corrects (R319). -/
def State.takeLine (s : State) (i : Nat) : Option State :=
  let d := s.dir
  let stamp (l : List Line) (num : Nat) : State :=
    { (if d.lines.any (·.didx = i) then s else s.noteCorrected [(s.dirBase + 32 * i, 32)]) with
      dir := { d with lines := ⟨num, i, d.clock⟩ :: l, clock := d.clock + 1 } }
  match d.lines.find? (·.didx = i) with
  | some e => some (stamp (d.lines.filter (·.didx ≠ i)) e.num)
  | none =>
    let (lo, n) := s.linesFor i
    match freeLine d.lines lo n with
    | some num => some (stamp d.lines num)
    | none =>
      match s.victim lo n with
      | none => none
      | some v =>
        some ((stamp (d.lines.filter (·.num ≠ v.num)) v.num).modEntry v.didx fun e => { e with refMem := e.refcnt })

/-! ### Images (R155) -/

/-- A record of an image: its HBM offset and header fields. -/
structure Rec where
  off : Nat
  dIn : Nat
  dOut : Nat
  rank : Nat
  acode : Nat
  bcode : Nat
  point : BitVec 8
  codeA : Nat
deriving DecidableEq, Repr

/-- What reading the record of a layer and group reads: its group-table entry, then its header. -/
def State.recReads (s : State) (img layer group : Nat) : List (Nat × Nat) :=
  let o := bits (s.hbmNat (img + 8 * (8 * layer + group)) 8) 39 0
  (img + 8 * (8 * layer + group), 8) :: (if o = 0 then [] else [(img + o, 16)])

/-- Record of a layer and group in the image at HBM offset `img`; none for a zero offset. -/
def State.imageRec (s : State) (img layer group : Nat) : Option Rec :=
  let o := bits (s.hbmNat (img + 8 * (8 * layer + group)) 8) 39 0
  if o = 0 then none else
  let h := s.hbmNat (img + o) 16
  some ⟨img + o, bits h 31 0, bits h 63 32, bits h 66 64, bits h 75 72, bits h 83 80, BitVec.ofNat 8 (bits h 95 88),
    bits h 99 96⟩

def ceilDiv (a b : Nat) : Nat := (a + b - 1) / b

def Rec.r (k : Rec) : Nat := rankOf k.rank

/-- Offset of A row j. -/
def Rec.aRow (k : Rec) (j : Nat) : Nat := k.off + 16 + j * k.r

/-- Offset of the exponent of channel c. -/
def Rec.ebOff (k : Rec) (c : Nat) : Nat := k.off + 16 + ceilDiv k.dIn 128 * 128 * k.r + c

/-- Offset of the B codes of channel c. -/
def Rec.bRow (k : Rec) (c : Nat) : Nat :=
  k.off + 16 + ceilDiv k.dIn 128 * 128 * k.r + ceilDiv k.dOut 64 * 64 + c * k.r

/-- Bytes of the record. -/
def Rec.size (k : Rec) : Nat := 16 + ceilDiv k.dIn 128 * 128 * k.r + ceilDiv k.dOut 64 * 64 * (1 + k.r)

end Sys2Proof.Machine
end

