-- ==== Sys2Proof/Machine/Emit.lean ====
section
/-!
DEFINITION. The working-copy emitter's arithmetic (R93 to R95, R449): channel scales, codes, counts.
-/

namespace Sys2Proof.Machine

/-- The same minifloat code with the other sign. -/
def Rounded.negCode (r : Rounded) (c : Nat) : Rounded :=
  { r with bits := Nat.xor r.bits (2 ^ (codeWidth c - 1)), val := r.val.neg }

/-- The code of x / q for a scale q that is not zero. A minifloat that clips or flushes takes the sign of the element,
which is not the quotient's under a negative scale (R93). An element −0 is the number 0: its code is +0 and no flush.
DESIGN CHOICE, log 26. -/
def quotCode (c : Nat) (q x : Q) : Rounded :=
  let r := roundCode c (x.div q)
  if q.num < 0 ∧ (r.clip ∨ r.flush) ∧ (codeFmt c).isSome then r.negCode c else r

/-- A number as a code that is not one of R22's special codes, which the emitter never writes (R93): a special code gives
the finite code four below it. -/
def plainCode (c n : Nat) : Nat :=
  let w := n % 2 ^ codeWidth c
  if (codeInt c w).2 then w - 4 else w

/-- One element: its code, its error and its events. A zero or non-finite scale comes from SIN only (R94): v / 0 clips,
0 / 0 is +0, and v / ∞ rounds to a zero with the sign of v and the error −v. DESIGN CHOICE, log 26. For a NaN the spec
states no result, and code and error are free values, the code not a special one (log 26). -/
def elemCode (c : Nat) (s : BitVec 32) (x : Q) (free : Nat) : Rounded × Q :=
  match Fmt.fp32.decode s.toNat with
  | .fin _ q =>
    let r : Rounded :=
      if !q.isZero then quotCode c q x
      else if x.isZero then roundCode c Q.zero
      else roundCode c ((codeMax c).mul (if x.num < 0 then Q.ofInt (-2) else Q.ofInt 2))
    (r, (r.val.mul q).sub x)
  | .inf _ =>
    let r := roundCode c Q.zero
    let r := if x.num < 0 ∧ (codeFmt c).isSome then r.negCode c else r
    ({ r with flush := !x.isZero }, x.neg)
  | .nan => (⟨plainCode c (Config.freeNat (2 * free)), Q.zero, false, false⟩, Q.ofInt (Config.freeNat (2 * free + 1)))

/-- A finite FP32 value. -/
def f32Fin (w : Nat) : Option Q :=
  match Fmt.fp32.decode w with
  | .fin _ x => some x
  | _ => none

/-- Greatest magnitude of a list. -/
def maxAbs (l : List Q) : Q := l.foldl (fun m x => m.max x.abs) Q.zero

def absmaxScale (c : Nat) (ch : List Q) : BitVec 32 :=
  let m := maxAbs ch
  if m.isZero then 0x3F800000 else f32Up (m.div (codeMax c))

/-- Exact sum of squared errors for a scale. -/
def sseOf (c : Nat) (s : BitVec 32) (ch : List Q) : Q :=
  ch.foldl (fun a x => let e := (elemCode c s x 0).2; a.add (e.mul e)) Q.zero

def mse8Scale (c : Nat) (ch : List Q) : BitVec 32 :=
  let s0 := absmaxScale c ch
  let q0 := (f32Scale s0).1
  ((List.range 7).foldl (fun (acc : BitVec 32 × Q) i =>
    let sk := f32Up ((q0.mul (Q.ofInt (15 - (i : Int)))).div (Q.ofInt 16))
    let e := sseOf c sk ch
    if e.lt acc.2 then (sk, e) else acc) (s0, sseOf c s0 ch)).1

/-- What the emitter writes for a matrix: a scale per channel, codes row by row, counts, and whether an element was not
finite. -/
structure EmitOut where
  scales : List (BitVec 32)
  codes : List (List Nat)
  stat : StatUpdate
  nfe : Bool
deriving DecidableEq, Repr

/-- The scale of a channel by SMODE: 0 ABSMAX, 1 MSE8, 2 FIXED. -/
def emitScale (code smode : Nat) (fixed : BitVec 32) (ch : List Nat) : BitVec 32 :=
  match smode with
  | 0 => absmaxScale code (ch.filterMap f32Fin)
  | 1 => mse8Scale code (ch.filterMap f32Fin)
  | _ => fixed

/-- Emit a matrix of FP32 patterns given by rows; `byCol`: one scale per column (AXIS = 1). `free` numbers the free
values of a NaN scale. -/
def emitMatrix (code smode : Nat) (byCol : Bool) (cols : Nat) (m : List (List Nat)) (fixed : Nat → BitVec 32) (free : Nat) :
    EmitOut :=
  let scales :=
    if byCol then (List.range cols).map fun j => emitScale code smode (fixed j) (m.map (·.getD j 0))
    else m.zipIdx.map fun r => emitScale code smode (fixed r.2) r.1
  let scale (i j : Nat) : BitVec 32 := scales.getD (if byCol then j else i) 0
  let step (i : Nat) (acc : List Nat × StatUpdate × Bool) (e : Nat × Nat) : List Nat × StatUpdate × Bool :=
    match f32Fin e.1 with
    | none => (0 :: acc.1, acc.2.1, true)
    | some x =>
      let (r, err) := elemCode code (scale i e.2) x (free + i * cols + e.2)
      (r.bits :: acc.1, acc.2.1.add x err r.clip r.flush, acc.2.2)
  let out := m.zipIdx.foldl (fun (acc : List (List Nat) × StatUpdate × Bool) r =>
    let (l, st, nf) := r.1.zipIdx.foldl (step r.2) ([], acc.2.1, acc.2.2)
    (l.reverse :: acc.1, st, nf)) ([], {}, false)
  ⟨scales, out.1.reverse, out.2.1, out.2.2⟩

end Sys2Proof.Machine
end

