-- ==== Sys2Proof/Machine/Sha.lean ====
section
/-!
DEFINITION. SHA-256, HMAC and HKDF over bytes, and points of P-256 (R163, R226, R227, R344 to R356).
-/

namespace Sys2Proof.Machine

/-- Numbers below 312 without a divisor up to 17 other than themselves: the first 64 primes. -/
def shaPrimes : List Nat :=
  (List.range 312).filter fun n => 2 ≤ n && (List.range 18).all fun d => d < 2 || d == n || n % d != 0

/-- Greatest r, built from its bits below 2^n, with r^k at most v. -/
def rootDown (k v : Nat) : Nat → Nat → Nat
  | 0, r => r
  | n + 1, r => rootDown k v n (if (r + 2 ^ n) ^ k ≤ v then r + 2 ^ n else r)

/-- The first 32 fractional bits of the k-th root of p. -/
def rootBits (k p : Nat) : Nat := rootDown k (p * 2 ^ (32 * k)) 40 0 % 2 ^ 32

/-- A 32-bit word turned right by n. -/
def turn (n x : Nat) : Nat := x / 2 ^ n + 2 ^ (32 - n) * (x % 2 ^ n)

/-- Sum modulo 2 of a word turned by i and by j, and of a third word. -/
def mix (i j x z : Nat) : Nat := ((turn i x).xor (turn j x)).xor z

/-- The eight words that a block changes. -/
structure ShaWords where
  a : Nat
  b : Nat
  c : Nat
  d : Nat
  e : Nat
  f : Nat
  g : Nat
  h : Nat
deriving DecidableEq, Repr

/-- The words before the first block: the square roots of the first 8 primes. -/
def shaStart : ShaWords :=
  let r (i : Nat) : Nat := rootBits 2 (shaPrimes.getD i 0)
  ⟨r 0, r 1, r 2, r 3, r 4, r 5, r 6, r 7⟩

/-- Word by word sums modulo 2^32. -/
def ShaWords.plus (x y : ShaWords) : ShaWords :=
  let s (f : ShaWords → Nat) : Nat := (f x + f y) % 2 ^ 32
  ⟨s (·.a), s (·.b), s (·.c), s (·.d), s (·.e), s (·.f), s (·.g), s (·.h)⟩

/-- One of the 64 steps on a block. The window holds its 16 next message words; the step takes the first and appends one. -/
def shaStep (x : List Nat × ShaWords) (k : Nat) : List Nat × ShaWords :=
  let w (i : Nat) : Nat := x.1.getD i 0
  let v := x.2
  let new := w 0 + mix 7 18 (w 1) (w 1 / 8) + w 9 + mix 17 19 (w 14) (w 14 / 1024)
  let pick := v.g.xor (v.e.land (v.f.xor v.g))
  let most := (v.a.land (v.b.lor v.c)).lor (v.b.land v.c)
  let u := v.h + mix 6 11 v.e (turn 25 v.e) + pick + k + w 0
  (x.1.drop 1 ++ [new % 2 ^ 32],
    ⟨(u + mix 2 13 v.a (turn 22 v.a) + most) % 2 ^ 32, v.a, v.b, v.c, (v.d + u) % 2 ^ 32, v.e, v.f, v.g⟩)

/-- Bytes as a number, most significant first. -/
def bigNat (l : List Byte) : Nat := leNat l.reverse

/-- The low `n` bytes of a number, most significant first. -/
def bigBytes (v n : Nat) : List Byte := (natLE v n).reverse

/-- The message, a one bit, zeros, and its length in bits: whole blocks of 64 bytes. -/
def shaPad (m : List Byte) : List Byte :=
  m ++ 0x80 :: List.replicate ((119 - m.length % 64) % 64) 0 ++ bigBytes (8 * m.length) 8

/-- SHA-256: the 32 bytes of the digest. The step constants are the cube roots of the first 64 primes. -/
def sha256 (m : List Byte) : List Byte :=
  let ks := shaPrimes.map (rootBits 3)
  let l := shaPad m
  let v := (chunks 64 (l.length + 1) l).foldl
    (fun v block => v.plus (ks.foldl shaStep ((chunks 4 17 block).map bigNat, v)).2) shaStart
  [v.a, v.b, v.c, v.d, v.e, v.f, v.g, v.h].flatMap (bigBytes · 4)

/-- HMAC-SHA-256 (RFC 2104). -/
def hmac (key m : List Byte) : List Byte :=
  let k := if 64 < key.length then sha256 key else key
  let k := k ++ List.replicate (64 - k.length) 0
  sha256 (k.map (· ^^^ 0x5C) ++ sha256 (k.map (· ^^^ 0x36) ++ m))

/-- HKDF-SHA-256 (RFC 5869) for an output of 32 bytes. -/
def hkdf32 (ikm salt info : List Byte) : List Byte := hmac (hmac salt ikm) (info ++ [1])

def asciiBytes (t : String) : List Byte := t.toList.map fun c => BitVec.ofNat 8 c.toNat

/-! ### P-256 -/

def p256 : Nat := 0xffffffff00000001000000000000000000000000ffffffffffffffffffffffff
def p256b : Nat := 0x5ac635d8aa3a93e7b3ebbd55769886bc651d06b0cc53b0f63bce3c3e27d2604b

/-- 65 bytes are an uncompressed point on P-256. -/
def pointOk (l : List Byte) : Bool :=
  let x := bigNat ((l.drop 1).take 32)
  let y := bigNat (l.drop 33)
  l.length == 65 && l.head? == some 4 && decide (x < p256) && decide (y < p256)
    && (y * y) % p256 == (x * x * x + (p256 - 3) * x + p256b) % p256

end Sys2Proof.Machine
end

