-- ==== Sys2Proof/Machine/Shard.lean ====
section
/-!
DEFINITION. Shards: headers, banks and components of a state shard, and the serving copy of a matrix (R213, R220, R221,
R226, R228).
-/

namespace Sys2Proof.Machine

/-! ### Headers (R220) -/

/-- Bits [hi:lo] of the header word at byte offset `off`, of a header as one little-endian number. -/
def hdrAt (h off hi lo : Nat) : Nat := bits h (8 * off + hi) (8 * off + lo)

def hAdid (h : Nat) : Nat := hdrAt h 8 63 0
def hLayer (h : Nat) : Nat := hdrAt h 0x10 63 56
def hGroup (h : Nat) : Nat := hdrAt h 0x10 55 53
def hRole (h : Nat) : Nat := hdrAt h 0x10 52 52
def hComp (h : Nat) : Nat := hdrAt h 0x10 51 48
def hCode (h : Nat) : Nat := hdrAt h 0x10 47 44
def hSaxis (h : Nat) : Nat := hdrAt h 0x10 43 42
def hWrap (h : Nat) : Bool := hdrAt h 0x10 41 41 == 1
def hEpoch (h : Nat) : Nat := hdrAt h 0x10 31 0
def hRtot (h : Nat) : Nat := hdrAt h 0x18 63 32
def hCtot (h : Nat) : Nat := hdrAt h 0x18 31 0
def hRow0 (h : Nat) : Nat := hdrAt h 0x20 63 32
def hNrows (h : Nat) : Nat := hdrAt h 0x20 31 0
def hCol0 (h : Nat) : Nat := hdrAt h 0x28 63 32
def hNcols (h : Nat) : Nat := hdrAt h 0x28 31 0
def hPlen (h : Nat) : Nat := hdrAt h 0x30 63 0
def hRule (h : Nat) : Nat := hdrAt h 0x38 63 60
def hMfmt (h : Nat) : Nat := hdrAt h 0x38 59 58
def hDigest (h : Nat) : List Byte := natLE (bits h 767 512) 32

/-- MAGIC, version, HLEN and field values that the table allows. -/
def hdrOk (h : Nat) : Bool :=
  hdrAt h 0 63 32 == 0x54534844 && hdrAt h 0 31 24 == 1 && hdrAt h 0 23 16 == 0 && hdrAt h 0 15 0 == 0x80
    && decide (hLayer h ≤ 63) && (decide (hComp h ≤ 7) || hComp h == 15) && [0, 5, 8, 9].contains (hCode h) && hSaxis h != 3
    && decide (hRule h ≤ 3) && hMfmt h != 3 && (hMfmt h != 0 || hRule h == 1)

/-- Fields of a header that the device writes. -/
structure HdrF where
  adid : Nat
  layer : Nat
  group : Nat
  role : Nat
  comp : Nat
  code : Nat
  saxis : Nat
  wrap : Bool
  epoch : Nat
  rtot : Nat
  ctot : Nat
  row0 : Nat
  nrows : Nat
  plen : Nat
  rule : Nat
  mfmt : Nat
deriving DecidableEq, Repr

/-- Bytes 0x00 to 0x3F. -/
def HdrF.front (f : HdrF) : List Byte :=
  natLE (0x54534844 * 2 ^ 32 + 0x01000080) 8 ++ natLE f.adid 8
    ++ natLE (f.layer * 2 ^ 56 + f.group * 2 ^ 53 + f.role * 2 ^ 52 + f.comp * 2 ^ 48 + f.code * 2 ^ 44 + f.saxis * 2 ^ 42
        + f.wrap.toNat * 2 ^ 41 + f.epoch) 8
    ++ natLE (f.rtot * 2 ^ 32 + f.ctot) 8 ++ natLE (f.row0 * 2 ^ 32 + f.nrows) 8 ++ natLE f.ctot 8 ++ natLE f.plen 8
    ++ natLE (f.rule * 2 ^ 60 + f.mfmt * 2 ^ 58) 8

/-- A header with the digest over its front and the payload. -/
def HdrF.bytes (f : HdrF) (payload : List Byte) : List Byte := f.front ++ sha256 (f.front ++ payload) ++ natLE 0 32

/-! ### State shards (R213, R221) -/

/-- A component of a bank: COMP, rows, columns, bytes per element, offset in the bank. -/
structure Comp where
  comp : Nat
  rows : Nat
  cols : Nat
  width : Nat
  off : Nat
deriving DecidableEq, Repr

/-- Bytes of a moment by MFMT. -/
def mfmtBytes (m : Nat) : Nat := if m = 2 then 2 else 4

/-- Components of a rule without their offsets: COMP, rows, columns, width. -/
def compShapes (rule mfmt role rows cols : Nat) : List (Nat × Nat × Nat × Nat) :=
  let n := if role = 0 then cols else rows
  let d := if role = 0 then rows else cols
  let w := (0, rows, cols, 4)
  let m := (1, rows, cols, mfmtBytes mfmt)
  match rule with
  | 1 => if mfmt = 0 then [w, (2, rows, 1, 4), (3, cols, 1, 4)] else [w, m, (2, rows, 1, 4), (3, cols, 1, 4)]
  | 3 => [w, m, (4, n, n, 4), (5, n, n, 4), (6, d, 1, 4)]
  | _ => [w, m]

/-- Components placed, each at a 256-byte boundary. -/
def placeComps : Nat → List (Nat × Nat × Nat × Nat) → List Comp
  | _, [] => []
  | o, (c, r, k, w) :: l => ⟨c, r, k, w, o⟩ :: placeComps ((o + r * k * w + 255) / 256 * 256) l

def hComps (h : Nat) : List Comp := placeComps 0 (compShapes (hRule h) (hMfmt h) (hRole h) (hRtot h) (hCtot h))

/-- Bytes that the components of a bank take. -/
def bankBytes (l : List Comp) : Nat := l.foldl (fun m c => max m (c.off + c.rows * c.cols * c.width)) 0

/-- A header of a state shard: EPOCH and DIGEST zero, and a bank that holds the rule's components. -/
def stateHdrOk (h : Nat) : Bool :=
  hdrOk h && hComp h == 15 && hCode h == 8 && hNrows h == hRtot h && hNcols h == hCtot h
    && hEpoch h == 0 && bits h 767 512 == 0 && decide (bankBytes (hComps h) ≤ hPlen h)

/-- A state shard found at an HBM offset. -/
structure Shard where
  off : Nat
  h : Nat
  epoch : Nat
deriving DecidableEq, Repr

/-- Offset of bank b: bank 1 follows at the next 4 KiB boundary (R221). DEDUCED, log 27. -/
def Shard.bank (d : Shard) (b : Nat) : Nat :=
  d.off + (if b % 2 = 0 then 0x100 else (0x100 + hPlen d.h + 4095) / 4096 * 4096)

def Shard.live (d : Shard) : Nat := d.bank d.epoch

/-- Bytes that a shard takes. -/
def Shard.size (d : Shard) : Nat := d.bank 1 + hPlen d.h - d.off

def Shard.comp (d : Shard) (c : Nat) : Option Comp := (hComps d.h).find? (·.comp = c)

/-- Read a shard's header and epoch word at a global address, for a partition. -/
def State.shardAt (s : State) (p : Nat) (a : BitVec 64) : Except Status Shard :=
  if a.toNat % 4096 ≠ 0 then .error St.addressInvalid
  else match s.engineRead (Init.job p false) a 256 with
    | .error st => .error st
    | .ok bs =>
      let h := leNat (bs.take 128)
      if stateHdrOk h then .ok ⟨gaOff a, h, leNat ((bs.drop 128).take 4)⟩ else .error St.shardHeaderInvalid

/-- FP32 patterns of a component at an offset, row by row; a BF16 moment widens exactly. -/
def State.readComp (s : State) (i : Init) (o : Nat) (c : Comp) : Except Status (List (List Nat)) :=
  match s.hbmGet i (o + c.off) (c.rows * c.cols * c.width) with
  | .error st => .error st
  | .ok bs =>
    let vals := (chunks c.width (bs.length + 1) bs).map fun b => if c.width = 2 then leNat b * 65536 else leNat b
    .ok (chunks c.cols (c.rows + 1) vals)

/-- FP32 pattern to BF16, to nearest even. -/
def bf16Of (w : Nat) : Nat :=
  match Fmt.fp32.decode w with
  | .fin neg x => Fmt.bf16.ieee x neg
  | .inf neg => if neg then 0xFF80 else 0x7F80
  | .nan => 0x7FC0

/-- Bytes of a component from FP32 patterns. -/
def compBytes (c : Comp) (m : List (List Nat)) : List Byte :=
  m.flatMap fun r => r.flatMap fun v => if c.width = 2 then natLE (bf16Of v) 2 else natLE v 4

/-! ### The serving copy of a matrix (R228) -/

/-- SMODE that OD 6030.05 names; AUTO gives ABSMAX to a copy that no job's tag steers. DEDUCED, log 28. -/
def State.copyMode (s : State) : Nat := if s.odVal 0x603005 2 = 1 then 1 else 0

/-- The export shard with COMP 7 of a matrix's committed W, and what its emission counts. -/
def State.serveShard (s : State) (i : Init) (d : Shard) (code : Nat) : Except Status (List Byte × EmitOut) :=
  match d.comp 0 with
  | none => .error St.shardHeaderInvalid
  | some c =>
    match s.readComp i d.live c with
    | .error st => .error st
    | .ok m =>
      let e := emitMatrix code s.copyMode true c.cols m (fun _ => 0) 0
      let payload := (e.scales.flatMap fun v => natLE v.toNat 4) ++ e.codes.flatMap (·.map fun v => BitVec.ofNat 8 v)
      let f : HdrF := ⟨hAdid d.h, hLayer d.h, hGroup d.h, hRole d.h, 7, code, 2, false, d.epoch, c.rows, c.cols, 0, c.rows,
        payload.length, hRule d.h, hMfmt d.h⟩
      .ok (f.bytes payload ++ payload, e)

end Sys2Proof.Machine
end

