-- ==== Sys2Proof/Machine/Operands.lean ====
section
/-!
DEFINITION. Operand forms of the tile instructions (R60 to R66, R194) and the checks of R59 that need no state.
-/

namespace Sys2Proof.Machine

/-- Opcode of a tile instruction (R60, R61). -/
def tileOpc (w : Nat) : Nat := bits w 127 120

/-- Cell modes (R29). -/
inductive CellMode where
  | four
  | mixed
  | eight
  | wide
deriving DecidableEq, Repr

/-- 4-bit code numbers. -/
def code4 (c : Nat) : Bool := c == 4 || c == 6

/-- Cell mode of a pair; none where R29 rejects it. -/
def cellMode (cs ca : Nat) : Option CellMode :=
  if cs = 7 ∨ ca = 7 then (if cs = ca then some .wide else none)
  else if cs > 7 ∨ ca > 7 then none
  else if code4 cs && code4 ca then some .four
  else if code4 cs || code4 ca then some .mixed
  else some .eight

/-- Fields of a tile.ld (R60, R62). -/
structure LdF where
  code : Nat
  row0 : Nat
  n : Nat
  trn : Bool
  src : Nat
  stride : Nat
deriving DecidableEq, Repr

def LdF.of (w : Nat) : LdF :=
  ⟨bits w 119 116, bits w 95 89, bits w 88 82 + 1, bit w 81, 64 * bits w 80 66, 16 * bits w 65 60⟩

/-- Fields of a tile.run (R60, R63), addresses in bytes. -/
structure RunF where
  cs : Nat
  ca : Nat
  point : Int
  pbits : BitVec 8
  slot : Nat
  acc : Bool
  swap : Bool
  grp : Nat
  mask : Nat
  aslot : Nat
  mode : Nat
  k : Nat
  tpos : Nat
  n : Nat
  src : Nat
  stride : Nat
deriving DecidableEq, Repr

def RunF.of (w : Nat) : RunF :=
  ⟨bits w 119 116, bits w 115 112, sext 8 (bits w 111 104), BitVec.ofNat 8 (bits w 111 104), bits w 103 100, bit w 99,
    bit w 98, bits w 97 96, bits w 95 92, bits w 91 89, bits w 88 86, bits w 85 79 + 1, bits w 78 73, bits w 72 67 + 1,
    64 * bits w 66 52, 16 * bits w 51 46⟩

/-- Fields of a tally.drain (R65), destination in bytes. -/
structure DrainF where
  slot : Nat
  mask : Nat
  tpos : Nat
  n : Nat
  dspc : Nat
  dst : Nat
  dclr : Bool
  rnd : Bool
  fmt : Nat
  br : Nat
  bc : Nat
  tag : Nat
deriving DecidableEq, Repr

def DrainF.of (w : Nat) : DrainF :=
  ⟨bits w 103 100, bits w 95 92, bits w 91 86, bits w 85 80 + 1, bits w 79 78, 16 * bits w 77 56, bit w 55, bit w 54,
    bits w 53 51, bits w 50 45, bits w 44 39, bits w 31 0⟩

/-- Reserved bits of the opcode are all zero (R60 to R66). -/
def tileReservedZero (w : Nat) : Bool :=
  match tileOpc w with
  | 0 | 2 => bits w 119 0 == 0
  | 1 => bits w 115 96 == 0 && bits w 59 0 == 0
  | 3 => bits w 45 0 == 0
  | 4 => bits w 119 104 == 0 && bits w 99 96 == 0 && bits w 38 32 == 0
  | 5 => bits w 119 96 == 0 && bits w 91 64 == 0
  | 6 => bits w 119 32 == 0
  | _ => true

/-- A load is in 4-bit mode when CODE_S is E2M1 or INT4 (R54). -/
def LdF.four (f : LdF) : Bool := code4 f.code

/-- Bytes of one source row that the loader reads (R62, R54). -/
def LdF.rowBytes (f : LdF) : Nat :=
  if f.four then (if f.trn then 32 else 64) else codeBytes f.code 64

def checkLd (w : Nat) : Option Status :=
  let f := LdF.of w
  if f.code > 7 then some St.tileCodeInvalid
  else if !tileReservedZero w || f.stride == 0
      || decide (f.row0 + f.n > (if f.trn && f.four then 128 else 64))
      || decide (f.src + (f.n - 1) * f.stride + f.rowBytes > opbufSize)
    then some St.tileFieldInvalid
  else none

/-- Address of the rank vector that follows a streaming vector at byte address a (R194). -/
def RunF.wAddr (f : RunF) (a : Nat) : Nat := (a + codeBytes f.ca f.k + 63) / 64 * 64

/-- Address of the vector of the run's position number i. -/
def RunF.vAddr (f : RunF) (i : Nat) : Nat := f.src + i * f.stride

def checkGradW (w : Nat) (f : RunF) : Option Status :=
  let k := codeGrid f.ca + codeGrid f.cs - f.point
  if !(f.ca == 0 || f.ca == 1) || !(f.cs == 0 || f.cs == 5) then some St.tileCodeInvalid
  else if k < 0 ∨ k > 32 then some St.tilePointInvalid
  else if !tileReservedZero w || rankOf f.aslot == 0 || f.slot != 0 || f.swap || f.grp != 0 || decide (f.k > 64)
      || decide (f.tpos + f.n > 64) || f.stride == 0
      || (List.range f.n).any fun i =>
        let e := f.wAddr (f.vAddr i) + rankOf f.aslot
        decide (e - f.vAddr i > f.stride) || decide (e > opbufSize)
    then some St.tileFieldInvalid
  else none

/-- Checks 2 to 4 of R59 for a tile.run. An adapter mode of 0b101 to 0b111 fails check 4, since check 2 names R157's
modes only. DEDUCED, log 12. -/
def checkRun (w : Nat) : Option Status :=
  let f := RunF.of w
  if f.cs > 7 ∨ f.ca > 7 then some St.tileCodeInvalid
  else if f.mode = 4 then checkGradW w f
  else
    match cellMode f.cs f.ca with
    | none => some St.tileCodeInvalid
    | some cm =>
      let k := codeGrid f.cs + codeGrid f.ca - f.point
      if cm = .wide ∧ (f.mode = 1 ∨ f.mode = 2) then some St.tileCodeInvalid
      else if k < 0 ∨ k > 32 then some St.tilePointInvalid
      else if !tileReservedZero w || decide (f.mode > 4) || f.grp == 3 || (f.mode == 0 && f.aslot != 0)
          || decide (f.k > (if cm = .four then 128 else 64)) || decide (f.tpos + f.n > 64) || f.stride == 0
          || decide (f.vAddr (f.n - 1) + codeBytes f.ca f.k > opbufSize)
        then some St.tileFieldInvalid
      else none

def checkDrain (w : Nat) : Option Status :=
  let f := DrainF.of w
  if f.fmt = 7 then some St.tileCodeInvalid
  else if !tileReservedZero w || decide (f.tpos + f.n > 64) || decide (f.dspc > 1)
      || (f.dclr && (f.tpos != 0 || f.n != 64))
      || decide (f.dst + f.n * 64 * drainWidth f.fmt > (if f.dspc = 0 then opbufSize else sramSize))
    then some St.tileFieldInvalid
  else none

/-- Checks 1 to 4 of R59. -/
def tileCheck (w : Nat) : Option Status :=
  match tileOpc w with
  | 1 => checkLd w
  | 3 => checkRun w
  | 4 => checkDrain w
  | 0 | 2 | 5 | 6 => if tileReservedZero w then none else some St.tileFieldInvalid
  | _ => some St.tileFieldInvalid

end Sys2Proof.Machine
end

