-- ==== Sys2Proof/Machine/Tile.lean ====
section
/-!
DEFINITION. The tile queue and the matrix core: issue, rejection, loads, swaps, runs, drains, boundaries, the wake
ramp and core sparing (chapters 02, 03, 08 for adapter terms, 09 for GRAD_W).
-/

namespace Sys2Proof.Machine

/-! ### Queue (R58, R59) -/

/-- Leave the queue in order: a tile.end at the head issues and waits for its completion; while a rejected program is
being discarded, everything up to and including its tile.end leaves, and the tile.end keeps the status (R59). -/
def settleQueue : List (BitVec 128) → TileUnit → TileUnit
  | [], u => { u with queue := [] }
  | w :: q, u =>
    let isEnd := tileOpc w.toNat = 6
    let ending (st : Status) : TileUnit :=
      { u with rej := none, mid := false, ends := u.ends ++ [⟨u.seq, BitVec.ofNat 32 w.toNat, st⟩], seq := u.seq + 1, tqout := u.tqout + 1 }
    match u.rej with
    | some st => settleQueue q (if isEnd then ending st else { u with tqout := u.tqout + 1 })
    | none => if isEnd ∧ tileReservedZero w.toNat then settleQueue q (ending St.ok) else { u with queue := w :: q }

def TileUnit.settle (u : TileUnit) : TileUnit := settleQueue u.queue u

/-- Reject the instruction at the head: it and the rest of its program are discarded up to the tile.end (R59). -/
def TileUnit.reject (u : TileUnit) (st : Status) : TileUnit := { u with rej := some st : TileUnit }.settle

/-- The head leaves the queue by issue; it takes the next place in queue order. -/
def TileUnit.pop (u : TileUnit) : TileUnit :=
  { u with queue := u.queue.tail, mid := true, seq := u.seq + 1, tqout := u.tqout + 1 }

/-- Every instruction before place `seq` has completed (R58). -/
def TileUnit.doneBefore (u : TileUnit) (seq : Nat) : Bool :=
  u.loads.all (fun l => decide (seq ≤ l.seq)) && u.runs.all (fun r => decide (seq ≤ r.seq))
    && u.drains.all (fun d => decide (seq ≤ d.seq))

/-- Nothing issued is still in progress. -/
def TileUnit.idle (u : TileUnit) : Bool :=
  u.loads.isEmpty && u.runs.isEmpty && u.drains.isEmpty && u.ends.isEmpty

/-- Between two tile programs: every program that began has ended (R58). -/
def TileUnit.between (u : TileUnit) : Bool := u.idle && !u.mid && u.rej.isNone

/-- At a tile-program boundary with nothing placed, and no vector program queued or running. -/
def Core.quiet (k : Core) : Bool :=
  k.tile.between && k.tile.queue.isEmpty && k.vec.queue.isEmpty && k.vec.prog.isNone

/-! ### Adapter slots as a run sees them (R173) -/

def AdptSlot.d0 (a : AdptSlot) : Nat := bits a.desc.toNat 63 0
def AdptSlot.d1 (a : AdptSlot) : Nat := bits a.desc.toNat 127 64
/-- First chunk CH0 (R170). -/
def AdptSlot.ch0 (a : AdptSlot) : Nat := bits a.d1 31 16
/-- Chunk rows: 64 or 128 (R170 KCH). -/
def AdptSlot.rows (a : AdptSlot) : Nat := if bit a.d1 7 then 128 else 64
def AdptSlot.dpoint (a : AdptSlot) : BitVec 8 := BitVec.ofNat 8 (bits a.d1 63 56)
def AdptSlot.dcodeA (a : AdptSlot) : Nat := bits a.d1 55 52

def Core.slotA (k : Core) (i : Nat) : AdptSlot := tabGet {} k.aslot i

def Core.modSlotA (k : Core) (i : Nat) (f : AdptSlot → AdptSlot) : Core :=
  { k with aslot := tabMod {} k.aslot i f }

/-- Chunk that a run will use: CH0 where it binds the slot, otherwise the cursor, past its own swap (R173). -/
def AdptSlot.runChunk (a : AdptSlot) (swap : Bool) : Nat :=
  if a.bound then a.cursor + swap.toNat else a.ch0

/-- Check 6 of R59, in the order of the table of R173. -/
def adapterCheck (k : Core) (f : RunF) : Option Status :=
  if f.mode = 1 ∨ f.mode = 2 ∨ f.mode = 3 then
    let a := k.slotA f.aslot
    if a.st = .empty ∨ a.st = .fault then some St.adapterSlotFault
    else if a.dpoint ≠ f.pbits ∨ a.dcodeA ≠ f.ca then some St.adapterPointMismatch
    else if a.nch ≠ 0 ∧ a.nch ≤ a.runChunk f.swap then some St.adapterChunkRange
    else if a.rows < f.k then some St.adapterChunkRange
    else if a.gth ≠ decide (f.mode = 2) then some St.adapterSlotFault
    else none
  else none

/-- Checks 5 and 6 of R59. -/
def tileStateCheck (k : Core) (w : Nat) : Option Status :=
  if tileOpc w = 3 then
    let f := RunF.of w
    let have_ := if f.mode = 4 then k.gradst.point else (tabGet {} k.tslot f.slot).point
    if f.acc ∧ have_ ≠ f.pbits then some St.tallyPointMismatch else adapterCheck k f
  else none

/-- Issue the head of a core's queue if its opcode is `opc`: it is checked and rejected, or held (`none`), or it acts on
the state from which it has been popped, with its place in queue order. -/
def tileIssue (r : CoreRef) (opc : Nat) (act : State → Nat → Nat → Nat → Option State) (s : State) : State :=
  match s.phys r.sh r.c with
  | none => s
  | some p =>
    let k := s.core p
    if s.issueHeld r.sh ∨ k.tile.discarding then s else
    let u := k.tile.settle
    let s1 := s.modCore p fun k => { k with tile := u }
    match u.queue with
    | [] => s1
    | w :: _ =>
      let rejected (st : Status) := s.modCore p fun k => { k with tile := u.reject st }
      if tileOpc w.toNat > 6 then rejected St.tileFieldInvalid
      else if tileOpc w.toNat ≠ opc then s1
      else match (tileCheck w.toNat).orElse fun _ => tileStateCheck k w.toNat with
        | some st => rejected st
        | none =>
          match act (s.modCore p fun k => { k with tile := u.pop }) p w.toNat u.seq with
          | some s2 => s2
          | none => s1

/-! ### tile.nop, tile.ld, tile.swap, tile.mask -/

def execTileNop (c : CoreRef) (s : State) : Out :=
  .next (tileIssue c 0 (fun s _ _ _ => some s) s)

/-- Shadow cells that a load writes, keyed 128 × row + column (R54). -/
def loadCells (m : Mem) (f : LdF) : List (Nat × BitVec 12) :=
  (List.range f.n).flatMap fun i =>
    (List.range (if f.four && !f.trn then 128 else 64)).map fun j =>
      (if f.trn then 128 * j + (f.row0 + i) else 128 * (f.row0 + i) + j,
        BitVec.ofNat 12 (codeAt m (f.src + i * f.stride) f.code j))

/-- tile.ld leaves issue at once; its rows are written in the background (R54). -/
def execTileLd (c : CoreRef) (s : State) : Out :=
  .next (tileIssue c 1 (fun s p w seq =>
    some (s.modCore p fun k =>
      { k with tile := { k.tile with loads := k.tile.loads ++ [⟨seq, loadCells k.opbuf (LdF.of w)⟩] } })) s)

/-- The oldest background load writes its rows (R54, R68). -/
def Core.loadDone (k : Core) : Core :=
  match k.tile.loads with
  | [] => k
  | l :: ls =>
    { k with
      shadow := l.cells.foldl (fun t c => tabSet 0 t c.1 c.2) k.shadow
      tile := { k.tile with loads := ls } }

def execTileLdDone (c : CoreRef) (s : State) : Out := .next (s.onCore c.sh c.c Core.loadDone)

/-- A swap copies the shadow plane into the stationary plane and moves the cursor of every bound slot (R55, R173). -/
def Core.swap (k : Core) : Core :=
  { k with
    stationary := k.shadow
    aslot := (k.aslot.map fun e =>
      (e.1, if e.2.bound then { e.2 with cursor := e.2.cursor + 1 } else e.2)) }

/-- A swap waits for every load before it (R55). -/
def execTileSwap (c : CoreRef) (s : State) : Out :=
  .next (tileIssue c 2 (fun s p _ _ =>
    if (s.core p).tile.loads.isEmpty then some (s.modCore p Core.swap) else none) s)

def Core.mask (k : Core) (i : Nat) : BitVec 64 := tabGet (BitVec.allOnes 64) k.maskTab i

def execTileMask (c : CoreRef) (s : State) : Out :=
  .next (tileIssue c 5 (fun s p w _ =>
    some (s.modCore p fun k =>
      { k with maskTab := tabSet (BitVec.allOnes 64) k.maskTab (bits w 95 92) (BitVec.ofNat 64 w) })) s)

/-! ### tile.run (R30 to R35, R50 to R52, R69, R450) -/

/-- Rows of a mask, ascending. -/
def maskRows (m : BitVec 64) : List Nat := (List.range 64).filter fun i => m.getLsbD i

/-- Sum of products of two lists. -/
def dot : List Int → List Int → Int
  | x :: xs, y :: ys => x * y + dot xs ys
  | _, _ => 0

/-- Decoded codes 0 to n − 1 at byte address a, and whether one was special (R24, R25). -/
def codeRow (m : Mem) (a c n : Nat) : List Int × Bool :=
  let l := (List.range n).map fun i => codeInt c (codeAt m a c i)
  (l.map (·.1), l.any (·.2))

/-- Decoded stationary codes of a row, columns below n (R51). A cell holds 12 bits; a run whose CODE_S has another width
than the load had reads the low bits of the same cells. DESIGN CHOICE, log 78. -/
def planeRow (t : Tab (BitVec 12)) (row c n : Nat) : List Int × Bool :=
  let l := (List.range n).map fun j => codeInt c ((tabGet 0 t (128 * row + j)).toNat % 2 ^ codeWidth c)
  (l.map (·.1), l.any (·.2))

/-- The streaming vectors of a run by token position, and whether a special code is among them. -/
def RunF.vectors (f : RunF) (m : Mem) : List (Nat × List Int) × Bool :=
  let l := (List.range f.n).map fun i => (f.tpos + i, codeRow m (f.vAddr i) f.ca f.k)
  (l.map fun e => (e.1, e.2.1), l.any (·.2.2))

/-- Add terms into Tally words, one saturating addition each; the keys are relative to `off` (R35). -/
def addTerms (off : Nat) (t : Tab (BitVec 128)) (l : List (Nat × Int)) : Tab (BitVec 128) × Bool :=
  l.foldl (fun acc e =>
    let (w, b) := tallyAdd (tabGet 0 acc.1 (off + e.1)) e.2
    (tabSet 0 acc.1 (off + e.1) w, acc.2 || b)) (t, false)

/-- Zero the enabled rows of a slot at all 64 positions (R31). -/
def clearRows (t : Tab (BitVec 128)) (off : Nat) (rows : BitVec 64) : Tab (BitVec 128) :=
  tabClearIf t fun key => decide (off ≤ key) && decide (key < off + 4096) && rows.getLsbD ((key - off) / 64)

def Core.modTslot (k : Core) (i : Nat) (f : SlotStatus → SlotStatus) : Core :=
  { k with tslot := tabMod {} k.tslot i f }

/-- A clearing run: enabled rows zeroed, point recorded, LIVE set, flags cleared (R31). -/
def Core.clearSlot (k : Core) (slot : Nat) (rows : BitVec 64) (p : BitVec 8) : Core :=
  { k with
    tally := clearRows k.tally (4096 * slot) rows
    tslot := tabSet {} k.tslot slot (SlotStatus.clear p)
    tadds := k.tadds.filter (· ≠ slot) }

/-- A clear waits for every earlier run into the slot, and for a DCLR clear of it; drains have read at issue (R31, R67). -/
def TileUnit.clearHeld (u : TileUnit) (slot : Nat) : Bool :=
  u.runs.any (fun r => r.grad.isNone && r.slot == slot) || u.drains.any (fun d => d.slot == slot && d.dclr)

/-- Run totals of a base run and its non-finite input flag (R30, R450). -/
def baseTotals (k : Core) (f : RunF) (rows : BitVec 64) : List (Nat × Int) × Bool :=
  let sh := (codeGrid f.cs + codeGrid f.ca - f.point).toNat
  let (xs, xn) := f.vectors k.opbuf
  let rs := maskRows rows
  let ws := rs.map fun i => (i, planeRow k.stationary i f.cs f.k)
  (ws.flatMap fun w => xs.map fun x => (64 * w.1 + x.1, dot w.2.1 x.2 * 2 ^ sh),
    (xn && !rs.isEmpty) || ws.any (·.2.2))

/-- Terms of a GRAD_W run, keyed 64 × row + column, and its non-finite input flag (R194, R195). -/
def gradTerms (m : Mem) (f : RunF) (rows : BitVec 64) : List (Nat × Int) × Bool :=
  let sh := (codeGrid f.cs + codeGrid f.ca - f.point).toNat
  let r := rankOf f.aslot
  let rs := (maskRows rows).filter fun j => decide (j < f.k)
  let zs := (List.range f.n).map fun i => codeRow m (f.vAddr i) f.ca f.k
  let ws := (List.range f.n).map fun i => codeRow m (f.wAddr (f.vAddr i)) f.cs r
  let special (j i : Nat) := (codeInt f.ca (codeAt m (f.vAddr i) f.ca j)).2
  (rs.flatMap fun j => (List.range r).map fun q =>
      (64 * j + q, dot (zs.map fun z => z.1.getD j 0) (ws.map fun w => w.1.getD q 0) * 2 ^ sh),
    !rs.isEmpty && (ws.any (·.2) || rs.any fun j => (List.range f.n).any fun i => special j i))

/-- What a tile.run does in its issue ac, beyond leaving the queue; none while it is held. -/
def runIssue (s : State) (p w seq : Nat) : Option State :=
  let f := RunF.of w
  let k := s.core p
  let rows := k.mask f.mask
  if f.mode = 4 then
    if !f.acc && k.tile.runs.any (·.grad.isSome) then none else
    let (ts, nfi) := gradTerms k.opbuf f rows
    some (s.modCore p fun k =>
      let k := if f.acc then k else
        { k with grad := clearRows k.grad 0 rows, gradst := SlotStatus.clear f.pbits }
      { k with tile := { k.tile with granted := false, runs := k.tile.runs ++ [⟨seq, 0, rows, [], nfi, none, some ts⟩] } })
  else if (f.swap && !k.tile.loads.isEmpty) || (!f.acc && k.tile.clearHeld f.slot) then none
  else
    some (s.modCore p fun k =>
      let k := if f.swap then k.swap else k
      let k := if f.acc then k else k.clearSlot f.slot rows f.pbits
      let (base, nfi) := baseTotals k f rows
      if f.mode = 0 then
        { k with tile := { k.tile with granted := false, runs := k.tile.runs ++ [⟨seq, f.slot, rows, base, nfi, none, none⟩] } }
      else
        let a := k.slotA f.aslot
        let a := if a.bound then a else { a with bound := true, cursor := a.ch0 }
        let k := { k with aslot := tabSet {} k.aslot f.aslot a }
        let gt := if f.mode = 2 then (List.range f.n).map fun i => (f.tpos + i, tabGet 0 k.gather (f.tpos + i)) else []
        let ar : AdptRun := ⟨f.aslot, a.cursor, f.mode == 2, codeGrid f.ca, (f.vectors k.opbuf).1, gt⟩
        { k with tile := { k.tile with granted := false, runs := k.tile.runs ++ [⟨seq, f.slot, rows, base, nfi, some ar, none⟩] } })

/-- The head of the queue is a tile.run that passes its checks. -/
def Core.headIsRun (k : Core) : Bool :=
  match k.tile.settle.queue with
  | w :: _ => tileOpc w.toNat == 3 && ((tileCheck w.toNat).orElse fun _ => tileStateCheck k w.toNat).isNone
  | [] => false

/-- tile.run. `cold`: the core's queue has been empty for 64 ac or more, so the run needs a ramp grant first, which it
asks for here; a core that waits for its wave issues no run before it (R73). A GRAD_W run asks for one as well. DESIGN
CHOICE, log 73. -/
def execTileRun (c : CoreRef) (cold : Bool) (s : State) : Out :=
  let k := s.lcore c.sh c.c
  let i := 8 * c.sh.val + c.c.val
  if (cold || s.power.ramp.contains i) && !k.tile.granted && k.headIsRun && (s.phys c.sh c.c).isSome && !k.tile.discarding then
    .next (if s.power.ramp.contains i then s else { s with power := { s.power with ramp := s.power.ramp ++ [i] } })
  else .next (tileIssue c 3 runIssue s)

/-- The four waiting cores of lowest logical index of a ramp controller, without those of an island whose issue is held
(R73, R381). -/
def rampWave (s : State) (part : Nat) : List Nat :=
  let mine := (List.range 128).filter fun i =>
    s.power.ramp.contains i && (!s.mode.cur.four || decide (i / 32 = part)) && !s.issueHeld (i / 8)
  mine.take 4

/-- One wave of a ramp controller: the one controller, or that of partition `part` in partition mode (R73). A core whose
run has gone from its queue since it asked takes no grant. -/
def execWakeWave (part : Fin 4) (s : State) : Out :=
  let l := rampWave s part
  let s := { s with power := { s.power with ramp := s.power.ramp.filter fun i => !l.contains i } }
  .next (l.foldl (fun s i => s.onCore (i / 8) (i % 8) fun k => { k with tile := { k.tile with granted := k.headIsRun } }) s)

/-! ### tally.drain (R40 to R48, R65, R90, R91, R100) -/

/-- What a conversion run through a drain's words carries. -/
structure DrainAcc where
  lfsr : Nat
  outs : List (Nat × List Byte)
  rowMax : Tab (BitVec 32)
  tokMax : Tab (BitVec 32)
  stat : StatUpdate
  sat : Bool
  nfs : Bool
  dclip : Bool
deriving DecidableEq, Repr

/-- Convert the word of channel c and position t (R40 to R45). -/
def drainWord (k : Core) (f : DrainF) (point : Int) (a : DrainAcc) (t c : Nat) : DrainAcc :=
  let (w, s) := tallyRead (tabGet 0 k.tally (4096 * f.slot + 64 * c + t))
  let width := drainWidth f.fmt
  let dst := f.dst + (t - f.tpos) * 64 * width + c * width
  if f.fmt = 6 then
    { a with outs := a.outs ++ [(dst, natLE (unsext 128 w) 16)], sat := a.sat || s }
  else
    let (sr, n1) := f32Scale (tabGet 0 k.scale.rowScale (64 * f.br + c))
    let (sc, n2) := f32Scale (tabGet 0 k.scale.tokScale (64 * f.bc + t))
    let x := ((Q.ofInt w).mul (Q.pow2 point)).mul (sr.mul sc)
    let lfsr := if f.rnd then srNext a.lfsr else a.lfsr
    let r := if f.rnd then roundStoch f.fmt x (srDraw lfsr) else roundNearest f.fmt x
    let up := f32Up x.abs
    { lfsr := lfsr
      outs := a.outs ++ [(dst, natLE r.bits width)]
      rowMax := tabMod 0 a.rowMax (64 * f.br + c) (f32Max · up)
      tokMax := tabMod 0 a.tokMax (64 * f.bc + t) (f32Max · up)
      stat := a.stat.add x (r.val.sub x) r.clip r.flush
      sat := a.sat || s
      nfs := a.nfs || n1 || n2
      dclip := a.dclip || r.clip }

/-- Convert every enabled word in the order of R47. -/
def drainConvert (k : Core) (f : DrainF) (rows : BitVec 64) : DrainAcc :=
  let st := tabGet {} k.tslot f.slot
  let point : Int := if st.live then st.point.toInt else 0
  let words := (List.range f.n).flatMap fun i => (maskRows rows).map fun c => (f.tpos + i, c)
  words.foldl (fun a e => drainWord k f point a e.1 e.2)
    ⟨srStart k.scale.seed.toNat f.tag, [], k.scale.rowMax, k.scale.tokMax, {}, false, false, false⟩

/-- A held scale load touches an entry of the drain's blocks (R89). -/
def ScaleLoad.touches (l : ScaleLoad) (br bc : Nat) : Bool :=
  let b := if l.tok then 64 * bc else 64 * br
  decide (l.first < b + 64) && decide (b < l.first + l.vals.length)

/-- A drain waits for earlier runs into its slot, for a DCLR clear of it, for loads to its scale blocks, and, when
stochastic, for a held seed write (R67, R89, R148). -/
def drainHeld (k : Core) (f : DrainF) : Bool :=
  k.tile.runs.any (fun r => r.grad.isNone && r.slot == f.slot)
    || k.tile.drains.any (fun d => d.slot == f.slot && d.dclr)
    || k.scale.loads.any (fun l => l.touches f.br f.bc)
    || (f.rnd && k.scale.seedHeld.isSome)

/-- A drain in its issue ac: it converts the words and holds its outputs; its maxima, and the slot's flags, are updated
at once. DESIGN CHOICE, log 90. -/
def drainIssue (s : State) (p w seq : Nat) : Option State :=
  let f := DrainF.of w
  let k := s.core p
  if drainHeld k f then none else
  let rows := k.mask f.mask
  let a := drainConvert k f rows
  some (s.modCore p fun k =>
    let st := tabGet {} k.tslot f.slot
    let st := { st with sat := st.sat || a.sat, nfs := st.nfs || a.nfs, dclip := st.dclip || a.dclip }
    let d : Drain := ⟨seq, f.slot, f.dspc == 1, a.outs, rows, f.dclr, f.fmt, BitVec.ofNat 32 f.tag, f.br, f.bc,
      f.rnd && f.fmt != 6, st.sat, st.nfi, st.nfs, st.dclip, a.stat⟩
    { k with
      tslot := tabSet {} k.tslot f.slot st
      scale := { k.scale with rowMax := a.rowMax, tokMax := a.tokMax }
      tile := { k.tile with drains := k.tile.drains ++ [d] } })

def execTallyDrain (c : CoreRef) (s : State) : Out := .next (tileIssue c 4 drainIssue s)

/-- Loads that no drain in flight holds write their entries; the rest stay (R89). -/
def Core.releaseLoads (k : Core) : Core × List ScaleLoad :=
  let held (l : ScaleLoad) := k.tile.drains.any fun d => l.touches d.br d.bc
  let go := k.scale.loads.filter fun l => !held l
  let sc := go.foldl (fun (sc : ScaleUnit) l =>
    if l.tok then { sc with tokScale := tabSetList 0 sc.tokScale l.first l.vals }
    else { sc with rowScale := tabSetList 0 sc.rowScale l.first l.vals }) k.scale
  ({ k with scale := { sc with loads := k.scale.loads.filter held } }, go)

/-- The slot flags that a completing drain reports: those after its conversion, and, where it clears the slot, those
that came since (R46, R65). -/
def Core.drainReport (k : Core) (d : Drain) : SlotStatus :=
  let st := tabGet {} k.tslot d.slot
  { sat := d.sat || (d.dclr && st.sat), nfi := d.nfi || (d.dclr && st.nfi), nfs := d.nfs || (d.dclr && st.nfs)
    dclip := d.dclip || (d.dclr && st.dclip) }

/-- A drain's completion on its core: step flags, DCLR clear, and the drain leaves the unit (R46, R65). -/
def Core.drainDone (k : Core) (d : Drain) (ds : List Drain) : Core :=
  let st := tabGet {} k.tslot d.slot
  let r := k.drainReport d
  let fl := drainFlags r.sat r.nfi r.nfs
  { k with
    opbuf := if d.toSram then k.opbuf else d.outs.foldl (fun m o => memWrite m o.1 o.2) k.opbuf
    stepf := stepFlagOr k.stepf fl (bits d.tag.toNat 31 20)
    tally := if d.dclr then clearRows k.tally (4096 * d.slot) d.rows else k.tally
    tslot := if d.dclr then tabSet {} k.tslot d.slot st.dclr else k.tslot
    tadds := k.tadds.filter (· ≠ d.slot)
    tile := { k.tile with drains := ds } }

/-- The oldest drain writes its last output (R72): outputs, flags, DCLR clear, statistics, and held scale loads go. The
drain status, DCLIP with SAT, NFI and NFS, goes to the works whose job runs on the shelf (R46, R86, R240). -/
def execDrainComplete (c : CoreRef) (s : State) : Out :=
  match s.phys c.sh c.c with
  | none => .next s
  | some p =>
    match (s.core p).tile.drains with
    | [] => .next s
    | d :: ds =>
      let r := (s.core p).drainReport d
      let (k, go) := ((s.core p).drainDone d ds).releaseLoads
      let s := (s.modCore p fun _ => k).flagWorks c.sh (recordBits r.sat r.nfi r.nfs r.dclip false)
      let s := s.modShelf c.sh fun h =>
        let h := if d.toSram then { h with sram := d.outs.foldl (fun m o => memWrite m o.1 o.2) h.sram } else h
        { h with trims := go.foldl (fun t l => tabMod {} t l.trim (·.retire l.rd 0)) h.trims }
      .next (if d.fmt = 6 then s
        else s.postStat true (s.partOf c.sh) (bits d.tag.toNat 31 20) d.fmt d.stat)

/-! ### tile.end and discards (R58, R77, R146) -/

/-- Completion of a boundary: TLAST, then TENDS (R145). -/
def TileUnit.boundary (u : TileUnit) (ptag : BitVec 32) (st : Status) : TileUnit :=
  { u with tlast := BitVec.ofNat 64 (ptag.toNat * 2 ^ 32 + st.toNat * 2 ^ 16), tends := u.tends + 1 }

/-- The oldest tile.end completes once every earlier instruction has (R58). A tile.end with a reserved bit set is
rejected and ends its own program (R59). -/
def execTileEnd (c : CoreRef) (s : State) : Out :=
  match s.phys c.sh c.c with
  | none => .next s
  | some p =>
    let k := s.core p
    let u := if s.issueHeld c.sh ∨ k.tile.discarding then k.tile else
      let u := k.tile.settle
      match u.queue with
      | w :: _ => if tileOpc w.toNat ≥ 6 then u.reject St.tileFieldInvalid else u
      | [] => u
    let u := match u.ends with
      | e :: es => if u.doneBefore e.seq then { u with ends := es : TileUnit }.boundary e.ptag e.st else u
      | [] => u
    .next (s.modCore p fun k => { k with tile := u })

/-- A core under a discard order is idle: TLAST reads ABORTED with PTAG 0xFFFF_FFFF and TENDS moves on (R77, R146). -/
def execDiscardIdle (c : CoreRef) (s : State) : Out :=
  .next (s.onCore c.sh c.c fun k =>
    if k.tile.discarding && k.tile.idle && k.vec.prog.isNone then
      { k with tile := { k.tile.boundary 0xFFFFFFFF St.aborted with discarding := false } }
    else k)

end Sys2Proof.Machine
end

