-- ==== Sys2Proof/Machine/Float.lean ====
section
/-!
DEFINITION. FP32 arithmetic (R117) and the bounded approximations (R118).
-/

namespace Sys2Proof.Machine

/-- The canonical NaN (R117). -/
def f32NaN : Nat := 0x7FC00000

def f32Inf (neg : Bool) : Nat := if neg then 0xFF800000 else 0x7F800000
def f32Zero (neg : Bool) : Nat := if neg then 0x80000000 else 0

def f32Dec (a : Nat) : Fp := Fmt.fp32.decode a
def f32Enc (x : Q) (negZero : Bool) : Nat := Fmt.fp32.ieee x negZero

/-- A NaN or an infinity. -/
def f32NonFinite (a : Nat) : Bool := decide (0x7F800000 ≤ a % 2 ^ 31)

def f32Neg (a : Nat) : Nat := if a < 2 ^ 31 then a + 2 ^ 31 else a - 2 ^ 31

/-- a × b + c with one rounding. -/
def f32Fma (a b c : Nat) : Nat :=
  match f32Dec a, f32Dec b, f32Dec c with
  | .nan, _, _ | _, .nan, _ | _, _, .nan => f32NaN
  | .inf s, .inf t, .inf u => if Bool.xor s t = u then f32Inf u else f32NaN
  | .inf s, .inf t, .fin _ _ => f32Inf (Bool.xor s t)
  | .inf s, .fin t x, .inf u | .fin t x, .inf s, .inf u =>
    if x.isZero then f32NaN else if Bool.xor s t = u then f32Inf u else f32NaN
  | .inf s, .fin t x, .fin _ _ | .fin t x, .inf s, .fin _ _ => if x.isZero then f32NaN else f32Inf (Bool.xor s t)
  | .fin _ _, .fin _ _, .inf u => f32Inf u
  | .fin s x, .fin t y, .fin u z => f32Enc ((x.mul y).add z) (Bool.xor s t && u)

def f32Add (a b : Nat) : Nat :=
  match f32Dec a, f32Dec b with
  | .nan, _ | _, .nan => f32NaN
  | .inf s, .inf t => if s = t then f32Inf s else f32NaN
  | .inf s, .fin _ _ | .fin _ _, .inf s => f32Inf s
  | .fin s x, .fin t y => f32Enc (x.add y) (s && t)

/-- a − b; a NaN operand gives the canonical NaN. -/
def f32Sub (a b : Nat) : Nat := f32Add a (f32Neg b)

def f32Mul (a b : Nat) : Nat :=
  match f32Dec a, f32Dec b with
  | .nan, _ | _, .nan => f32NaN
  | .inf s, .inf t => f32Inf (Bool.xor s t)
  | .inf s, .fin t x | .fin t x, .inf s => if x.isZero then f32NaN else f32Inf (Bool.xor s t)
  | .fin s x, .fin t y => f32Enc (x.mul y) (Bool.xor s t)

def f32Div (a b : Nat) : Nat :=
  match f32Dec a, f32Dec b with
  | .nan, _ | _, .nan => f32NaN
  | .inf _, .inf _ => f32NaN
  | .inf s, .fin t _ => f32Inf (Bool.xor s t)
  | .fin s _, .inf t => f32Zero (Bool.xor s t)
  | .fin s x, .fin t y =>
    if y.isZero then (if x.isZero then f32NaN else f32Inf (Bool.xor s t))
    else f32Enc (x.div y) (Bool.xor s t)

/-- Newton's iteration for the integer square root, from above. -/
def isqrtStep : Nat → Nat → Nat → Nat
  | 0, _, x => x
  | fuel + 1, n, x =>
    let y := (x + n / x) / 2
    if y < x then isqrtStep fuel n y else x

/-- Integer square root. -/
def isqrt (n : Nat) : Nat := if n = 0 then 0 else isqrtStep (Nat.log2 n + 2) n (2 ^ (Nat.log2 n / 2 + 1))

/-- A rational within 2^-p relative of √x, for x above 0, that lies strictly between the same neighbours of any
coarser grid as √x, or equals it. -/
def Q.sqrt (x : Q) (p : Nat) : Q :=
  let k := p + Nat.log2 x.den + 1
  let n := x.num.natAbs * x.den * 4 ^ k
  let s := isqrt n
  if s * s = n then Q.norm ⟨s, x.den * 2 ^ k⟩ else Q.norm ⟨2 * s + 1, x.den * 2 ^ (k + 1)⟩

def f32Sqrt (a : Nat) : Nat :=
  match f32Dec a with
  | .nan => f32NaN
  | .inf s => if s then f32NaN else a
  | .fin s x => if x.isZero then a else if s then f32NaN else f32Enc (x.sqrt 64) false

/-- Order of FP32 values that are not NaN, −0 below +0: a signed ordinal. -/
def f32Ord (a : Nat) : Int := if a < 2 ^ 31 then (a : Int) else -1 - ((a - 2 ^ 31 : Nat) : Int)

/-- The pattern of an ordinal. -/
def f32OfOrd (o : Int) : Nat := if 0 ≤ o then o.toNat else 2 ^ 31 + (-1 - o).toNat

def f32IsNaN (a : Nat) : Bool := decide (0x7F800000 < a % 2 ^ 31)

/-- Greater of two, a NaN operand ignored (R117). -/
def f32MaxNum (a b : Nat) : Nat :=
  if f32IsNaN a then (if f32IsNaN b then f32NaN else b)
  else if f32IsNaN b then a else if f32Ord a < f32Ord b then b else a

/-- Lesser of two, a NaN operand ignored (R117). -/
def f32MinNum (a b : Nat) : Nat :=
  if f32IsNaN a then (if f32IsNaN b then f32NaN else b)
  else if f32IsNaN b then a else if f32Ord b < f32Ord a then b else a

/-- Equal as values; false with a NaN. -/
def f32Eq (a b : Nat) : Bool := !f32IsNaN a && !f32IsNaN b && (a == b || (a % 2 ^ 31 == 0 && b % 2 ^ 31 == 0))

/-- Less as values; false with a NaN. -/
def f32Lt (a b : Nat) : Bool := !f32IsNaN a && !f32IsNaN b && !f32Eq a b && decide (f32Ord a < f32Ord b)

/-! ### Elementary functions in fixed point (for the bounds of R118 only) -/

/-- One, with 900 fraction bits: every series below is exact to 2^-850, which decides each bound of R118, since no binary32
value comes closer than 2^-450 to a bound that it does not meet. -/
def fxOne : Nat := 2 ^ 900

/-- Terms k, k + 1, … of the exponential series; `t` is term k − 1. -/
def expTerms : Nat → Nat → Nat → Nat → Nat
  | 0, _, _, _ => 0
  | fuel + 1, k, x, t =>
    let t' := t * x / fxOne / k
    t' + expTerms fuel (k + 1) x t'

/-- e^x for x in [0, 1), fixed point. -/
def fxExp (x : Nat) : Nat := fxOne + expTerms 170 1 x fxOne

/-- Terms of Σ z^(2k+1) / (2k+1); `t` is z^(2k+1). -/
def atanhTerms : Nat → Nat → Nat → Nat → Nat
  | 0, _, _, _ => 0
  | fuel + 1, k, z2, t => t / (2 * k + 1) + atanhTerms fuel (k + 1) z2 (t * z2 / fxOne)

/-- ln m for m in [1, 2], as 2 atanh((m − 1) / (m + 1)), fixed point. -/
def fxLn (m : Nat) : Nat :=
  let z := (m - fxOne) * fxOne / (m + fxOne)
  2 * atanhTerms 290 0 (z * z / fxOne) z

def fxLn2 : Nat := fxLn (2 * fxOne)

/-- A number of fixed point as a rational. -/
def fxQ (x : Nat) : Q := ⟨x, fxOne⟩

/-- x in fixed point, for x at least 0. -/
def fxOf (x : Q) : Nat := x.num.natAbs * fxOne / x.den

/-- e^x; results beyond 2^±280 are cut off there. -/
def Q.exp (x : Q) : Q :=
  if (Q.ofInt 190).lt x then Q.pow2 280 else if x.lt (Q.ofInt (-190)) then Q.pow2 (-280) else
  let n := (x.div (fxQ fxLn2)).floor
  (fxQ (fxExp (fxOf (x.sub ((Q.ofInt n).mul (fxQ fxLn2)))))).mul (Q.pow2 n)

/-- 2^x; results beyond 2^±280 are cut off there. -/
def Q.exp2 (x : Q) : Q :=
  if (Q.ofInt 280).lt x then Q.pow2 280 else if x.lt (Q.ofInt (-280)) then Q.pow2 (-280) else
  let n := x.floor
  (fxQ (fxExp (fxOf (x.sub (Q.ofInt n)) * fxLn2 / fxOne))).mul (Q.pow2 n)

/-- log2 x for x above 0. -/
def Q.log2 (x : Q) : Q :=
  let e := x.floorLog2
  (Q.ofInt e).add ((fxQ (fxLn (fxOf (x.mul (Q.pow2 (-e)))))).div (fxQ fxLn2))

/-- A number just below 1, closer to it than any bound of R118 sees. -/
def Q.nearOne : Q := ⟨2 ^ 120 - 1, 2 ^ 120⟩

/-- 1 / (1 + e^−x). -/
def Q.sigm (x : Q) : Q :=
  if (Q.ofInt 80).lt x then Q.nearOne
  else let e := x.exp; e.div ((Q.ofInt 1).add e)

/-- tanh |x|. -/
def Q.tanhAbs (x : Q) : Q :=
  if (Q.ofInt 40).lt x.abs then Q.nearOne
  else let e := (x.abs.add x.abs).exp; (e.sub (Q.ofInt 1)).div (e.add (Q.ofInt 1))

/-! ### The bounded choice (R118) -/

/-- Spacing of binary32 at r, on the subnormal grid below it (R118). -/
def f32Ulp (r : Q) : Q :=
  if r.isZero then Q.pow2 (-149) else
  let e := r.floorLog2
  Q.pow2 ((if e < -126 then -126 else e) - 23)

/-- Least ordinal whose value is at least v. -/
def f32CeilOrd (v : Q) : Int :=
  if v.num > 0 then (Fmt.fp32.up v : Int) else -1 - ((Fmt.fp32.below v.abs).1 : Int)

/-- Greatest ordinal whose value is at most v. -/
def f32FloorOrd (v : Q) : Int :=
  if v.num ≥ 0 then ((Fmt.fp32.below v).1 : Int) else -1 - (Fmt.fp32.up v.abs : Int)

/-- The FP32 value that the device gives for result r, known to 2^-850, with error at most b: some value within the bound and
within ordinals [lo, hi], the same one each time for the same operand (R116, R118). -/
def f32Within (op x : Nat) (r b : Q) (lo hi : Int) : Nat :=
  let slack := (f32Ulp r).mul (Q.pow2 (-400))
  let a := max lo (f32CeilOrd ((r.sub b).sub slack))
  let z := min hi (f32FloorOrd ((r.add b).add slack))
  f32OfOrd (if z < a then a else a + (Config.approx op x : Int) % (z - a + 1))

/-- Largest finite ordinal. -/
def f32MaxOrd : Int := 0x7F7FFFFF
/-- Ordinals of 1 and of −1. -/
def f32OneOrd : Int := 0x3F800000
def f32NegOneOrd : Int := -1 - 0x3F800000

/-- A result r that is not negative within n ulp, +∞ where it overflows. -/
def f32Approx (op x n : Nat) (r : Q) : Nat :=
  if Fmt.fp32.nearest r > Fmt.fp32.max then f32Inf false
  else f32Within op x r ((Q.ofInt n).mul (f32Ulp r)) (-1) f32MaxOrd

/-- vfexp2 -/
def f32Exp2 (a : Nat) : Nat :=
  match f32Dec a with
  | .nan => f32NaN
  | .inf s => if s then 0 else f32Inf false
  | .fin _ x => f32Approx 0x4A a 1 x.exp2

/-- vfexp -/
def f32Exp (a : Nat) : Nat :=
  match f32Dec a with
  | .nan => f32NaN
  | .inf s => if s then 0 else f32Inf false
  | .fin _ x => f32Approx 0x4B a 2 x.exp

/-- vflog2; log2 +∞ is +∞ as IEEE 754 has it (R117). DEDUCED, log 14. -/
def f32Log2 (a : Nat) : Nat :=
  match f32Dec a with
  | .nan => f32NaN
  | .inf s => if s then f32NaN else f32Inf false
  | .fin s x =>
    if x.isZero then f32Inf true
    else if s then f32NaN
    else if a = 0x3F800000 then 0
    else
      let r := x.log2
      let inside := (Q.pow2 (-1)).le x && x.lt (Q.ofInt 2)
      f32Within 0x4C a r (if inside then Q.pow2 (-22) else f32Ulp r) (-1 - f32MaxOrd) f32MaxOrd

/-- vfrcp -/
def f32Rcp (a : Nat) : Nat :=
  match f32Dec a with
  | .nan => f32NaN
  | .inf s => f32Zero s
  | .fin s x =>
    if x.isZero then f32Inf s
    else
      let r := (Q.ofInt 1).div x
      if Fmt.fp32.nearest r.abs > Fmt.fp32.max then f32Inf s
      else f32Within 0x4D a r (f32Ulp r) (-1 - f32MaxOrd) f32MaxOrd

/-- vfrsqrt; 1/√+∞ is +0 as IEEE 754 has it (R117). DEDUCED, log 14. -/
def f32Rsqrt (a : Nat) : Nat :=
  match f32Dec a with
  | .nan => f32NaN
  | .inf s => if s then f32NaN else 0
  | .fin s x =>
    if x.isZero then f32Inf s
    else if s then f32NaN
    else f32Approx 0x4E a 1 (((Q.ofInt 1).div x).sqrt 900)

/-- vftanh -/
def f32Tanh (a : Nat) : Nat :=
  match f32Dec a with
  | .nan => f32NaN
  | .inf s => if s then 0xBF800000 else 0x3F800000
  | .fin s x =>
    let r := if s then x.tanhAbs.neg else x.tanhAbs
    f32Within 0x4F a r ((Q.ofInt 2).mul (f32Ulp r)) f32NegOneOrd f32OneOrd

/-- vfsigm -/
def f32Sigm (a : Nat) : Nat :=
  match f32Dec a with
  | .nan => f32NaN
  | .inf s => if s then 0 else 0x3F800000
  | .fin _ x => let r := x.sigm; f32Within 0x50 a r ((Q.ofInt 2).mul (f32Ulp r)) (-1) f32OneOrd

end Sys2Proof.Machine
end

