-- ==== Sys2Proof/Machine/VecForm.lean ====
section
/-!
DEFINITION. Operand forms of the vector instructions and the field checks of R112 and R113.
-/

namespace Sys2Proof.Machine

/-- Fields of a vector instruction word (R112). -/
structure VF where
  op : Nat
  vd : Nat
  vs1 : Nat
  vs2 : Nat
  vm : Nat
  me : Bool
  sx : Bool
  /-- element width in bits; 64 for the rejected SEW 0b11 -/
  sew : Nat
  imm : Nat
deriving DecidableEq, Repr

def VF.of (w : Nat) : VF :=
  ⟨bits w 63 56, bits w 55 51, bits w 50 46, bits w 45 41, bits w 40 38, bit w 37, bit w 36, 8 * 2 ^ bits w 35 34,
    bits w 31 0⟩

/-- What an operand field names. -/
inductive VUse where
  | none
  | vreg
  | mask
deriving DecidableEq, Repr

/-- How an opcode uses its fields (R113): VD, VS1, VS2, VM as a selector, ME, SX, SEW 32 only, and the bits of IMM that
have a meaning when SX = 0, as their number. -/
structure VForm where
  vd : VUse := .vreg
  vs1 : VUse := .vreg
  vs2 : Bool := false
  sel : Bool := false
  me : Bool := true
  sx : Bool := false
  w32 : Bool := false
  imm : Nat := 0
deriving DecidableEq, Repr

/-- Form of each opcode; none for an undefined one (R113). The mask that vmst stores is taken from VS1[2:0], as for mask
logic. DEDUCED, log 13. -/
def vform (op : Nat) : Option VForm :=
  if op ≤ 0x01 then some { vd := .none, vs1 := .none, me := false }
  else if op = 0x02 then some { vd := .none, vs1 := .none, me := false, imm := 32 }
  else if op = 0x03 then some { vd := .none, vs1 := .none, me := false, sel := true }
  else if op = 0x04 then some { vd := .none, w32 := true, imm := 6 }
  else if op = 0x05 then some { vs1 := .none, w32 := true, imm := 32 }
  else if op = 0x10 then some { vs1 := .none, imm := 32 }
  else if op = 0x11 then some { vd := .none, imm := 32 }
  else if op = 0x12 then some { vs1 := .none, vs2 := true, imm := 32 }
  else if op = 0x13 then some { vd := .none, vs2 := true, imm := 32 }
  else if op = 0x14 then some { vd := .none, vs2 := true, w32 := true, imm := 32 }
  else if op = 0x15 then some { vd := .mask, vs1 := .none, me := false, imm := 32 }
  else if op = 0x16 then some { vd := .none, vs1 := .mask, me := false, imm := 32 }
  else if 0x20 ≤ op ∧ op ≤ 0x2D then some { vs2 := true, sx := true }
  else if op = 0x2E then some { vs2 := true, sx := true, me := false, sel := true }
  else if op = 0x2F then some { vs1 := .none, vs2 := true, sx := true }
  else if op = 0x30 then some { vs1 := .none }
  else if (0x40 ≤ op ∧ op ≤ 0x45) ∨ op = 0x48 then some { vs2 := true, sx := true, w32 := true }
  else if op = 0x46 ∨ op = 0x47 ∨ (0x49 ≤ op ∧ op ≤ 0x50) then some { w32 := true }
  else if op = 0x51 then some { w32 := true, imm := 8 }
  else if 0x60 ≤ op ∧ op ≤ 0x65 then some { vd := .mask, vs2 := true, sx := true }
  else if 0x66 ≤ op ∧ op ≤ 0x69 then some { vd := .mask, vs2 := true, sx := true, w32 := true }
  else if 0x6A ≤ op ∧ op ≤ 0x6D then some { vd := .mask, vs1 := .mask, vs2 := true, me := false }
  else if op = 0x6E then some { vd := .mask, vs1 := .none, me := false, imm := 1 }
  else if 0x70 ≤ op ∧ op ≤ 0x74 then some {}
  else if 0x75 ≤ op ∧ op ≤ 0x77 then some { w32 := true }
  else if 0x80 ≤ op ∧ op ≤ 0x83 then some {}
  else if op = 0x84 ∨ op = 0x85 then some { w32 := true }
  else if op = 0x86 ∨ op = 0x87 ∨ op = 0x89 then some { imm := 3 }
  else if op = 0x88 then some { imm := 3, w32 := true }
  else if op = 0x90 ∨ op = 0x91 then some { me := false, sel := true }
  else if op = 0x92 then some { vs2 := true }
  else if op = 0x93 then some {}
  else none

/-- Formats of vcvt (R118). -/
def cvtKnown (c : Nat) : Bool := decide (c ≤ 5) || c == 8 || c == 9

/-- Checks of one opcode beyond its form: IMM of vsetvl, the formats of vcvt, the kinds of vsum (R113, R118, R129). -/
def vecExtra (f : VF) : Bool :=
  if f.op = 0x02 then decide (f.imm ≤ 256)
  else if f.op = 0x04 then
    decide (f.imm % 16 ≤ 6) && (decide (4 ≤ f.imm % 16) || !f.me)
  else if f.op = 0x51 then
    cvtKnown (f.imm / 16) && cvtKnown (f.imm % 16) && (f.imm / 16 == 0 || f.imm % 16 == 0)
  else true

/-- Field checks of R112: an undefined opcode, a reserved bit, a field the opcode does not use, ME, SX or SEW it does
not take. A field is in use if some form of the opcode uses it: VM may be non-zero with ME = 0. DEDUCED, log 13.
Bits [4:3] of VS1 and VS2 must be zero where they name a mask register, as R112 states it of VD. DESIGN CHOICE, log 89. -/
def vecCheck (w : Nat) : Bool :=
  let f := VF.of w
  match vform f.op with
  | none => false
  | some o =>
    let use (u : VUse) (x : Nat) : Bool := match u with
      | .none => x == 0
      | .vreg => true
      | .mask => decide (x < 8)
    bits w 33 32 == 0 && f.sew != 64 && use o.vd f.vd && use o.vs1 f.vs1
      && (if o.vs2 then (if f.sx then f.vs2 == 0 else (o.vs1 != .mask || decide (f.vs2 < 8))) else f.vs2 == 0)
      && (o.sel || o.me || f.vm == 0) && (o.me || !f.me) && (o.sx || !f.sx) && (!o.w32 || f.sew == 32)
      && (f.sx || decide (f.imm < 2 ^ o.imm)) && vecExtra f

end Sys2Proof.Machine
end

