-- ==== Sys2Proof/Machine/Vector.lean ====
section
/-!
DEFINITION. The vector engine (chapter 06): launches, issue, and every instruction.
-/

namespace Sys2Proof.Machine

/-! ### Registers and lanes (R105, R106, R114) -/

/-- Element i of width w of a register. -/
def elem (v : BitVec 2048) (w i : Nat) : Nat := v.toNat / 2 ^ (w * i) % 2 ^ w

/-- Replace elements from element 0 on; `none` keeps one. -/
def packLanes (w : Nat) (old : Nat) : List (Option Nat) → Nat
  | [] => old
  | o :: l => (o.getD (old % 2 ^ w)) % 2 ^ w + 2 ^ w * packLanes w (old / 2 ^ w) l

def Core.vreg (k : Core) (i : Nat) : BitVec 2048 := tabGet 0 k.vec.v i
def Core.mreg (k : Core) (i : Nat) : BitVec 256 := tabGet 0 k.vec.m i

def Core.onVec (k : Core) (f : Vec → Vec) : Core := { k with vec := f k.vec }

def Core.setV (k : Core) (i w : Nat) (l : List (Option Nat)) : Core :=
  k.onVec fun e => { e with v := tabSet 0 e.v i (BitVec.ofNat 2048 (packLanes w (tabGet 0 e.v i).toNat l)) }

def Core.setM (k : Core) (i : Nat) (l : List (Option Bool)) : Core :=
  k.onVec fun e => { e with
    m := tabSet 0 e.m i (BitVec.ofNat 256 (packLanes 1 (tabGet 0 e.m i).toNat (l.map (·.map Bool.toNat)))) }

/-- VLE = min(VL, VLMAX) (R106). -/
def Core.vle (k : Core) (f : VF) : Nat := min k.vec.vl (2048 / f.sew)

/-- Lane i, below VLE, is active (R114). -/
def Core.lane (k : Core) (f : VF) (i : Nat) : Bool := !f.me || (k.mreg f.vm).getLsbD i

def Core.s1 (k : Core) (f : VF) (i : Nat) : Nat := elem (k.vreg f.vs1) f.sew i

/-- Second source: VS2, or IMM truncated to SEW (R112). -/
def Core.s2 (k : Core) (f : VF) (i : Nat) : Nat :=
  if f.sx then f.imm % 2 ^ f.sew else elem (k.vreg f.vs2) f.sew i

def Core.sd (k : Core) (f : VF) (i : Nat) : Nat := elem (k.vreg f.vd) f.sew i

/-- One value for each lane below VLE, none for the inactive ones. -/
def Core.lanes {α : Type} (k : Core) (f : VF) (g : Nat → α) : List (Option α) :=
  (List.range (k.vle f)).map fun i => if k.lane f i then some (g i) else none

/-- Active lanes of index below VLE. -/
def Core.actives (k : Core) (f : VF) : List Nat := (List.range (k.vle f)).filter fun i => k.lane f i

def Core.orNF (k : Core) (b : Bool) : Core := k.onVec fun e => { e with nf := e.nf || b }

/-! ### Launch and completion (R106 to R110) -/

/-- The program ends: VLAST, then VSEQ, and NF into the step flags under its tensor tag (R109, R110). -/
def Core.endProgram (k : Core) (st : Status) : Core :=
  match k.vec.prog with
  | none => k
  | some g =>
    let e := k.vec
    let fl := e.clip.toNat * 4 + e.oor.toNat * 2 + e.nf.toNat
    { k with
      stepf := stepFlagOr k.stepf (8 * e.nf.toNat) g.ttag.toNat
      vec := { e with
        prog := none
        vlast := BitVec.ofNat 64 (g.ptag.toNat * 2 ^ 32 + st.toNat * 2 ^ 16 + fl)
        vseq := e.vseq + 1 } }

/-- A launch word pushed by a PUT (R107, R108). A word with a bad field is answered VECTOR_FIELD_INVALID also while eight
launches are queued or running. DESIGN CHOICE, log 75. -/
def Core.launch (k : Core) (w : BitVec 64) : Core × Status :=
  let n := k.vec.queue.length + k.vec.prog.isSome.toNat
  if bits w.toNat 17 0 > 0x2FFFF ∨ bits w.toNat 19 18 ≠ 0 then (k, St.vectorFieldInvalid)
  else if n ≥ 8 then (k, St.vectorQueueFull)
  else (k.onVec fun e => { e with queue := e.queue ++ [w] }, St.ok)

/-- A core's program ends, and its NF goes to the works whose job runs on the shelf as well (R110, R240). -/
def State.endProgram (s : State) (sh p : Nat) (st : Status) : State :=
  let e := (s.core p).vec
  (s.modCore p (·.endProgram st)).flagWorks sh (recordBits false false false false (e.prog.isSome && e.nf))

/-- OD 2050.01 Vector permute trap. -/
def State.permuteTrap (s : State) : Bool := s.odVal 0x205001 0 != 0

/-- The next queued program starts: VL is 64, VFLAGS are clear, OD 2050.01 is read (R106, R132). -/
def execVectorProgramStart (c : CoreRef) (s : State) : Out :=
  if s.issueHeld c.sh then .next s else
  .next (s.onCore c.sh c.c fun k =>
    match k.vec.prog, k.vec.queue with
    | none, w :: q =>
      if k.tile.discarding then k else
      k.onVec fun e => { e with
        queue := q, vl := 64, nf := false, oor := false, clip := false
        prog := some ⟨BitVec.ofNat 32 (bits w.toNat 63 32), BitVec.ofNat 12 (bits w.toNat 31 20), bits w.toNat 17 0,
          s.permuteTrap⟩ }
    | _, _ => k)

/-- The instruction word at word address `pc` of the operand buffer; beyond it, a free value (log 15). -/
def Core.vecWord (k : Core) (pc : Nat) : Nat :=
  if 8 * pc + 8 ≤ opbufSize then memNat k.opbuf (8 * pc) 8 else Config.wordBeyond pc % 2 ^ 64

/-- What an issued instruction does: the core after it, the status that ends the program, if it ends it, and what
leaves the core. -/
structure VEffect where
  core : Core
  stop : Option Status := none
  out : State → State := id

/-- Issue the program's next instruction if its opcode is `op`: it is checked and the program ends on a failed check
(R112); or it is held (`none`), or it acts. -/
def vecIssue (c : CoreRef) (op : Nat) (act : Core → VF → Option VEffect) (s : State) : State :=
  match s.phys c.sh c.c with
  | none => s
  | some p =>
    let k := s.core p
    match k.vec.prog with
    | none => s
    | some g =>
      let w := k.vecWord g.pc
      let f := VF.of w
      if s.issueHeld c.sh ∨ k.tile.discarding then s
      else if (vform f.op).isNone then s.endProgram c.sh p St.vectorFieldInvalid
      else if f.op ≠ op then s
      else if !vecCheck w then s.endProgram c.sh p St.vectorFieldInvalid
      else
        match act k f with
        | none => s
        | some e =>
          let s := s.modCore p fun _ => e.core.onVec fun v => { v with prog := some { g with pc := g.pc + 1 } }
          e.out (match e.stop with
            | none => s
            | some st => s.endProgram c.sh p st)

/-- An instruction that always acts and never ends the program. -/
def vecPure (c : CoreRef) (op : Nat) (act : Core → VF → Core) (s : State) : Out :=
  .next (vecIssue c op (fun k f => some ⟨act k f, none, id⟩) s)

def execVnop (c : CoreRef) (s : State) : Out := vecPure c 0x00 (fun k _ => k) s

def execVend (c : CoreRef) (s : State) : Out :=
  .next (vecIssue c 0x01 (fun k _ => some ⟨k, some St.ok, id⟩) s)

def execVsetvl (c : CoreRef) (s : State) : Out :=
  vecPure c 0x02 (fun k f => k.onVec fun e => { e with vl := f.imm }) s

/-- Set bits of a mask below n. -/
def maskCount (m : BitVec 256) (n : Nat) : Nat := ((List.range n).filter fun i => m.getLsbD i).length

def execVsetvlM (c : CoreRef) (s : State) : Out :=
  vecPure c 0x03 (fun k f => k.onVec fun e => { e with vl := maskCount (k.mreg f.vm) (2048 / f.sew) }) s

/-! ### Integer instructions (R115) -/

/-- Element-wise over the active lanes. -/
def vecMap (c : CoreRef) (op : Nat) (g : VF → Nat → Nat → Nat) (s : State) : Out :=
  vecPure c op (fun k f => k.setV f.vd f.sew (k.lanes f fun i => g f (k.s1 f i) (k.s2 f i))) s

/-- Signed reading of an element. -/
def VF.signed (f : VF) (x : Nat) : Int := sext f.sew x

def execVadd (c : CoreRef) (s : State) : Out := vecMap c 0x20 (fun _ a b => a + b) s
def execVsub (c : CoreRef) (s : State) : Out := vecMap c 0x21 (fun f a b => a + 2 ^ f.sew - b) s
def execVmul (c : CoreRef) (s : State) : Out := vecMap c 0x22 (fun _ a b => a * b) s
def execVmin (c : CoreRef) (s : State) : Out :=
  vecMap c 0x23 (fun f a b => if f.signed a ≤ f.signed b then a else b) s
def execVmax (c : CoreRef) (s : State) : Out :=
  vecMap c 0x24 (fun f a b => if f.signed a ≤ f.signed b then b else a) s
def execVminu (c : CoreRef) (s : State) : Out := vecMap c 0x25 (fun _ a b => min a b) s
def execVmaxu (c : CoreRef) (s : State) : Out := vecMap c 0x26 (fun _ a b => max a b) s
def execVand (c : CoreRef) (s : State) : Out := vecMap c 0x27 (fun _ a b => Nat.land a b) s
def execVor (c : CoreRef) (s : State) : Out := vecMap c 0x28 (fun _ a b => Nat.lor a b) s
def execVxor (c : CoreRef) (s : State) : Out := vecMap c 0x29 (fun _ a b => Nat.xor a b) s
def execVsll (c : CoreRef) (s : State) : Out := vecMap c 0x2A (fun f a b => a * 2 ^ (b % f.sew)) s
def execVsrl (c : CoreRef) (s : State) : Out := vecMap c 0x2B (fun f a b => a / 2 ^ (b % f.sew)) s
def execVsra (c : CoreRef) (s : State) : Out :=
  vecMap c 0x2C (fun f a b => unsext f.sew (f.signed a / 2 ^ (b % f.sew))) s

/-- Signed addition that saturates at the limits of SEW (R113). -/
def execVsadd (c : CoreRef) (s : State) : Out :=
  vecMap c 0x2D (fun f a b =>
    let x := f.signed a + f.signed b
    let hi : Int := 2 ^ (f.sew - 1) - 1
    let lo : Int := -(2 ^ (f.sew - 1))
    unsext f.sew (if x > hi then hi else if x < lo then lo else x)) s

def execVmerge (c : CoreRef) (s : State) : Out :=
  vecPure c 0x2E (fun k f =>
    k.setV f.vd f.sew (k.lanes f fun i => if (k.mreg f.vm).getLsbD i then k.s1 f i else k.s2 f i)) s

def execVmv (c : CoreRef) (s : State) : Out := vecMap c 0x2F (fun _ _ b => b) s

def execVid (c : CoreRef) (s : State) : Out :=
  vecPure c 0x30 (fun k f => k.setV f.vd f.sew (k.lanes f id)) s

/-! ### FP32 instructions (R117, R118) -/

/-- Some written value is a NaN or an infinity. -/
def anyNonFinite (l : List (Option Nat)) : Bool :=
  l.any fun o => match o with
    | some a => f32NonFinite a
    | none => false

/-- Element-wise FP32, over first source, second source and old destination; a NaN or infinite result sets NF. -/
def vecFp (c : CoreRef) (op : Nat) (g : Nat → Nat → Nat → Nat) (s : State) : Out :=
  vecPure c op (fun k f =>
    let l := k.lanes f fun i => g (k.s1 f i) (k.s2 f i) (k.sd f i)
    (k.setV f.vd 32 l).orNF (anyNonFinite l)) s

def execVfadd (c : CoreRef) (s : State) : Out := vecFp c 0x40 (fun a b _ => f32Add a b) s
def execVfsub (c : CoreRef) (s : State) : Out := vecFp c 0x41 (fun a b _ => f32Sub a b) s
def execVfmul (c : CoreRef) (s : State) : Out := vecFp c 0x42 (fun a b _ => f32Mul a b) s
def execVfma (c : CoreRef) (s : State) : Out := vecFp c 0x43 (fun a b d => f32Fma a b d) s
def execVfmin (c : CoreRef) (s : State) : Out := vecFp c 0x44 (fun a b _ => f32MinNum a b) s
def execVfmax (c : CoreRef) (s : State) : Out := vecFp c 0x45 (fun a b _ => f32MaxNum a b) s

/-- vfabs and vfneg act on the sign bit only (R113); a NaN or infinite result still sets NF (R117). -/
def execVfabs (c : CoreRef) (s : State) : Out := vecFp c 0x46 (fun a _ _ => a % 2 ^ 31) s
def execVfneg (c : CoreRef) (s : State) : Out := vecFp c 0x47 (fun a _ _ => f32Neg a) s
def execVfdiv (c : CoreRef) (s : State) : Out := vecFp c 0x48 (fun a b _ => f32Div a b) s
def execVfsqrt (c : CoreRef) (s : State) : Out := vecFp c 0x49 (fun a _ _ => f32Sqrt a) s
def execVfexp2 (c : CoreRef) (s : State) : Out := vecFp c 0x4A (fun a _ _ => f32Exp2 a) s
def execVfexp (c : CoreRef) (s : State) : Out := vecFp c 0x4B (fun a _ _ => f32Exp a) s
def execVflog2 (c : CoreRef) (s : State) : Out := vecFp c 0x4C (fun a _ _ => f32Log2 a) s
def execVfrcp (c : CoreRef) (s : State) : Out := vecFp c 0x4D (fun a _ _ => f32Rcp a) s
def execVfrsqrt (c : CoreRef) (s : State) : Out := vecFp c 0x4E (fun a _ _ => f32Rsqrt a) s
def execVftanh (c : CoreRef) (s : State) : Out := vecFp c 0x4F (fun a _ _ => f32Tanh a) s
def execVfsigm (c : CoreRef) (s : State) : Out := vecFp c 0x50 (fun a _ _ => f32Sigm a) s

/-- Width of a vcvt format (R118). -/
def cvtWidth (c : Nat) : Nat :=
  match c with
  | 0 | 8 => 32
  | 1 | 2 | 9 => 16
  | _ => 8

/-- FP32 to format c: the bits, CLIP, NF. A zero keeps its sign where the format has one (R117). DEDUCED, log 13. -/
def cvtFrom32 (c a : Nat) : Nat × Bool × Bool :=
  match f32Dec a with
  | .fin s x =>
    match drainFmt c with
    | some g =>
      let r := g.output x (g.nearest x.abs)
      (if x.isZero && s then 2 ^ g.signBit else r.bits, r.clip, false)
    | none => let r := intOutput (cvtWidth c) x x.roundInt; (r.bits, r.clip, false)
  | _ => (0, false, true)

/-- Format c to FP32: the bits and NF. An integer beyond 24 bits rounds to nearest even (R117). DEDUCED, log 13. -/
def cvtTo32 (c a : Nat) : Nat × Bool :=
  if c = 3 ∨ c = 4 then
    let k := c - 3
    let (n, sp) := codeInt k a
    if sp then (0, true) else (f32Enc ((Q.ofInt n).mul (Q.pow2 (codeGrid k))) (bit a 7), false)
  else match drainFmt c with
  | some g =>
    match g.decode a with
    | .nan => (f32NaN, true)
    | .inf s => (f32Inf s, true)
    | .fin s x => (f32Enc x s, false)
  | none => (f32Enc (Q.ofInt (sext (cvtWidth c) a)) false, false)

def execVcvt (c : CoreRef) (s : State) : Out :=
  vecPure c 0x51 (fun k f =>
    let src := f.imm / 16
    let dst := f.imm % 16
    let l := k.lanes f fun i =>
      let a := elem (k.vreg f.vs1) (cvtWidth src) i
      if src = 0 then cvtFrom32 dst a else let (b, nf) := cvtTo32 src a; (b, false, nf)
    let k := k.setV f.vd (cvtWidth dst) (l.map (·.map (·.1)))
    (k.onVec fun e => { e with clip := e.clip || l.any fun o => (o.map (·.2.1)).getD false }).orNF
      (l.any fun o => (o.map (·.2.2)).getD false)) s

/-! ### Masks (R113, R114) -/

def vecCmp (c : CoreRef) (op : Nat) (g : VF → Nat → Nat → Bool) (s : State) : Out :=
  vecPure c op (fun k f => k.setM f.vd (k.lanes f fun i => g f (k.s1 f i) (k.s2 f i))) s

def execVcmpEq (c : CoreRef) (s : State) : Out := vecCmp c 0x60 (fun _ a b => a == b) s
def execVcmpNe (c : CoreRef) (s : State) : Out := vecCmp c 0x61 (fun _ a b => a != b) s
def execVcmpLt (c : CoreRef) (s : State) : Out := vecCmp c 0x62 (fun f a b => decide (f.signed a < f.signed b)) s
def execVcmpLtu (c : CoreRef) (s : State) : Out := vecCmp c 0x63 (fun _ a b => decide (a < b)) s
def execVcmpLe (c : CoreRef) (s : State) : Out := vecCmp c 0x64 (fun f a b => decide (f.signed a ≤ f.signed b)) s
def execVcmpLeu (c : CoreRef) (s : State) : Out := vecCmp c 0x65 (fun _ a b => decide (a ≤ b)) s
def execVfcmpEq (c : CoreRef) (s : State) : Out := vecCmp c 0x66 (fun _ a b => f32Eq a b) s
def execVfcmpLt (c : CoreRef) (s : State) : Out := vecCmp c 0x67 (fun _ a b => f32Lt a b) s
def execVfcmpLe (c : CoreRef) (s : State) : Out := vecCmp c 0x68 (fun _ a b => f32Lt a b || f32Eq a b) s
def execVfcmpUno (c : CoreRef) (s : State) : Out := vecCmp c 0x69 (fun _ a b => f32IsNaN a || f32IsNaN b) s

def vecMask (c : CoreRef) (op : Nat) (g : Bool → Bool → Bool) (s : State) : Out :=
  vecPure c op (fun k f =>
    k.setM f.vd ((List.range (k.vle f)).map fun i =>
      some (g ((k.mreg f.vs1).getLsbD i) ((k.mreg f.vs2).getLsbD i)))) s

def execVmand (c : CoreRef) (s : State) : Out := vecMask c 0x6A (fun a b => a && b) s
def execVmor (c : CoreRef) (s : State) : Out := vecMask c 0x6B (fun a b => a || b) s
def execVmxor (c : CoreRef) (s : State) : Out := vecMask c 0x6C Bool.xor s
/-- VS1 and not VS2: which source the name complements, R113 does not say. DESIGN CHOICE, log 76. -/
def execVmandn (c : CoreRef) (s : State) : Out := vecMask c 0x6D (fun a b => a && !b) s
def execVmset (c : CoreRef) (s : State) : Out :=
  vecPure c 0x6E (fun k f => k.setM f.vd ((List.range (k.vle f)).map fun _ => some (bit f.imm 0))) s

/-! ### Reductions and scans (R120 to R122) -/

/-- Integer operation by the number of its opcode in its group: add, max, maxu, min, minu. -/
inductive VRedOp where
  | add
  | max
  | maxu
  | min
  | minu
deriving DecidableEq, Repr

/-- Identities of R120. -/
def VRedOp.id (o : VRedOp) (w : Nat) : Nat :=
  match o with
  | .add | .maxu => 0
  | .max => 2 ^ (w - 1)
  | .min => 2 ^ (w - 1) - 1
  | .minu => 2 ^ w - 1

def VRedOp.app (o : VRedOp) (w a b : Nat) : Nat :=
  match o with
  | .add => (a + b) % 2 ^ w
  | .max => if sext w a < sext w b then b else a
  | .maxu => Nat.max a b
  | .min => if sext w b < sext w a then b else a
  | .minu => Nat.min a b

def vecRed (c : CoreRef) (op : Nat) (o : VRedOp) (s : State) : Out :=
  vecPure c op (fun k f =>
    k.setV f.vd f.sew [some ((k.actives f).foldl (fun acc i => o.app f.sew acc (k.s1 f i)) (o.id f.sew))]) s

def execVredAdd (c : CoreRef) (s : State) : Out := vecRed c 0x70 .add s
def execVredMax (c : CoreRef) (s : State) : Out := vecRed c 0x71 .max s
def execVredMaxu (c : CoreRef) (s : State) : Out := vecRed c 0x72 .maxu s
def execVredMin (c : CoreRef) (s : State) : Out := vecRed c 0x73 .min s
def execVredMinu (c : CoreRef) (s : State) : Out := vecRed c 0x74 .minu s

/-- One level of the fixed tree: neighbours combined. -/
def pairUp (op : Nat → Nat → Nat) : List Nat → List Nat
  | a :: b :: l => op a b :: pairUp op l
  | l => l

/-- FP32 reduction over 64 lanes in the fixed tree (R121); `none` is the result with no active lane. -/
def fred (k : Core) (f : VF) (op : Nat → Nat → Nat) (ident empty : Nat) : Nat :=
  if (k.actives f).isEmpty then empty else
  let t := (List.range 64).map fun i => if decide (i < k.vle f) && k.lane f i then k.s1 f i else ident
  (Nat.repeat (pairUp op) 6 t).headD ident

def vecFred (c : CoreRef) (code : Nat) (op : Nat → Nat → Nat) (ident empty : Nat) (s : State) : Out :=
  vecPure c code (fun k f =>
    let r := fred k f op ident empty
    (k.setV f.vd 32 [some r]).orNF (f32NonFinite r)) s

def execVfredAdd (c : CoreRef) (s : State) : Out := vecFred c 0x75 f32Add 0x80000000 0 s
def execVfredMax (c : CoreRef) (s : State) : Out := vecFred c 0x76 f32MaxNum 0xFF800000 0xFF800000 s
def execVfredMin (c : CoreRef) (s : State) : Out := vecFred c 0x77 f32MinNum 0x7F800000 0x7F800000 s

/-- Integer scan over lanes i, i + 1, … (R122). -/
def scanLanes (k : Core) (f : VF) (o : VRedOp) (excl : Bool) (start : Nat → Bool) : List Nat → Nat → List (Option Nat)
  | [], _ => []
  | i :: l, acc =>
    let acc := if start i then o.id f.sew else acc
    if k.lane f i then
      let a := o.app f.sew acc (k.s1 f i)
      some (if excl then acc else a) :: scanLanes k f o excl start l a
    else none :: scanLanes k f o excl start l acc

/-- Segment starts of a segmented form (R122). -/
def segStart (k : Core) (f : VF) (seg : Bool) (i : Nat) : Bool :=
  seg && (i == 0 || (k.mreg f.imm).getLsbD i)

def vecScan (c : CoreRef) (op : Nat) (o : VRedOp) (excl seg : Bool) (s : State) : Out :=
  vecPure c op (fun k f =>
    k.setV f.vd f.sew (scanLanes k f o excl (segStart k f seg) (List.range (k.vle f)) (o.id f.sew))) s

def execVscanAdd (c : CoreRef) (s : State) : Out := vecScan c 0x80 .add false false s
def execVscanxAdd (c : CoreRef) (s : State) : Out := vecScan c 0x81 .add true false s
def execVscanMax (c : CoreRef) (s : State) : Out := vecScan c 0x82 .max false false s
def execVscanMaxu (c : CoreRef) (s : State) : Out := vecScan c 0x83 .maxu false false s
def execVsscanAdd (c : CoreRef) (s : State) : Out := vecScan c 0x86 .add false true s
def execVsscanxAdd (c : CoreRef) (s : State) : Out := vecScan c 0x87 .add true true s
def execVsscanMax (c : CoreRef) (s : State) : Out := vecScan c 0x89 .max false true s

/-- FP32 add scan in ascending lane order; `acc` is none until the segment has an active element (R122). -/
def fscanLanes (k : Core) (f : VF) (excl : Bool) (start : Nat → Bool) : List Nat → Option Nat → List (Option Nat)
  | [], _ => []
  | i :: l, acc =>
    let acc := if start i then none else acc
    if k.lane f i then
      let a := match acc with
        | some x => f32Add x (k.s1 f i)
        | none => k.s1 f i
      some (if excl then acc.getD 0 else a) :: fscanLanes k f excl start l (some a)
    else none :: fscanLanes k f excl start l acc

def vecFscan (c : CoreRef) (op : Nat) (excl seg : Bool) (s : State) : Out :=
  vecPure c op (fun k f =>
    let l := fscanLanes k f excl (segStart k f seg) (List.range (k.vle f)) none
    (k.setV f.vd 32 l).orNF (anyNonFinite l)) s

def execVfscanAdd (c : CoreRef) (s : State) : Out := vecFscan c 0x84 false false s
def execVfscanxAdd (c : CoreRef) (s : State) : Out := vecFscan c 0x85 true false s
def execVfsscanAdd (c : CoreRef) (s : State) : Out := vecFscan c 0x88 false true s

/-! ### Compress, expand, permute, rank, draws (R119, R123 to R125) -/

def execVcompress (c : CoreRef) (s : State) : Out :=
  vecPure c 0x90 (fun k f =>
    k.setV f.vd f.sew (((List.range (k.vle f)).filter fun i => (k.mreg f.vm).getLsbD i).map fun i => some (k.s1 f i))) s

/-- Lanes of an expand: the n-th selected lane takes element n. -/
def expandLanes (k : Core) (f : VF) : List Nat → Nat → List (Option Nat)
  | [], _ => []
  | i :: l, n =>
    if (k.mreg f.vm).getLsbD i then some (k.s1 f n) :: expandLanes k f l (n + 1) else none :: expandLanes k f l n

def execVexpand (c : CoreRef) (s : State) : Out :=
  vecPure c 0x91 (fun k f => k.setV f.vd f.sew (expandLanes k f (List.range (k.vle f)) 0)) s

def execVperm (c : CoreRef) (s : State) : Out :=
  .next (vecIssue c 0x92 (fun k f =>
    let oor := (k.actives f).any fun i => decide (k.vle f ≤ k.s2 f i)
    let k1 := k.onVec fun e => { e with oor := e.oor || oor }
    if oor && (k.vec.prog.map (·.trap)).getD false then some ⟨k1, some St.permuteOutOfRange, id⟩
    else some ⟨k1.setV f.vd f.sew (k.lanes f fun i => if k.s2 f i < k.vle f then k.s1 f (k.s2 f i) else 0), none, id⟩) s)

def execVrank (c : CoreRef) (s : State) : Out :=
  vecPure c 0x93 (fun k f =>
    k.setV f.vd f.sew (k.lanes f fun i =>
      ((k.actives f).filter fun j => decide (j < i) && k.s1 f j == k.s1 f i).length)) s

/-- Draws of lanes 0, 1, … from LFSR state x (R119). -/
def randLanes (k : Core) (f : VF) : List Nat → Nat → List (Option Nat)
  | [], _ => []
  | i :: l, x =>
    let x := srNext x
    (if k.lane f i then some (srDraw x) else none) :: randLanes k f l x

/-- vrand waits while a seed write is held (R148). -/
def execVrand (c : CoreRef) (s : State) : Out :=
  .next (vecIssue c 0x05 (fun k f =>
    if k.scale.seedHeld.isSome then none
    else some ⟨k.setV f.vd 32 (randLanes k f (List.range (k.vle f)) (srStart k.scale.seed.toNat f.imm)), none, id⟩) s)

/-! ### Operand-buffer access (R127) -/

/-- Every address is aligned to w bytes and its element lies in the operand buffer. -/
def addrsOk (w : Nat) (l : List Nat) : Bool := l.all fun a => a % w == 0 && decide (a + w ≤ opbufSize)

/-- Address of lane i: contiguous from IMM, or IMM + vs2[i]. -/
def vecAddr (k : Core) (f : VF) (indexed : Bool) (i : Nat) : Nat :=
  f.imm + (if indexed then elem (k.vreg f.vs2) f.sew i else f.sew / 8 * i)

/-- A vector memory instruction: every address is checked before any byte moves. -/
def vecMem (c : CoreRef) (op : Nat) (indexed : Bool) (act : Core → VF → (Nat → Nat) → Core) (s : State) : Out :=
  .next (vecIssue c op (fun k f =>
    let a := vecAddr k f indexed
    if (indexed || f.imm % (f.sew / 8) == 0) && addrsOk (f.sew / 8) ((k.actives f).map a)
    then some ⟨act k f a, none, id⟩ else some ⟨k, some St.addressInvalid, id⟩) s)

def vecLoad (k : Core) (f : VF) (a : Nat → Nat) : Core :=
  k.setV f.vd f.sew (k.lanes f fun i => memNat k.opbuf (a i) (f.sew / 8))

/-- Stores in ascending lane order: the highest lane stays (R127). -/
def vecStore (k : Core) (f : VF) (a : Nat → Nat) : Core :=
  { k with opbuf := (k.actives f).foldl (fun m i => memPutNat m (a i) (k.s1 f i) (f.sew / 8)) k.opbuf }

def vecScatterAdd (k : Core) (f : VF) (a : Nat → Nat) : Core :=
  { k with opbuf := (k.actives f).foldl (fun m i => memPutNat m (a i) (memNat m (a i) 4 + k.s1 f i) 4) k.opbuf }

def execVld (c : CoreRef) (s : State) : Out := vecMem c 0x10 false vecLoad s
def execVst (c : CoreRef) (s : State) : Out := vecMem c 0x11 false vecStore s
def execVldx (c : CoreRef) (s : State) : Out := vecMem c 0x12 true vecLoad s
def execVstx (c : CoreRef) (s : State) : Out := vecMem c 0x13 true vecStore s
def execVsxadd (c : CoreRef) (s : State) : Out := vecMem c 0x14 true vecScatterAdd s

/-- vmld and vmst move 32 bytes at a 32-byte aligned IMM. -/
def vecMaskMem (c : CoreRef) (op : Nat) (act : Core → VF → Core) (s : State) : Out :=
  .next (vecIssue c op (fun k f =>
    if addrsOk 32 [f.imm] then some ⟨act k f, none, id⟩ else some ⟨k, some St.addressInvalid, id⟩) s)

def execVmld (c : CoreRef) (s : State) : Out :=
  vecMaskMem c 0x15 (fun k f =>
    k.onVec fun e => { e with m := tabSet 0 e.m f.vd (BitVec.ofNat 256 (memNat k.opbuf f.imm 32)) }) s
def execVmst (c : CoreRef) (s : State) : Out :=
  vecMaskMem c 0x16 (fun k f => { k with opbuf := memPutNat k.opbuf f.imm (k.mreg f.vs1).toNat 32 }) s

/-! ### The lead core's summary path (R129, R130) -/

/-- VALUE of a summary of kind n (R129). -/
def sumValue (k : Core) (f : VF) (n : Nat) : Nat :=
  let m := (List.range (k.vle f)).map fun i => (k.mreg f.vm).getLsbD i
  let vs := (k.actives f).map (k.s1 f)
  match n with
  | 0 => (m.any id).toNat
  | 1 => (m.all id).toNat
  | 2 => (m.filter id).length
  | 3 => match m.findIdx? id with
    | some i => i
    | none => 0xFFFFFFFF
  | 4 => vs.foldl (VRedOp.max.app 32) 0x80000000
  | 5 => vs.foldl Nat.max 0
  | _ => match vs with
    | [] => 0xFF800000
    | v :: r => r.foldl f32MaxNum (if f32IsNaN v then f32NaN else v)

/-- The summary word: KIND, SEQ as VSEQ + 1, VALUE (R129). -/
def sumWord (k : Core) (f : VF) : BitVec 64 :=
  let n := f.imm % 16
  BitVec.ofNat 64 (n * 2 ^ 60 + (k.vec.vseq.toNat + 1) % 256 * 2 ^ 48 + sumValue k f n)

/-- vsum: rejected off the lead core, held while the named port has no room, else on its way to the port (R130). -/
def execVsum (c : CoreRef) (s : State) : Out :=
  .next (vecIssue c 0x04 (fun k f =>
    let port := f.imm / 16 % 4
    let t := s.trim c.sh port
    if s.lead c.sh ≠ some c.c.val then some ⟨k, some St.summaryNotLead, id⟩
    else if 16 ≤ t.port.length + t.coming.length then none
    else some ⟨k, none, fun s => s.modTrim c.sh port fun t => { t with coming := t.coming ++ [sumWord k f] }⟩) s)

/-- The oldest summary on its way reaches the port (R130). -/
def execSummaryDeliver (t : TrimRef) (s : State) : Out :=
  .next (s.modTrim t.sh t.k fun r =>
    match r.coming with
    | [] => r
    | w :: l => { r with coming := l, port := r.port ++ [w] })

end Sys2Proof.Machine
end

