-- ==== Sys2Proof/Machine/WorkBase.lean ====
section
/-!
DEFINITION. Work slots and how a work ends: final status, references, discards, dropped Churn commands (R231 to R236,
R246 to R249, R164, R166, R184).
-/

namespace Sys2Proof.Machine

/-! ### Slots (R231, R232) -/

/-- A word of BODY (R237). -/
def Work.body (w : Work) (off : Nat) : Nat := w.at (0x30 + off) 63 0

def Work.group (w : Work) : BitVec 64 := BitVec.ofNat 64 (w.at 8 63 0)
def Work.part (w : Work) : Nat := w.at 0x10 63 58
def Work.npart (w : Work) : Nat := w.at 0x10 57 51
def Work.ctx (w : Work) : Nat := w.at 0x10 15 0

/-- The DA word of a body (R237): its index, its GEN and AV. SERVE holds it at 0x28, TRAIN at 0x18, the others at 0. -/
def Work.da (w : Work) : Nat := w.body (match w.kind with
  | 1 => 0x28
  | 2 => 0x18
  | _ => 0)

def daDidx (d : Nat) : Nat := bits d 18 0
def daGen (d : Nat) : Nat := bits d 55 48
def daAv (d : Nat) : Bool := bit d 63

/-- Work that has not reached its final status (R249). -/
def Work.live (w : Work) : Bool := w.st = .held || w.st = .running

/-- HBM offset of a slot (R231). -/
def State.slotOff (s : State) (i : Nat) : Nat := s.slotBase + 256 * i

/-- Slots that are not FREE. -/
def State.busySlots (s : State) : List Nat := (s.work.slots.filter fun e => e.2.st ≠ .free).map (·.1)

/-! ### Discards (R77, R132, R146) -/

/-- A discard order: unissued tile instructions leave, counted in TQOUT; the vector engine's launches are dropped. -/
def Core.discard (k : Core) : Core :=
  let u := k.tile
  { k with tile := { u with
      queue := [], rej := none, mid := false, granted := false, discarding := true, tqout := u.tqout + BitVec.ofNat 64 u.queue.length } }.onVec
    fun e => { e with queue := [] }

/-- A discard order to a core: its vector program ends ABORTED. The core turns idle by DISCARD_IDLE. -/
def State.discardCore (s : State) (sh p : Nat) : State := (s.modCore p Core.discard).endProgram sh p St.aborted

/-- Firmware discards every core of a shelf (R247). -/
def State.discardShelf (s : State) (sh : Nat) : State :=
  (List.range 8).foldl (fun s c => match s.phys sh c with
    | some p => s.discardCore sh p
    | none => s) s

/-! ### References and waits (R164, R166, R184) -/

/-- A load that no request and no command waits on is abandoned: the entry returns to PARKED (R164). -/
def State.abandonLoad (s : State) (d : Nat) : State :=
  if (s.entry d).st = .loading ∧ (s.entry d).refcnt = 0 ∧ s.dir.loads.all (fun l => l.didx ≠ d || l.cmd.isNone) then
    let s := s.modEntry d fun e => { e with st := .parked }
    { s with dir := { s.dir with loads := s.dir.loads.filter (·.didx ≠ d) } }
  else s

/-- The work's reference goes back (R165, R184). -/
def State.dropRef (s : State) (i : Nat) : State :=
  match (s.wk i).ref with
  | none => s
  | some d =>
    ((s.modWork i fun w => { w with ref := none }).modEntry d fun e => { e with refcnt := e.refcnt - 1 }).abandonLoad d

/-- A command of slot i. -/
def cmdOfSlot (c : DirCmd) (i : Nat) : Bool := c.slot.map (·.val) == some i

/-- What waits for slot i waits no more: a line, a command on an entry or its build, a load (R159, R162, R166). -/
def State.dropDirWaits (s : State) (i : Nat) : State :=
  let d := s.dir
  let mine := (d.waits ++ d.builds).filter fun w => cmdOfSlot w.cmd i
  let loads := d.loads.filter fun l => l.cmd.any (cmdOfSlot · i)
  let s := { s with dir := { d with
    lineWaits := d.lineWaits.filter fun w => match w with
      | .ref j => j ≠ i
      | .cmd c => !cmdOfSlot c i
      | .fill _ _ => true
    waits := d.waits.filter fun w => !cmdOfSlot w.cmd i
    builds := d.builds.filter fun w => !cmdOfSlot w.cmd i
    loads := d.loads.map fun l => if l.cmd.any (cmdOfSlot · i) then { l with cmd := none } else l } }
  let s := mine.foldl (fun s w => s.modEntry w.didx fun e => { e with wait := false }) s
  loads.foldl (fun s l => s.abandonLoad l.didx) s

/-! ### Churn commands of a work (R208, R230, R247) -/

def ringTail (m : Mem) : Nat := memNat m 0xBE1000 8
def ringHead (m : Mem) : Nat := memNat m 0xBE1008 8

/-- Addresses of the state shards of a state area (R222). -/
def State.shardTable (s : State) (area : Nat) : List Nat :=
  let nsh := bits (s.hbmNat (area + 0x18) 8) 15 0
  let tab := gaOff (BitVec.ofNat 64 (s.hbmNat (area + 0x28) 8))
  (List.range (min nsh 1024)).map fun n => s.hbmNat (tab + 8 * n) 8

/-- State area of a TRAIN, EXPORT or IMPORT work (R237). -/
def Work.area (w : Work) : Option Nat :=
  match w.kind with
  | 2 | 4 | 5 => some (gaOff (BitVec.ofNat 64 (w.body 8)))
  | _ => none

/-- Entries of a ring not yet completed whose ARG0 or ARG1 names a shard of the list. -/
def ringOf (m : Mem) (shards : List Nat) : List Nat :=
  ((List.range (ringTail m - ringHead m)).map (· + ringHead m)).filter fun n =>
    let a := 0xBE0000 + 0x80 * (n % 32)
    shards.contains (memNat m (a + 0x10) 8) || shards.contains (memNat m (a + 0x18) 8)

/-- EMIT entries of a ring not yet completed whose completion word, in the body at 0x30, is one of these. -/
def ringEmits (m : Mem) (dones : List Nat) : List Nat :=
  ((List.range (ringTail m - ringHead m)).map (· + ringHead m)).filter fun n =>
    let a := 0xBE0000 + 0x80 * (n % 32)
    memNat m (a + 7) 1 == 1 && dones.contains (memNat m (a + 0x70) 8)

def State.jobOf (s : State) (i : Nat) : Option Job := s.work.jobs.find? (·.slot = i)

/-- Drop the commands of a work from the rings of its partition's shelves: those that name a shard of its state area, and
the emissions of its job's working copies. -/
def State.dropChurn (s : State) (i : Nat) : State :=
  let shards := match (s.wk i).area with
    | none => []
    | some a => s.shardTable a
  let dones := match s.jobOf i with
    | none => []
    | some j => j.copies.map (·.done.toNat)
  (s.shelvesOf (s.slotPart i)).foldl (fun s sh => s.modShelf sh fun h =>
    match ringOf h.sram shards ++ ringEmits h.sram dones with
    | [] => h
    | l => { h with churnDropped := h.churnDropped ++ l }) s

/-! ### The commit record (R222) -/


/-- STATE: 0 COMMITTED, 1 OPEN, 2 PREPARED. -/
def State.recState (s : State) (a : Nat) : Nat := bits (s.hbmNat a 8) 63 60
def State.recKind (s : State) (a : Nat) : Nat := bits (s.hbmNat a 8) 59 56
def State.recEpoch (s : State) (a : Nat) : Nat := bits (s.hbmNat a 8) 31 0
def State.recStepc (s : State) (a : Nat) : Nat := s.hbmNat (a + 8) 8
def State.recStept (s : State) (a : Nat) : Nat := s.hbmNat (a + 0x10) 8
def State.recNsh (s : State) (a : Nat) : Nat := bits (s.hbmNat (a + 0x18) 8) 15 0

/-- The committed epoch of the adaptation. -/
def State.committedEpoch (s : State) (a : Nat) : Nat :=
  if s.recState a = 1 then (s.recEpoch a + 2 ^ 32 - 1) % 2 ^ 32 else s.recEpoch a

/-! ### The end of a work (R249) -/

def State.modJob (s : State) (i : Nat) (f : Job → Job) : State :=
  { s with work := { s.work with jobs := s.work.jobs.map fun j => if j.slot = i then f j else j } }

/-- HBM offset of the state area that a work names, where it lies in the work's partition. -/
def State.areaOf (s : State) (i : Nat) : Option Nat :=
  match s.localHbm (BitVec.ofNat 64 ((s.wk i).body 8)) 64 with
  | some o => if s.offsetPart o = some (s.slotPart i) then some o else none
  | none => none

/-- A PREPARED record of an update step that this job's commit wrote. -/
def State.jobPrepared (s : State) (j : Job) : Bool :=
  match j.commit with
  | some c => c.phase == 1 && c.kind == 0 && s.recState (gaOff j.area) == 2 && s.recKind (gaOff j.area) == 0
      && s.recEpoch (gaOff j.area) == c.target.toNat
  | none => false

/-- Steps that a TRAIN work has committed: a PREPARED step counts (R222, R240, R248). -/
def State.stepsOf (s : State) (i : Nat) : Nat :=
  match s.jobOf i with
  | some j => j.committed + (s.jobPrepared j).toNat
  | none => 0

/-- TOKENS and VALUE of a record, by kind (R237, R240): a status that leaves the descriptor unread uses neither. -/
def State.report_ (s : State) (i : Nat) (st : Status) (w : Work) : Work :=
  let epoch : BitVec 64 := match s.areaOf i with
    | some a => if st = St.workDescInvalid then 0 else BitVec.ofNat 64 (s.committedEpoch a)
    | none => 0
  match w.kind with
  | 1 => { w with value := BitVec.ofNat 64 w.bytes }
  | 2 => { w with tokens := s.stepsOf i, value := epoch }
  | 4 => { w with tokens := 0, value := BitVec.ofNat 64 w.bytes }
  | 5 => { w with tokens := 0, value := epoch }
  | _ => { w with tokens := 0 }

/-- Downtime of `us` microseconds at a lost share of k / 128; after a service-ending event nothing counts (R404, R405). -/
def State.addDown (s : State) (us k : Nat) : State :=
  if s.test.ending = 0 ∧ s.boot ≠ .degraded then { s with test := { s.test with downtime := s.test.downtime + us * k } } else s

/-- Statuses that a fault of the module gives a work: each ending counts 10 ms at share 1 (R404). DEDUCED, log 39. -/
def moduleFault (st : Status) : Bool :=
  st == St.memoryUncorrectable || st == St.coreUnavailable || st == St.combineTargetLost

/-- The final status of a work is fixed: it stops, its staged outputs and waits go, its reference is released, and the
slot is ENDING (R249). A later event changes nothing. -/
def State.endWork (s : State) (i : Nat) (st : Status) (fpart : Nat := 0) (pstat : Status := 0) : State :=
  let w := s.wk i
  if w.live then
    let s := s.modWork i fun w => { s.report_ i st w with
      st := .ending, status := st, tend := s.tsc, fpart := fpart, pstat := pstat, staged := [], gathering := false
      waitLoad := false, handed := false, copying := false, stopped := false, ready := false, copiedHeld := false
      aborting := false, alone := false }
    let s := (s.dropRef i).dropDirWaits i
    let s := if moduleFault st then s.addDown 10000 128 else s
    { s with work := { s.work with jobs := s.work.jobs.filter (·.slot ≠ i) } }
  else s

/-- No other RUNNING work runs on the shelf of work i. -/
def State.aloneOnShelf (s : State) (i : Nat) : Bool :=
  s.work.slots.all fun e => e.1 == i || e.2.st != .running || !e.2.handed || e.2.shelf != (s.wk i).shelf

/-- Operations that nobody waits for any more: a later response finds none (R247). -/
def State.abandonOps (s : State) (f : RemOp → Bool) : State :=
  { s with
    ops := s.ops.filter fun o => !f o
    fabric := { s.fabric with ops := s.fabric.ops.filter fun e => !s.ops.any fun o => o.id == e.1 && f o } }

/-- An operation of the job code of a shelf: one of its trim cores in user mode issued it. -/
def RemOp.ofShelf (o : RemOp) (sh : Nat) : Bool :=
  match o.who with
  | .trim h _ _ => h == sh && !o.secure
  | _ => false

/-- The shelf's share of a stop: its cores discarded, its job code's operations abandoned. -/
def State.stopShelf (s : State) (sh : Nat) : State := (s.discardShelf sh).abandonOps (·.ofShelf sh)

/-- A running work's programs stop (R244, R247): cores discarded, remote operations of its job code abandoned, Churn
commands dropped. A shelf that other works of a batch still run on keeps its programs. DESIGN CHOICE, log 22. -/
def State.stopPrograms (s : State) (i : Nat) : State :=
  let w := s.wk i
  let s := if w.st = .running ∧ w.handed ∧ s.aloneOnShelf i then s.stopShelf w.shelf else s
  let s := if w.kind = 2 ∧ w.st = .running then (s.shelvesOf (s.slotPart i)).foldl State.stopShelf s else s
  s.dropChurn i

/-- A running work stops at once, as for an abort, with the operations of its outputs. -/
def State.stopWork (s : State) (i : Nat) : State := (s.stopPrograms i).abandonOps (·.who = .output i)

/-- Stop a work and fix its status. -/
def State.stopEnd (s : State) (i : Nat) (st : Status) (fpart : Nat := 0) (pstat : Status := 0) : State :=
  if (s.wk i).live then (s.stopWork i).endWork i st fpart pstat else s

end Sys2Proof.Machine
end

