-- ==== Sys2Proof/Machine/Commit.lean ====
section
/-!
DEFINITION. The commit record of a training state, its epoch words, and the restart of an interrupted commit (R221, R222,
R224).
-/

namespace Sys2Proof.Machine

/-! ### Writes of the record (R222) -/

/-- One atomic write of word 0x00, by firmware for partition p. -/
def State.putRec (s : State) (p a st kind epoch : Nat) : State × Status :=
  s.hbmPut (Init.firmware p) a (natLE (st * 2 ^ 60 + kind * 2 ^ 56 + epoch % 2 ^ 32) 8)

/-- One atomic write of another word of the record. -/
def State.putStep (s : State) (p a off n : Nat) : State × Status := s.hbmPut (Init.firmware p) (a + off) (natLE n 8)

/-! ### Epoch words (R221) -/

/-- Epoch word of a shard at a global address. -/
def State.shardEpoch (s : State) (a : Nat) : Nat := s.hbmNat (gaOff (BitVec.ofNat 64 a) + 0x80) 8 % 2 ^ 32

def State.putEpoch (s : State) (p a e : Nat) : State × Status :=
  s.hbmPut (Init.firmware p) (gaOff (BitVec.ofNat 64 a) + 0x80) (natLE (e % 2 ^ 32) 8)

/-- Every shard of the list that stands at one epoch moves to another, up to the first write that is refused. -/
def State.moveEpochs (p from_ to_ : Nat) : List Nat → State → State × Status
  | [], s => (s, St.ok)
  | a :: l, s =>
    andThen (if s.shardEpoch a = from_ % 2 ^ 32 then s.putEpoch p a to_ else (s, St.ok)) (State.moveEpochs p from_ to_ l)

/-! ### The restart (R224) -/

/-- E of R224: the record's EPOCH, less 1 while it is OPEN or PREPARED. -/
def State.recBase (s : State) (a : Nat) : Nat :=
  if s.recState a = 1 ∨ s.recState a = 2 then (s.recEpoch a + 2 ^ 32 - 1) % 2 ^ 32 else s.recEpoch a

/-- Every shard of the record stands at E or at E + 1. -/
def State.recSound (s : State) (a : Nat) : Bool :=
  (s.shardTable a).all fun q => s.shardEpoch q = s.recBase a || s.shardEpoch q = (s.recBase a + 1) % 2 ^ 32

/-- The restart of a record: an OPEN one rolls back, a PREPARED one forward; a shard at neither epoch stops it with
nothing written. A record that rolls back reads COMMITTED with KIND 0 (DEDUCED, log 30). A write that is refused ends it
with that write's status. -/
def State.restartRecord (s : State) (p a : Nat) : State × Status :=
  let l := s.shardTable a
  let e := s.recBase a
  let t := (e + 1) % 2 ^ 32
  if !s.recSound a then (s, St.shardEpochMismatch)
  else match s.recState a with
    | 1 =>
      let moved := l.any fun q => s.shardEpoch q = t
      andThen (State.moveEpochs p t e l s) fun s =>
      andThen (s.putRec p a 0 0 e) fun s =>
        (if moved then s.emit (.log (some p) .flaggedStep [a, e]) else s, St.ok)
    | 2 =>
      andThen (State.moveEpochs p e t l s) fun s =>
      andThen (s.putStep p a 8 (s.recStept a)) fun s => s.putRec p a 0 (s.recKind a) t
    | _ => (s, St.ok)

end Sys2Proof.Machine
end

