-- ==== Sys2Proof/Machine/Build.lean ====
section
/-!
DEFINITION. Images built from serving copies (R153 to R155, R163) and transposed images (R189), and the adapter pools.
-/

namespace Sys2Proof.Machine

/-! ### The base map (R153) -/

structure BaseRec where
  srow : BitVec 64
  dOut : Nat
  dIn : Nat
  point : Int
  codeA : Nat
  codeW : Nat
  ok : Bool
deriving DecidableEq, Repr

/-- Fields and checks of a record, 32 bytes as a number (R154). -/
def BaseRec.of (n : Nat) : BaseRec :=
  let dOut := hdrAt n 8 63 32
  let dIn := hdrAt n 8 31 0
  let codeA := hdrAt n 0x10 55 52
  let codeW := hdrAt n 0x10 51 48
  { srow := BitVec.ofNat 64 (bits n 63 0), dOut := dOut, dIn := dIn, point := sext 8 (hdrAt n 0x10 63 56), codeA := codeA
    codeW := codeW
    ok := decide (1 ≤ dOut ∧ dOut ≤ 32768 ∧ 1 ≤ dIn ∧ dIn ≤ 1048576 ∧ codeA ≤ 7 ∧ codeW ≤ 7)
      && hdrAt n 0x10 47 0 == 0 && hdrAt n 0x18 63 0 == 0 }

/-- Record of a layer and group in the partition's base map. -/
def State.baseRec (s : State) (p layer group : Nat) : Except Status BaseRec :=
  let a := s.odVal (0x503001 + p) 0 + 32 * (8 * layer + group)
  match s.engineRead (Init.firmware p) (BitVec.ofNat 64 a) 32 with
  | .error st => .error st
  | .ok bs => .ok (BaseRec.of (leNat bs))

/-- Base row scales of a record: none where one is zero or not finite. -/
def State.baseScales (s : State) (p : Nat) (b : BaseRec) : Except Status (List Q) :=
  match s.engineRead (Init.firmware p) b.srow (4 * b.dOut) with
  | .error st => .error st
  | .ok bs =>
    let l := (chunks 4 (bs.length + 1) bs).map fun w => f32Fin (leNat w)
    if l.all fun q => match q with
      | some x => !x.isZero
      | none => false
    then .ok (l.filterMap id) else .error St.adapterBaseScaleInvalid

/-! ### Records of an image (R155) -/

/-- A matrix of codes with the scale of each column. -/
structure Coded where
  code : Nat
  scales : List Q
  rows : List (List Nat)
deriving DecidableEq, Repr

/-- Value of element (i, j) without its scale. -/
def Coded.val (m : Coded) (i j : Nat) : Q := codeVal m.code ((m.rows.getD i []).getD j 0)

/-- What a build gives for one record: its bytes, and the clip and flush events of its roundings. -/
structure RecOut where
  bytes : List Byte
  clip : Nat
  flush : Nat
deriving DecidableEq, Repr

/-- One expand-side channel: exponent and codes, from its exact values. -/
def expandChannel (code : Nat) (e0 : Int) (w : List Q) : Int × List Rounded :=
  let m := maxAbs w
  let e := if m.isZero then e0 else (m.div (codeMax code)).ceilLog2
  let eb := if e < e0 then e0 else if e > e0 + 32 then e0 + 32 else e
  (eb, w.map fun x => roundCode code (x.div (Q.pow2 eb)))

/-- Bytes of a list padded with zeros. -/
def padTo (l : List Byte) (n : Nat) : List Byte := l ++ List.replicate (n - l.length) 0

/-- Assemble a record: header, rank-side codes by row, exponents, expand-side codes by channel. -/
def recBytes (dIn dOut rank acode bcode : Nat) (point codeA : Nat) (a : List (List Nat)) (ch : List (Int × List Rounded)) :
    RecOut :=
  let r := rankOf rank
  let byte (v : Nat) : Byte := BitVec.ofNat 8 v
  let bytes := natLE dIn 4 ++ natLE dOut 4 ++ [byte rank, byte acode, byte bcode, byte point, byte codeA] ++ natLE 0 3
    ++ padTo (a.flatMap (·.map byte)) (ceilDiv dIn 128 * 128 * r)
    ++ padTo (ch.map fun e => BitVec.ofInt 8 e.1) (ceilDiv dOut 64 * 64)
    ++ padTo (ch.flatMap fun e => e.2.map fun x => byte x.bits) (ceilDiv dOut 64 * 64 * r)
  let all := ch.flatMap (·.2)
  ⟨bytes, (all.filter (·.clip)).length, (all.filter (·.flush)).length⟩

/-- A record of an image: A codes unchanged, each B code rounded once (R154). -/
def buildRec (b : BaseRec) (srow : List Q) (rank : Nat) (a bm : Coded) : RecOut :=
  let r := rankOf rank
  let e0 : Int := b.point - codeGrid b.codeA - codeGrid a.code - codeGrid bm.code
  let ch := (List.range b.dOut).map fun c =>
    expandChannel bm.code e0 ((List.range r).map fun q =>
      (((a.scales.getD q Q.zero).mul (bm.val q c)).mul (bm.scales.getD c Q.zero)).div (srow.getD c Q.zero))
  recBytes b.dIn b.dOut rank a.code bm.code (unsext 8 b.point) b.codeA a.rows ch

/-- A record of the transposed image with the events of its expand side (in ACODE), κ, and the clips and flushes of its
rank side (in BCODE) (R189). -/
def buildTrec (b : BaseRec) (srow : List Q) (rank : Nat) (a bm : Coded) : RecOut × Int × Nat × Nat :=
  let r := rankOf rank
  let pb : Int := codeGrid b.codeW - 16
  let e0 : Int := pb + 16 - codeGrid a.code - codeGrid bm.code
  let t := (List.range b.dOut).map fun c => (List.range r).map fun q =>
    ((bm.val q c).mul (bm.scales.getD c Q.zero)).div (srow.getD c Q.zero)
  let tm := maxAbs t.flatten
  let kappa := if tm.isZero then 0 else (tm.div (codeMax bm.code)).ceilLog2
  let ap := t.map fun row => row.map fun x => roundCode bm.code (x.div (Q.pow2 kappa))
  let ch := (List.range b.dIn).map fun j =>
    expandChannel a.code e0 ((List.range r).map fun q =>
      ((a.val j q).mul (a.scales.getD q Q.zero)).mul (Q.pow2 kappa))
  let all := ap.flatten
  (recBytes b.dOut b.dIn rank bm.code a.code (unsext 8 pb) 1 (ap.map (·.map (·.bits))) ch, kappa, (all.filter (·.clip)).length,
    (all.filter (·.flush)).length)

/-- An image: the group table, then its records one after the other. The spec leaves their places open. DESIGN CHOICE,
log 29. -/
def imageBytes (l : List (Nat × Nat × RecOut)) : List Byte :=
  let step (acc : List (Nat × Nat) × Nat) (e : Nat × Nat × RecOut) : List (Nat × Nat) × Nat :=
    ((8 * e.1 + e.2.1, acc.2) :: acc.1, acc.2 + e.2.2.bytes.length)
  let offs := (l.foldl step ([], 4096)).1
  ((List.range 512).flatMap fun i =>
    natLE ((offs.find? (·.1 = i)).map (·.2) |>.getD 0) 8) ++ l.flatMap (·.2.2.bytes)

/-- Bytes of a record of given dimensions. -/
def recSize (dIn dOut r : Nat) : Nat := 16 + ceilDiv dIn 128 * 128 * r + ceilDiv dOut 64 * 64 * (1 + r)

/-! ### Serving copies (R163) -/

/-- Layers and groups that an entry adapts, in order. -/
def DirEntry.pairs (e : DirEntry) : List (Nat × Nat) :=
  ((List.range 64).filter fun l => e.lmask.getLsbD l).flatMap fun l =>
    ((List.range 8).filter fun g => e.rankCode g ≠ 0).map fun g => (l, g)

/-- One export shard at the front of the bytes: its matrix and the bytes after it, where it has the form. -/
def parseShard (bs : List Byte) (layer group role rows cols code : Nat) : Option (Coded × List Byte) :=
  let h := leNat (bs.take 128)
  let n := 4 * cols + rows * cols
  let body := (bs.drop 128).take n
  let scales := (chunks 4 (cols + 1) (body.take (4 * cols))).map fun w => f32Fin (leNat w)
  if hdrOk h && decide (128 + n ≤ bs.length) && hLayer h == layer && hGroup h == group && hRole h == role && hComp h == 7
      && !hWrap h && hSaxis h == 2 && hCode h == code && hRtot h == rows && hCtot h == cols && hNrows h == rows && hNcols h == cols
      && hRow0 h == 0 && hCol0 h == 0 && hPlen h == n && scales.all (·.isSome) then
    some (⟨code, scales.filterMap id, chunks cols (rows + 1) ((body.drop (4 * cols)).map (·.toNat))⟩, bs.drop (128 + n))
  else none

/-- The pairs of a serving copy: layer, group, rank code, base record, A and B. -/
structure CopyPair where
  layer : Nat
  group : Nat
  rank : Nat
  base : BaseRec
  a : Coded
  b : Coded
deriving DecidableEq, Repr

/-- The whole copy, in the order of R228, with nothing left over. -/
def parseCopy (e : DirEntry) : List (Nat × Nat × BaseRec) → List Byte → Option (List CopyPair)
  | [], bs => if bs.isEmpty then some [] else none
  | (l, g, b) :: rest, bs =>
    let r := rankOf (e.rankCode g)
    match parseShard bs l g 0 b.dIn r e.acode with
    | none => none
    | some (a, bs) =>
      match parseShard bs l g 1 r b.dOut e.bcode with
      | none => none
      | some (m, bs) => (parseCopy e rest bs).map fun t => ⟨l, g, e.rankCode g, b, a, m⟩ :: t

/-- Base records of every adapted pair. -/
def State.baseRecs (s : State) (p : Nat) : List (Nat × Nat) → Except Status (List (Nat × Nat × BaseRec))
  | [] => .ok []
  | (l, g) :: t =>
    match s.baseRec p l g, s.baseRecs p t with
    | .error st, _ | _, .error st => .error st
    | .ok b, .ok r => .ok ((l, g, b) :: r)

/-- HBM ranges of the base records of pairs, then of their row scales. -/
def State.baseReads (s : State) (p : Nat) (l : List (Nat × Nat)) : List (Nat × Nat) :=
  (l.flatMap fun e => s.hbmRange (BitVec.ofNat 64 (s.odVal (0x503001 + p) 0 + 32 * (8 * e.1 + e.2))) 32)
    ++ l.flatMap fun e => match s.baseRec p e.1 e.2 with
      | .ok b => s.hbmRange b.srow (4 * b.dOut)
      | .error _ => []

/-- Bytes of the image that an entry's base records and ranks give; none where a record is not valid, since then the
build fails (R154). -/
def imageSize (e : DirEntry) (l : List (Nat × Nat × BaseRec)) : Nat :=
  if l.any fun b => !b.2.2.ok then 0 else 4096 + (l.map fun b => recSize b.2.2.dIn b.2.2.dOut (rankOf (e.rankCode b.2.1))).sum

/-- Build every record of a copy; `mk` builds one. -/
def State.buildPairs {α : Type} (s : State) (p : Nat) (mk : BaseRec → List Q → CopyPair → α) :
    List CopyPair → Except Status (List (CopyPair × α))
  | [] => .ok []
  | c :: t =>
    if !c.base.ok then .error St.adapterBaseScaleInvalid
    else match s.baseScales p c.base with
      | .error st => .error st
      | .ok sr =>
        match s.buildPairs p mk t with
        | .error st => .error st
        | .ok r => .ok ((c, mk c.base sr c) :: r)

/-- Check every base record before the build, then build the image of a serving copy (R154): its bytes, clips and
flushes. -/
def State.buildImage (s : State) (p : Nat) (l : List CopyPair) : Except Status (List Byte × Nat × Nat) :=
  if l.any fun c => !c.base.ok then .error St.adapterBaseScaleInvalid
  else match s.buildPairs p (fun b sr c => buildRec b sr c.rank c.a c.b) l with
    | .error st => .error st
    | .ok r =>
      .ok (imageBytes (r.map fun e => (e.1.layer, e.1.group, e.2)), (r.map (·.2.clip)).sum, (r.map (·.2.flush)).sum)

/-- Count clip and flush events of the device's own roundings: tag 0xFFF (R154, R189). -/
def State.countSkim (s : State) (p code clip flush : Nat) : State :=
  let key := 16 * (4096 * p + 0xFFF) + codeSkim code
  { s with stats := { s.stats with skim := tabMod {} s.stats.skim key (·.post { clip := clip, flush := flush }) } }

/-! ### Pools (R163) -/

/-- Base and size of a partition's adapter pool. -/
def State.pool (s : State) (p : Nat) : Nat × Nat := (s.odVal (0x501001 + p) 0, s.odVal (0x501101 + p) 0)

/-- The lowest free place of `n` bytes, 4 KiB aligned, among allocations. -/
def poolFit (base size : Nat) (used : List (Nat × Nat × Nat)) (n : Nat) : Option Nat :=
  let cand := base :: used.map fun a => (a.1 + a.2.1 + 4095) / 4096 * 4096
  let ok (o : Nat) : Bool := decide (base ≤ o) && decide (o + n ≤ base + size)
    && used.all fun a => decide (o + n ≤ a.1) || decide (a.1 + a.2.1 ≤ o)
  match cand.filter ok with
  | [] => none
  | o :: l => some (l.foldl min o)

/-- Places for a serving copy and an image. -/
def State.poolTwo (s : State) (p copy image : Nat) : Option (Nat × Nat) :=
  let (b, z) := s.pool p
  match poolFit b z s.dir.alloc copy with
  | none => none
  | some o => (poolFit b z ((o, copy, 0) :: s.dir.alloc) image).map fun q => (o, q)

end Sys2Proof.Machine
end

