-- ==== Sys2Proof/Machine/HostBase.lean ====
section
/-!
DEFINITION. Partner contexts and the operations that the device issues: packets sent, responses, requests into a host,
over the fabric and inside the device (R258 to R273, R276, R297 to R301).
-/

namespace Sys2Proof.Machine

/-- The low `n` bytes of a value, most significant first (R6). -/
def be (v n : Nat) : List Byte := (natLE v n).reverse

def beNat (l : List Byte) : Nat := leNat l.reverse

/-! ### Contexts and their queues (R274, R280) -/

def State.ctx (s : State) (c : Nat) : Ctx := tabGet {} s.port.ctxs c

def State.modCtx (s : State) (c : Nat) (f : Ctx → Ctx) : State :=
  { s with port := { s.port with ctxs := tabMod {} s.port.ctxs c f } }

def Ctx.queue (x : Ctx) (q : Bool) : Queue := if q then x.ctl else x.bulk

def Ctx.modQueue (x : Ctx) (q : Bool) (f : Queue → Queue) : Ctx :=
  if q then { x with ctl := f x.ctl } else { x with bulk := f x.bulk }

/-- OPEN or DRAINING: the states in which packets move. -/
def Ctx.joined (x : Ctx) : Bool := x.st = .open_ || x.st = .draining

/-- The value of A010 entry `sub` since the port last trained (R287). -/
def State.portCfg (s : State) (sub d : Nat) : Nat :=
  match tabGet 0 s.port.cfg sub with
  | 0 => d
  | n + 1 => n

/-- A UDP payload in queue Q on its way to an address: ECT(0), the VLAN tag, priority and DSCP of the port's entries (R268,
R283, R287). -/
def State.wireTo (s : State) (dst : BitVec 128) (q : Bool) (bytes : List Byte) : Wire :=
  let prio := s.portCfg 7 0x53
  let dscp := s.portCfg 8 0x2E0A
  { dst := dst, port := s.portCfg 4 19284, vlan := s.portCfg 6 0, pcp := if q then bits prio 6 4 else bits prio 2 0
    dscp := if q then bits dscp 13 8 else bits dscp 5 0, ecn := 2, bytes := bytes }

/-- The 24 bytes of the common header, version 1.0 (R6, R269). -/
def headerBytes (typ flags : Nat) (dctx sctx psn ack msn segoff : Nat) : List Byte :=
  [0x10, BitVec.ofNat 8 typ, BitVec.ofNat 8 flags, 0] ++ be dctx 2 ++ be sctx 2 ++ be psn 4 ++ be ack 4 ++ be msn 4 ++ be segoff 4

/-- A packet of a context as it leaves in queue Q, with an ACKPSN. -/
def State.wire (s : State) (c : Nat) (q : Bool) (ack : BitVec 32) (p : TxPacket) : Wire :=
  let flags := q.toNat * 128 + (Config.ackReq p.psn.toNat).toNat * 64 + p.first.toNat * 32 + p.last.toNat * 16
  s.wireTo (s.ctx c).host q
    (headerBytes p.typ.toNat flags (s.ctx c).hctx.toNat c p.psn.toNat ack.toNat p.msn.toNat p.segoff ++ p.body)

/-- Send a packet in queue Q: it takes the next PSN, stays until acknowledged, and acknowledges all that came (R280,
R281). Beyond 1,024 unacknowledged packets it waits. -/
def State.send (s : State) (c : Nat) (q : Bool) (p : TxPacket) : State :=
  let u := (s.ctx c).queue q
  if 1024 ≤ u.unacked.length then s.modCtx c fun x => x.modQueue q fun u => { u with backlog := u.backlog ++ [p] }
  else
    let p := { p with psn := u.tx }
    (s.modCtx c fun x => x.modQueue q fun u =>
      { u with tx := u.tx + 1, unacked := u.unacked ++ [⟨p, 0, 0, false⟩], due := 0 }).emit (.packet c q (s.wire c q u.rx p))

/-- A packet of one segment. -/
def onePacket (typ : BitVec 8) (msn : BitVec 32) (body : List Byte) : TxPacket := ⟨typ, 0, msn, 0, true, true, body⟩

/-- SEG of an MTU (R273). -/
def segOf (mtu : Nat) : Nat := (mtu - 112) / 256 * 256

/-- The segments of a message's data with their offsets; one empty segment where there is none (R273). -/
def segments (seg : Nat) (data : List Byte) : List (Nat × List Byte) :=
  match chunks (max seg 1) (data.length + 1) data with
  | [] => [(0, [])]
  | l => l.zipIdx.map fun e => (e.2 * seg, e.1)

/-- A message in segments: `ext` gives the extension of each. -/
def State.sendMessage (s : State) (c : Nat) (typ : BitVec 8) (msn : BitVec 32) (ext : List Byte → List Byte)
    (data : List Byte) : State :=
  let l := segments (segOf (s.ctx c).mtu) data
  l.foldl (fun s e => s.send c false
    ⟨typ, 0, msn, e.1, e.1 == 0, e.1 + e.2.length == data.length, ext e.2 ++ e.2⟩) s

/-- A RESPONSE (R272). -/
def State.respond (s : State) (c : Nat) (msn : BitVec 32) (a : Answer) : State :=
  if (s.ctx c).joined then
    s.sendMessage c 0x11 msn (fun d => be a.status.toNat 2 ++ [BitVec.ofNat 8 a.sat.toNat, 0] ++ be d.length 4) a.data
  else s

/-- An OD_RSP (R270). -/
def State.odAnswer (s : State) (c : Nat) (msn : BitVec 32) (st : Status) (value : List Byte) : State :=
  if (s.ctx c).joined then
    s.send c true (onePacket 0x41 msn (be st.toNat 2 ++ [0, 0] ++ be value.length 4 ++ value))
  else s

/-! ### Reachable and present devices (R242, R290, R301) -/

def State.group (s : State) (g : Nat) : LaneGroup := tabGet {} s.fabric.groups g

/-- Group 8 + k of the model holds spare lane k's own state (R290). -/
def State.modGroup (s : State) (g : Nat) (f : LaneGroup → LaneGroup) : State :=
  { s with fabric := { s.fabric with groups := tabMod {} s.fabric.groups g f } }

/-- Group towards a peer: d XOR g (R290). -/
def State.groupTo (s : State) (p : Nat) : Nat := Nat.xor s.mod.pos.val p

def GState.up (g : GState) : Bool := g = .up8 || g = .up7

/-- A peer is reachable while its group or its spare lane is up (R301). -/
def State.reachable (s : State) (p : Nat) : Bool :=
  p ≠ s.mod.pos.val && p < 8 && ((s.group (s.groupTo p)).st.up || (s.group (8 + s.groupTo p)).st.up)

/-- A position is absent while its group and spare lane are DARK (R242). -/
def State.absent (s : State) (p : Nat) : Bool :=
  p ≠ s.mod.pos.val && (s.group (s.groupTo p)).st = .dark && (s.group (8 + s.groupTo p)).st = .dark

def State.peer (s : State) (p : Nat) : Peer := tabGet {} s.fabric.peers p

def State.modPeer (s : State) (p : Nat) (f : Peer → Peer) : State :=
  { s with fabric := { s.fabric with peers := tabMod {} s.fabric.peers p f } }

/-! ### Flits (R293 to R296) -/

/-- One bit of CRC-32, IEEE 802.3 polynomial, least significant bit first. -/
def crcBit (c : BitVec 32) : BitVec 32 := if c.getLsbD 0 then (c >>> 1) ^^^ 0xEDB88320 else c >>> 1

def crcByte (c : BitVec 32) (b : Byte) : BitVec 32 :=
  crcBit (crcBit (crcBit (crcBit (crcBit (crcBit (crcBit (crcBit (c ^^^ b.setWidth 32))))))))

/-- CRC-32 of bytes. -/
def crc32 (l : List Byte) : BitVec 32 := ~~~ l.foldl crcByte 0xFFFFFFFF

/-- The 504 bytes of a flit before its FEC parity (R293). The CRC's bytes go least significant first, as a frame check
sequence does (DESIGN CHOICE, log 85). `credit`: the VC and partition whose credit it returns. -/
def flitBytes (vc part : Nat) (seq ack : BitVec 12) (nak : Bool) (credit : Option (Nat × Nat)) (payload : List Byte) :
    List Byte :=
  let cr (v : Nat) : Nat := if credit.any (·.1 == v) then 1 else 0
  let crp := match credit with
    | some (_, p) => p
    | none => 0
  let l := be (vc * 2 ^ 62 + part * 2 ^ 60 + seq.toNat * 2 ^ 48 + ack.toNat * 2 ^ 36 + nak.toNat * 2 ^ 35 + cr 0 * 2 ^ 24
    + cr 1 * 2 ^ 16 + cr 2 * 2 ^ 8 + crp * 2 ^ 6) 8 ++ payload
  l ++ natLE (crc32 l).toNat 4

/-- Key of a message stream and of its pool of credits: VC and PARTN (R296). -/
def vcKey (vc part : Nat) : Nat := 4 * vc + part

/-- Flits that the receiver buffers for each pool (R296). -/
def creditsFull (four : Bool) : Tab Int :=
  if four then (List.range 8).map (fun k => (k, 48)) ++ [(8, 32)] else [(0, 192), (4, 192), (8, 32)]

/-- A stream has bytes to send and a credit. -/
def Peer.sendable (x : Peer) (vc part : Nat) : Bool :=
  !(tabGet [] x.out (vcKey vc part)).isEmpty && decide (0 < tabGet 0 x.credits (vcKey vc part))

/-- The first control message may go: VC 2 has a credit, of which its partition holds less than 8 (R296, R334). -/
def Peer.ctlReady (x : Peer) : Bool :=
  match x.ctlq with
  | [] => false
  | e :: _ => decide (0 < tabGet 0 x.credits (vcKey 2 0)) && (e.1.isNone || decide ((x.held.filter (· == e.1)).length < 8))

/-- Of these partitions' streams, the one that a data slot carries: responses first (R295). -/
def Peer.dataPick (x : Peer) (parts : List Nat) : Option (Nat × Nat) :=
  ([1, 0].flatMap fun vc => parts.map fun p => (vc, p)).find? fun e => x.sendable e.1 e.2

/-- What slot n of the table of 64 carries: slots 0, 16, 32 and 48 are VC 2's, lent in whole-device mode where it has
nothing to send; in partition mode a partition's messages ride its own one of the four, those of the device any, and the
other 60 slots belong to the partitions in turn (R295, R334). In whole-device mode what a
partition still had to send goes first come (R308). -/
def Peer.slotPick (x : Peer) (four : Bool) (n : Nat) : Option (Nat × Nat) :=
  let own := !four || match x.ctlq with
    | (some p, _) :: _ => n == 16 * p
    | _ => true
  if n % 16 = 0 then
    if x.ctlReady && own then some (2, 0) else if four then none else x.dataPick [0, 1, 2, 3]
  else if four then x.dataPick [(n - n / 16 - 1) % 4] else x.dataPick [0, 1, 2, 3]

/-- Something can be sent: the replay buffer holds less than 256 flits (R294). -/
def Peer.busy (x : Peer) : Bool :=
  decide (x.replay.length < 256) && (x.ctlReady || (x.dataPick [0, 1, 2, 3]).isSome)

/-- Bytes of control messages for one flit: messages pack, those of one partition only. -/
def ctlTake (t : Option Nat) : List (Option Nat × List Byte) → Nat → List Byte × List (Option Nat × List Byte)
  | [], _ => ([], [])
  | e :: l, n =>
    if e.1 ≠ t ∨ n = 0 then ([], e :: l)
    else if e.2.length ≤ n then
      let (a, r) := ctlTake t l (n - e.2.length)
      (e.2 ++ a, r)
    else (e.2.take n, (e.1, e.2.drop n) :: l)

/-- Fill a flit's 492 bytes with zeros. -/
def padFlit (l : List Byte) : List Byte := l ++ List.replicate (492 - l.length) 0

/-- Take the payload of the next flit of a VC; messages pack across flits (R293). -/
def Peer.takePayload (x : Peer) (vc part : Nat) : List Byte × Peer :=
  if vc = 2 then
    let t := (x.ctlq.head?.map (·.1)).getD none
    let (l, r) := ctlTake t x.ctlq 492
    (padFlit l, { x with ctlq := r, held := x.held ++ [t] })
  else
    let l := tabGet [] x.out (vcKey vc part)
    (padFlit (l.take 492), { x with out := tabSet [] x.out (vcKey vc part) (l.drop 492) })

/-- An idle flit: it carries ACKSEQ, a NAK, and a credit returned (R294, R296). -/
def State.idleFlit (s : State) (p : Nat) (nak : Bool) (credit : Option (Nat × Nat)) : State :=
  let x := s.peer p
  s.emit (.flit p (flitBytes 3 0 x.seq x.rx nak credit (padFlit [])))

/-- Fill slots while something can be sent; a slot with nothing to send carries an idle flit (R294 to R296). The table moves
on by a slot for each flit (log 50). -/
def State.fillSlots (s : State) (p : Nat) : Nat → State
  | 0 => s
  | fuel + 1 =>
    let x := s.peer p
    if !x.busy then s
    else match x.slotPick s.mode.cur.four (x.slot % 64) with
      | none => ((s.modPeer p fun x => { x with slot := (x.slot + 1) % 64 }).idleFlit p false none).fillSlots p fuel
      | some (vc, part) =>
        let (bs, y) := x.takePayload vc part
        let s := s.modPeer p fun _ => { y with
          seq := x.seq + 1, replay := x.replay ++ [(x.seq, vc, part, bs)], slot := (x.slot + 1) % 64
          credits := tabMod 0 x.credits (vcKey vc part) (· - 1) }
        (s.emit (.flit p (flitBytes vc part x.seq x.rx false none bs))).fillSlots p fuel

/-- Flits that what waits for a peer fills at most. -/
def Peer.waiting (x : Peer) : Nat := (x.out.map fun e => e.2.length / 492 + 1).sum + 2 * x.ctlq.length

/-- Send what can be sent to a peer. -/
def State.pumpPeer (s : State) (p : Nat) : State := s.fillSlots p (64 * (s.peer p).waiting)

/-- Bytes join a stream of requests or responses to a peer. -/
def State.toPeer (s : State) (p vc part : Nat) (bs : List Byte) : State :=
  s.modPeer p fun x => { x with out := tabMod [] x.out (vcKey vc part) (· ++ bs) }

/-! ### Messages to a peer (R297, R300) -/

/-- The 64-byte operation header (R297), each 8-byte word most significant byte first. -/
def opHeader (w0 w1 w2 w3 w4 w5 w6 : Nat) : List Byte :=
  be w0 8 ++ be w1 8 ++ be w2 8 ++ be w3 8 ++ be w4 8 ++ be w5 8 ++ be w6 8 ++ be 0 8

/-- Partition that a flit's slot carries: 0 in whole-device mode (R293). -/
def State.flitPart (s : State) (part : Nat) : Nat := if s.mode.cur.four then part else 0

/-- A control message (R300), one segment on VC 2, of a partition or of the device; one that goes to an unreachable peer is
lost. Its words go most significant byte first (DESIGN CHOICE, log 38). -/
def State.controlOf (s : State) (part : Option Nat) (p msgt : Nat) (args : List Nat) : State :=
  if s.reachable p then
    let data := args.flatMap fun v => be v 8
    let tag := if s.mode.cur.four then part else none
    let l := opHeader (msgt * 2 ^ 56 + s.mod.pos.val * 2 ^ 34 + 2 ^ 33 + part.getD 0 * 2 ^ 31) 0
      (data.length * 2 ^ 32 + data.length * 2 ^ 16) 0 0 0 0 ++ data
    ((s.emit (.control p msgt args)).modPeer p fun x => { x with ctlq := x.ctlq ++ [(tag, l)] }).pumpPeer p
  else s

/-- A control message of the device as a whole. -/
def State.control (s : State) (p msgt : Nat) (args : List Nat) : State := s.controlOf none p msgt args

/-- Data in pieces of 4,096 bytes with their offsets; one empty piece where there is none (R297). -/
def fabricPieces (data : List Byte) : List (Nat × List Byte) :=
  match chunks 4096 (data.length + 1) data with
  | [] => [(0, [])]
  | l => l.zipIdx.map fun e => (e.2 * 4096, e.1)

/-- A response to a peer, on VC 1: SDEV, WORLD and IPART are the initiator's (R297, R298). -/
def State.respondPeer (s : State) (p : Nat) (world : Bool) (part opc : Nat) (txid : BitVec 32) (a : Answer) : State :=
  ((fabricPieces a.data).foldl (fun s e => s.toPeer p 1 (s.flitPart part)
    (opHeader (0x02 * 2 ^ 56 + opc * 2 ^ 48 + p * 2 ^ 34 + world.toNat * 2 ^ 33 + part * 2 ^ 31 + a.status.toNat)
      (txid.toNat * 2 ^ 32 + e.1) (a.data.length * 2 ^ 32 + e.2.length * 2 ^ 16 + a.sat.toNat) 0 0 0 0 ++ e.2))
    (s.emit (.response p txid a))).pumpPeer p

/-! ### Operations that the device issues (R258 to R262, R297) -/

/-- Context and offset of a SPACE 15 address (R261). -/
def hostCtx (a : BitVec 64) : Nat := bits a.toNat 57 44
def hostOff (a : BitVec 64) : Nat := bits a.toNat 43 0

/-- SPACE 15 address of an offset within a context. -/
def hostAddr (c : Nat) (off : Nat) : BitVec 64 := BitVec.ofNat 64 (15 * 2 ^ 60 + c * 2 ^ 44 + off)

/-- Close a context without exchange: its state is dropped, and operations into it are gone (R275). -/
def State.dropCtx (s : State) (c : Nat) : State :=
  { s with
    port := { s.port with ctxs := tabDel s.port.ctxs c }
    ops := s.ops.filter fun o => !(gaSpace o.remote == 15 && hostCtx o.remote == c) }

/-- Length in bytes on the wire. -/
def RemOp.wireLen (o : RemOp) : Nat := if o.opc = 6 then 16 * o.len else o.len

/-- A range lies in the context's host window (R261). -/
def Ctx.window (x : Ctx) (off len : Nat) : Bool := decide (off + len ≤ x.hlen.toNat)

/-- The extension of a REQUEST (R271). -/
def requestExt (o : RemOp) (remote signal : Nat) : List Byte :=
  [BitVec.ofNat 8 o.opc, o.point, BitVec.ofNat 8 o.cfl.toNat, 0] ++ be o.wireLen 4 ++ be remote 8 ++ be o.opnd1.toNat 8
    ++ be o.opnd2.toNat 8 ++ be signal 8

/-- An operation's answer is known; it awaits its RESPONSE, or has it. -/
def State.answerOp (s : State) (id : Nat) (a : Answer) (done : Bool) : State :=
  { s with
    ops := s.ops.map fun o => if o.id = id ∧ o.answered.isNone then { o with answered := some a, done := done } else o
    fabric := { s.fabric with ops := s.fabric.ops.filter (·.1 ≠ id) } }

def failure (st : Status) : Answer := ⟨st, false, []⟩

/-- A trim core issues this operation. -/
def Issuer.isTrim : Issuer → Bool
  | .trim _ _ _ => true
  | _ => false

/-- The work whose firmware task issues an operation. -/
def Issuer.task : Issuer → Option Nat
  | .output i | .record i => some i
  | _ => none

/-- Two operations of one ordering domain (R265, R267): all those of one trim core, or of one firmware task. Firmware runs a
task for each work, and one for what belongs to none (DESIGN CHOICE, log 86). -/
def Issuer.sameDomain : Issuer → Issuer → Bool
  | .trim h k _, .trim h' k' _ => h == h' && k == k'
  | a, b => !a.isTrim && !b.isTrim && a.task == b.task

/-- Partition of a context's number (R274). -/
def State.ctxPart (s : State) (c : Nat) : Nat := if s.mode.cur.four then c / 4096 else 0

/-- An operation into a host: refused by partition, context, space, alignment or window, or sent as a REQUEST (R261,
R262, R276, R278). No GET names SPACE 15. That ACCESS_DENIED and CONTEXT_INVALID come before ADDRESS_INVALID is a DESIGN
CHOICE, log 56. -/
def State.launchHost (s : State) (o : RemOp) : State :=
  let c := hostCtx o.remote
  let x := s.ctx c
  let needSig := o.opc = 7
  let atomic := o.opc = 3 ∨ o.opc = 4 ∨ o.opc = 5
  let fail (st : Status) : State := s.answerOp o.id (failure st) true
  if !o.secure ∧ s.ctxPart c ≠ o.part then fail St.accessDenied
  else if x.st ≠ .open_ then fail St.contextInvalid
  else if o.opc = 6 ∨ o.opc = 2 ∨ (atomic ∧ hostOff o.remote % 8 ≠ 0) ∨ bits o.remote.toNat 59 58 ≠ 0
      ∨ !x.window (hostOff o.remote) o.wireLen then fail St.addressInvalid
  else if needSig ∧ (gaSpace o.signal ≠ 15 ∨ hostCtx o.signal ≠ c ∨ bits o.signal.toNat 59 58 ≠ 0
      ∨ !x.window (hostOff o.signal) 8 ∨ hostOff o.signal % 8 ≠ 0) then fail St.addressInvalid
  else
    let rem := (x.hbase.toNat + hostOff o.remote) % 2 ^ 64
    let sig := if needSig then (x.hbase.toNat + hostOff o.signal) % 2 ^ 64 else 0
    let n := x.msn
    let s := { s.modCtx c fun x => { x with msn := x.msn + 1 } with
      ops := s.ops.map fun (q : RemOp) => if q.id = o.id then { q with msn := n } else q }
    s.sendMessage c 0x10 x.msn (fun _ => requestExt o rem sig) o.data

/-- The operation header of a request segment (R297). -/
def requestHeader (s : State) (o : RemOp) (t : BitVec 32) (off n : Nat) : List Byte :=
  opHeader (0x01 * 2 ^ 56 + o.opc * 2 ^ 48 + o.point.toNat * 2 ^ 40 + o.cfl.toNat * 2 ^ 37 + s.mod.pos.val * 2 ^ 34
      + o.secure.toNat * 2 ^ 33 + o.part * 2 ^ 31) (t.toNat * 2 ^ 32 + off) (o.wireLen * 2 ^ 32 + n * 2 ^ 16)
    o.remote.toNat o.opnd1.toNat o.opnd2.toNat o.signal.toNat

/-- Send an operation where it goes; one inside the device waits for its landing, and a FENCE for the operations before
it (R260, R267). -/
def State.transmit (s : State) (o : RemOp) : State :=
  let s := { s with ops := s.ops.map fun q => if q.id = o.id then { q with sent := true } else q }
  if o.opc = 8 then s
  else if gaSpace o.remote = 15 then s.launchHost o
  else if gaDev o.remote = s.mod.pos.val then s
  else
    let p := gaDev o.remote
    if s.reachable p then
      let t := s.fabric.txid
      let s := { s with fabric := { s.fabric with txid := t + 1, ops := s.fabric.ops ++ [(o.id, t, p)] } }.emit (.request p t o)
      ((fabricPieces o.data).foldl (fun s e =>
        s.toPeer p 0 (s.flitPart o.part) (requestHeader s o t e.1 e.2.length ++ e.2)) s).pumpPeer p
    else s.answerOp o.id (failure St.peerUnreachable) true

/-- Issue an operation: number it, list it, and send it unless a FENCE of its domain is unfinished. -/
def State.issue (s : State) (o : RemOp) : State :=
  let o := { o with id := s.nextOp, answered := none, done := false, sent := false }
  let fenced := s.ops.any fun q => q.opc == 8 && !q.done && q.who.sameDomain o.who
  let s := { s with ops := s.ops ++ [o], nextOp := s.nextOp + 1 }
  if fenced then s else s.transmit o

/-- A plain operation of firmware or of a work. -/
def firmOp (who : Issuer) (part opc : Nat) (remote : BitVec 64) (data : List Byte) : RemOp :=
  { id := 0, who := who, part := part, secure := true, opc := opc, remote := remote, len := data.length, local_ := 0
    data := data, opnd1 := 0, opnd2 := 0, signal := 0, point := 0, cfl := 0, answered := none, done := false }

/-- Every operation towards a peer that became unreachable fails, and what was on its way is dropped (R299). -/
def State.failPeer (s : State) (p : Nat) : State :=
  let s := s.modPeer p fun x => { x with
    replay := [], out := [], ctlq := [], held := [], stream := [], stuck := 0, asm := [], fences := [] }
  (s.fabric.ops.filter (·.2.2 = p)).foldl (fun s e => s.answerOp e.1 (failure St.peerUnreachable) true) s

/-- Every device-originated operation into a context fails with a status (R275). -/
def State.failCtxOps (s : State) (c : Nat) (st : Status) : State :=
  (s.ops.filter fun o => gaSpace o.remote = 15 ∧ hostCtx o.remote = c ∧ o.answered.isNone ∧ o.opc ≠ 8).foldl
    (fun s o => (s.answerOp o.id (failure st) true).modCtx c fun x => { x with rqfail := x.rqfail + 1 }) s

/-! ### Completion records (R237, R240, R241, R361) -/

/-- A timestamp in the tenant view (R361). -/
def coarseTime (secure : Bool) (t : Nat) : Nat := if secure then t else t / 1000000 * 1000000

/-- An event count in the tenant view (R361). -/
def coarseCount (secure : Bool) (n : Nat) : Nat := if secure then n else n / 4096 * 4096

/-- A record's context and addresses are deliverable (R237). -/
def State.deliverable (s : State) (part c caddr saddr : Nat) : Bool :=
  let x := s.ctx c
  decide (c < 16384) && x.st = .open_ && x.part == part && caddr % 64 == 0 && saddr % 8 == 0
    && decide (caddr < 2 ^ 44) && decide (saddr < 2 ^ 44) && x.window caddr 64 && x.window saddr 8

def State.countUndeliverable (s : State) : State :=
  { s with work := { s.work with undeliverable := s.work.undeliverable + 1 } }

/-- The 64 bytes of a completion record (R240). -/
def recordBytes (gen : Nat) (st : Status) (slot : Nat) (w : Work) (tacc tend : Nat) : List Byte :=
  natLE (gen * 2 ^ 32 + st.toNat) 8 ++ natLE (slot * 2 ^ 32 + w.fpart % 256 * 2 ^ 24 + w.pstat.toNat) 8
    ++ natLE w.group.toNat 8 ++ natLE (w.tokens * 2 ^ 32 + w.flags.toNat) 8 ++ natLE w.value.toNat 8
    ++ natLE (w.at 0x28 63 0) 8 ++ natLE tacc 8 ++ natLE tend 8

/-- Issue a record as one PUT_SIGNAL, or count it as undeliverable (R237, R241, R276). -/
def State.issueRecord (s : State) (slot : Nat) (w : Work) (gen : Nat) (st : Status) : State :=
  let c := w.ctx
  let x := s.ctx c
  let caddr := w.at 0x18 63 0
  let saddr := w.at 0x20 63 0
  if s.deliverable (s.slotPart slot) c caddr saddr then
    let bs := recordBytes gen st slot w (coarseTime x.secure w.tacc) (coarseTime x.secure w.tend)
    (s.issue { firmOp (.record slot) (s.slotPart slot) 7 (hostAddr c caddr) bs with signal := hostAddr c saddr }).emit
      (.record slot c (BitVec.ofNat 64 caddr) (BitVec.ofNat 64 saddr) (BitVec.ofNat 512 (leNat bs)))
  else s.countUndeliverable

end Sys2Proof.Machine
end

