-- ==== Sys2Proof/Machine/Replica.lean ====
section
/-!
DEFINITION. Replica members, their base images in shards, digest rounds and quarantine (R327 to R330).
-/

namespace Sys2Proof.Machine

/-! ### Members and images (R327) -/

/-- Members of OD 7050.01, in ascending number 4 × d + p. -/
def State.members (s : State) : List Nat := (List.range 32).filter (bit (s.odVal 0x705001 0))

def memberDev (m : Nat) : Nat := m / 4
def memberPart (m : Nat) : Nat := m % 4

def State.coordinator (s : State) : Option Nat := s.members.head?

/-- Members on this device. -/
def State.ownMembers (s : State) : List Nat := s.members.filter fun m => memberDev m == s.mod.pos.val

/-- Entry numbers of a partition's base region list, in list order (R420). -/
def State.baseList (s : State) (p : Nat) : List Nat :=
  ((List.range 4).flatMap fun k => (natLE (s.odVal (0x503101 + 4 * p + k) 0) 10).map (·.toNat)).filter (· ≠ 0)

/-- Ranges of a partition's base image: offset and length, in list order. -/
def State.basePieces (s : State) (p : Nat) : List (Nat × Nat) :=
  ((s.baseList p).map (tabGet {} s.regions)).map fun r => (0x200000 * r.base, if r.v then 0x200000 * r.npg else 0)

/-- The part of the pieces that bytes [o, o + n) of their concatenation name. -/
def slicePieces : List (Nat × Nat) → Nat → Nat → List (Nat × Nat)
  | [], _, _ => []
  | (a, len) :: l, o, n =>
    if len ≤ o then slicePieces l (o - len) n
    else
      let here := min n (len - o)
      if here = 0 then [] else (a + o, here) :: slicePieces l 0 (n - here)

def shardSize : Nat := 0x4000000

/-- Number of 64 MiB shards of a partition's base image. -/
def State.shardCount (s : State) (p : Nat) : Nat := (((s.basePieces p).map (·.2)).sum + shardSize - 1) / shardSize

def State.shardPieces (s : State) (p k : Nat) : List (Nat × Nat) := slicePieces (s.basePieces p) (shardSize * k) shardSize

/-- SHA-256 of a shard. With an uncorrectable granule in it the spec states no digest: a free value (log 43). -/
def State.shardDigest (s : State) (p k : Nat) : BitVec 256 :=
  let l := s.shardPieces p k
  if l.any fun e => s.hbmBad e.1 e.2 then BitVec.ofNat 256 (Config.freeNat s.free)
  else BitVec.ofNat 256 (leNat (sha256 (l.flatMap fun e => s.hbmRead e.1 e.2)))

/-- A partition's ECC record over the last 24 h: 1,000 for each uncorrectable event, 1 for each corrected error, of the
stacks that hold its user area (R328). -/
def State.eccRecord (s : State) (p : Nat) : Nat :=
  let mine (h : Nat) : Bool := !s.mode.cur.four || h / 3 == p
  let recent (t : Nat) : Bool := decide (s.tsc < t + 86400000000000)
  1000 * (s.ecc.losses.filter fun e => recent e.1 && mine e.2).length
    + (s.ecc.hits.filter fun e => recent e.1 && mine e.2.1).length

/-! ### Digests at the coordinator (R328, R329) -/

def State.modReplica (s : State) (f : Replica → Replica) : State := { s with replica := f s.replica }

/-- Latest digest and ECC record of a member's shard. -/
def State.digestAt (s : State) (m k : Nat) : Option (BitVec 256 × Nat) :=
  (s.replica.digests.find? fun e => e.1 = m ∧ e.2.1 = k).map fun e => (e.2.2.1, e.2.2.2)

def State.putDigest (s : State) (m k : Nat) (d : BitVec 256) (e : Nat) : State :=
  s.modReplica fun r => { r with
    digests := r.digests.filter (fun x => !(x.1 = m ∧ x.2.1 = k)) ++ [(m, k, d, e)] }

/-- The log record of a replica event: shard, byte range, member, action, digests and ECC records. -/
def State.logReplica (s : State) (m k action : Nat) : State :=
  let ds := (s.replica.digests.filter fun e => e.2.1 = k).flatMap fun e => [e.1, e.2.2.1.toNat, e.2.2.2]
  { s with replica := { s.replica with events := s.replica.events + 1 } }.emit
    (.log (some (memberPart m)) .replica ([k, shardSize * k, shardSize * (k + 1) - 1, m, action] ++ ds))

/-- Code of a use in the payload of a DIGEST message. DESIGN CHOICE, log 38. -/
def useCode : DigestUse → Nat
  | .round => 0
  | .refetched => 1
  | .quarantine => 2
  | .restore => 3
  | .start => 4
  | .output _ _ _ => 5

/-- The four 64-bit words of a digest, low word first. -/
def digestWords (d : BitVec 256) : List Nat := (List.range 4).map fun i => d.toNat / 2 ^ (64 * i) % 2 ^ 64

/-- An order of the coordinator to a member: it takes effect here, or travels as a DIGEST message. -/
def State.orderMember (s : State) (u : DigestUse) (m k : Nat) : State :=
  if memberDev m = s.mod.pos.val then s else s.controlOf (some (memberPart m)) (memberDev m) 0x38 [useCode u, m, k]

/-- Quarantine a member, which then refetches the shard; a refetch under way, or one that a BASE_RO region has refused, is
not repeated (R329). -/
def State.quarantine (s : State) (m k : Nat) : State :=
  if s.replica.refetch.contains (m, k) then s
  else
    let s := s.modReplica fun r => { r with
      quarantined := if r.quarantined.contains m then r.quarantined else m :: r.quarantined
      since := if r.quarantined.contains m then r.since else (m, s.tsc) :: r.since
      refetch := r.refetch ++ [(m, k)] }
    (s.orderMember .quarantine m k).logReplica m k 1

/-- A member of a whole device that was quarantined counts as downtime at share 1 (R404). -/
def State.quarantineEnds (s : State) (m : Nat) : State :=
  match s.replica.since.find? (·.1 = m) with
  | some e =>
    let s := if memberDev m = s.mod.pos.val ∧ !s.mode.cur.four then s.addDown ((s.tsc - e.2) / 1000) 128 else s
    s.modReplica fun r => { r with since := r.since.filter (·.1 ≠ m) }
  | none => s

/-- Restore a member whose shards all match again. -/
def State.restoreMember (s : State) (m k : Nat) : State :=
  let s := if s.replica.refetch.all fun e => e.1 ≠ m || e == (m, k) then s.quarantineEnds m else s
  let s := s.modReplica fun r =>
    let l := r.refetch.filter (· ≠ (m, k))
    { r with refetch := l, quarantined := if l.any (·.1 = m) then r.quarantined else r.quarantined.filter (· ≠ m) }
  (s.orderMember .restore m k).logReplica m k 0

/-- A member is no longer quarantined, whatever it had to refetch. -/
def State.releaseMember (s : State) (m : Nat) : State :=
  (s.quarantineEnds m).modReplica fun r => { r with
    quarantined := r.quarantined.filter (· ≠ m), refetch := r.refetch.filter (·.1 ≠ m) }

/-- A member's partition reset has scrubbed it, which ends its quarantine (R329); its coordinator hears of it. -/
def State.memberReset (s : State) (m : Nat) : State :=
  let was := s.replica.quarantined.contains m
  let s := s.releaseMember m
  match s.coordinator with
  | some c => if was ∧ memberDev c ≠ s.mod.pos.val then s.controlOf (some (memberPart m)) (memberDev c) 0x38 [useCode .restore, m, 0] else s
  | none => s

/-- The member that R329 quarantines where no strict majority agrees: the worst ECC record, then the highest number. -/
def worstMember (l : List (Nat × Nat)) : Option Nat :=
  (l.foldl (fun (b : Option (Nat × Nat)) e => match b with
    | none => some e
    | some c => if c.2 < e.2 ∨ (c.2 = e.2 ∧ c.1 < e.1) then some e else some c) none).map (·.1)

/-- A round is abandoned (R328): what it has gathered is dropped. -/
def State.abandonRound (s : State) : State :=
  s.modReplica fun r => { r with round := false, cause := none, fresh := [], compared := [], differ := false }

/-- The members that R329 quarantines where the digests of a shard differ, by their digest and ECC record. -/
def blamed (ds : List (Nat × BitVec 256 × Nat)) : List Nat :=
  let count (d : BitVec 256) : Nat := (ds.filter fun e => e.2.1 == d).length
  match ds.find? fun e => decide (ds.length < 2 * count e.2.1) with
  | some e => (ds.filter fun x => x.2.1 ≠ e.2.1).map (·.1)
  | none => (worstMember (ds.map fun e => (e.1, e.2.2))).toList

/-- Compare a shard once a digest of it has come from every member. -/
def State.compareShard (s : State) (k : Nat) : State :=
  let ms := s.members
  if !ms.all fun m => s.replica.fresh.contains (m, k) then s
  else
    let ds := ms.filterMap fun m => (s.digestAt m k).map fun d => (m, d)
    let equal := ds.all fun e => ds.all fun x => e.2.1 == x.2.1
    let s := s.modReplica fun r => { r with
      fresh := r.fresh.filter (·.2 ≠ k), compared := r.compared ++ [k], differ := r.differ || !equal }
    if equal then s else (blamed ds).foldl (fun s m => s.quarantine m k) s

/-- A quarantined member's digest after its refetch: it matches the others and is restored; or it holds the golden copy
while they differ, and they are quarantined in its place. -/
def State.refetched (s : State) (m k : Nat) (d : BitVec 256) : State :=
  let others := s.members.filter fun x => x ≠ m && !s.replica.quarantined.contains x
  let wrong := others.filter fun x => (s.digestAt x k).any (·.1 != d)
  (wrong.foldl (fun s x => s.quarantine x k) s).restoreMember m k

/-- The round ends once every shard is compared: equal shards after an output difference are logged with both slots and
generations (R330). -/
def State.endRound (s : State) (n : Nat) : State :=
  if !s.replica.round ∨ !(List.range n).all s.replica.compared.contains then s
  else
    let s := match s.replica.cause with
      | some (a, b) =>
        if s.replica.differ then s
        else s.emit (.log none .outputMismatch [a.slot, a.gen.toNat, b.slot, b.gen.toNat])
      | none => s
    s.modReplica fun r => { r with round := false, cause := none, compared := [], differ := false }

/-- What abandons a round: a mode change, a partition reset of a member of this device, an unreachable member (R328). -/
def State.roundLost (s : State) : Bool :=
  s.mode.st != .stable || s.members.any fun m =>
    if memberDev m == s.mod.pos.val then s.sec.resetting.contains (memberPart m) else !s.reachable (memberDev m)

/-- A digest at the coordinator. -/
def State.takeDigest (s : State) (after : Bool) (m k : Nat) (d : BitVec 256) (e : Nat) : State :=
  if after then
    let s := s.putDigest m k d e
    if s.replica.refetch.contains (m, k) then s.refetched m k d else s
  else if s.roundLost then s.abandonRound
  else
    let s := ((s.putDigest m k d e).modReplica fun r => { r with
      fresh := r.fresh.filter (· ≠ (m, k)) ++ [(m, k)] }).compareShard k
    match s.coordinator with
    | some c => s.endRound (s.shardCount (memberPart c))
    | none => s

/-- Send a member's digest to the coordinator: MSGT 0x38 with member, shard, digest and ECC record. -/
def State.sendDigest (s : State) (after : Bool) (m k : Nat) : State :=
  let d := s.shardDigest (memberPart m) k
  let e := s.eccRecord (memberPart m)
  let s := s.modReplica fun r => { r with
    table := r.table.filter (·.1 ≠ 2 ^ 16 * m + k) ++ [(2 ^ 16 * m + k, d, s.tsc)] }
  match s.coordinator with
  | none => s
  | some c =>
    if memberDev c = s.mod.pos.val then s.takeDigest after m k d e
    else s.controlOf (some (memberPart m)) (memberDev c) 0x38
      ([if after then useCode .refetched else useCode .round, m, k] ++ digestWords d ++ [e])

/-- A round: each member of this device digests its shards (R328). -/
def State.digestRound (s : State) : State :=
  if s.ownMembers.isEmpty ∨ s.roundLost then s.abandonRound
  else
    let s := s.modReplica fun r => { r with round := true, compared := [], differ := false }
    s.ownMembers.foldl (fun s m =>
      (List.range (s.shardCount (memberPart m))).foldl (fun s k => s.sendDigest false m k) s) s

/-- An immediate round (R330): the coordinator has every other member's device start one. -/
def State.startRound (s : State) (a b : OutDigest) : State :=
  let devs := ((s.members.map memberDev).filter (· ≠ s.mod.pos.val)).eraseDups
  (devs.foldl (fun s d => s.control d 0x38 [useCode .start, 4 * d, 0])
    (s.modReplica fun r => { r with cause := some (a, b) })).digestRound

/-! ### Output compare (R330) -/

/-- The digest of a paired work's output at the coordinator: it is compared with the digest that another member's work of
the same UTAG gave for the same unit. -/
def State.takeOutput (s : State) (x : OutDigest) : State :=
  match s.replica.pairs.find? fun e => e.utag == x.utag && e.unit == x.unit && e.member != x.member with
  | none => s.modReplica fun r => { r with
      pairs := r.pairs.filter (fun e => !(e.utag == x.utag && e.unit == x.unit)) ++ [x] }
  | some e =>
    let s := s.modReplica fun r => { r with pairs := r.pairs.filter (· ≠ e) }
    if e.digest = x.digest then s else s.startRound e x

/-- A committed unit of a SERVE work of a replica member whose UTAG has bit 63 set: its output's digest goes to the
coordinator, which compares the pair (by a DIGEST message, DESIGN CHOICE, log 38). -/
def State.compareOutput (s : State) (i : Nat) (gen : BitVec 32) (unit p utag : Nat) (outs : List Byte) : State :=
  let m := 4 * s.mod.pos.val + p
  if s.odVal 0x705005 0 = 0 ∨ !bit utag 63 ∨ !s.members.contains m then s
  else
    let d := BitVec.ofNat 256 (leNat (sha256 outs))
    let x : OutDigest := ⟨BitVec.ofNat 64 utag, m, i, gen, unit, d⟩
    match s.coordinator with
    | none => s
    | some c =>
      if memberDev c = s.mod.pos.val then s.takeOutput x
      else s.controlOf (some (memberPart m)) (memberDev c) 0x38
        ([useCode (.output x.utag i gen), m, unit] ++ digestWords d ++ [0, utag, i, gen.toNat])

end Sys2Proof.Machine
end

