-- ==== Sys2Proof/Machine/Groups.lean ====
section
/-!
DEFINITION. Work slots, batches, groups and the end of work (R231 to R249): the scanner, references, SERVE work, the
group protocol, and completion records.
-/

namespace Sys2Proof.Machine

/-! ### Group handles (R242) -/

def ghLeader (h : BitVec 64) : Nat := bits h.toNat 63 61
def ghPart (h : BitVec 64) : Nat := bits h.toNat 60 59

/-- A message of the group protocol: the handle, then its fields. -/
def State.groupMsg (s : State) (h : BitVec 64) (p msgt : Nat) (args : List Nat) : State :=
  s.controlOf (some (ghPart h)) p msgt (h.toNat :: args)
def ghId (h : BitVec 64) : Nat := bits h.toNat 47 0

def State.grp (s : State) (h : BitVec 64) : Option Group := s.work.groups.find? (·.handle = h)

def State.modGrp (s : State) (h : BitVec 64) (f : Group → Group) : State :=
  { s with work := { s.work with groups := s.work.groups.map fun g => if g.handle = h then f g else g } }

def State.dropGrp (s : State) (h : BitVec 64) : State :=
  { s with work := { s.work with groups := s.work.groups.filter (·.handle ≠ h) } }

/-- Slots of this device that hold live parts of a group. -/
def State.partsHere (s : State) (h : BitVec 64) : List Nat :=
  (s.work.slots.filter fun e => e.2.live && e.2.group == h && h != 0).map (·.1)

/-- Other devices that hold registered parts. -/
def State.devicesOf (s : State) (g : Group) : List Nat :=
  (List.range 8).filter fun d => d ≠ s.mod.pos.val && g.parts.any (·.dev = d)

/-- Every live part here stops and ends with one status. -/
def State.endParts (s : State) (h : BitVec 64) (st : Status) (fpart : Nat) (pstat : Status) (tokens : Nat) : State :=
  (s.partsHere h).foldl (fun s i => (s.modWork i fun w => { w with tokens := tokens }).stopEnd i st fpart pstat) s

/-! ### Failure and abort (R244, R246) -/

/-- A TRAIN work that has written PREPARED for its last step: an abort no longer changes its status (R249). -/
def State.lastPrepared (s : State) (i : Nat) : Bool :=
  match s.jobOf i with
  | some j => s.jobPrepared j && decide (j.committed + 1 = (s.wk i).at 0x50 63 32)
  | none => false

/-- An abort reaches a live part. One that has written its last PREPARED goes on alone; one that copies a unit with its
COMMIT ends after the copy; any other ends at once (R249, R257). -/
def State.abortPart (s : State) (i : Nat) : State :=
  if s.lastPrepared i then s.modWork i fun w => { w with alone := true }
  else if (s.wk i).copying then (s.stopPrograms i).modWork i fun w => { w with aborting := true }
  else s.stopEnd i St.aborted

/-- An abort reaches every live part here. -/
def State.abortParts (s : State) (h : BitVec 64) : State := (s.partsHere h).foldl State.abortPart s

/-- The leader fails a group: DISCARD to the other devices, and every part here ends GROUP_PART_FAILED; a group under abort
ends ABORTED (R249). -/
def State.leaderFail (s : State) (h : BitVec 64) (fpart : Nat) (pstat : Status) : State :=
  match s.grp h with
  | none => s.endParts h St.groupPartFailed fpart pstat 0
  | some g =>
    if g.aborting then (s.endParts h St.aborted 0 0 g.tokens).dropGrp h
    else
      let s := (s.devicesOf g).foldl (fun s d => s.groupMsg h d 0x14 [fpart, pstat.toNat, g.tokens]) s
      (s.endParts h St.groupPartFailed fpart pstat g.tokens).dropGrp h

/-- The leader aborts a group: at once, or, where the unit has its COMMIT, once every part has copied it (R257). -/
def State.leaderAbort (s : State) (h : BitVec 64) : State :=
  match s.grp h with
  | none => s.abortParts h
  | some g =>
    let s := (s.devicesOf g).foldl (fun s d => s.groupMsg h d 0x17 [g.tokens]) s
    let s := (s.partsHere h).foldl (fun s i => s.modWork i fun w => { w with tokens := g.tokens }) s
    if g.committed then (s.modGrp h fun g => { g with aborting := true }).abortParts h else (s.abortParts h).dropGrp h

/-- A work fails with a status of its own: an ungrouped work ends with it; a part reports it, and waits for the leader's
DISCARD (R243, R244). -/
def State.workFail (s : State) (i : Nat) (st : Status) : State :=
  let w := s.wk i
  if !w.live then s
  else if w.aborting then s.stopEnd i St.aborted
  else if w.group = 0 ∨ w.alone then s.stopEnd i st
  else if ghLeader w.group = s.mod.pos.val then s.leaderFail w.group w.part st
  else if s.reachable (ghLeader w.group) then
    ((s.stopWork i).modWork i fun w => { w with stopped := true, staged := [], ready := false, copying := false }).groupMsg
      w.group (ghLeader w.group) 0x12 [w.part, st.toNat]
  else s.stopEnd i St.groupPartFailed 0xFF St.peerUnreachable

/-- An abort of a live work, and with it of its group (R246). -/
def State.abortWork (s : State) (i : Nat) : State :=
  let w := s.wk i
  if !w.live ∨ s.lastPrepared i then s
  else if w.group = 0 then s.stopEnd i St.aborted
  else if ghLeader w.group = s.mod.pos.val then s.leaderAbort w.group
  else (s.groupMsg w.group (ghLeader w.group) 0x17 [w.tokens]).abortParts w.group

/-- A peer became unreachable: groups that span it fail (R244, R301). -/
def State.groupsLose (s : State) (p : Nat) : State :=
  let s := s.work.groups.foldl (fun s g =>
    match g.parts.find? (·.dev = p) with
    | some r => s.leaderFail g.handle r.part St.peerUnreachable
    | none => s) s
  (s.work.slots.filter fun e => e.2.live && e.2.group != 0 && ghLeader e.2.group == p).foldl
    (fun s e => s.stopEnd e.1 St.groupPartFailed 0xFF St.peerUnreachable) s

/-! ### Commit units (R243) -/

/-- Host offset of a work's outputs: OUT of SERVE, DST of EXPORT (R237). -/
def Work.outAt (w : Work) : Nat := if w.kind = 4 then w.body 0x10 else w.body 0x18

/-- Bytes that the outputs may take: OUTLEN or DLEN (R237). -/
def Work.outLen (w : Work) : Nat := if w.kind = 4 then w.body 0x18 else w.body 0x20

/-- Outputs stay within their length, beyond which the spec states no result and the work ends ADDRESS_INVALID (DESIGN
CHOICE, log 35), and within the 2^44 bytes of a context's host addresses (R261). -/
def Work.outsFit (w : Work) (outs : List (Nat × List Byte)) : Bool :=
  outs.all fun e => decide (e.1 + e.2.length ≤ w.outLen) && decide (w.outAt + e.1 + e.2.length ≤ 2 ^ 44)

/-- The copy of a unit's staged outputs to OUT begins: one PUT each. -/
def State.partCommit (s : State) (i : Nat) : State :=
  let w := s.wk i
  if w.live ∧ w.ready ∧ !w.stopped then
    let out := w.outAt
    let s := w.staged.foldl (fun s e =>
      (s.issue (firmOp (.output i) (s.slotPart i) 1 (hostAddr w.ctx (out + e.1)) e.2)).emit
        (.output i w.ctx (BitVec.ofNat 64 (out + e.1)) e.2)) s
    let s := if w.kind = 1 then
        s.compareOutput i w.gen w.unit (s.slotPart i) (w.at 0x28 63 0) (w.staged.flatMap (·.2))
      else s
    s.modWork i fun w => { w with ready := false, copying := true, copiedHeld := false, staged := [] }
  else s

/-- An output PUT has succeeded: its bytes are written, or one export shard is (R237). -/
def State.noteWritten (s : State) (i n : Nat) : State :=
  s.modWork i fun w => { w with bytes := w.bytes + (if w.kind = 4 then 1 else n) }

/-- Every output PUT of the work's unit has its answer. -/
def State.copied (s : State) (i : Nat) : Bool := (s.wk i).copying && s.ops.all (·.who ≠ .output i)

/-- The work has copied its unit; it goes on to the next. A part of another device's group counts what it has copied, until
the leader's message says what every part has (R243, R248). -/
def State.afterCopy (s : State) (i : Nat) : State :=
  s.modWork i fun w => { w with
    copying := false, copiedHeld := true, unit := w.unit + 1
    tokens := if w.group = 0 ∨ ghLeader w.group = s.mod.pos.val then w.tokens else w.unit + 1 }

/-- COMMIT of the group's unit, once every part is registered and READY. -/
def State.leaderCommit (s : State) (h : BitVec 64) : State :=
  match s.grp h with
  | none => s
  | some g =>
    if g.parts.length = g.npart ∧ !g.committed ∧ g.parts.all (fun r => g.ready.contains (64 * g.unit + r.part)) then
      let s := (s.devicesOf g).foldl (fun s d => s.groupMsg h d 0x13 [g.unit]) s
      let s := (s.modGrp h fun g => { g with committed := true })
      (s.partsHere h).foldl (fun s i =>
        let s := s.partCommit i
        if s.copied i then (s.afterCopy i).modGrp h fun g => { g with copied := (64 * g.unit + (s.wk i).part) :: g.copied }
        else s) s
    else s

/-- COPIED of the unit has come from every part: the next unit, or END. -/
def State.leaderNext (s : State) (h : BitVec 64) : State :=
  match s.grp h with
  | none => s
  | some g =>
    if g.committed ∧ g.parts.all (fun r => g.copied.contains (64 * g.unit + r.part)) then
      if g.aborting then (s.endParts h St.aborted 0 0 (g.tokens + 1)).dropGrp h
      else if g.parts.all (fun r => g.lastBy.contains r.part) then
        let s := (s.devicesOf g).foldl (fun s d => s.groupMsg h d 0x16 [g.tokens + 1]) s
        ((s.partsHere h).foldl (fun s i =>
          (s.modWork i fun w => { w with tokens := g.tokens + 1 }).endWork i St.ok) s).dropGrp h
      else s.modGrp h fun g => { g with
        unit := g.unit + 1, tokens := g.tokens + 1, committed := false, copied := []
        ready := g.ready.filter fun r => 64 * (g.unit + 1) ≤ r }
    else s

/-- What the leader does after any report: a part is READY for the next unit only after its own COPIED, so two rounds
reach the end. -/
def State.leaderRun (s : State) (h : BitVec 64) : State := (((s.leaderCommit h).leaderNext h).leaderCommit h).leaderNext h

/-- A part reports to its leader: here, or by a control message. -/
def State.report (s : State) (w : Work) (msgt : Nat) (f : Group → Group) (last : Bool) : State :=
  if ghLeader w.group = s.mod.pos.val then (s.modGrp w.group f).leaderRun w.group
  else s.groupMsg w.group (ghLeader w.group) msgt [w.part, w.unit, last.toNat]

/-- A work has completed its unit into staging: READY, or the commit at once where it is its own leader (R243). -/
def State.partReady (s : State) (i : Nat) (last : Bool) : State :=
  let s := s.modWork i fun w => { w with ready := true, last := last }
  let w := s.wk i
  if w.group = 0 ∨ w.alone then
    let s := s.partCommit i
    if s.copied i then
      let s := (s.afterCopy i).modWork i fun w => { w with tokens := w.tokens + 1, copiedHeld := false }
      if last then s.endWork i St.ok else s
    else s
  else s.report w 0x11 (fun g => { g with
    ready := (64 * w.unit + w.part) :: g.ready
    lastBy := if last then w.part :: g.lastBy else g.lastBy }) last

/-- The last output PUT of a unit has its answer: COPIED. A part under abort then ends, unless its leader here waits for the
other parts (R257). -/
def State.partCopied (s : State) (i : Nat) : State :=
  if s.copied i then
    let w := s.wk i
    let s := s.afterCopy i
    if w.group = 0 then
      let s := s.modWork i fun w => { w with tokens := w.tokens + 1, copiedHeld := false }
      if w.last then s.endWork i St.ok else s
    else
      let s := s.report w 0x15 (fun g => { g with copied := (64 * w.unit + w.part) :: g.copied }) w.last
      if w.aborting ∧ (s.grp w.group).isNone then s.endWork i St.aborted else s
  else s

/-! ### Registration (R245) -/

/-- Groups that the leader's table may hold beside this one. -/
def State.groupRoom (s : State) (h : BitVec 64) : Bool :=
  if s.mode.cur.four then decide ((s.work.groups.filter fun g => ghPart g.handle = ghPart h).length < 256)
  else decide (s.work.groups.length < 1024)

/-- Refuse a part for which the leader has no record: its device discards it. -/
def State.refusePart (s : State) (h : BitVec 64) (dev : Nat) (pstat : Status) : State :=
  if dev = s.mod.pos.val then s.endParts h St.groupPartFailed 0xFF pstat 0
  else s.groupMsg h dev 0x14 [0xFF, pstat.toNat, 0]

def State.leaderRegister (s : State) (dev : Nat) (h : BitVec 64) (part npart : Nat) : State :=
  match s.grp h with
  | none =>
    if s.groupRoom h then
      let g : Group := { handle := h, npart := npart, parts := [⟨part, dev⟩] }
      State.leaderRun { s with work := { s.work with groups := s.work.groups ++ [g] } } h
    else s.refusePart h dev St.groupTableFull
  | some g =>
    let s' := s.modGrp h fun g => { g with parts := g.parts ++ [⟨part, dev⟩] }
    if g.npart ≠ npart then s'.leaderFail h 0xFF St.groupMismatch
    else if g.parts.any (·.part = part) then s'.leaderFail h part St.groupPartDuplicate
    else s'.leaderRun h

/-- An accepted part registers with its leader (R245). -/
def State.register (s : State) (i : Nat) : State :=
  let w := s.wk i
  let l := ghLeader w.group
  if w.group = 0 ∨ !w.live then s
  else if l = s.mod.pos.val then s.leaderRegister l w.group w.part w.npart
  else if s.reachable l then s.groupMsg w.group l 0x10 [w.part, w.npart]
  else s.stopEnd i St.groupPartFailed 0xFF St.peerUnreachable

/-! ### Acceptance (R237, R242, R160) -/

/-- Reserved bits, ranges and group rules of a descriptor (R237, R242). -/
def State.descOk (s : State) (i : Nat) (w : Work) : Bool :=
  let k := w.kind
  let h := w.group
  let da := w.da
  let daOk := k == 3 || (bits da 62 56 == 0 && bits da 47 19 == 0 && (daAv da || k == 1))
  w.at 0 55 0 == 0 && w.at 0x10 50 16 == 0 && w.at 0xF0 63 32 == 0 && w.at 0xF8 63 32 == 0
    && 1 ≤ k && k ≤ 5 && daOk
    && (k != 2 || w.at 0x50 63 32 != 0)
    && (if h = 0 then w.part == 0 && w.npart == 1
      else (k == 1 || k == 2) && ghId h != 0 && bits h.toNat 58 48 == 0 && ghPart h == s.slotPart i
        && !s.absent (ghLeader h) && decide (w.part < w.npart) && decide (w.npart ≤ 64))

/-- A DIRECTORY block has a known OP, zero reserved and unused fields, for CREATE ranks and codes of R152, and for PARK
all of SRC, LEN and DIGEST or none (R160, R161). -/
def dirBlockOk (b : BitVec 768) : Bool :=
  let n := b.toNat
  let op := bits n 63 56
  let rank (g : Nat) := bits n (128 + 40 + 3 * g + 2) (128 + 40 + 3 * g)
  let code (c : Nat) := c == 0 || c == 5
  let zero (hi lo : Nat) := bits n hi lo == 0
  decide (1 ≤ op ∧ op ≤ 10) && zero 47 45 && zero 25 24 && zero 159 144 && zero 767 576
    && (if op = 1 then zero 55 48 && (List.range 8).all (fun g => rank g ≤ 5) && code (bits n 167 164) && code (bits n 163 160)
      else zero 127 64 && zero 191 160)
    && (op == 1 || op == 9 || zero 23 0)
    && (op == 1 || op == 3 || zero 575 192)
    && (op != 3 || (zero 255 192 == zero 319 256 && zero 319 256 == zero 575 320))
    && (op == 3 || op == 7 || op == 10 || zero 143 128)

/-- BODY's command block (R237). -/
def Work.block (w : Work) : BitVec 768 := BitVec.ofNat 768 (bits w.desc.toNat (8 * 0x30 + 767) (8 * 0x30))

/-- R186: the entry is TRAINING, its OWNER is the partition, and every listed base region carries BASE_RO. -/
def State.trainCheck (s : State) (p didx : Nat) : Option Status :=
  let l := s.baseList p
  if !s.didxOk p didx ∨ (s.entry didx).st ≠ .training ∨ (s.entry didx).owner ≠ p then some St.adapterStateInvalid
  else if l.isEmpty ∨ !l.all (fun e => (tabGet {} s.regions e).v && (tabGet {} s.regions e).baseRo) then
    some St.adapterBaseUnlocked
  else none

/-- The checks at acceptance, by kind (R237). -/
def State.acceptCheck (s : State) (i : Nat) (w : Work) : Option Status :=
  if !s.descOk i w then some St.workDescInvalid
  else match w.kind with
    | 1 => if w.at 0x40 63 32 + w.at 0x40 31 0 > 10485760 then some St.sequenceTooLong else none
    | 2 => s.trainCheck (s.slotPart i) (daDidx w.da)
    | 3 => if dirBlockOk w.block then none else some St.adapterCmdInvalid
    | _ => none

/-- The expected generation after a work (R233). -/
def nextGen (g : BitVec 32) : BitVec 32 := if g = 0xFFFFFFFF then 1 else g + 1

/-- The device writes 0 to VALID; a granule that is uncorrectable keeps what it holds (R321). -/
def State.clearValid (s : State) (i : Nat) : State :=
  (s.hbmPut (Init.firmware (s.slotPart i)) (s.slotOff i + 0xF8) (natLE 0 8)).1

/-- VALID is 0, the generation advances, the slot is FREE (R233). -/
def State.freeSlot (s : State) (i : Nat) : State :=
  let s := s.clearValid i
  s.modWork i fun w => { gen := nextGen w.gen }

/-- The scanner meets a slot that is FREE with a non-zero VALID (R237). -/
def State.acceptSlot (s : State) (i : Nat) : State :=
  let d := BitVec.ofNat 2048 (leNat (s.hbmRead (s.slotOff i) 256))
  let valid := descAt d 0xF8 31 0
  let g := (s.wk i).gen
  let w : Work := { gen := g, desc := d, tacc := s.tsc, seq := s.work.accepted }
  if valid ≠ g.toNat then
    let rec_ : Work := { w with tend := s.tsc, value := BitVec.ofNat 64 g.toNat }
    (s.issueRecord i rec_ valid St.workGenMismatch).clearValid i
  else if !s.deliverable (s.slotPart i) w.ctx (w.at 0x18 63 0) (w.at 0x20 63 0) then
    (s.freeSlot i).countUndeliverable
  else
    let s := s.modWork i fun _ => { w with st := .held, gathering := w.kind == 1 }
    let s := { s with work := { s.work with accepted := s.work.accepted + 1 } }
    match s.acceptCheck i w with
    | some st => s.endWork i st
    | none => s.register i

/-! ### The scanner (R237, R246) -/

/-- Keys of the slots whose bytes are not all zero, ascending. -/
def State.placedSlots (s : State) : List Nat :=
  let b := s.slotBase
  (s.hbm.foldl (fun (l : List Nat) kv =>
    if b ≤ kv.1 ∧ kv.1 < b + 0x400000 then
      let i := (kv.1 - b) / 256
      if l.head? = some i then l else i :: l
    else l) []).reverse

/-- Start-up has completed and the scanner runs (R428, R429). -/
def State.serving (s : State) : Bool := s.boot = .ready || s.boot = .degraded

/-- One slot of a sweep: its ABORT word, then its VALID word. -/
def State.scanSlot (s : State) (i : Nat) : State :=
  let w := s.wk i
  let ab := s.hbmNat (s.slotOff i + 0xF0) 8 % 2 ^ 32
  let s := if w.live ∧ ab = w.gen.toNat then s.abortWork i else s
  let valid := s.hbmNat (s.slotOff i + 0xF8) 8 % 2 ^ 32
  if w.st = .free ∧ valid ≠ 0 ∧ s.mode.st = .stable ∧ !s.sec.resetting.contains (s.slotPart i) then s.acceptSlot i
  else s

/-- One sweep, ascending from a start slot that advances by one (R237, R238). -/
def execScannerSweep (s : State) : Out :=
  if !s.serving then .next s else
  let l := s.placedSlots
  let f := s.work.sweepFrom
  let order := l.filter (f ≤ ·) ++ l.filter (· < f)
  let s := order.foldl State.scanSlot s
  .next { s with work := { s.work with sweepFrom := (f + 1) % 16384 } }

/-! ### References and batches (R165, R239) -/

/-- A load starts (R163, R164). -/
def State.startLoad (s : State) (d : Nat) (cmd : Option DirCmd) : State :=
  let s := s.modEntry d fun e => { e with st := .loading }
  { s with dir := { s.dir with loads := s.dir.loads ++ [⟨d, cmd⟩] } }

/-- Firmware writes the sort record of an adapted request of a batch: KEY, its entry's cache line, and REQ, its number
(R175). -/
def State.noteKey (s : State) (i d : Nat) : State :=
  let add (b : Batch) : Batch := match b.reqs.idxOf? i, s.lineOf d with
    | some q, some line => { b with records := b.records ++ [BitVec.ofNat 32 (line % 16384 * 4096 + q % 4096)] }
    | _, _ => b
  { s with work := { s.work with batches := s.work.batches.map add } }

/-- The reference of a work on an entry that is in a line (R165). -/
def State.refOutcome (s : State) (i d : Nat) : State :=
  let e := s.entry d
  let take (s : State) :=
    ((s.modEntry d fun e => { e with refcnt := e.refcnt + 1 }).modWork i fun w => { w with ref := some d }).noteKey i d
  let wait (s : State) := (take s).modWork i fun w => { w with waitLoad := true }
  if e.gen.toNat ≠ daGen (s.wk i).da then s.workFail i St.adapterStale
  else match e.st with
    | .empty => s.workFail i St.adapterNotFound
    | .parked => (wait s).startLoad d none
    | .loading => wait s
    | .resident | .pinned => take s
    | .training => if e.pub then take s else s.workFail i St.adapterNotReady
    | .revoked => s.workFail i St.adapterRevoked

/-- A work takes the reference that its DA word names, or waits for a line, or is refused (R159, R165). -/
def State.takeRef (s : State) (i : Nat) : State :=
  let da := (s.wk i).da
  let d := daDidx da
  if !daAv da then s
  else if !s.didxOk (s.slotPart i) d then s.workFail i St.adapterIndexInvalid
  else if s.walkFails d then (s.noteWalk d).workFail i St.memoryUncorrectable
  else match s.takeLine d with
    | some s => s.refOutcome i d
    | none => { s with dir := { s.dir with lineWaits := s.dir.lineWaits ++ [.ref i] } }

/-! ### The batch sorter (R175 to R177) -/

/-- One stable counting-sort pass of 128 buckets on bits [lo + 6:lo]. -/
def bucketPass (lo : Nat) (l : List (BitVec 32)) : List (BitVec 32) :=
  (List.range 128).flatMap fun b => l.filter fun r => bits r.toNat (lo + 6) lo == b

/-- The two passes. -/
def sortRecords (l : List (BitVec 32)) : List (BitVec 32) := bucketPass 19 (bucketPass 12 l)

def recKey (r : BitVec 32) : Nat := bits r.toNat 25 12
def recReq (r : BitVec 32) : Nat := bits r.toNat 11 0

/-- Sub-batches of sorted records: runs of one KEY, in order. -/
def subBatches (l : List (BitVec 32)) : List (List (BitVec 32)) := l.splitBy fun a b => recKey a == recKey b

/-- Where each of these lists begins in their concatenation. -/
def startsOf : Nat → List (List (BitVec 32)) → List Nat
  | _, [] => []
  | o, g :: l => o :: startsOf (o + g.length) l

/-- The lead core sorts a batch: the order, the starts of its sub-batches, and how each runs: APPLY from the gather
threshold up, the smaller ones packed together in GATHER, then the requests without an adaptation (R175, R177). -/
def Batch.sorted (b : Batch) (threshold : Nat) (plain : List Nat) : Batch :=
  let order := sortRecords b.records
  let subs := subBatches order
  let (big, small) := subs.partition fun g => decide (threshold ≤ g.length)
  let packed := small.flatMap (·.map recReq)
  { b with
    order := order, starts := startsOf 0 subs
    runs := big.map (fun g => (1, g.map recReq)) ++ (if packed.isEmpty then [] else [(2, packed)])
      ++ (if plain.isEmpty then [] else [(0, plain)]) }

/-- Requests of a batch that name no adaptation, in arrival order. -/
def State.plainOf (s : State) (b : Batch) : List Nat :=
  (List.range b.reqs.length).filter fun q => !daAv (s.wk (b.reqs.getD q 0)).da

/-- The batch of a work starts on a shelf: the lead core sorts it, and the trim cores copy the order and the starts
there (R175). Where firmware keeps records, order and starts in the lead core's operand buffer and the shelves' SRAM is
not given: the model keeps them with the batch. DESIGN CHOICE, log 79. -/
def State.sortBatch (s : State) (i sh : Nat) : State :=
  let put (b : Batch) : Batch :=
    if b.reqs.contains i then
      { b.sorted (s.odVal 0x504001 16) (s.plainOf b) with
        shelves := if b.shelves.contains sh then b.shelves else b.shelves ++ [sh] }
    else b
  { s with work := { s.work with batches := s.work.batches.map put } }

/-- New batches, beside those that still have a live request. -/
def State.addBatches (s : State) (l : List Batch) : State :=
  let old := s.work.batches.filter fun b => b.reqs.any fun i => (s.wk i).live
  { s with work := { s.work with batches := old ++ l } }

/-- Works in the order of their acceptance (R238). -/
def State.byAcceptance (s : State) (l : List Nat) : List Nat := l.insertionSort fun a b => (s.wk a).seq ≤ (s.wk b).seq

/-- The batch window ends: the gathered requests of each partition, at most 4,096, are handed to shelves as one batch, or
each alone where OD 2070.02 is 0, and each takes its reference (R165, R239). -/
def execBatchWindowExpiry (s : State) : Out :=
  let ready := s.byAcceptance ((s.work.slots.filter fun e => e.2.st = .held && e.2.gathering).map (·.1))
  let ids (p : Nat) : List Nat := (ready.filter fun i => s.slotPart i = p).take 4096
  let alone := s.odVal 0x207002 20 == 0
  let parts := (List.range 4).filter fun p => !(ids p).isEmpty
  let batches : List Batch := parts.flatMap fun p =>
    if alone then (ids p).map fun i => { part := p, reqs := [i] } else [{ part := p, reqs := ids p }]
  .next ((parts.flatMap ids).foldl (fun s i =>
    (s.modWork i fun w => { w with gathering := false, handed := true }).takeRef i) (s.addBatches batches))

/-! ### SERVE work (R243, R167) -/

/-- A reference that a work needs and has not got: it waits for a line or for a load. -/
def State.refWaits (s : State) (i : Nat) : Bool :=
  (s.wk i).waitLoad || s.dir.lineWaits.contains (.ref i)

/-- The arithmetic domain that runs a partition's work is down (R382). -/
def State.domainDown (s : State) (p : Nat) : Bool :=
  s.power.trip || (if s.mode.cur.four then (s.island p).down else (List.range 4).any fun q => (s.island q).down)

/-- SERVE and TRAIN work of the partition may start: its replica member is not quarantined (R329) and its arithmetic
domain is up (R249). -/
def State.mayStart (s : State) (p : Nat) : Bool :=
  !s.replica.quarantined.contains (4 * s.mod.pos.val + p) && !s.domainDown p

/-- Class of a KIND (R237): serving, idle, control. -/
def Work.cls (w : Work) : Nat := min w.kind 3

/-- Firmware starts works of a class and partition in order of acceptance (R238): none accepted before work i is still
HELD, but for requests that wait for their entry (R239) and parts that have failed. -/
def State.firstHeld (s : State) (i : Nat) : Bool :=
  let w := s.wk i
  s.work.slots.all fun e =>
    e.2.st != .held || e.2.cls != w.cls || s.slotPart e.1 != s.slotPart i || decide (w.seq ≤ e.2.seq) || e.2.stopped
      || s.refWaits e.1

/-- One step of a SERVE work's request program. -/
def execServeWork (slot : Fin 16384) (a : ServeAct) (s : State) : Out :=
  let i := slot.val
  let w := s.wk i
  if w.kind ≠ 1 then .next s else
  match a with
  | .start sh =>
    if w.st = .held ∧ w.handed ∧ !s.refWaits i ∧ (s.shelvesOf (s.slotPart i)).contains sh.val ∧ s.mayStart (s.slotPart i)
        ∧ s.firstHeld i then
      .next (((s.modWork i fun w => { w with st := .running, shelf := sh.val }).modShelf sh.val fun h =>
        { h with serving := true }).sortBatch i sh)
    else .next s
  | .unit outs fl last =>
    if w.st = .running ∧ !w.ready ∧ !w.copying ∧ !w.stopped ∧ !w.last then
      if !w.outsFit outs then .next (s.workFail i St.addressInvalid)
      else .next ((s.modWork i fun w => { w with staged := outs, flags := w.flags ||| fl }).partReady i last)
    else .next s
  | .fail st => if w.st = .running ∧ !w.stopped ∧ St.known st ∧ st ≠ 0 then .next (s.workFail i st) else .next s

/-- A request reaches a token boundary: on REVOKED it ends there (R167). -/
def execTokenBoundary (slot : Fin 16384) (s : State) : Out :=
  let i := slot.val
  let w := s.wk i
  match w.ref with
  | some d => if w.st = .running ∧ w.kind = 1 ∧ (s.entry d).st = .revoked then .next (s.workFail i St.adapterRevoked) else .next s
  | none => .next s

/-! ### The group protocol's messages (R243 to R246) -/

def execGroupRegister (from_ : Fin 8) (h : BitVec 64) (part : Fin 64) (npart : Nat) (s : State) : Out :=
  .next (if ghLeader h = s.mod.pos.val then s.leaderRegister from_ h part npart else s)

def execGroupReady (h : BitVec 64) (part : Fin 64) (unit : Nat) (last : Bool) (s : State) : Out :=
  .next ((s.modGrp h fun g => { g with
    ready := (64 * unit + part.val) :: g.ready
    lastBy := if last then part.val :: g.lastBy else g.lastBy }).leaderRun h)

/-- FAIL reaches the leader; a part that lost the leader names no failing part (R244). A reserved code is no status: such a
message has no effect (DEDUCED from R256, log 83). -/
def execGroupFail (h : BitVec 64) (part : Fin 64) (st : Status) (s : State) : Out :=
  .next (if (s.grp h).isSome ∧ St.known st then s.leaderFail h (if st = St.groupLeaderLost then 0xFF else part) st else s)

/-- COMMIT(u) reaches the parts of this device whose unit it is. -/
def execGroupCommit (h : BitVec 64) (unit : Nat) (s : State) : Out :=
  .next ((s.partsHere h).foldl (fun s i =>
    if (s.wk i).unit = unit then (s.partCommit i).partCopied i else s) s)

def execGroupDiscard (h : BitVec 64) (fpart : Nat) (pstat : Status) (tokens : Nat) (s : State) : Out :=
  .next (if St.known pstat then s.endParts h St.groupPartFailed fpart pstat tokens else s)

def execGroupCopied (h : BitVec 64) (part : Fin 64) (unit : Nat) (s : State) : Out :=
  .next ((s.modGrp h fun g => { g with copied := (64 * unit + part.val) :: g.copied }).leaderRun h)

def execGroupEnd (h : BitVec 64) (tokens : Nat) (s : State) : Out :=
  .next ((s.partsHere h).foldl (fun s i =>
    (s.modWork i fun w => { w with tokens := tokens }).endWork i St.ok) s)

/-- ABORT reaches the leader, or a part, which counts what it has copied itself where that is more (R248). -/
def execGroupAbort (h : BitVec 64) (tokens : Nat) (s : State) : Out :=
  .next (if ghLeader h = s.mod.pos.val then s.leaderAbort h
    else ((s.partsHere h).foldl (fun s i => s.modWork i fun w => { w with tokens := max tokens w.tokens }) s).abortParts h)

def execGroupAssemblyTimeout (h : BitVec 64) (s : State) : Out :=
  match s.grp h with
  | some g => .next (if g.parts.length < g.npart then s.leaderFail h 0xFF St.groupAssemblyTimeout else s)
  | none => .next s

/-- A part that holds COPIED and no decision ends, and the group fails: the leader hears FAIL (R244). -/
def execGroupDecisionTimeout (slot : Fin 16384) (s : State) : Out :=
  let w := s.wk slot
  if !w.live ∨ w.group = 0 ∨ w.alone ∨ !w.copiedHeld then .next s
  else if ghLeader w.group = s.mod.pos.val then .next (s.leaderFail w.group 0xFF St.groupLeaderLost)
  else .next ((s.groupMsg w.group (ghLeader w.group) 0x12 [w.part, St.groupLeaderLost.toNat]).endParts w.group
    St.groupPartFailed 0xFF St.groupLeaderLost w.tokens)

/-! ### The end (R233, R240, R241, R249) -/

/-- The slot of an ENDING work is freed and its record issued, behind its output PUTs; while the arithmetic domain is
down it waits (R249). A part under abort that still copies abandons its copy and ends (R247). -/
def execWorkEnd (slot : Fin 16384) (s : State) : Out :=
  let i := slot.val
  let s := if (s.wk i).aborting then s.stopEnd i St.aborted else s
  let w := s.wk i
  if w.st = .ending ∧ s.ops.all (·.who ≠ .output i) ∧ !s.domainDown (s.slotPart i) then
    .next ((s.freeSlot i).issueRecord i w w.gen.toNat w.status)
  else .next s

end Sys2Proof.Machine
end

