-- ==== Sys2Proof/Machine/Od.lean ====
section
/-!
DEFINITION. The object dictionary: the listing of R419 and R420, the values that a read returns, the checks of R415,
and the store of R418.
-/

namespace Sys2Proof.Machine

/-! ### Attributes (R409, R411 to R414) -/

inductive OdType where
  | bool
  | u (bytes : Nat)
  | f32
  | enum (names : Nat)
  | str (n : Nat)
  | blob (n : Nat)
deriving DecidableEq, Repr

inductive OdAccess where
  | read
  | write
  | readWrite
  | writeOnce
deriving DecidableEq, Repr

inductive OdWorld where
  | open_
  | secureWrite
  | secure
deriving DecidableEq, Repr

inductive OdScope where
  | device
  | indexed
  | perPart
  | perCtx
deriving DecidableEq, Repr

/-- Entries of consecutive subindices with the same attributes: key 256 × index + subindex of the first, their number,
default and range. For F32 an upper limit of 0 stands for no range. -/
structure OdRow where
  key : Nat
  n : Nat
  typ : OdType
  acc : OdAccess
  world : OdWorld
  expert : Bool
  scope : OdScope
  dflt : Nat := 0
  lo : Nat := 0
  hi : Nat := 0
deriving DecidableEq, Repr

/-- Upper end of a type's own range. -/
def OdType.top : OdType → Nat
  | .bool => 1
  | .u n => 2 ^ (8 * n) - 1
  | .enum n => n - 1
  | _ => 0

/-- An open, basic, device-wide row. -/
def odO (key n : Nat) (t : OdType) (a : OdAccess) (d : Nat := 0) (lo : Nat := 0) (hi : Nat := t.top) : OdRow :=
  ⟨key, n, t, a, .open_, false, .device, d, lo, hi⟩

/-- A secure-write, basic, device-wide row. -/
def odS (key n : Nat) (t : OdType) (a : OdAccess) (d : Nat := 0) (lo : Nat := 0) (hi : Nat := t.top) : OdRow :=
  ⟨key, n, t, a, .secureWrite, false, .device, d, lo, hi⟩

/-- A secure, basic, device-wide row. -/
def odX (key n : Nat) (t : OdType) (a : OdAccess) (d : Nat := 0) (lo : Nat := 0) (hi : Nat := t.top) : OdRow :=
  ⟨key, n, t, a, .secure, false, .device, d, lo, hi⟩

def OdRow.exp (r : OdRow) : OdRow := { r with expert := true }
def OdRow.at_ (r : OdRow) (sc : OdScope) : OdRow := { r with scope := sc }

def odRows1 : List OdRow := [
  odO 0x100001 2 (.str 16) .read, odO 0x100003 1 (.u 2) .read, odO 0x100004 1 (.u 2) .read,
  odO 0x100005 1 (.enum 4) .read, odO 0x100006 1 (.enum 5) .read, odO 0x100101 3 (.u 4) .read,
  odO 0x100201 5 (.u 2) .read 0x0100, odO 0x101001 1 (.u 8) .read, odO 0x101002 1 (.blob 2048) .read,
  odO 0x101003 1 (.blob 1024) .read, odO 0x102001 1 (.enum 2) .read, odO 0x102002 1 (.blob 65) .writeOnce,
  odO 0x102003 1 (.u 8) .read, (odO 0x103001 1 (.blob 33) .write).at_ .perCtx,
  (odO 0x103002 1 (.enum 3) .read).at_ .perCtx, (odO 0x103003 1 (.blob 448) .read).at_ .perCtx,
  (odO 0x104001 1 (.enum 2) .readWrite).at_ .perCtx, (odS 0x104002 1 (.u 4) .readWrite 300 30 3600).exp,
  (odO 0x104003 1 (.enum 2) .read).at_ .perCtx, odO 0x200001 1 (.u 4) .read, odO 0x200002 1 (.u 4) .read,
  odO 0x200003 1 (.u 4) .write, odO 0x200004 1 (.u 2) .read, (odS 0x201001 1 (.enum 2) .read).exp,
  (odS 0x201002 1 (.enum 2) .readWrite).exp, odO 0x201101 1 (.u 1) .read 1, odO 0x201102 1 (.u 1) .readWrite 1 0 6,
  (odO 0x205001 1 .bool .readWrite).exp, (odS 0x206001 16 (.u 2) .readWrite 0xFA50).exp,
  (odO 0x207001 1 (.u 4) .readWrite 100 1 60000).exp, (odO 0x207002 1 (.u 4) .readWrite 20 0 1000).exp,
  (odO 0x207003 2 (.u 8) .write).at_ .perPart, (odO 0x207005 1 (.u 4) .readWrite 10 1 1000).exp,
  odO 0x208001 1 (.u 8) .read, (odX 0x209001 1 (.u 4) .write).exp, (odX 0x209002 1 (.u 1) .write 0 0 15).exp]

def odRows2 : List OdRow := [
  odS 0x301001 1 (.enum 3) .read, odS 0x301002 1 (.enum 3) .readWrite, (odS 0x302001 1 (.u 1) .readWrite 4 4 32).exp,
  odS 0x303001 1 (.u 4) .readWrite 1600 600 1650, odS 0x303002 1 (.u 4) .readWrite 1500 600 1500,
  (odS 0x303003 1 (.u 4) .readWrite 2000 800 2000).exp, (odS 0x303101 4 (.u 4) .readWrite 340 100 400).at_ .indexed,
  odS 0x303201 1 .bool .readWrite 1, odX 0x304001 2 (.u 8) .read, odS 0x305001 1 (.u 4) .readWrite 1000 100 1000000,
  (odS 0x305002 1 .bool .write).exp, odX 0x305003 1 (.enum 3) .read, (odS 0x306001 1 (.blob 32) .readWrite).exp,
  (odS 0x306002 1 (.blob 256) .read).exp, (odX 0x400101 1 (.u 4) .write).exp, odX 0x401001 1 (.blob 12) .read,
  (odX 0x401002 1 .bool .write).exp, (odX 0x402001 1 (.u 1) .readWrite 16).at_ .perCtx,
  (odX 0x402002 1 (.blob 16) .readWrite).at_ .perCtx, odX 0x403001 1 (.u 1) .write, odX 0x403002 1 (.u 4) .read,
  odX 0x403003 1 (.u 1) .write, odX 0x403004 1 (.blob 16) .read, odX 0x404001 1 (.u 8) .readWrite,
  (odX 0x404002 1 (.u 2) .write).exp, odX 0x404003 1 (.enum 7) .read, odX 0x404004 1 (.u 2) .read,
  odX 0x404005 1 (.enum 2) .read, (odX 0x405001 1 .bool .readWrite).exp]

def odRows3 : List OdRow := [
  (odO 0x501001 4 (.u 8) .readWrite).at_ .indexed, (odO 0x501101 4 (.u 8) .readWrite).at_ .indexed,
  (odO 0x503001 4 (.u 8) .readWrite).at_ .indexed, (odO 0x503101 16 (.blob 10) .readWrite).at_ .indexed,
  (odO 0x504001 1 (.u 2) .readWrite 16).exp, odO 0x603001 1 .f32 .readWrite 0x41200000, odO 0x603002 1 .f32 .readWrite 0x447A0000,
  (odO 0x603004 1 (.u 1) .readWrite 4).exp, odO 0x603005 1 (.enum 3) .readWrite 2,
  (odO 0x603006 1 .f32 .readWrite 0x3A83126F).exp, odO 0x604001 1 (.u 2) .readWrite 1 1 4096,
  odO 0x604002 1 (.enum 3) .readWrite, odO 0x604003 1 (.u 1) .readWrite 8, (odO 0x604004 1 .f32 .readWrite 0x40000000).exp,
  (odO 0x604005 1 (.u 2) .readWrite 2048 256 4096).exp, (odO 0x605001 1 (.u 4) .readWrite 4096 1024 1048576).exp,
  odO 0x701001 16 (.u 4) .read, (odX 0x701101 1 (.u 1) .write 0 0 127).exp,
  (odX 0x702001 1 (.u 2) .readWrite 0 0 4351).at_ .perCtx, odX 0x702002 1 (.blob 16) .read, odX 0x702003 1 (.u 4) .read,
  odS 0x703001 1 .bool .readWrite 1, (odS 0x703002 1 (.u 4) .readWrite 60 10 86400).exp, odS 0x703003 1 (.u 4) .read,
  odO 0x704001 12 (.blob 32) .read, (odS 0x704101 1 (.u 4) .readWrite 8 1 168).exp, odS 0x705001 1 (.u 4) .readWrite,
  odS 0x705002 1 (.u 4) .readWrite 3600 60 86400, odS 0x705003 1 (.u 8) .readWrite, odS 0x705004 1 (.u 8) .read,
  (odS 0x705005 1 .bool .readWrite).exp, odX 0x706001 1 (.u 8) .read, odX 0x706002 1 .f32 .read, odO 0x706003 1 (.u 2) .read,
  odX 0x706004 1 (.u 4) .read]

def odRows4 : List OdRow := [
  (odO 0x802001 1 (.u 4) .write).at_ .perPart, (odO 0x802002 1 (.u 8) .readWrite).at_ .perPart,
  (odO 0x802003 1 (.enum 4) .read).at_ .perPart, odO 0x803001 1 (.u 8) .read, odO 0x901001 1 (.u 1) .read,
  odO 0x901002 1 (.u 2) .read 0x0100, odO 0x902001 8 (.u 4) .read, odO 0x902101 8 (.blob 32) .read,
  (odS 0x903001 1 (.u 4) .readWrite 1000 100 100000).exp, (odS 0x903002 1 (.u 1) .readWrite 16 4 64).exp,
  (odS 0x903003 1 .f32 .readWrite 0x38D1B717 0x358637BD 0x3A83126F).exp, (odS 0x903004 1 (.u 4) .readWrite 10000).exp,
  (odS 0x903005 1 (.u 1) .write 0 0 7).exp, odO 0x904001 1 .bool .read, odS 0xA01001 1 (.blob 6) .read,
  odS 0xA01002 1 (.blob 17) .readWrite, odS 0xA01003 1 (.u 8) .readWrite, odS 0xA01004 1 (.u 2) .readWrite 19284,
  odS 0xA01005 1 (.u 2) .readWrite 1500 1500 9216, odS 0xA01006 1 (.u 2) .readWrite 0 0 4094,
  (odS 0xA01007 1 (.u 1) .readWrite 0x53).exp, (odS 0xA01008 1 (.u 2) .readWrite 0x2E0A).exp,
  (odS 0xA02001 1 (.u 4) .readWrite 400 1 1600).exp, (odS 0xA02002 1 (.u 4) .readWrite 64 16 8000).exp,
  (odS 0xA02003 1 (.u 1) .readWrite 12 4 32).exp, odS 0xA02004 1 (.u 4) .readWrite 10000 100 600000,
  odO 0xA03001 1 (.u 2) .read, (odO 0xA03002 1 (.u 2) .readWrite 0 0 16383).at_ .perCtx,
  (odO 0xA03003 1 (.blob 64) .read).at_ .perCtx, odO 0xA04001 1 (.enum 3) .read]

/-- The listing (R419, R420). -/
def odRows : List OdRow := odRows1 ++ odRows2 ++ odRows3 ++ odRows4

/-- The row of an entry. Subindex 0 of an index that exists reads its highest subindex (R409). -/
def odRow (index sub : Nat) : Option OdRow :=
  let k := 256 * index + sub
  if sub = 0 then
    match odRows.filter (·.key / 256 = index) with
    | [] => none
    | r :: l =>
      some ⟨k, 1, .u 1, .read, r.world, false, .device, l.foldl (fun m r => max m (r.key % 256 + r.n - 1)) (r.key % 256 + r.n - 1), 0, 0⟩
  else odRows.find? fun r => decide (r.key ≤ k) && decide (k < r.key + r.n)

/-- Entries kept in the firmware store (R418). -/
def odPersistent (k : Nat) : Bool :=
  let i := k / 256
  [0x104002, 0x207001, 0x207002, 0x207005, 0x305001, 0x306001, 0x703001, 0x703002, 0x705001, 0x705002, 0x705003, 0x705005,
    0x903001, 0x903002, 0x903003, 0x903004].contains k
    || [0x2050, 0x3020, 0x3030, 0x3031, 0x3032, 0x4050, 0x5040, 0x6030, 0x6040, 0x6050, 0x7041, 0xA020].contains i
    || (i == 0xA010 && decide (2 ≤ k % 256))

/-- Entries kept in the system area up to device reset (R418). -/
def odHeld (k : Nat) : Bool := [0x5010, 0x5011, 0x5030, 0x5031].contains (k / 256)

/-! ### Values (R411) -/

def OdType.size : OdType → Nat
  | .bool | .enum _ => 1
  | .u n => n
  | .f32 => 4
  | .str n | .blob n => n

def strBytes (t : String) : List Byte := t.toList.map fun c => BitVec.ofNat 8 c.toNat

/-- The link-local address of a MAC, with prefix length 64 (R418, modified EUI-64). -/
def linkLocal (mac : List Byte) : List Byte :=
  [0xFE, 0x80, 0, 0, 0, 0, 0, 0] ++ [mac.getD 0 0 ^^^ 2, mac.getD 1 0, mac.getD 2 0, 0xFF, 0xFE, mac.getD 3 0, mac.getD 4 0, mac.getD 5 0]
    ++ [64]

def macBytes : List Byte := natLE (Config.fuse 0xA01001) 6

/-- Default of an entry: its row's, or one that is computed. -/
def odDefault (r : OdRow) : Nat :=
  if r.key = 0xA01002 then leNat (linkLocal macBytes)
  else if r.key = 0x306001 then leNat ((List.range 16).flatMap fun k => natLE (600 + 10 * k) 2)
  else r.dflt

/-- STATE of a group state word (R307). -/
def GState.code : GState → Nat
  | .dark => 0
  | .training => 1
  | .up8 => 2
  | .up7 => 3
  | .spared => 4
  | .failed => 5
  | .miswired => 6
  | .version => 7
  | .authFailed => 8

/-- The group state word of group g (R307). Group 0's lanes are the trained spare lanes. -/
def State.groupWord (s : State) (g : Nat) : Nat :=
  if g = 0 then
    let lanes := (List.range 8).map fun k => (s.group (8 + k)).st
    let st : GState := if lanes.any GState.up then .up8 else if lanes.contains .training then .training
      else if lanes.any (· ≠ .dark) then .failed else .dark
    st.code * 2 ^ 28 + ((List.range 8).map fun k => if (s.group (8 + k)).st.up then 2 ^ (8 + k) else 0).sum
      + (if st.up then 0x10 else 0)
  else
    let l := s.group g
    l.st.code * 2 ^ 28 + Nat.xor s.mod.pos.val g * 2 ^ 25 + l.lanes.toNat * 2 ^ 8 + l.ver.toNat

/-- OD 2000.01 (R251). -/
def State.modeWord (s : State) : Nat :=
  (match s.mode.st with
    | .stable => 0
    | .transitioning => 1
    | .scrubbing => 2) * 2 ^ 30 + s.mode.applied.toNat

def CState.code : CState → Nat
  | .closed => 0
  | .open_ => 1
  | .draining => 2
  | .failed => 3

/-- A context's record (R279), with counters coarsened for a non-secure session (R361). -/
def Ctx.record (x : Ctx) (secure : Bool) : List Byte :=
  let n (b : BitVec 64) := natLE (coarseCount secure b.toNat) 8
  natLE (x.st.code * 2 ^ 60 + x.part * 2 ^ 58 + x.secure.toNat * 2 ^ 57 + x.hctx.toNat * 2 ^ 32 + x.rate / 1000000) 8
    ++ n x.rqin ++ n x.rqout ++ n x.rqfail ++ n x.retx ++ n x.ce ++ n x.drop ++ natLE 0 8

/-- The stack record of stack h (R331). -/
def State.stackRecord (s : State) (h : Nat) (secure : Bool) : List Byte :=
  let e := s.ecc
  let n (v : Nat) := natLE (coarseCount secure v) 8
  n (tabGet 0 e.corrected h) ++ n (tabGet 0 e.uncorrectable h)
    ++ natLE (e.remaps.filter (·.1 = h)).length 8 ++ natLE (tabGet 0 e.alarm h) 8

/-- Result entry number n of R398, start-up entries first, then in-service entries, newest first. -/
def State.resultEntry (s : State) (n : Nat) : List Byte :=
  let r := if n < 4096 then s.test.startResults[n]? else s.test.serviceResults[n - 4096]?
  match r with
  | some r => natLE r.w0.toNat 8 ++ natLE r.w1.toNat 8
  | none => natLE 0 16

/-- The availability since fitting (R404), rounded to FP32; `tsc` stands for the period. DEDUCED, log 23. -/
def State.availability (s : State) : Nat :=
  let t : Q := ⟨s.tsc * 128, 1000⟩
  if t.num ≤ 0 then 0x3F800000
  else (roundNearest 0 ((Q.ofInt 1).sub ((Q.ofInt s.test.downtime).div t))).bits

/-- Values that other fields of the state hold, by key; for a request of context c. -/
def State.odDynamic (s : State) (c k : Nat) : Option (List Byte) :=
  let x := s.ctx c
  let part := if s.mode.cur.four then x.part else 0
  let sub := k % 256
  match k / 256 with
  | 0x1000 => match sub with
    | 1 => some (strBytes "TALERSIN T8")
    | 2 => some (strBytes (if s.part = .t432 then "TLS-T8-432" else "TLS-T8-288"))
    | 3 => some (natLE 0x00B0 2)
    | 4 => some (natLE 0x0100 2)
    | 5 => some [match s.boot with
      | .ready => 1
      | .degraded => 2
      | .failed => 3
      | _ => 0]
    | _ => some [match s.cause with
      | .powerOn => 0
      | .resetPin => 1
      | .deviceCommand => 2
      | .ownerRelease => 3
      | .firmwareActivate => 4]
  | 0x1001 => some (natLE (match sub with
    | 1 => s.fw.running.sgf.version.toNat
    | 2 => s.fw.running.mgf.version.toNat
    | _ => s.fw.running.trf.version.toNat) 4)
  | 0x1010 => match sub with
    | 1 => some (natLE (Config.fuse 0x101001) 8)
    | 2 => some (natLE (Config.fuse 0x101002) 2048)
    | _ => some (natLE (Config.fuse 0x101003) 1024)
  | 0x1020 => match sub with
    | 1 => some [if s.sec.claimed then 1 else 0]
    | 2 => some (natLE s.sec.ownerKey.toNat 65)
    | _ => some (natLE s.sec.nonce.toNat 8)
  | 0x1030 => match sub with
    | 2 => some [match x.quote with
      | .idle => 0
      | .busy => 1
      | .done => 2]
    | _ => some (x.quoteBytes ++ natLE 0 (448 - x.quoteBytes.length))
  | 0x1040 => match sub with
    | 1 => some [if x.expert then 1 else 0]
    | 3 => some [if x.secure then 1 else 0]
    | _ => none
  | 0x2000 => match sub with
    | 1 => some (natLE s.modeWord 4)
    | 2 => some (natLE s.mode.epoch.toNat 4)
    | _ => some (natLE s.mode.result.toNat 2)
  | 0x2010 => some [if (if sub = 1 then s.mode.cur else s.mode.staged).four then 1 else 0]
  | 0x2011 => some [(if sub = 1 then s.mode.cur else s.mode.staged).drainFmt]
  | 0x2060 => some (natLE (s.shelf (sub - 1)).owner.toNat 2)
  | 0x2080 => some (natLE s.hbmCap 8)
  | 0x3010 => some [BitVec.ofNat 8 (if sub = 1 then s.mode.cur else s.mode.staged).profile]
  | 0x3040 => some (natLE (if sub = 1 then s.power.warnings else s.power.resets) 8)
  | 0x3050 => if sub = 3 then some [match s.power.sleep with
      | .active => 0
      | .idleReady => 1
      | .parked => 2] else none
  | 0x3060 => if sub = 2 then some (natLE (Config.fuse 0x306002) 256) else none
  | 0x4010 => some (s.fw.fused.flatMap fun v => natLE v 4)
  | 0x4020 => match sub with
    | 1 => some [x.regSel]
    | _ => some (tabGet {} s.regions x.regSel.toNat).bytes
  | 0x4030 => match sub with
    | 2 => some ((List.range 4).map fun p => if s.sec.resetting.contains p then 1 else 0)
    | _ => some ((List.range 4).flatMap fun p => natLE (tabGet 0 s.sec.presets p).toNat 4)
  | 0x4040 => match sub with
    | 3 => some [match s.fw.ust with
      | .idle => 0
      | .verifying => 1
      | .pending => 2
      | .switching => 3
      | .rollout => 4
      | .reverting => 5
      | .failed => 6]
    | 4 => some (natLE s.fw.result.toNat 2)
    | 5 => some [if s.fw.activeB then 1 else 0]
    | _ => none
  | 0x7010 => some (natLE (((s.shelf (sub - 1)).map.zipIdx.map fun e => e.1 * 16 ^ e.2).sum) 4)
  | 0x7020 => match sub with
    | 1 => some (natLE x.resSel.toNat 2)
    | 2 => some (s.resultEntry x.resSel.toNat)
    | _ => some (natLE (s.test.startResults.length * 65536 + s.test.serviceResults.length) 4)
  | 0x7030 => if sub = 3 then some (natLE ((match s.test.st with
      | .idle => 0
      | .handover => 1
      | .testing => 2
      | .returning => 3) * 2 ^ 24 + 8 * s.test.shelf + s.test.logical) 4) else none
  | 0x7040 => some (s.stackRecord (sub - 1) x.secure)
  | 0x7050 => if sub = 4 then some (natLE s.replica.events 8) else none
  | 0x7060 => match sub with
    | 1 => some (natLE s.test.downtime 8)
    | 2 => some (natLE s.availability 4)
    | 3 => some (natLE s.test.repairs.length 2)
    | _ => some (natLE s.test.ending 4)
  | 0x8020 => if sub = 3 then some [match (tabGet {} s.stats.snap part).st with
      | .idle => 0
      | .busy => 1
      | .done => 2
      | .failed => 3] else none
  | 0x8030 => some (natLE (coarseCount x.secure s.work.undeliverable) 8)
  | 0x9010 => if sub = 1 then some [BitVec.ofNat 8 s.mod.pos.val] else none
  | 0x9020 => some (natLE (s.groupWord (sub - 1)) 4)
  | 0x9021 =>
    let l := if sub = 1 then (List.range 8).map fun k => s.group (8 + k) else [s.group (sub - 1)]
    let sum (f : LaneGroup → Nat) : List Byte := natLE (coarseCount x.secure (l.map f).sum) 8
    some (sum (·.replays) ++ sum (·.retirements) ++ sum (·.failovers) ++ sum (·.crcFails))
  | 0x9040 => some [if s.mode.cur.four then 0 else 1]
  | 0xA010 => if sub = 1 then some macBytes else none
  | 0xA030 => match sub with
    | 1 => some (natLE (s.port.ctxs.filter fun e => e.2.joined).length 2)
    | 2 => some (natLE x.ctxSel.toNat 2)
    | _ =>
      let y := s.ctx x.ctxSel.toNat
      some (if x.secure ∨ !s.mode.cur.four ∨ x.ctxSel.toNat / 4096 = x.part then y.record x.secure else natLE 0 64)
  | 0xA040 => some [match s.port.port with
    | .down => 0
    | .training => 1
    | .up => 2]
  | _ => none

/-- Key under which a stored value of an entry lies, for a request of context c (R414). -/
def State.odKey (s : State) (c : Nat) (r : OdRow) (k : Nat) : Nat :=
  match r.scope with
  | .perPart => k + 2 ^ 24 * (if s.mode.cur.four then (s.ctx c).part else 0)
  | _ => k

/-- What a read returns (R411). -/
def State.odBytes (s : State) (c : Nat) (r : OdRow) (k : Nat) : List Byte :=
  if k % 256 = 0 then natLE r.dflt 1 else
  match s.odDynamic c k with
  | some l => l
  | none => natLE (s.odVal (s.odKey c r k) (odDefault r)) r.typ.size

/-! ### Checks (R415) -/

/-- Partition of a partition-indexed subindex. -/
def odIndexPart (k : Nat) : Nat := if k / 256 = 0x5031 then (k % 256 - 1) / 4 else k % 256 - 1

/-- World, scope and access right (R412 to R414). Any session may claim an UNCLAIMED device (R345), one of a partition too. -/
def State.odAllowed (s : State) (c : Nat) (r : OdRow) (k : Nat) (write : Bool) : Bool :=
  let x := s.ctx c
  let world := x.secure || (match r.world with
    | .open_ => true
    | .secureWrite => !write
    | .secure => false)
  let scope := x.secure || !s.mode.cur.four || (match r.scope with
    | .device => !write || r.acc == .writeOnce
    | .indexed => odIndexPart k == x.part
    | _ => true)
  let right := match r.acc with
    | .read => !write
    | .write => write
    | .readWrite => true
    | .writeOnce => !write || !s.sec.claimed
  world && scope && right

/-- Length and value are valid for the type and range (R411). -/
def OdRow.valid (r : OdRow) (bs : List Byte) : Bool :=
  let v := leNat bs
  match r.typ with
  | .str n => decide (1 ≤ bs.length ∧ bs.length ≤ n) && bs.all fun b => decide (0x20 ≤ b.toNat ∧ b.toNat ≤ 0x7E)
  | .blob n => bs.length == n
  | .f32 => bs.length == 4 && bits v 30 23 != 255 && (r.hi == 0 || decide (r.lo ≤ v ∧ v ≤ r.hi))
  | _ => bs.length == r.typ.size && decide (r.lo ≤ v ∧ v ≤ r.hi)

/-- The checks of R415 before the entry's own: the row, or the status. -/
def State.odCheck (s : State) (c k : Nat) (write : Bool) (bs : List Byte) : Except Status OdRow :=
  match odRow (k / 256) (k % 256) with
  | none => .error St.odNoEntry
  | some r =>
    if !s.odAllowed c r k write then .error St.odAccessDenied
    else if r.expert ∧ !(s.ctx c).expert then .error St.odExpertRequired
    else if write ∧ !r.valid bs then .error St.odValueInvalid
    else .ok r

def odKeyOf (q : OdReq) : Nat := 256 * q.index.toNat + q.sub.toNat

/-- A read request (R270, R415). -/
def State.odRead (s : State) (c : Nat) (msn : BitVec 32) (k len : Nat) : State :=
  if (s.ctx c).st ≠ .open_ then s else match s.odCheck c k false [] with
  | .error st => s.odAnswer c msn st []
  | .ok r => if len ≠ 0 then s.odAnswer c msn St.odValueInvalid [] else s.odAnswer c msn St.ok (s.odBytes c r k)

/-- A write request of one entry: held during the management pause (R285); refused by R415; or the entry's own effect,
which may refuse it too, and the response. A request that is not for the entry, or comes on a context that is not OPEN,
changes nothing here. -/
def State.odCommand (s : State) (q : OdReq) (mine : Nat → Bool) (act : State → OdRow → Nat → State × Status) : State :=
  let c := q.ctx.val
  let k := odKeyOf q
  if !mine k ∨ (s.ctx c).st ≠ .open_ then s
  else if s.fw.pause then
    if s.fw.heldReqs.length < 256 then { s with fw := { s.fw with heldReqs := s.fw.heldReqs ++ [(q, true)] } } else s
  else match s.odCheck c k true q.value with
    | .error st => s.odAnswer c q.msn st []
    | .ok r =>
      let (s', st) := act s r (leNat q.value)
      s'.odAnswer c q.msn st []

/-- A session's partition: P0 in whole-device mode (R414). -/
def State.odPart (s : State) (c : Nat) : Nat := if s.mode.cur.four then (s.ctx c).part else 0

/-- Store a value, and persist it where its class says so (R418). -/
def State.odStoreVal (s : State) (c : Nat) (r : OdRow) (k v : Nat) : State :=
  let s := s.odSet (s.odKey c r k) v
  if odPersistent k then { s with odStore := tabSet 0 s.odStore k (v + 1) } else s

/-! ### The window of SPACE 4 (R259) -/

/-- The cell of an entry, 16 bytes, where the window covers it for this initiator. -/
def State.odCell (s : State) (secure : Bool) (part k : Nat) : Option (List Byte) :=
  match odRow (k / 256) (k % 256) with
  | none => none
  | some r =>
    let ok := !r.expert && r.world != .secure && (r.scope == .device || r.scope == .indexed) && decide (r.typ.size ≤ 16)
      && (secure || !s.mode.cur.four || r.scope != .indexed || odIndexPart k == part)
    if ok then
      let b := if r.acc = .write then s.odVal k 0 |> (natLE · r.typ.size)
        else (s.modCtx 16384 fun x => { x with secure := secure }).odBytes 16384 r k
      some (b ++ natLE 0 (16 - b.length))
    else none

end Sys2Proof.Machine
end

