-- ==== Sys2Proof/Machine/Slots.lean ====
section
/-!
DEFINITION. Adapter slots and the products they add: fill descriptors, fills, chunk fetches, and the completion of a
run (R156, R157, R169 to R173, R178, R179, R190, R195).
-/

namespace Sys2Proof.Machine

/-! ### Fill descriptors (R170) -/

def fdW0 (d : BitVec 256) : Nat := bits d.toNat 63 0
def fdW1 (d : BitVec 256) : Nat := bits d.toNat 127 64
def fdGth (d : BitVec 256) : Bool := bit (fdW0 d) 61
def fdImageSrc (d : BitVec 256) : Bool := bit (fdW0 d) 62
def fdGen (d : BitVec 256) : Nat := bits (fdW0 d) 55 48
def fdDidx (d : BitVec 256) : Nat := bits (fdW0 d) 31 13
def fdLayer (d : BitVec 256) : Nat := bits (fdW0 d) 12 7
def fdGroup (d : BitVec 256) : Nat := bits (fdW0 d) 6 4
def fdOblk (d : BitVec 256) : Nat := bits (fdW1 d) 47 39
def fdImage (d : BitVec 256) : BitVec 64 := BitVec.ofNat 64 (bits d.toNat 191 128)

/-- The descriptor with another CH0. -/
def fdWithCh0 (d : BitVec 256) (ch : Nat) : BitVec 256 :=
  (d &&& ~~~(0xFFFF#256 <<< 80)) ||| (BitVec.ofNat 256 (ch % 65536) <<< 80)

/-- Issued runs that name slot i and are not complete: RUNS of R171. -/
def Core.runsNaming (k : Core) (i : Nat) : Nat :=
  (k.tile.runs.filter fun r => match r.adpt with
    | some a => a.aslot == i
    | none => false).length

/-- The image address lies in HBM of the partition. -/
def State.imageIn (s : State) (p : Nat) (a : BitVec 64) : Bool :=
  match s.localHbm a 4096 with
  | none => false
  | some o => decide (o % 4096 = 0) && decide (o < s.sysBase) && s.offsetPart o == some p

/-- The field checks of a fill descriptor from an initiator (R170). A gather context with a DIDX or GEN that is not zero
fails them as a reserved field would. DEDUCED, log 44. -/
def State.fillFieldsOk (s : State) (p : Nat) (i : Init) (d : BitVec 256) : Bool :=
  let w0 := fdW0 d
  let w1 := fdW1 d
  bits w0 60 56 == 0 && bits w0 47 32 == 0 && bits w0 3 0 == 0 && bits w1 51 48 == 0 && bits w1 38 32 == 0
    && bits w1 15 8 == 0 && bits w1 6 0 == 0 && bits d.toNat 255 192 == 0 && !bit w0 63
    && (!fdGth d || (fdGen d == 0 && fdDidx d == 0))
    && (if fdImageSrc d then i.fw && s.imageIn p (fdImage d) else fdImage d == 0)

/-- A PUT of a fill descriptor to slot `k` of a core of shelf `sh`: rejected, or held until no issued run names the slot
(R170, R171). -/
def State.fillPut (s : State) (sh c k : Nat) (i : Init) (d : BitVec 256) : State × Status :=
  let a := (s.lcore sh c).slotA k
  if !s.fillFieldsOk (s.partOf sh) i d then (s, St.adapterCmdInvalid)
  else if a.st = .filling ∨ a.held.isSome then (s, St.adapterSlotBusy)
  else (s.onCore sh c fun q => q.modSlotA k fun a => { a with held := some d }, St.ok)

def AState.code : AState → Nat
  | .empty => 0
  | .filling => 1
  | .ready => 2
  | .fault => 3

/-- The slot status word (R171). -/
def Core.slotStatus (k : Core) (i : Nat) : BitVec 64 :=
  let a := k.slotA i
  BitVec.ofNat 64 (a.st.code * 2 ^ 60 + a.rank * 2 ^ 57 + a.gth.toNat * 2 ^ 56 + a.gen.toNat * 2 ^ 48 + a.didx * 2 ^ 26
    + k.runsNaming i % 128 * 2 ^ 16 + (if a.st = .fault then a.fault.toNat else a.cursor % 65536))

/-- Where the image of a descriptor lies: at the entry's LOC, or at IMAGE (R170, R171). -/
def State.fillImage (s : State) (d : BitVec 256) (didx : Nat) : Nat :=
  if fdImageSrc d then gaOff (fdImage d) else 4096 * (s.entry didx).loc

/-- The checks of R171 on an entry for a layer, group, output block and chunk, in order: the record, or the status. -/
def State.fillCheck (s : State) (p didx gen : Nat) (d : BitVec 256) (chunk rows : Nat) : Except Status Rec :=
  let e := s.entry didx
  if !s.didxOk p didx then .error St.adapterIndexInvalid
  else if e.gen.toNat ≠ gen then .error St.adapterStale
  else if fdImageSrc d = false ∧ e.published = false then .error St.adapterNotReady
  else if fdImageSrc d = true ∧ e.st ≠ .training then .error St.adapterStateInvalid
  else if e.lmask.getLsbD (fdLayer d) = false ∨ e.rankCode (fdGroup d) = 0 then .error St.adapterLayerInvalid
  else match s.imageRec (s.fillImage d didx) (fdLayer d) (fdGroup d) with
    | none =>
      .error (if (s.firstBadByte (s.recReads (s.fillImage d didx) (fdLayer d) (fdGroup d))).isSome then St.memoryUncorrectable
        else St.adapterLayerInvalid)
    | some r =>
      if (s.firstBadByte (s.recReads (s.fillImage d didx) (fdLayer d) (fdGroup d))).isSome then .error St.memoryUncorrectable
      else if r.dOut ≤ 64 * fdOblk d ∨ ceilDiv r.dIn rows ≤ chunk then .error St.adapterLayerInvalid
      else if r.point ≠ BitVec.ofNat 8 (bits (fdW1 d) 63 56) ∨ r.codeA ≠ bits (fdW1 d) 55 52 then
        .error St.adapterPointMismatch
      else .ok r

/-- A fill starts: the slot is FILLING and takes the descriptor; the checks of R171 decide what its end will be. An
uncorrectable granule in the entry, the group table or the record's header ends it MEMORY_UNCORRECTABLE (R321). -/
def State.fillBegin (s : State) (sh c k : Nat) (d : BitVec 256) : State :=
  let res := s.fillCheck (s.partOf sh) (fdDidx d) (fdGen d) d (bits (fdW1 d) 31 16) (if bit (fdW1 d) 7 then 128 else 64)
  let reads := s.recReads (s.fillImage d (fdDidx d)) (fdLayer d) (fdGroup d)
  let s := match res with
    | .error st => if fdGth d ∨ st ≠ St.memoryUncorrectable then s else s.noteReads reads
    | .ok _ => if fdGth d then s else s.noteCorrected reads
  s.onCore sh c fun q => q.modSlotA k fun a =>
    let base : AdptSlot := { a with
      st := .filling, held := none, desc := d, gth := fdGth d, gen := BitVec.ofNat 8 (fdGen d), didx := fdDidx d
      rank := 0, cursor := bits (fdW1 d) 31 16, bound := false, buf0 := none, buf1 := none, fault := 0, nch := 0
      acode := 0, bcode := 0, record := 0 }
    if fdGth d then base
    else match res with
      | .error st => { base with fault := st }
      | .ok r => { base with
          rank := r.rank, acode := r.acode, bcode := r.bcode, record := r.off, nch := ceilDiv r.dIn base.rows }

/-- A fill whose entry the walker cannot read (R321). -/
def State.fillUnread (s : State) (sh c k : Nat) (d : BitVec 256) : State :=
  ((s.fillBegin sh c k d).onCore sh c fun q => q.modSlotA k fun a => { a with fault := St.memoryUncorrectable }).noteWalk
    (fdDidx d)

/-- A held fill starts once no issued run that names the slot is incomplete and the walker has the entry in a line
(R159, R171). -/
def execFillStart (c : CoreRef) (k : Fin 8) (s : State) : Out :=
  let q := s.lcore c.sh c.c
  match (q.slotA k).held with
  | none => .next s
  | some d =>
    if 0 < q.runsNaming k then .next s
    else if fdGth d ∨ !s.didxOk (s.partOf c.sh) (fdDidx d) then .next (s.fillBegin c.sh c.c k d)
    else if s.walkFails (fdDidx d) then .next (s.fillUnread c.sh c.c k d)
    else match s.takeLine (fdDidx d) with
      | some s => .next (s.fillBegin c.sh c.c k d)
      | none =>
        let w : LineWait := .fill (8 * c.sh.val + c.c.val) k
        .next (if s.dir.lineWaits.contains w then s
          else { s with dir := { s.dir with lineWaits := s.dir.lineWaits ++ [w] } })

/-- Bytes of a chunk of a slot's record, which the adapter unit reads for the job's partition (R336). -/
def State.chunkBytes (s : State) (p : Nat) (a : AdptSlot) (chunk : Nat) : Except Status (List Byte) :=
  let r := rankOf a.rank
  s.hbmGet (Init.job p false) (a.record + 16 + chunk * a.rows * r) (a.rows * r)

/-- Offset in the slot of the A buffer that takes a chunk: CH0 in buffer 0, then alternating (R172). DEDUCED, log 18. -/
def AdptSlot.bufOf (a : AdptSlot) (chunk : Nat) : Nat := if (chunk - a.ch0) % 2 = 0 then 0x1080 else 0x3080

def AdptSlot.putChunk (a : AdptSlot) (chunk : Nat) (bs : List Byte) : AdptSlot :=
  let b := { a with bytes := memWrite (tabClear a.bytes (a.bufOf chunk) 0x2000) (a.bufOf chunk) bs }
  if a.bufOf chunk = 0x1080 then { b with buf0 := some chunk } else { b with buf1 := some chunk }

def AdptSlot.holds (a : AdptSlot) (chunk : Nat) : Bool := a.buf0 == some chunk || a.buf1 == some chunk

/-- The header, exponents, B block and chunk CH0 of a fill (R172), or the status of a read that failed. -/
def State.fillContents (s : State) (p : Nat) (a : AdptSlot) : Except Status AdptSlot :=
  let header := natLE (bits a.desc.toNat 127 0) 16 ++ natLE a.rank 1 ++ natLE a.acode 1 ++ natLE a.bcode 1 ++ natLE 0 1
    ++ natLE a.nch 2
  if a.gth then .ok { a with bytes := memWrite [] 0 header }
  else
    let dIn := leNat (s.hbmRead a.record 4)
    let r : Rec := ⟨a.record, dIn, leNat (s.hbmRead (a.record + 4) 4), a.rank, a.acode, a.bcode, 0, 0⟩
    let ch := 64 * fdOblk a.desc
    let get := s.hbmGet (Init.job p false)
    match get (r.ebOff ch) 64, get (r.bRow ch) (64 * r.r), s.chunkBytes p a a.ch0 with
    | .error st, _, _ | _, .error st, _ | _, _, .error st => .error st
    | .ok eb, .ok b, .ok ck =>
      .ok ({ a with bytes := memWrite (memWrite (memWrite [] 0 header) 0x40 eb) 0x80 b }.putChunk a.ch0 ck)

/-- What a fill reads, in order. -/
def State.fillReads (s : State) (a : AdptSlot) : List (Nat × Nat) :=
  let r : Rec := ⟨a.record, leNat (s.hbmRead a.record 4), leNat (s.hbmRead (a.record + 4) 4), a.rank, a.acode, a.bcode, 0, 0⟩
  let ch := 64 * fdOblk a.desc
  [(r.ebOff ch, 64), (r.bRow ch, 64 * r.r), (a.record + 16 + a.ch0 * a.rows * r.r, a.rows * r.r)]

/-- A fill has copied its header, exponents, B block and chunk CH0: READY, or FAULT with the status of the check that
failed (R171). -/
def execFillCopyDone (c : CoreRef) (k : Fin 8) (s : State) : Out :=
  let b := (s.lcore c.sh c.c).slotA k
  let reads : Bool := b.st = .filling && b.fault == 0 && !b.gth && (s.phys c.sh c.c).isSome
  let s' := s.onCore c.sh c.c fun q => q.modSlotA k fun a =>
    if a.st ≠ .filling then a
    else if a.fault ≠ 0 then { a with st := .fault }
    else match s.fillContents (s.partOf c.sh) a with
      | .ok a => { a with st := .ready }
      | .error st => { a with st := .fault, fault := st }
  .next (if reads then s'.noteFail ((s'.lcore c.sh c.c).slotA k).fault (s.fillReads b) else s')

/-- A chunk of the slot's record that neither buffer holds. -/
def AdptSlot.lacks (a : AdptSlot) (ch : Nat) : Bool := a.st = .ready && !a.gth && decide (ch < a.nch) && !a.holds ch

/-- Chunks that the incomplete runs on a slot use, in queue order. -/
def Core.chunksInUse (q : Core) (k : Nat) : List Nat :=
  q.tile.runs.filterMap fun r => match r.adpt with
    | some x => if x.aslot = k ∧ !x.gather then some x.chunk else none
    | none => none

/-- The chunk that the fill engine fetches into the free buffer, one whose present chunk no incomplete run uses: first
those that incomplete runs wait for, in queue order, then the one in use and the one after it (R173). -/
def Core.nextChunk (q : Core) (k : Nat) : Option Nat :=
  let a := q.slotA k
  let used := q.chunksInUse k
  (used ++ [a.cursor, a.cursor + 1]).find? fun ch =>
    a.lacks ch && !used.any fun x => some x == (if a.bufOf ch = 0x1080 then a.buf0 else a.buf1)

/-- A chunk has arrived in its buffer, or its granule is uncorrectable. -/
def execChunkFetchDone (c : CoreRef) (k : Fin 8) (s : State) : Out :=
  match s.phys c.sh c.c with
  | none => .next s
  | some p =>
    let a := (s.core p).slotA k
    match (s.core p).nextChunk k with
    | none => .next s
    | some ch =>
      let reads := [(a.record + 16 + ch * a.rows * rankOf a.rank, a.rows * rankOf a.rank)]
      match s.chunkBytes (s.partOf c.sh) a ch with
      | .ok bs => .next ((s.modCore p fun q => q.modSlotA k fun a => a.putChunk ch bs).noteCorrected reads)
      | .error st =>
        .next ((s.modCore p fun q => q.modSlotA k fun a => { a with st := .fault, fault := st }).noteFail st reads)

/-! ### Adapter products (R156, R190) -/

/-- Signed byte. -/
def byteInt (b : Byte) : Int := b.toInt

/-- Terms of the enabled rows for one token position: u by columns, d by rows, shifted by k (R156). -/
def adapterToken (x : List Int) (aRow : Nat → List Int) (r : Nat) (bRow : Nat → List Int) (eb : Nat → Int) (k0 : Int)
    (rows : List Nat) : List (Nat × Int) :=
  let cols := (List.range x.length).map aRow
  let u := (List.range r).map fun q => dot x (cols.map fun a => a.getD q 0)
  rows.map fun c =>
    let d := dot u (bRow c)
    let k := k0 + eb c
    (c, if 0 ≤ k ∧ k ≤ 32 then d * 2 ^ k.toNat else Config.shiftBeyond d k)

/-- Terms of an APPLY or GRAD_X run on a slot's contents (R156, R190). A special code of A or B contributes 0 (R25) and sets no
NFI. DESIGN CHOICE, log 54. -/
def slotTerms (a : AdptSlot) (ar : AdptRun) (point : Int) (rows : List Nat) : List (Nat × Int) :=
  let r := rankOf a.rank
  let buf := a.bufOf ar.chunk
  let k0 := ar.gx + codeGrid a.acode + codeGrid a.bcode - point
  ar.x.flatMap fun tx =>
    (adapterToken tx.2 (fun j => (codeRow a.bytes (buf + j * r) a.acode r).1) r
      (fun c => (codeRow a.bytes (0x80 + c * r) a.bcode r).1) (fun c => byteInt (tabGet 0 a.bytes (0x40 + c))) k0 rows).map
      fun e => (64 * e.1 + tx.1, e.2)

/-- Terms of a GATHER run, each token position's read from its own entry's image; the first entry that fails a check
gives its status (R178, R179). -/
def State.gatherTerms (s : State) (p : Nat) (a : AdptSlot) (ar : AdptRun) (point : Int) (rows : List Nat) :
    List (Nat × List Int) → Except Status (List (Nat × Int))
  | [] => .ok []
  | tx :: rest =>
    let g := ((ar.gt.find? (·.1 = tx.1)).map (·.2)).getD 0
    let here : Except Status (List (Nat × Int)) :=
      if !bit g.toNat 0 then .ok []
      else
        match s.fillCheck p (bits g.toNat 44 26) (bits g.toNat 63 56) a.desc ar.chunk a.rows with
        | .error st => .error st
        | .ok r =>
          let n := r.r
          let ch := 64 * fdOblk a.desc
          let get := s.hbmGet (Init.job p false)
          match get (r.aRow (ar.chunk * a.rows)) (a.rows * n), get (r.bRow ch) (64 * n), get (r.ebOff ch) 64 with
          | .error st, _, _ | _, .error st, _ | _, _, .error st => .error st
          | .ok _, .ok _, .ok _ => .ok ((adapterToken tx.2 (fun j => (codeRow s.hbm (r.aRow (ar.chunk * a.rows + j)) r.acode n).1) n
            (fun c => (codeRow s.hbm (r.bRow (ch + c)) r.bcode n).1)
            (fun c => byteInt (tabGet 0 s.hbm (r.ebOff (ch + c))))
            (ar.gx + codeGrid r.acode + codeGrid r.bcode - point) rows).map fun e => (64 * e.1 + tx.1, e.2))
    match here, s.gatherTerms p a ar point rows rest with
    | .error st, _ => .error st
    | _, .error st => .error st
    | .ok l, .ok m => .ok (l ++ m)

/-- What a GATHER run's entries are read from, in the order of its token positions, up to the first that fails a check. -/
def State.gatherReads (s : State) (p : Nat) (a : AdptSlot) (ar : AdptRun) : List (Nat × List Int) → List (Nat × Nat)
  | [] => []
  | tx :: rest =>
    let g := ((ar.gt.find? (·.1 = tx.1)).map (·.2)).getD 0
    if !bit g.toNat 0 then s.gatherReads p a ar rest
    else match s.fillCheck p (bits g.toNat 44 26) (bits g.toNat 63 56) a.desc ar.chunk a.rows with
      | .error st =>
        if st = St.memoryUncorrectable then
          s.recReads (s.fillImage a.desc (bits g.toNat 44 26)) (fdLayer a.desc) (fdGroup a.desc)
        else []
      | .ok r =>
        let ch := 64 * fdOblk a.desc
        [(r.aRow (ar.chunk * a.rows), a.rows * r.r), (r.bRow ch, 64 * r.r), (r.ebOff ch, 64)] ++ s.gatherReads p a ar rest

/-- Ranges that a completing run has read from HBM. -/
def State.runReads (s : State) (p : Nat) (k : Core) (r : Run) : List (Nat × Nat) :=
  match r.adpt with
  | some ar => if ar.gather ∧ (k.slotA ar.aslot).st = .ready then s.gatherReads p (k.slotA ar.aslot) ar ar.x else []
  | none => []

/-- The program of the instruction at place `seq` ends with a status: at its tile.end if that has issued, otherwise the
rest of the program is discarded (R59, R173). -/
def TileUnit.failProgram (u : TileUnit) (seq : Nat) (st : Status) : TileUnit :=
  if u.ends.any fun e => decide (seq < e.seq) then
    { u with ends := (u.ends.foldl (fun (acc : List TileEnd × Bool) e =>
        if !acc.2 && decide (seq < e.seq) then (acc.1 ++ [if e.st = 0 then { e with st := st } else e], true)
        else (acc.1 ++ [e], acc.2)) ([], false)).1 }
  else if u.rej.isSome then u else u.reject st

/-- What the adapter part of a run adds: its terms; or the status that ends its program; none while it waits for its
slot's chunk (R71, R173). -/
def State.adapterPart (s : State) (p : Nat) (k : Core) (r : Run) : Option (Except Status (List (Nat × Int))) :=
  match r.adpt with
  | none => some (.ok [])
  | some ar =>
    let a := k.slotA ar.aslot
    let point := (tabGet {} k.tslot r.slot).point.toInt
    let rows := maskRows r.rows
    match a.st with
    | .filling => none
    | .empty | .fault => some (.error St.adapterSlotFault)
    | .ready =>
      if ar.gather then
        some (match s.gatherTerms p a ar point rows ar.x with
          | .ok l => .ok l
          | .error _ => .error St.adapterSlotFault)
      else if a.holds ar.chunk then some (.ok (slotTerms a ar point rows))
      else none

/-- A run may write: no earlier run into its slot is in flight, and no earlier drain of it clears it (R67). -/
def TileUnit.mayWrite (u : TileUnit) (r : Run) : Bool :=
  u.runs.all (fun q => decide (r.seq ≤ q.seq) || q.slot != r.slot || q.grad.isSome != r.grad.isSome)
    && u.drains.all (fun d => decide (r.seq ≤ d.seq) || d.slot != r.slot || !d.dclr || r.grad.isSome)

/-- The oldest run that can write its last product, with what its adapter part adds. -/
def State.ripeRun (s : State) (p : Nat) (k : Core) : Option (Run × Except Status (List (Nat × Int))) :=
  (k.tile.runs.filter k.tile.mayWrite).findSome? fun r => (s.adapterPart p k r).map fun a => (r, a)

/-- A run's last products land: base totals, then the adapter terms as a separate addition, each saturating; flags of
the slot or of the gradient store (R35, R156, R195, R450). -/
def Core.runDone (k : Core) (r : Run) (a : Except Status (List (Nat × Int))) : Core :=
  let k := { k with tile := { k.tile with runs := k.tile.runs.filter (·.seq ≠ r.seq) } }
  match r.grad with
  | some ts =>
    let (g, sat) := addTerms 0 k.grad ts
    { k with grad := g, gradst := { k.gradst with sat := k.gradst.sat || sat, nfi := k.gradst.nfi || r.nfi } }
  | none =>
    let (t1, s1) := addTerms (4096 * r.slot) k.tally r.base
    let (t2, s2) := match a with
      | .ok l => addTerms (4096 * r.slot) t1 l
      | .error _ => (t1, false)
    let k := { k with tally := t2 }.modTslot r.slot fun st =>
      { st with sat := st.sat || s1 || s2, nfi := st.nfi || r.nfi }
    match a with
    | .ok _ => k
    | .error st => { k with tile := k.tile.failProgram r.seq st }

/-- The oldest run that can writes its last products (R69). -/
def execRunComplete (c : CoreRef) (s : State) : Out :=
  match s.phys c.sh c.c with
  | none => .next s
  | some p =>
    let k := s.core p
    match s.ripeRun (s.partOf c.sh) k with
    | none => .next s
    | some (r, .ok l) => .next ((s.modCore p fun k => k.runDone r (.ok l)).noteCorrected (s.runReads (s.partOf c.sh) k r))
    | some (r, .error st) =>
      .next ((s.modCore p fun k => k.runDone r (.error st)).noteReads (s.runReads (s.partOf c.sh) k r))

end Sys2Proof.Machine
end

