-- ==== Sys2Proof/Machine/Trim.lean ====
section
/-!
DEFINITION. The trim cores' extension instructions (R138 to R151): remote commands, waits, tile-program issue, scales,
seeds, summaries, and the traps they meet.
-/

namespace Sys2Proof.Machine

/-- A trap to machine mode. The RISC-V registers are those of its privileged specification (R133). PRESUMED, log 9. -/
def Trim.trap (t : Trim) (cause : BitVec 64) : Trim :=
  let base := t.mtvec &&& ~~~3
  let vectored := t.mtvec.getLsbD 0 && cause.getLsbD 63
  { t with
    mepc := t.pc, mcause := cause, mpie := t.mie, mie := false, mppMachine := t.machine, machine := true, wait := none
    pc := if vectored then base + 4 * (cause &&& 0x7FFFFFFFFFFFFFFF) else base }

/-- The timeout in force: a value written in user mode takes effect rounded up to a multiple of 1,000,000 ns (R337). -/
def twtmoOf (b : TrimBase) : BitVec 64 :=
  if b.machine then b.twtmo else BitVec.ofNat 64 (min ((b.twtmo.toNat + 999999) / 1000000 * 1000000) (2 ^ 64 - 1))

/-- The core has come to an instruction (logs 8 and 9). -/
def Trim.enter (r : Trim) (b : TrimBase) : Trim :=
  { r with pc := b.pc, machine := b.machine, mie := b.mie, mtvec := b.mtvec, twtmo := twtmoOf b, pmp := b.pmp }

/-- What the `time` CSR reads: the device timestamp counter, in user mode rounded down to a multiple of 1,000,000 (R133,
R337). -/
def State.timeCsr (s : State) (t : TrimRef) : Nat :=
  if (s.trim t.sh t.k).machine then s.tsc else s.tsc / 1000000 * 1000000

def State.enter (s : State) (t : TrimRef) (b : TrimBase) : State := s.modTrim t.sh t.k (·.enter b)

/-- Cause of an illegal-instruction exception of RV64. PRESUMED, log 9. -/
def causeIllegal : BitVec 64 := 2

/-- An instruction of a trim core that is running: not one disabled by self-test, nor one that waits. It acts on the
state in which the core has come to it. -/
def State.onTrim (s : State) (t : TrimRef) (b : TrimBase) (act : State → Trim → State) : State :=
  let r := s.trim t.sh t.k
  if r.off ∨ r.wait.isSome then s else act (s.enter t b) (r.enter b)

/-- An instruction that a management core does not have: there it raises an illegal-instruction exception (R137). -/
def State.onShelfTrim (s : State) (t : TrimRef) (b : TrimBase) (act : State → Trim → State) : State :=
  s.onTrim t b fun s r => if t.sh.val < 16 then act s r else s.modTrim t.sh t.k (·.trap causeIllegal)

/-- Complete the instruction with a value in rd. -/
def State.ret (s : State) (t : TrimRef) (rd : Nat) (v : BitVec 64) : State := s.modTrim t.sh t.k (·.retire rd v)

def State.retSt (s : State) (t : TrimRef) (rd : Nat) (st : Status) : State := s.ret t rd (st.setWidth 64)

/-! ### Shelf memory and management memory (R135 to R137) -/

/-- HBM offset of the data region of management core k (R312, R137). -/
def State.mgmtData (s : State) (k : Nat) : Nat := s.sysBase + 0x10000000 + 0x1000000 * k

/-- A range of the memory in which a core's command blocks and LOCAL ranges lie: its shelf SRAM, or, on a management core,
its data region at local 0x5000_0000 (R137, R140). -/
def State.localOk (s : State) (t : TrimRef) (a n perm : Nat) : Bool :=
  if t.sh.val < 16 then (s.trim t.sh t.k).sramOk a n perm
  else decide (0x50000000 ≤ a) && decide (a + n ≤ 0x51000000) && pmpOk (s.trim t.sh t.k).pmp (s.trim t.sh t.k).machine a n perm

/-- Bytes of that memory. -/
def State.localRead (s : State) (t : TrimRef) (a n : Nat) : List Byte :=
  if t.sh.val < 16 then memRead (s.sram t.sh) a n
  else (List.range n).map fun j => s.hbmByte (s.mgmtData t.k + (a - 0x50000000) + j)

def State.localWrite (s : State) (t : TrimRef) (a : Nat) (bs : List Byte) : State :=
  if t.sh.val < 16 then s.sramWrite t.sh a bs else (s.hbmStore (s.mgmtData t.k + (a - 0x50000000)) bs).1

/-! ### wait.w (R143) -/

/-- A wait.w issues: it faults, completes, or gates the core. -/
def waitIssue (cond : Nat) (t : TrimRef) (o : TrimOps) (s : State) : State :=
  s.onTrim t o.base fun s _ =>
    match s.localWord t.sh t.k o.rs1.toNat with
    | none => s.modTrim t.sh t.k (·.trap 5)
    | some w =>
      if waitHolds cond w o.rs2.toNat then s.ret t o.rd (BitVec.ofNat 64 w)
      else { s with woken := s.woken.filter (· ≠ 4 * t.sh.val + t.k.val) : State }.modTrim t.sh t.k fun r =>
        { r with wait := some (.word cond o.rs1.toNat o.rs2 o.rd) }

def execWaitWNe (t : TrimRef) (o : TrimOps) (s : State) : Out := .next (waitIssue 0 t o s)
def execWaitWEq (t : TrimRef) (o : TrimOps) (s : State) : Out := .next (waitIssue 1 t o s)
def execWaitWGeu (t : TrimRef) (o : TrimOps) (s : State) : Out := .next (waitIssue 2 t o s)

/-- The value of an empty receive port (R149). -/
def sumEmpty : BitVec 64 := 0xF000000000000000

/-- The oldest summary leaves the port into rd. -/
def State.popSummary (s : State) (t : TrimRef) (rd : Nat) (w : BitVec 64) : State :=
  s.modTrim t.sh t.k fun r => { r with port := r.port.drop 1 : Trim }.retire rd w

/-- A waiting core completes: after a write that made the watched word meet its condition, with the word's value now, or
with a summary (R143, R149, R151). -/
def execWaitWake (t : TrimRef) (s : State) : Out :=
  let r := s.trim t.sh t.k
  match r.wait with
  | some (.word cond a cmp rd) =>
    match s.localWord t.sh t.k a with
    | some w =>
      .next (if s.woken.contains (4 * t.sh.val + t.k.val) ∨ waitHolds cond w cmp.toNat then s.ret t rd (BitVec.ofNat 64 w) else s)
    | none => .next s
  | some (.summary rd) =>
    match r.port with
    | w :: _ => .next (s.popSummary t rd w)
    | [] => .next s
  | _ => .next s

/-- twtmo has passed: a wait.w completes with the word's value, a sum.recv with the empty value (R143, R149). -/
def execWaitTimeout (t : TrimRef) (s : State) : Out :=
  let r := s.trim t.sh t.k
  if r.twtmo = 0 then .next s else
  match r.wait with
  | some (.word _ a _ rd) => .next (s.ret t rd (BitVec.ofNat 64 ((s.localWord t.sh t.k a).getD 0)))
  | some (.summary rd) => .next (s.ret t rd sumEmpty)
  | _ => .next s

/-- An enabled interrupt ends a wait.w, a sum.recv or the wait of an rm.cmd with a trap; the instruction runs again on
return (R141, R143, R149). -/
def execWaitInterrupt (t : TrimRef) (cause : BitVec 64) (s : State) : Out :=
  let r := s.trim t.sh t.k
  let waits : Bool := match r.wait with
    | some (.word _ _ _ _) | some (.summary _) | some (.cmd _ _ _) => true
    | _ => false
  .next (if waits ∧ (!r.machine ∨ r.mie) then s.modTrim t.sh t.k (·.trap (cause ||| 0x8000000000000000)) else s)

/-! ### Remote commands (R140 to R142) -/

/-- LEN is in range for OPC (R140); none for an unknown OPC. -/
def rmLenOk (opc len : Nat) : Bool :=
  match opc with
  | 1 | 2 | 7 => 1 ≤ len
  | 3 | 4 | 5 => len == 8
  | 6 => decide (1 ≤ len ∧ len ≤ 256)
  | 8 => len == 0
  | _ => false

/-- Bytes of LOCAL that an operation uses. -/
def rmLocalLen (opc len : Nat) : Nat :=
  match opc with
  | 6 => 16 * len
  | 8 => 0
  | _ => len

/-- A GET and an atomic write their LOCAL range; the others read it (R140). -/
def rmLocalPerm (opc : Nat) : Nat := if opc = 1 ∨ opc = 6 ∨ opc = 7 then 0 else 1

/-- The checks of R141 on a command block, and the operation it gives. -/
def State.rmOp (s : State) (t : TrimRef) (a ctr : Nat) : Except Status RemOp :=
  let r := s.trim t.sh t.k
  let w (i : Nat) := leNat (s.localRead t (a + 8 * i) 8)
  let opc := bits (w 0) 63 56
  let len := bits (w 0) 23 0
  let loc := w 2
  let n := rmLocalLen opc len
  if a % 64 ≠ 0 ∨ !s.localOk t a 64 0 then .error St.addressInvalid
  else if !rmLenOk opc len ∨ bits (w 0) 55 40 ≠ 0 ∨ bit (w 0) 31 ∨ bits (w 0) 27 24 ≠ 0 ∨ w 6 ≠ 0 ∨ w 7 ≠ 0 then
    .error St.rmCmdInvalid
  else if n ≠ 0 ∧ !s.localOk t loc n (rmLocalPerm opc) then .error St.addressInvalid
  else .ok {
    id := 0, who := .trim t.sh t.k ctr, part := s.partOf t.sh, secure := r.machine || t.sh.val == 16, opc := opc
    remote := BitVec.ofNat 64 (w 1), len := len, local_ := loc
    data := if opc = 1 ∨ opc = 6 ∨ opc = 7 then s.localRead t loc n else []
    opnd1 := BitVec.ofNat 64 (w 3), opnd2 := BitVec.ofNat 64 (w 4), signal := BitVec.ofNat 64 (w 5)
    point := BitVec.ofNat 8 (bits (w 0) 39 32)
    cfl := BitVec.ofNat 3 (bits (w 0) 30 28)
    answered := none, done := false }

/-- Operations that a trim core has outstanding. -/
def State.outstanding (s : State) (t : TrimRef) : Nat :=
  (s.ops.filter fun o => o.who.sameDomain (.trim t.sh t.k 0)).length

/-- rm.cmd on operands that it holds or has just read. -/
def State.rmCmd (s : State) (t : TrimRef) (rd : Nat) (rs1 rs2 : BitVec 64) : State :=
  match s.rmOp t rs1.toNat (bits rs2.toNat 3 0) with
  | .error st => s.retSt t rd st
  | .ok o =>
    if 64 ≤ s.outstanding t then s.modTrim t.sh t.k fun r => { r with wait := some (.cmd rd rs1 rs2) }
    else (s.issue o).ret t rd 0

def execRmCmd (t : TrimRef) (o : TrimOps) (s : State) : Out :=
  .next (s.onTrim t o.base fun s _ => s.rmCmd t o.rd o.rs1 o.rs2)

/-- The step flags that a trim core's TALLY_ADD gives the job that it serves (R82, R197, R198): into the job's gradient
area, GSAT where it saturated or carried SAT, and NFI where it carried NFI; elsewhere, TSAT where it saturated. -/
def tallyFlags (inArea sat : Bool) (cfl : BitVec 3) : BitVec 64 :=
  if inArea then (if sat || cfl.getLsbD 2 then 0x40 else 0) ||| (if cfl.getLsbD 1 then 2 else 0)
  else if sat then 0x20 else 0

/-- A gradient area of the job holds a target in HBM of this device (R187, R197). -/
def State.inGarea (s : State) (j : Job) (a : BitVec 64) : Bool :=
  gaSpace a == 0 && gaDev a == s.mod.pos.val && j.garea.any fun r => decide (r.1 ≤ gaOff a) && decide (gaOff a < r.1 + r.2)

/-- A TALLY_ADD that a trim core of shelf `sh` issued has completed: the jobs whose code runs on the shelf get its flags,
and a serving work's record SAT (R82, R86, R198; log 25). -/
def State.flagTally (s : State) (sh : Nat) (o : RemOp) (sat : Bool) : State :=
  let works := s.worksOn sh
  let into (j : Job) : BitVec 64 := tallyFlags (s.inGarea j o.remote) sat o.cfl
  let mark (j : Job) : Job := if works.contains j.slot then { j with flags := j.flags ||| into j } else j
  let s := { s with work := { s.work with jobs := s.work.jobs.map mark } }
  works.foldl (fun s i => if sat ∧ (s.wk i).kind = 1 then s.modWork i fun w => { w with flags := w.flags ||| 1 } else s) s

/-- An error word after a failure (R142): the count saturates; `later`: an operation has failed since the word was last
written, so that the status of the first failure stays. -/
def errorNext (later : Bool) (e : BitVec 64) (st : Status) : BitVec 64 :=
  BitVec.ofNat 64 (min (bits e.toNat 63 48 + 1) 0xFFFF * 2 ^ 48 + (if later then bits e.toNat 15 0 else st.toNat))

/-- A failure or a store at error word i (R142). -/
def Trim.countError (r : Trim) (i : Nat) (st : Status) : Trim :=
  if st = 0 then r
  else { r with errors := tabMod 0 r.errors i (errorNext (r.failed.getLsbD i) · st), failed := r.failed ||| ((1 : BitVec 16) <<< i) }

/-- A trim core's operation counts: data to LOCAL, error word, counter (R142); then an rm.cmd that waited for room
goes on. -/
def State.countOp (s : State) (o : RemOp) (t : TrimRef) (i : Nat) (a : Answer) : State :=
  let s := if a.status = 0 ∧ !a.data.isEmpty then s.localWrite t o.local_ (a.data.take (rmLocalLen o.opc o.len)) else s
  let s := s.modTrim t.sh t.k fun r => { r.countError i a.status with counters := tabMod 0 r.counters i (· + 1) }
  let s := if o.opc = 6 ∧ (a.sat ∨ a.status = 0) then
      s.flagTally t.sh { o with cfl := if a.status = 0 then o.cfl else 0 } a.sat
    else s
  let s := { s with ops := s.ops.filter (·.id ≠ o.id) }
  match (s.trim t.sh t.k).wait with
  | some (.cmd rd rs1 rs2) => s.rmCmd t rd rs1 rs2
  | _ => s

def execRmCompletion (op : Nat) (s : State) : Out :=
  match s.ops.find? (·.id = op) with
  | some o =>
    match o.who, o.answered, o.done with
    | .trim sh k i, some a, true => .next (s.countOp o ⟨Fin.ofNat 17 sh, Fin.ofNat 4 k⟩ i a)
    | _, _, _ => .next s
  | none => .next s

/-- A store to a completion counter or an error word. -/
def execCounterStore (t : TrimRef) (err : Bool) (i : Fin 16) (v : BitVec 64) (s : State) : Out :=
  .next (s.modTrim t.sh t.k fun r =>
    if err then { r with errors := tabSet 0 r.errors i v, failed := r.failed &&& ~~~((1 : BitVec 16) <<< i.val) } else { r with counters := tabSet 0 r.counters i v })

/-! ### Tile programs (R138, R144 to R146) -/

/-- The checks of R144, in order: the physical core, or the status. -/
def State.tpCheck (s : State) (t : TrimRef) (rs1 rs2 : Nat) : Except Status Nat :=
  let n := bits rs2 6 0
  let c := bits rs2 11 8
  if n = 0 ∨ 64 < n ∨ bits rs2 63 12 ≠ 0 ∨ bit rs2 7 then .error St.rmCmdInvalid
  else if rs1 % 16 ≠ 0 ∨ !(s.trim t.sh t.k).sramOk rs1 (16 * n) 0 then .error St.addressInvalid
  else match (if c < 8 then s.phys t.sh c else none) with
    | none => .error St.coreUnavailable
    | some p => if s.owns t.sh t.k c then .ok p else .error St.trimNotOwner

def execTpIssue (t : TrimRef) (o : TrimOps) (s : State) : Out :=
  .next (s.onShelfTrim t o.base fun s _ =>
    match s.tpCheck t o.rs1.toNat o.rs2.toNat with
    | .error st => s.ret t o.rd (BitVec.ofNat 64 (st.toNat * 2 ^ 48))
    | .ok p =>
      let u := (s.core p).tile
      let n := min (bits o.rs2.toNat 6 0) (64 - u.queue.length)
      let ws := (List.range n).map fun i => BitVec.ofNat 128 (memNat (s.sram t.sh) (o.rs1.toNat + 16 * i) 16)
      (s.modCore p fun k => { k with tile := { k.tile with queue := k.tile.queue ++ ws } }).ret t o.rd (BitVec.ofNat 64 n))

def execTpStat (t : TrimRef) (o : TrimOps) (s : State) : Out :=
  .next (s.onShelfTrim t o.base fun s _ =>
    let v := if o.rs1.toNat < 8 ∧ o.rs2.toNat < 4 then s.windowWord t.sh o.rs1.toNat (0x100 + 8 * o.rs2.toNat) else 0
    s.ret t o.rd (BitVec.ofNat 64 v))

/-- The core behind a logical number, for an instruction that only its owner may use. -/
def State.ownedCore (s : State) (t : TrimRef) (c : Nat) : Except Status Nat :=
  match (if c < 8 then s.phys t.sh c else none) with
  | none => .error St.coreUnavailable
  | some p => if s.owns t.sh t.k c then .ok p else .error St.trimNotOwner

def execTpDiscard (t : TrimRef) (o : TrimOps) (s : State) : Out :=
  .next (s.onShelfTrim t o.base fun s _ =>
    match s.ownedCore t o.rs1.toNat with
    | .error st => s.retSt t o.rd st
    | .ok p => (s.discardCore t.sh p).ret t o.rd 0)

/-! ### Scales and maxima (R88 to R90, R147) -/

def scCore (w : Nat) : Nat := bits w 63 61
def scForm (w : Nat) : Nat := bits w 60 59
def scClr (w : Nat) : Bool := bit w 58
def scN (w : Nat) : Nat := bits w 28 16
def scI (w : Nat) : Nat := bits w 11 0

/-- The operand checks of R147, then core, owner and range of the file. -/
def State.scCheck (s : State) (t : TrimRef) (w : Nat) (loads : Bool) : Except Status Nat :=
  if bits w 57 29 ≠ 0 ∨ bits w 15 12 ≠ 0 ∨ scN w = 0 ∨ (loads ∧ scClr w) then .error St.rmCmdInvalid
  else match s.ownedCore t (scCore w) with
    | .error st => .error st
    | .ok p => if 4096 < scI w + scN w then .error St.addressInvalid else .ok p

/-- A range of shelf SRAM that a global address names on this device, with the shelf. -/
def State.localSram (s : State) (a : BitVec 64) (n : Nat) : Option (Nat × Nat) :=
  let off := gaOff a
  if gaSpace a = 1 ∧ gaDev a = s.mod.pos.val ∧ bits off 54 28 = 0 ∧ bits off 23 0 + n ≤ sramSize then
    some (bits off 27 24, bits off 23 0)
  else none

/-- Partition and firmware-range rules for a trim core's access to a shelf SRAM (R136, R260). -/
def State.sramAccess (s : State) (t : TrimRef) (a : BitVec 64) (sh o n : Nat) : Status :=
  let r := s.trim t.sh t.k
  if !r.machine ∧ sramFirm < o + n then St.addressInvalid
  else if !r.machine ∧ gaPart a ≠ s.partOf t.sh then St.accessDenied
  else if s.partOf sh ≠ gaPart a then St.accessDenied
  else St.ok

/-- The bytes of a scale load's source: shelf SRAM or HBM, 4-byte aligned (R88). -/
def State.scSource (s : State) (t : TrimRef) (a : BitVec 64) (n : Nat) : Except Status (List Byte) :=
  let r := s.trim t.sh t.k
  let p := s.partOf t.sh
  if a.toNat % 4 ≠ 0 then .error St.addressInvalid
  else match s.localSram a n with
    | some (sh, o) =>
      let st := s.sramAccess t a sh o n
      if st = 0 then .ok (memRead (s.sram sh) o n) else .error st
    | none =>
      if gaSpace a ≠ 0 then .error St.addressInvalid
      else if !r.machine ∧ gaPart a ≠ p then .error St.accessDenied
      else s.engineRead (if r.machine then Init.firmware p else Init.job p false) a n

def words32 (bs : List Byte) : List (BitVec 32) := (chunks 4 (bs.length + 1) bs).map fun l => BitVec.ofNat 32 (leNat l)

/-- A load form: its entries land at once, or wait until no drain of their blocks is in flight (R89). -/
def scLoad (tok : Bool) (t : TrimRef) (o : TrimOps) (s : State) : State :=
  let w := o.rs2.toNat
  if scForm w ≠ tok.toNat then s else
  s.onShelfTrim t o.base fun s _ =>
    match s.scCheck t w true with
    | .error st => s.retSt t o.rd st
    | .ok p =>
      match s.scSource t o.rs1 (4 * scN w) with
      | .error st => (s.retSt t o.rd st).noteFail st (s.hbmRange o.rs1 (4 * scN w))
      | .ok bs =>
        let l : ScaleLoad := ⟨t.k, o.rd, tok, scI w, words32 bs⟩
        let (k, go) := ({ s.core p with scale := { (s.core p).scale with loads := (s.core p).scale.loads ++ [l] } } : Core).releaseLoads
        let s := (s.modCore p fun _ => k).noteCorrected (s.hbmRange o.rs1 (4 * scN w))
        if go.contains l then s.ret t o.rd 0 else s.modTrim t.sh t.k fun r => { r with wait := some .scale }

def execLoadRowScales (t : TrimRef) (o : TrimOps) (s : State) : Out := .next (scLoad false t o s)
def execLoadTokenScales (t : TrimRef) (o : TrimOps) (s : State) : Out := .next (scLoad true t o s)

/-- A store form: entries of the maxima file to the core's own shelf SRAM, each read and, with CLR, zeroed in one step
(R88, R90). -/
def scStore (tok : Bool) (t : TrimRef) (o : TrimOps) (s : State) : State :=
  let w := o.rs2.toNat
  let n := scN w
  if scForm w ≠ 2 + tok.toNat then s else
  s.onShelfTrim t o.base fun s _ =>
    match s.scCheck t w false with
    | .error st => s.retSt t o.rd st
    | .ok p =>
      match s.localSram o.rs1 (4 * n) with
      | none => s.retSt t o.rd St.addressInvalid
      | some (sh, a) =>
        if sh ≠ t.sh.val then s.retSt t o.rd St.addressInvalid else
        let st := s.sramAccess t o.rs1 sh a (4 * n)
        if st ≠ 0 then s.retSt t o.rd st else
        let u := (s.core p).scale
        let file := if tok then u.tokMax else u.rowMax
        let bs := (tabGetList 0 file (scI w) n).flatMap fun v => natLE v.toNat 4
        let s := s.sramWrite sh a bs
        let s := if !scClr w then s else s.modCore p fun k => { k with scale :=
          if tok then { k.scale with tokMax := tabClear file (scI w) n } else { k.scale with rowMax := tabClear file (scI w) n } }
        s.ret t o.rd 0

def execStoreRowMaxima (t : TrimRef) (o : TrimOps) (s : State) : Out := .next (scStore false t o s)
def execStoreTokenMaxima (t : TrimRef) (o : TrimOps) (s : State) : Out := .next (scStore true t o s)

/-! ### Seeds (R148) -/

/-- A stochastic drain lies between issue and completion; vrand draws as it issues. -/
def Core.drawing (k : Core) : Bool := k.tile.drains.any (·.stochastic)

def execScSeed (t : TrimRef) (o : TrimOps) (s : State) : Out :=
  .next (s.onShelfTrim t o.base fun s _ =>
    match s.ownedCore t (bits o.rs2.toNat 2 0) with
    | .error st => s.retSt t o.rd st
    | .ok p =>
      if (s.core p).drawing then
        (s.modCore p fun k => { k with scale := { k.scale with seedHeld := some (o.rs1, t.k, o.rd) } }).modTrim t.sh t.k
          fun r => { r with wait := some .seed }
      else (s.modCore p fun k => { k with scale := { k.scale with seed := o.rs1 } }).ret t o.rd 0)

/-- A held seed write lands, and its sc.seed completes. -/
def execSeedWriteApply (c : CoreRef) (s : State) : Out :=
  match s.phys c.sh c.c with
  | none => .next s
  | some p =>
    match (s.core p).scale.seedHeld with
    | none => .next s
    | some (v, k, rd) =>
      if (s.core p).drawing then .next s else
      .next ((s.modCore p fun q => { q with scale := { q.scale with seed := v, seedHeld := none } }).modTrim c.sh k
        (·.retire rd 0))

/-! ### Summaries (R149) -/

def execSumRecv (t : TrimRef) (o : TrimOps) (s : State) : Out :=
  .next (s.onShelfTrim t o.base fun s r =>
    match r.port with
    | w :: _ => s.popSummary t o.rd w
    | [] => s.modTrim t.sh t.k fun r => { r with wait := some (.summary o.rd) })

def execSumPoll (t : TrimRef) (o : TrimOps) (s : State) : Out :=
  .next (s.onShelfTrim t o.base fun s r =>
    match r.port with
    | w :: _ => s.popSummary t o.rd w
    | [] => s.ret t o.rd sumEmpty)

def execSumFlush (t : TrimRef) (o : TrimOps) (s : State) : Out :=
  .next (s.onShelfTrim t o.base fun s r =>
    (s.modTrim t.sh t.k fun r => { r with port := [] }).ret t o.rd (BitVec.ofNat 64 r.port.length))

/-! ### Encodings and exceptions (R135, R137, R139, R151, R337) -/

/-- The extension instructions (R139). -/
inductive TrimOpcode where
  | rmCmd
  | waitNe
  | waitEq
  | waitGeu
  | tpIssue
  | tpStat
  | tpDiscard
  | scLoad
  | scSeed
  | sumRecv
  | sumPoll
  | sumFlush
deriving DecidableEq, Repr

/-- The extension instruction of a 32-bit word of major opcode custom-0, by funct3 and funct7 (R139). -/
def trimDecode (w : BitVec 32) : Option TrimOpcode :=
  let n := w.toNat
  if bits n 6 0 ≠ 0b0001011 then none
  else match bits n 14 12, bits n 31 25 with
    | 0, 0 => some .rmCmd
    | 1, 0 => some .waitNe
    | 1, 1 => some .waitEq
    | 1, 2 => some .waitGeu
    | 2, 0 => some .tpIssue
    | 3, 0 => some .tpStat
    | 3, 1 => some .tpDiscard
    | 4, 0 => some .scLoad
    | 4, 1 => some .scSeed
    | 5, 0 => some .sumRecv
    | 5, 1 => some .sumPoll
    | 5, 2 => some .sumFlush
    | _, _ => none

/-- The instructions that a management core executes as well (R137). -/
def TrimOpcode.onManagement : TrimOpcode → Bool
  | .rmCmd | .waitNe | .waitEq | .waitGeu => true
  | _ => false

/-- A CSR access of RV64 to `cycle` or `instret` (R337). PRESUMED, log 9. -/
def readsCounter (w : BitVec 32) : Bool :=
  bits w.toNat 6 0 == 0b1110011 && bits w.toNat 13 12 != 0 && (bits w.toNat 31 20 == 0xC00 || bits w.toNat 31 20 == 0xC02)

/-- The core does not execute the word: a custom-0 word that R139 does not list or R137 takes from a management core, or,
in user mode, a read of `cycle` or `instret`. Another word is RV64's own. -/
def trimIllegal (t : TrimRef) (machine : Bool) (w : BitVec 32) : Bool :=
  if bits w.toNat 6 0 = 0b0001011 then
    match trimDecode w with
    | some o => t.sh.val == 16 && !o.onManagement
    | none => true
  else !machine && readsCounter w

/-- The local map: `perm` 0 read, 1 write, 2 fetch (R135, R137, R337). -/
def State.localMap (s : State) (t : TrimRef) (a n perm : Nat) : Bool :=
  let r := s.trim t.sh t.k
  let within (lo size : Nat) : Bool := decide (lo ≤ a) && decide (a + n ≤ lo + size)
  let window : Bool := within 0x02000000 0x1000 && (r.machine || s.owns t.sh t.k ((a - 0x02000000) / 0x200))
  let counters : Bool := within 0x03000000 0x100
  let firm : Bool := r.machine && within 0x40000000 0x10000000
  match perm with
  | 0 => s.localOk t a n 0 || (decide (t.sh.val < 16) && window) || counters || firm
  | 1 => s.localOk t a n 1 || counters
  | _ => s.localOk t a n 2 || firm

/-- The cause of an exception of RV64, where it is raised at all: an access that the local map has, or a word that the core
executes, raises none. -/
def State.excCause (s : State) (t : TrimRef) (e : TrimExc) : Option (BitVec 64) :=
  match e with
  | .load a n => if s.localMap t a n 0 then none else some 5
  | .store a n => if s.localMap t a n 1 then none else some 7
  | .fetch a n => if s.localMap t a n 2 then none else some 1
  | .illegal w => if trimIllegal t (s.trim t.sh t.k).machine w then some causeIllegal else none
  | .other c => some (c.setWidth 64)

/-- An exception: the core traps. Where user code took it unhandled, every core that the trim core owns is discarded and
the job's works end TRIM_FAULT (R151). -/
def execTrimException (t : TrimRef) (b : TrimBase) (e : TrimExc) (s : State) : Out :=
  let r := s.trim t.sh t.k
  if r.off ∨ r.wait.isSome then .next s else
  let s1 := s.enter t b
  match s1.excCause t e with
  | none => .next s
  | some cause =>
    let s := s1.modTrim t.sh t.k (·.trap cause)
    if b.machine ∨ t.sh.val = 16 then .next s else
    let s := (List.range 8).foldl (fun s c => match s.phys t.sh c with
      | some p => if s.owns t.sh t.k c then s.discardCore t.sh p else s
      | none => s) s
    .next ((s.worksOn t.sh).foldl (fun s i => s.workFail i St.trimFault) s)

end Sys2Proof.Machine
end

