-- ==== Sys2Proof/Machine/Remote.lean ====
section
/-!
DEFINITION. Remote operations as they land at this device (R79 to R82, R258 to R267, R298), and the responses to the
device's own.
-/

namespace Sys2Proof.Machine

/-! ### Places (R259) -/

/-- Where a checked range begins. `p` is the physical core behind the logical number. -/
inductive Place where
  | hbm (o : Nat)
  | sram (sh o : Nat)
  | cl (sh c p o : Nat)
  | tally (p o : Nat)
  | od (k : Nat)
deriving DecidableEq, Repr

/-- Target spaces of an operation at a device (R262). -/
def spaceOk (opc sp : Nat) : Bool :=
  match opc with
  | 1 => decide (sp ≤ 3)
  | 2 => decide (sp ≤ 4)
  | 6 => sp == 0 || sp == 3
  | _ => decide (sp ≤ 1)

/-- A core-local byte that a GET reads (R87, R107, R145, R169, R178, R196, R198). -/
def clReadable (o : Nat) : Bool :=
  decide (o < 0x188000) || (decide (0x190000 ≤ o) && decide (o < 0x190018)) || (decide (0x190100 ≤ o) && decide (o < 0x190128))
    || (decide (0x1A0000 ≤ o) && decide (o < 0x1A0200) && decide (0x20 ≤ o % 0x40) && decide (o % 0x40 < 0x28))
    || (decide (0x1A0200 ≤ o) && decide (o < 0x1A0404)) || decide (0x1B0000 ≤ o)

/-- A core-local range that a PUT writes: operand buffer, gather entries, or one whole VLAUNCH, STEPF or descriptor. -/
def clWritable (o n : Nat) : Bool :=
  decide (o + n ≤ opbufSize) || (decide (0x1A0200 ≤ o) && decide (o + n ≤ 0x1A0400)) || (o == 0x190000 && n == 8)
    || (o == 0x190120 && n == 8) || (decide (0x1A0000 ≤ o) && decide (o < 0x1A0200) && o % 0x40 == 0 && n == 32)

/-- Who makes a request, and whether its claim to the secure world is refused: a peer that authentication did not
pass (R298). -/
structure Sender where
  init : Init
  deny : Bool
deriving DecidableEq, Repr

/-- The checks of R259 on spaces, reserved bits, extents and assigned offsets. -/
def State.offsetOk (s : State) (w : Sender) (opc : Nat) (a : BitVec 64) (n : Nat) : Bool :=
  let off := gaOff a
  let high := bits off 54 28 == 0
  let o := bits off 20 0
  spaceOk opc (gaSpace a) && (!(opc == 3 || opc == 4 || opc == 5) || off % 8 == 0) &&
  (match gaSpace a with
    | 0 => decide (off + n ≤ s.hbmCap)
    | 1 => high && decide (bits off 23 0 + n ≤ (if w.init.secure then sramSize else sramFirm))
    | 2 => high && (if opc = 2 then decide (o + n ≤ 0x200000) && (List.range n).all fun j => clReadable (o + j) else clWritable o n)
    | 3 => high && decide (o + n ≤ 0x100040)
    | _ => high && off % 16 == 0 && n % 16 == 0 &&
        (List.range (n / 16)).all fun j => (s.odCell w.init.secure w.init.part (off / 16 + j)).isSome)

/-- The checks of R260 and the place, for spaces 0 to 4. -/
def State.placeOf (s : State) (w : Sender) (a : BitVec 64) : Except Status Place :=
  let off := gaOff a
  let sh := bits off 27 24
  let c := bits off 23 21
  let core (f : Nat → Place) : Except Status Place :=
    match s.phys sh c with
    | some p => .ok (f p)
    | none => .error St.coreUnavailable
  if gaDev a ≠ s.mod.pos.val then .error St.addressInvalid
  else if w.deny ∨ (!w.init.secure ∧ gaPart a ≠ w.init.part) then .error St.accessDenied
  else if 1 ≤ gaSpace a ∧ gaSpace a ≤ 3 ∧ s.partOf sh ≠ gaPart a then .error St.accessDenied
  else match gaSpace a with
    | 0 => .ok (.hbm off)
    | 1 => .ok (.sram sh (bits off 23 0))
    | 2 => core fun p => .cl sh c p (bits off 20 0)
    | 3 => core fun p => .tally p (bits off 20 0)
    | _ => .ok (.od (off / 16))

/-- R79: alignment of a TALLY_ADD, and one slot's words only. -/
def tallyRangeOk (pl : Place) (a : BitVec 64) (n : Nat) : Bool :=
  a.toNat % 16 == 0 && match pl with
    | .tally _ o => decide (o / 0x10000 = (o + n - 1) / 0x10000) && decide (o + n ≤ 0x100000)
    | _ => true

/-- Every check on a range, in the order R259, R260, R79, R315. -/
def State.place (s : State) (w : Sender) (opc : Nat) (a : BitVec 64) (n : Nat) : Except Status Place :=
  if !s.offsetOk w opc a n then .error St.addressInvalid
  else match s.placeOf w a with
    | .error st => .error st
    | .ok pl =>
      if opc = 6 ∧ !tallyRangeOk pl a n then .error St.addressInvalid
      else match pl with
        | .hbm o =>
          match s.regionCheck { w.init with part := gaPart a } o n (opc ≠ 2) with
          | some st => .error st
          | none => .ok pl
        | _ => .ok pl

/-! ### Reading (R33, R87, R107, R145, R169, R172, R196) -/

/-- A byte of a 32-, 64- or 128-bit word. -/
def wordByte (v j : Nat) : Byte := BitVec.ofNat 8 (v / 256 ^ j)

/-- A core-local byte. -/
def Core.clByte (k : Core) (o : Nat) : Byte :=
  if o < 0x180000 then tabGet 0 k.opbuf o
  else if o < 0x184000 then wordByte (tabGet 0 k.scale.rowScale ((o - 0x180000) / 4)).toNat (o % 4)
  else if o < 0x188000 then wordByte (tabGet 0 k.scale.tokScale ((o - 0x184000) / 4)).toNat (o % 4)
  else if o < 0x190120 then wordByte (k.windowWord ((o - 0x190000) / 8 * 8)) (o % 8)
  else if o < 0x190128 then wordByte k.stepf.toNat (o % 8)
  else if o < 0x1A0200 then wordByte (k.slotStatus ((o - 0x1A0000) / 0x40)).toNat (o % 8)
  else if o < 0x1A0400 then wordByte (tabGet 0 k.gather ((o - 0x1A0200) / 8)).toNat (o % 8)
  else if o < 0x1A0404 then wordByte k.gradst.word.toNat (o % 4)
  else if o < 0x1C0000 then wordByte (tabGet 0 k.grad ((o - 0x1B0000) / 16)).toNat (o % 16)
  else tabGet 0 (k.slotA ((o - 0x1C0000) / 0x8000)).bytes (o % 0x8000)

/-- A byte of Tally space. -/
def Core.tallyByte (k : Core) (o : Nat) : Byte :=
  if o < 0x100000 then wordByte (tabGet 0 k.tally (o / 16)).toNat (o % 16)
  else wordByte (tabGet {} k.tslot ((o - 0x100000) / 4)).word.toNat (o % 4)

/-- The data of a GET. -/
def State.readPlace (s : State) (w : Sender) (pl : Place) (n : Nat) : State × Answer :=
  let ok (l : List Byte) : State × Answer := (s, ⟨St.ok, false, l⟩)
  match pl with
  | .hbm o =>
    match s.hbmLoad o n with
    | some l => (s.noteCorrected [(o, n)], ⟨St.ok, false, l⟩)
    | none => (s.noteReads [(o, n)], failure St.memoryUncorrectable)
  | .sram sh o => ok (memRead (s.sram sh) o n)
  | .cl _ _ p o => ok ((List.range n).map fun j => (s.core p).clByte (o + j))
  | .tally p o => ok ((List.range n).map fun j => (s.core p).tallyByte (o + j))
  | .od k => ok ((List.range (n / 16)).flatMap fun j => (s.odCell w.init.secure w.init.part (k + j)).getD [])

/-! ### Writing (R264) -/

/-- Overlay bytes at offset `o` on a list of bytes that begins at `base`. -/
def overlay (old : List Byte) (base o : Nat) (bs : List Byte) : List Byte :=
  old.take (o - base) ++ bs ++ old.drop (o - base + bs.length)

/-- Tally words under a PUT; slot status words take none (R34). -/
def tallyPut (t : Tab (BitVec 128)) (o : Nat) (bs : List Byte) : Tab (BitVec 128) :=
  let w0 := o / 16
  let n := (o + bs.length + 15) / 16 - w0
  let new := overlay ((tabGetList 0 t w0 n).flatMap fun v => natLE v.toNat 16) (16 * w0) o bs
  tabSetList 0 t w0 (((chunks 16 (n + 1) new).map fun l => BitVec.ofNat 128 (leNat l)).take (65536 - w0))

/-- Gather entries under a PUT. -/
def gatherPut (t : Tab (BitVec 64)) (o : Nat) (bs : List Byte) : Tab (BitVec 64) :=
  let w0 := o / 8
  let n := (o + bs.length + 7) / 8 - w0
  let new := overlay ((tabGetList 0 t w0 n).flatMap fun v => natLE v.toNat 8) (8 * w0) o bs
  tabSetList 0 t w0 ((chunks 8 (n + 1) new).map fun l => gatherWritten (BitVec.ofNat 64 (leNat l)))

/-- Write the bytes of a segment. -/
def State.writePlace (s : State) (w : Sender) (pl : Place) (bs : List Byte) : State × Status :=
  match pl with
  | .hbm o => s.hbmStore o bs
  | .sram sh o => (s.sramWrite sh o bs, St.ok)
  | .tally p o => (s.modCore p fun k => { k with tally := tallyPut k.tally o bs }, St.ok)
  | .cl sh c p o =>
    if o < 0x180000 then (s.modCore p fun k => { k with opbuf := memWrite k.opbuf o bs }, St.ok)
    else if o = 0x190000 then
      let (k, st) := (s.core p).launch (BitVec.ofNat 64 (leNat bs))
      (s.modCore p fun _ => k, st)
    else if o = 0x190120 then (s.modCore p fun k => { k with stepf := stepfWritten (BitVec.ofNat 64 (leNat bs)) }, St.ok)
    else if o < 0x1A0200 then s.fillPut sh c ((o - 0x1A0000) / 0x40) w.init (BitVec.ofNat 256 (leNat bs))
    else (s.modCore p fun k => { k with gather := gatherPut k.gather (o - 0x1A0200) bs }, St.ok)
  | .od _ => (s, St.addressInvalid)

/-- The place `n` bytes further on. -/
def Place.plus (pl : Place) (n : Nat) : Place :=
  match pl with
  | .hbm o => .hbm (o + n)
  | .sram sh o => .sram sh (o + n)
  | .cl sh c p o => .cl sh c p (o + n)
  | .tally p o => .tally p (o + n)
  | .od k => .od (k + n / 16)

/-! ### TALLY_ADD (R80, R81) -/

/-- Words of an HBM accumulation area, one after the other, up to an uncorrectable granule. -/
def State.tallyAddHbm (s : State) (o : Nat) : List (Int × Bool) → Bool → State × Answer
  | [], sat => (s, ⟨St.ok, sat, []⟩)
  | x :: xs, sat =>
    if s.hbmBad o 16 then (s.eccEvent o, ⟨St.memoryUncorrectable, sat, []⟩)
    else
      let (v, f) := tallyAdd (BitVec.ofNat 128 (s.hbmNat o 16)) x.1
      ((s.noteCorrected [(o, 16)]).hbmWrite o (natLE v.toNat 16)).tallyAddHbm (o + 16) xs (sat || f || x.2)

/-- Operand words of a TALLY_ADD, each with whether it is the −2^127 that an addition reads as −(2^127 − 1) and that sets
SAT (R35). -/
def tallyOperands (bs : List Byte) : List (Int × Bool) :=
  (chunks 16 (bs.length + 1) bs).map fun l => tallyRead (BitVec.ofNat 128 (leNat l))

/-- R80: the slot of the target word is LIVE at the carried point. -/
def Core.tallySlotOk (k : Core) (o : Nat) (point : BitVec 8) : Bool :=
  let st := tabGet {} k.tslot (o / 0x10000)
  st.live && st.point == point

/-- TALLY_ADD into one slot of a core that passed R80's check. -/
def Core.tallyAddSlot (k : Core) (o : Nat) (cfl : BitVec 3) (xs : List (Int × Bool)) : Core × Answer :=
  let (t, full) := addTerms (o / 16) k.tally (xs.zipIdx.map fun e => (e.2, e.1.1))
  let sat := full || xs.any (·.2)
  ({ k with tally := t, tadds := if k.tadds.contains (o / 0x10000) then k.tadds else o / 0x10000 :: k.tadds }.modTslot (o / 0x10000) fun st => { st with
      sat := st.sat || sat || cfl.getLsbD 2, nfi := st.nfi || cfl.getLsbD 1, nfs := st.nfs || cfl.getLsbD 0 },
    ⟨St.ok, sat, []⟩)

def State.tallyAddPlace (s : State) (pl : Place) (cfl : BitVec 3) (bs : List Byte) : State × Answer :=
  match pl with
  | .hbm o => s.tallyAddHbm o (tallyOperands bs) false
  | .tally p o =>
    let (k, a) := (s.core p).tallyAddSlot o cfl (tallyOperands bs)
    (s.modCore p fun _ => k, a)
  | _ => (s, failure St.addressInvalid)

/-! ### Atomics (R262) -/

/-- Change one 64-bit word; the answer carries the old one. -/
def State.atomicPlace (s : State) (pl : Place) (f : BitVec 64 → BitVec 64) : State × Answer :=
  match pl with
  | .hbm o =>
    if s.hbmBad o 8 then (s.eccEvent o, failure St.memoryUncorrectable) else
    let v := s.hbmNat o 8
    ((s.noteCorrected [(o, 8)]).hbmWrite o (natLE (f (BitVec.ofNat 64 v)).toNat 8), ⟨St.ok, false, natLE v 8⟩)
  | .sram sh o =>
    let v := memNat (s.sram sh) o 8
    (s.sramWrite sh o (natLE (f (BitVec.ofNat 64 v)).toNat 8), ⟨St.ok, false, natLE v 8⟩)
  | _ => (s, failure St.addressInvalid)

/-! ### Senders and answers -/

/-- The request as it lands: for a trim core or firmware of this device, the operation that it issued and that no FENCE
holds (firmware's own requests may also come as commands only); for a host, on an OPEN context (R260, R267, R274, R298). -/
def State.sender (s : State) (opc : Nat) (r : Request) : Option (Sender × Request) :=
  let own (id : Nat) (mine : Issuer → Bool) : Option (Sender × Request) :=
    match s.ops.find? (·.id = id) with
    | some o =>
      if mine o.who ∧ o.sent ∧ o.answered.isNone ∧ o.opc = opc ∧ gaSpace o.remote ≠ 15 ∧ gaDev o.remote = s.mod.pos.val then
        some (⟨⟨o.secure, o.part, false, o.secure⟩, false⟩,
          { r with addr := o.remote, len := o.wireLen, off := 0, data := o.data, opnd1 := o.opnd1, opnd2 := o.opnd2
                   signal := o.signal, point := o.point, cfl := o.cfl })
      else none
    | none => none
  match r.origin with
  | .host c => if (s.ctx c).st = .open_ then some (⟨⟨(s.ctx c).secure, (s.ctx c).part, true, false⟩, false⟩, r) else none
  | .peer d secure part _ => some (⟨⟨secure, part, false, false⟩, secure && !(s.peer d).auth⟩, r)
  | .trim t id => own id (·.sameDomain (.trim t.sh t.k 0))
  | .firmware id =>
    if s.ops.any (·.id = id) then own id fun o => !o.isTrim else some (⟨Init.firmware 0, false⟩, r)

/-- R263: lengths. -/
def lengthOk (opc n : Nat) : Bool :=
  match opc with
  | 1 | 2 | 7 => decide (1 ≤ n ∧ n ≤ 16777215)
  | 3 | 4 | 5 => n == 8
  | 6 => n % 16 == 0 && decide (16 ≤ n ∧ n ≤ 4096)
  | _ => n == 0

/-- Answer a request: a RESPONSE, a fabric response, or the listed operation's answer. -/
def State.answer (s : State) (opc : Nat) (r : Request) (a : Answer) : State :=
  match r.origin with
  | .host c => s.respond c r.msn a
  | .peer d world part t => if s.reachable d then s.respondPeer d world part opc t a else s
  | .trim _ id | .firmware id => s.answerOp id a false

/-- A request message of a host has been applied (R279). -/
def State.countIn (s : State) (r : Request) (st : Status) : State :=
  match r.origin with
  | .host c => if st = 0 then s.modCtx c fun x => { x with rqin := x.rqin + 1 } else s
  | _ => s

/-- Messages in segments of a request's sender. -/
def State.asmOf (s : State) (r : Request) : List Assembly :=
  match r.origin with
  | .host c => (s.ctx c).asm
  | .peer d _ _ _ => (s.peer d).asm
  | _ => []

def State.setAsm (s : State) (r : Request) (l : List Assembly) : State :=
  match r.origin with
  | .host c => s.modCtx c fun x => { x with asm := l }
  | .peer d _ _ _ => s.modPeer d fun p => { p with asm := l }
  | _ => s

/-- FENCEs of a request's sender that wait. -/
def State.fencesOf (s : State) (r : Request) : List (Request × List (BitVec 32)) :=
  match r.origin with
  | .host c => (s.ctx c).fences
  | .peer d _ _ _ => (s.peer d).fences
  | _ => []

def State.setFences (s : State) (r : Request) (l : List (Request × List (BitVec 32))) : State :=
  match r.origin with
  | .host c => s.modCtx c fun x => { x with fences := l }
  | .peer d _ _ _ => s.modPeer d fun p => { p with fences := l }
  | _ => s

/-- Key of a message among its sender's. -/
def reqKey (r : Request) : BitVec 32 :=
  match r.origin with
  | .peer _ _ _ t => t
  | _ => r.msn

/-! ### Landing -/

/-- Answer a FENCE of a host or a peer (R263, R267). -/
def State.answerFence (s : State) (r : Request) : State :=
  let st : Status := if r.len = 0 then St.ok else St.rmCmdInvalid
  (s.answer 8 r (failure st)).countIn r st

/-- A message of a sender has arrived whole: FENCEs that waited for nothing else are answered. -/
def State.settleFences (s : State) (r : Request) : State :=
  let l := (s.fencesOf r).map fun e => (e.1, e.2.filter (· ≠ reqKey r))
  let (ready, rest) := l.partition (·.2.isEmpty)
  ready.foldl (fun s e => s.answerFence e.1) (s.setFences r rest)

/-- An operation whose request is one segment: checks, effect, answer. -/
def landOne (opc : Nat) (act : State → Sender → Request → Place → State × Answer) (r : Request) (s : State) : State :=
  match s.sender opc r with
  | none => s
  | some (w, r) =>
    let (s, a) :=
      if !lengthOk opc r.len then (s, failure St.rmCmdInvalid)
      else match s.place w opc r.addr r.len with
        | .error st => (s, failure st)
        | .ok pl => act s w r pl
    (s.answer opc r a).countIn r a.status

def execGet (r : Request) (s : State) : Out :=
  .next (landOne 2 (fun s w r pl => s.readPlace w pl r.len) r s)

def execAtomicAdd (r : Request) (s : State) : Out :=
  .next (landOne 3 (fun s _ r pl => s.atomicPlace pl (· + r.opnd1)) r s)

def execAtomicSwap (r : Request) (s : State) : Out :=
  .next (landOne 4 (fun s _ r pl => s.atomicPlace pl fun _ => r.opnd1) r s)

def execAtomicCas (r : Request) (s : State) : Out :=
  .next (landOne 5 (fun s _ r pl => s.atomicPlace pl fun v => if v = r.opnd1 then r.opnd2 else v) r s)

/-- The signal word of a PUT_SIGNAL passes the checks of its own range (R263, R265). -/
def State.signalPlace (s : State) (w : Sender) (r : Request) : Except Status Place :=
  if gaSpace r.signal = 15 ∨ gaDev r.signal ≠ gaDev r.addr ∨ r.signal.toNat % 8 ≠ 0 then .error St.addressInvalid
  else s.place w 3 r.signal 8

/-- The decision on a PUT or PUT_SIGNAL, taken over its whole range before any byte is written (R263). -/
def State.putDecision (s : State) (w : Sender) (opc : Nat) (r : Request) : Except Status Place :=
  if !lengthOk opc r.len then .error St.rmCmdInvalid
  else match s.place w opc r.addr r.len with
    | .error st => .error st
    | .ok pl =>
      if opc = 7 then match s.signalPlace w r with
        | .error st => .error st
        | .ok _ => .ok pl
      else .ok pl

/-- Every byte of a PUT_SIGNAL is visible: its signal word advances, under the decision that its message got (R263, R316). -/
def State.putSignal (s : State) (w : Sender) (r : Request) : State × Status :=
  match s.placeOf w r.signal with
  | .error st => (s, st)
  | .ok pl =>
    let (s, a) := s.atomicPlace pl (· + 1)
    (s, a.status)

/-- A segment of a PUT or PUT_SIGNAL: the first to arrive decides for its message; each writes its bytes or none; the
last one applies the signal and is answered. A refused message answers every segment (R263, R288). -/
def landPut (opc : Nat) (r : Request) (s : State) : State :=
  match s.sender opc r with
  | none => s
  | some (w, r) =>
    let l := s.asmOf r
    let others := l.filter (·.msn ≠ reqKey r)
    let (st0, missing) : Status × Nat := match l.find? (·.msn = reqKey r) with
      | some a => (a.status, a.missing)
      | none => (match s.putDecision w opc r with
        | .error st => st
        | .ok _ => St.ok, r.len)
    let bs := r.data.take (r.len - r.off)
    let left := missing - bs.length
    let (s, st) := if st0 ≠ 0 then (s, st0) else match s.placeOf w r.addr with
      | .error st => (s, st)
      | .ok pl => s.writePlace w (pl.plus r.off) bs
    if left = 0 then
      let (s, st) := if opc = 7 ∧ st = 0 then s.putSignal w r else (s, st)
      (((s.setAsm r others).answer opc r (failure st)).countIn r st).settleFences r
    else
      let s := s.setAsm r (others ++ [⟨reqKey r, st, left, false, none⟩])
      if st = 0 then s else s.answer opc r (failure st)

def execPut (r : Request) (s : State) : Out := .next (landPut 1 r s)

def execPutSignal (r : Request) (s : State) : Out := .next (landPut 7 r s)

/-- The decision on a TALLY_ADD, before any word changes (R80, R263). -/
def State.tallyDecision (s : State) (w : Sender) (r : Request) : Except Status Place :=
  if !lengthOk 6 r.len then .error St.rmCmdInvalid
  else match s.place w 6 r.addr r.len with
    | .error st => .error st
    | .ok (.tally p o) => if (s.core p).tallySlotOk o r.point then .ok (.tally p o) else .error St.tallyPointMismatch
    | .ok pl => .ok pl

/-- The physical core that a checked TALLY_ADD goes to. -/
def Place.core : Place → Option Nat
  | .tally p _ => some p
  | _ => none

/-- A later segment of an accepted TALLY_ADD that reaches another core than the first did, a spare in its place, is applied
only where its slot is LIVE at the carried point (R85). -/
def State.tallyMoved (s : State) (pl : Place) (a : Assembly) (point : BitVec 8) : Bool :=
  match pl with
  | .tally p o => a.core != some p && !(s.core p).tallySlotOk o point
  | _ => false

/-- A segment of a TALLY_ADD, as one of a PUT: the first decides, each adds its words once, the last is answered with the
SAT indication of them all (R82, R263, R280). -/
def landTally (r : Request) (s : State) : State :=
  match s.sender 6 r with
  | none => s
  | some (w, r) =>
    let l := s.asmOf r
    let others := l.filter (·.msn ≠ reqKey r)
    let a0 : Assembly := (l.find? (·.msn = reqKey r)).getD (match s.tallyDecision w r with
      | .error st => ⟨reqKey r, st, r.len, false, none⟩
      | .ok pl => ⟨reqKey r, St.ok, r.len, false, pl.core⟩)
    let bs := r.data.take (r.len - r.off)
    let left := a0.missing - bs.length
    let (s, a) := if a0.status ≠ 0 then (s, failure a0.status) else match s.placeOf w r.addr with
      | .error st => (s, failure st)
      | .ok pl =>
        if s.tallyMoved pl a0 r.point then (s, failure St.tallyPointMismatch) else s.tallyAddPlace (pl.plus r.off) r.cfl bs
    let a : Answer := { a with sat := a0.sat || a.sat }
    if left = 0 then (((s.setAsm r others).answer 6 r a).countIn r a.status).settleFences r
    else
      let s := s.setAsm r (others ++ [⟨reqKey r, a.status, left, a.sat, a0.core⟩])
      if a.status = 0 then s else s.answer 6 r a

def execTallyAdd (r : Request) (s : State) : Out := .next (landTally r s)

/-- A PUT that the row of a register names: one whose range reaches bytes `lo` to `hi` of a core-local space. -/
def State.putAt (s : State) (r : Request) (f : Nat → Bool) : Bool :=
  match s.sender 1 r with
  | some (_, r) => gaSpace r.addr == 2 && f (bits (gaOff r.addr) 20 0)
  | none => false

/-- A PUT to VLAUNCH (R107): the same landing, where its address names VLAUNCH. -/
def execVlaunch (r : Request) (s : State) : Out :=
  .next (if s.putAt r fun o => decide (0x190000 ≤ o ∧ o < 0x190008) then landPut 1 r s else s)

/-- A PUT of a fill descriptor (R170). -/
def execFillDescriptor (r : Request) (s : State) : Out :=
  .next (if s.putAt r fun o => decide (0x1A0000 ≤ o ∧ o < 0x1A0200 ∧ o % 0x40 < 0x20) then landPut 1 r s else s)

/-- A PUT to STEPF (R198). -/
def execStepfWrite (r : Request) (s : State) : Out :=
  .next (if s.putAt r fun o => decide (0x190120 ≤ o ∧ o < 0x190128) then landPut 1 r s else s)

/-! ### FENCE (R267) -/

/-- A domain's operations that its finished FENCE held are sent, up to its next one. -/
def State.releaseDomain (s : State) (d : Issuer) : List RemOp → State
  | [] => s
  | o :: l =>
    if !o.who.sameDomain d ∨ o.sent then s.releaseDomain d l
    else if o.opc = 8 then s.transmit o
    else (s.transmit o).releaseDomain d l

/-- A FENCE of this device completes once every earlier operation of its domain has its response (R267). -/
def State.fenceOwn (s : State) (id : Nat) (mine : Issuer → Bool) : State :=
  match s.ops.find? (·.id = id) with
  | some o =>
    let early := s.ops.filter fun q => q.who.sameDomain o.who && decide (q.id < id)
    if o.opc = 8 ∧ mine o.who ∧ o.sent ∧ !o.done ∧ early.all (·.done) then
      let s := s.answerOp id (failure St.ok) true
      s.releaseDomain o.who (s.ops.filter fun q => decide (id < q.id))
    else s
  | none => s

/-- A FENCE completes when every earlier operation of its domain has: for a trim core or a firmware task, when each has its
response; for a host or a peer, when every message before it has arrived whole. A peer's claim to the secure world that
authentication does not back is refused (R298). -/
def execFence (r : Request) (s : State) : Out :=
  match r.origin with
  | .trim t id => .next (s.fenceOwn id (·.sameDomain (.trim t.sh t.k 0)))
  | .firmware id => .next (s.fenceOwn id fun o => !o.isTrim)
  | _ =>
    match s.sender 8 r with
    | none => .next s
    | some (w, r) =>
      if w.deny then .next (s.answer 8 r (failure St.accessDenied))
      else match (s.asmOf r).map (·.msn) with
        | [] => .next (s.answerFence r)
        | l => .next (s.setFences r (s.fencesOf r ++ [(r, l)]))

/-! ### Responses to the device's own operations (R266, R276) -/

/-- Completion of an operation of firmware: an output copy, a completion record, or another. -/
def State.finishOp (s : State) (o : RemOp) (a : Answer) : State :=
  let drop : State := { s with ops := s.ops.filter (·.id ≠ o.id) }
  match o.who with
  | .trim _ _ _ => s
  | .firmware => drop
  | .record _ => if a.status = 0 then drop else drop.countUndeliverable
  | .output i => if a.status = 0 then (drop.noteWritten i o.data.length).partCopied i else drop.workFail i a.status

/-- An answer from outside as the device passes it on: a reserved code never appears, and what stands in its place is one of
the codes of failure, free (R256). DEDUCED, log 83. -/
def State.known (s : State) (a : Answer) : Answer :=
  if St.known a.status then a
  else { a with status := (St.all.drop 1).getD (Config.freeNat s.free % (St.all.length - 1)) St.remoteTimeout }

/-- A response arrives. An operation inside the device has its answer from its landing; one that failed before it was
sent has it too. -/
def execResponse (op : Nat) (a : Answer) (s : State) : Out :=
  match s.ops.find? (·.id = op) with
  | none => .next s
  | some o =>
    let inside := gaSpace o.remote ≠ 15 ∧ gaDev o.remote = s.mod.pos.val
    let ans : Option Answer := match o.answered with
      | some b => some b
      | none => if inside ∨ o.opc = 8 ∨ !o.sent then none else some (s.known a)
    match ans with
    | none => .next s
    | some b =>
      let s := if St.known a.status then s else { s with free := s.free + 1 }
      let s := s.answerOp op b true
      let s := { s with ops := s.ops.map fun (q : RemOp) => if q.id = op then { q with done := true } else q }
      let s := if gaSpace o.remote = 15 ∧ !o.done then s.modCtx (hostCtx o.remote) fun x =>
          if b.status = 0 then { x with rqout := x.rqout + 1 } else { x with rqfail := x.rqfail + 1 }
        else s
      .next (s.finishOp o b)

end Sys2Proof.Machine
end

