-- ==== Sys2Proof/Machine/Directory.lean ====
section
/-!
DEFINITION. Directory commands, loads, waits and cache lines (R159 to R168, R183, R184).
-/

namespace Sys2Proof.Machine

/-! ### Fields of a command block (R160) -/

def dcOp (c : DirCmd) : Nat := bits c.block.toNat 63 56
def dcGen (c : DirCmd) : Nat := bits c.block.toNat 55 48
def dcDidx (c : DirCmd) : Nat := bits c.block.toNat 44 26
def dcTenant (c : DirCmd) : Nat := bits c.block.toNat 23 0
def dcTmo (c : DirCmd) : Nat := bits c.block.toNat 143 128
def dcSrc (c : DirCmd) : Nat := bits c.block.toNat 255 192
def dcLen (c : DirCmd) : Nat := bits c.block.toNat 319 256
def dcDigest (c : DirCmd) : Nat := bits c.block.toNat 575 320

/-! ### Ends of commands (R161) -/

/-- A command ends: its work gets its final status. A command of firmware leaves its effect only. -/
def State.endCmd (s : State) (c : DirCmd) (st : Status) : State :=
  match c.slot with
  | none => s
  | some i => s.endWork i st

/-- VALUE[7:0] of a directory work takes the entry's GEN. -/
def State.noteGen (s : State) (c : DirCmd) (d : Nat) : State :=
  match c.slot with
  | none => s
  | some i => s.modWork i fun w => { w with value := ((s.entry d).gen).setWidth 64 }

/-- A command completes on an entry. -/
def State.doneCmd (s : State) (c : DirCmd) (d : Nat) (st : Status) : State := (s.noteGen c d).endCmd c st

/-! ### Slots, images and pool space -/

/-- Every adapter slot of the partition whose DIDX names the entry is EMPTY (R168). A gather context names no entry
(R171), and a fill that is held stays held. -/
def State.emptySlots (s : State) (p d : Nat) : State :=
  let clear (k : Core) : Core := (List.range 8).foldl (fun k i => k.modSlotA i fun a =>
    if a.didx = d ∧ !a.gth ∧ a.st ≠ .empty then { a with st := .empty, buf0 := none, buf1 := none } else a) k
  (s.shelvesOf p).foldl (fun s sh => (List.range 9).foldl (fun s q => s.modCore (9 * sh + q) clear) s) s

def State.freeAlloc (s : State) (keep : Nat × Nat × Nat → Bool) : State :=
  { s with dir := { s.dir with alloc := s.dir.alloc.filter keep } }

/-- FREE zeroes the entry's image and every byte of the pool that it holds, and its training state (R161). -/
def State.scrubEntry (s : State) (d : Nat) : State :=
  let s := (s.dir.alloc.filter (·.2.2 = d)).foldl (fun s a => s.hbmZero a.1 a.2.1) s
  match (s.entry d).area with
  | none => s
  | some a =>
    let shards := s.shardTable a
    let size (s : State) (q : Nat) : Nat :=
      let h := s.hbmNat (gaOff (BitVec.ofNat 64 q)) 128
      (Shard.mk (gaOff (BitVec.ofNat 64 q)) h 0).size
    let s := shards.foldl (fun s q => s.hbmZero (gaOff (BitVec.ofNat 64 q)) (size s q)) s
    s.hbmZero a 64

/-- Partition whose range holds an index. -/
def State.didxPart (s : State) (d : Nat) : Nat := if s.mode.cur.four then d / 131072 else 0

/-- A live TRAIN work on the entry. -/
def State.training (s : State) (d : Nat) : Bool := s.work.jobs.any (·.didx = d)

/-! ### Commands that wait for REFCNT 0 (R161, R166) -/

/-- What a waiting command waits for holds: no reference, for TRAIN_END only where an image is published. -/
def State.waitOver (s : State) (c : DirCmd) (d : Nat) : Bool :=
  let e := s.entry d
  (decide (dcOp c = 7) && !e.pub) || e.refcnt == 0

/-- PARK: the image is freed. A new digest record releases a serving copy that the pool still holds. -/
def State.finishPark (s : State) (c : DirCmd) (d : Nat) : State :=
  let s := s.emptySlots (s.didxPart d) d
  let replace := dcSrc c ≠ 0
  let img := 4096 * (s.entry d).loc
  let s := s.freeAlloc fun a => a.2.2 ≠ d || (!replace && a.1 ≠ img)
  let s := s.modEntry d fun e =>
    let e := { e with st := .parked, pub := false, loc := 0 }
    if replace then { e with
      src := BitVec.ofNat 64 (dcSrc c), len := BitVec.ofNat 64 (dcLen c), digest := BitVec.ofNat 256 (dcDigest c) } else e
  s.doneCmd c d St.ok

/-- FREE: scrubbed and EMPTY, with the next generation; the cache line goes. -/
def State.finishFree (s : State) (c : DirCmd) (d : Nat) : State :=
  let s := ((s.emptySlots (s.didxPart d) d).scrubEntry d).freeAlloc fun a => a.2.2 ≠ d
  let s := s.modEntry d fun e => { gen := e.gen + 1 }
  let s := { s with dir := { s.dir with lines := s.dir.lines.filter (·.didx ≠ d) } }
  s.doneCmd c d St.ok

/-- Serving copies of the shards of a state area at epoch `ep`, in the order of SHTAB, with what they count (R228). -/
def State.serveAll (s : State) (p : Nat) (e : DirEntry) (ep : Nat) :
    List Nat → Except Status (List (List Byte × Nat × EmitOut))
  | [] => .ok []
  | q :: l =>
    match s.shardAt p (BitVec.ofNat 64 q) with
    | .error st => .error st
    | .ok d =>
      let code := if hRole d.h = 0 then e.acode else e.bcode
      match s.serveShard (Init.job p false) { d with epoch := ep } code, s.serveAll p e ep l with
      | .error st, _ | _, .error st => .error st
      | .ok (bs, o), .ok r => .ok ((bs, code, o) :: r)

/-- What it reads: each shard's header, then the W of that epoch. -/
def State.serveReads (s : State) (p ep : Nat) (l : List Nat) : List (Nat × Nat) :=
  l.flatMap fun q => s.hbmRange (BitVec.ofNat 64 q) 256 ++ match s.shardAt p (BitVec.ofNat 64 q) with
    | .error _ => []
    | .ok d => ((hComps d.h).filter (·.comp = 0)).map fun k => (d.bank ep + k.off, k.rows * k.cols * k.width)

/-- Global address of an HBM offset of this device. -/
def State.hbmAddr (s : State) (p off : Nat) : BitVec 64 :=
  BitVec.ofNat 64 (s.mod.pos.val * 2 ^ 57 + p * 2 ^ 55 + off)

/-- What TRAIN_END builds: the serving copy, its place, the image, its place and its events. -/
def State.trainEndBuild (s : State) (p d : Nat) (copy : List Byte) :
    Except Status (Nat × Nat × List Byte × Nat × Nat) :=
  let e := s.entry d
  match s.baseRecs p e.pairs with
  | .error st => .error st
  | .ok recs =>
    match s.poolTwo p copy.length (imageSize e recs) with
    | none => .error St.adapterPoolFull
    | some (o, q) =>
      match parseCopy e recs copy with
      | none => .error St.shardHeaderInvalid
      | some l =>
        match s.buildImage p l with
        | .error st => .error st
        | .ok (img, cl, fl) => .ok (o, q, img, cl, fl)

/-- TRAIN_END after its wait: the entry's slots are EMPTY before anything else (R168), and the build is in progress
(R162). -/
def State.beginBuild (s : State) (c : DirCmd) (d : Nat) : State :=
  let s := (s.emptySlots (s.didxPart d) d).modEntry d fun e => { e with wait := true }
  { s with dir := { s.dir with builds := s.dir.builds ++ [⟨d, c⟩] } }

/-- The build of a TRAIN_END is over: finished, failed or abandoned. -/
def State.dropBuild (s : State) (d : Nat) : State :=
  let s := s.modEntry d fun e => { e with wait := false }
  { s with dir := { s.dir with builds := s.dir.builds.filter (·.didx ≠ d) } }

/-- The build of a TRAIN_END ends: the serving copy of the last committed epoch is emitted, the new image built and both
published; on a failure the entry stays TRAINING with what it had (R162). A commit that no live job runs is restarted
first (R224). An entry for which no job has named a state area ends SHARD_HEADER_INVALID (DEDUCED, log 31). -/
def State.finishBuild (s : State) (c : DirCmd) (d : Nat) : State :=
  let p := s.didxPart d
  let s := s.dropBuild d
  match (s.entry d).area with
  | none => s.doneCmd c d St.shardHeaderInvalid
  | some a =>
    let (s, st) := if s.training d then (s, St.ok) else s.restartRecord p a
    if st ≠ 0 then s.doneCmd c d st else
    let epoch := s.committedEpoch a
    match s.serveAll p (s.entry d) epoch (s.shardTable a) with
    | .error st => (s.noteFail st (s.serveReads p epoch (s.shardTable a))).doneCmd c d st
    | .ok parts =>
      let s := parts.foldl (fun s o => s.postStat false p 0xFFF (codeSkim o.2.1) o.2.2.stat) s
      let copy := parts.flatMap (·.1)
      match s.trainEndBuild p d copy with
      | .error st => (s.noteFail st (s.baseReads p (s.entry d).pairs)).doneCmd c d st
      | .ok (o, q, img, cl, fl) =>
        let s := s.noteCorrected (s.serveReads p epoch (s.shardTable a) ++ s.baseReads p (s.entry d).pairs)
        let s := s.countSkim p (s.entry d).bcode cl fl
        let (s, st) := s.hbmPutLong (Init.firmware p) o copy
        if st ≠ 0 then s.doneCmd c d st else
        let (s, st) := s.hbmPutLong (Init.firmware p) q img
        if st ≠ 0 then s.doneCmd c d st else
        let s := s.freeAlloc fun x => x.2.2 ≠ d
        let s := { s with dir := { s.dir with alloc := s.dir.alloc ++ [(o, copy.length, d), (q, img.length, d)] } }
        let s := s.modEntry d fun e => { e with
          st := .resident, pub := true, epoch := BitVec.ofNat 32 epoch, loc := q / 4096
          digest := BitVec.ofNat 256 (leNat (sha256 copy)), src := s.hbmAddr p o, len := BitVec.ofNat 64 copy.length }
        s.doneCmd c d St.ok

/-- The command that has waited, or need not wait, acts. -/
def State.finishWait (s : State) (c : DirCmd) (d : Nat) : State :=
  match dcOp c with
  | 3 => s.finishPark c d
  | 7 => s.beginBuild c d
  | _ => s.finishFree c d

/-- Act at once, wait, or end ADAPTER_BUSY where TMO is 0. -/
def State.orWait (s : State) (c : DirCmd) (d : Nat) : State :=
  if s.waitOver c d then s.finishWait c d
  else if dcTmo c = 0 then s.doneCmd c d St.adapterBusy
  else
    let s := s.modEntry d fun e => { e with wait := true }
    { s with dir := { s.dir with waits := s.dir.waits ++ [⟨d, c⟩] } }

/-- Take a waiting command off its entry. -/
def State.dropWait (s : State) (d : Nat) : State :=
  let s := s.modEntry d fun e => { e with wait := false }
  { s with dir := { s.dir with waits := s.dir.waits.filter (·.didx ≠ d) } }

def execRefcntZero (didx : Nat) (s : State) : Out :=
  match s.dir.waits.find? (·.didx = didx) with
  | some w => .next (if s.waitOver w.cmd didx then (s.dropWait didx).finishWait w.cmd didx else s)
  | none => .next s

def execCommandTmoExpiry (didx : Nat) (s : State) : Out :=
  match s.dir.waits.find? (·.didx = didx) with
  | some w => .next ((s.dropWait didx).doneCmd w.cmd didx St.adapterBusy)
  | none => .next s

/-! ### Loads (R163) -/

/-- Works that wait on an entry's load. -/
def State.loadWaiters (s : State) (d : Nat) : List Nat :=
  (s.work.slots.filter fun e => e.2.waitLoad && e.2.ref == some d).map (·.1)

/-- Take the load of an entry off the list: the commands that started it. -/
def State.dropLoad (s : State) (d : Nat) : State × List DirCmd :=
  ({ s with dir := { s.dir with loads := s.dir.loads.filter (·.didx ≠ d) } },
    (s.dir.loads.filter (·.didx = d)).filterMap (·.cmd))

/-- The serving copy of an entry: a GET within this device, or what the remote GET brought. No GET names SPACE 15
(R262). -/
def State.fetchCopy (s : State) (p : Nat) (e : DirEntry) (fetched : Answer) : Except Status (List Byte) :=
  let w : Sender := ⟨Init.firmware p, false⟩
  let n := e.len.toNat
  if gaSpace e.src = 15 then .error St.adapterFetchFailed
  else if gaDev e.src = s.mod.pos.val then
    match s.place w 2 e.src n with
    | .error _ => .error St.adapterFetchFailed
    | .ok pl =>
      let a := (s.readPlace w pl n).2
      if a.status = 0 then .ok a.data else .error St.adapterFetchFailed
  else if fetched.status = 0 ∧ fetched.data.length = n then .ok fetched.data
  else .error St.adapterFetchFailed

/-- A load's outcome: the copy and its place, the image, its place and its events. Room is looked for first (DESIGN
CHOICE, log 54); then come the GET, the digest, the form and the build (R163). -/
def State.loadBuild (s : State) (p : Nat) (e : DirEntry) (fetched : Answer) :
    Except Status (List Byte × Nat × List Byte × Nat × Nat × Nat) :=
  let base := s.baseRecs p e.pairs
  let size := match base with
    | .error _ => 0
    | .ok recs => imageSize e recs
  match s.poolTwo p e.len.toNat size with
  | none => .error St.adapterPoolFull
  | some (o, q) =>
    match s.fetchCopy p e fetched with
    | .error st => .error st
    | .ok copy =>
      if sha256 copy ≠ natLE e.digest.toNat 32 then .error St.adapterDigestMismatch
      else match base with
        | .error st => .error st
        | .ok recs =>
          match parseCopy e recs copy with
          | none => .error St.adapterCopyInvalid
          | some l =>
            match s.buildImage p l with
            | .error st => .error st
            | .ok (img, cl, fl) => .ok (copy, o, img, q, cl, fl)

/-- A load ends without an image: PARKED, with the status for everyone who waits on it. -/
def State.failLoad (s : State) (d : Nat) (st : Status) : State :=
  let waiters := s.loadWaiters d
  let (s, cmds) := s.dropLoad d
  let s := s.modEntry d fun e => { e with st := .parked }
  let s := waiters.foldl (fun s i => s.workFail i st) s
  cmds.foldl (fun s c => s.doneCmd c d st) s

/-- A load ends with its image at HBM offset q: RESIDENT. -/
def State.publishLoad (s : State) (d q n : Nat) : State :=
  let waiters := s.loadWaiters d
  let (s, cmds) := s.dropLoad d
  let s := { s with dir := { s.dir with alloc := s.dir.alloc ++ [(q, n, d)] } }
  let s := s.modEntry d fun e => { e with st := .resident, pub := true, loc := q / 4096 }
  let s := waiters.foldl (fun s i => s.modWork i fun w => { w with waitLoad := false }) s
  cmds.foldl (fun s c => s.doneCmd c d St.ok) s

/-- A load finishes its fetch, digest, form check and build, or the build of a TRAIN_END finishes: the table has one row
for both. DESIGN CHOICE, log 54. -/
def execLoadComplete (didx : Nat) (fetched : Answer) (s : State) : Out :=
  let e := s.entry didx
  match s.dir.builds.find? (·.didx = didx) with
  | some b => .next (s.finishBuild b.cmd didx)
  | none =>
    if e.st ≠ .loading ∨ s.dir.loads.all (·.didx ≠ didx) then .next s else
    let p := s.didxPart didx
    match s.loadBuild p e fetched with
    | .error st =>
      .next ((if st = St.adapterFetchFailed then s.noteReads (s.hbmRange e.src e.len.toNat)
        else s.noteFail st (s.baseReads p e.pairs)).failLoad didx st)
    | .ok (copy, o, img, q, cl, fl) =>
      let (s, st) := (s.noteCorrected (s.hbmRange e.src e.len.toNat ++ s.baseReads p e.pairs)).hbmPutLong
        (Init.firmware p) o copy
      if st ≠ 0 then .next (s.failLoad didx st) else
      let (s, st) := (s.countSkim p e.bcode cl fl).hbmPutLong (Init.firmware p) q img
      .next (if st ≠ 0 then s.failLoad didx st else s.publishLoad didx q img.length)

/-! ### The commands (R161) -/

def State.dirCreate (s : State) (c : DirCmd) (d : Nat) : State :=
  let n := c.block.toNat
  let src := dcSrc c
  let s := s.modEntry d fun e => {
    st := if src = 0 then .training else .parked, owner := c.part.val, tenant := BitVec.ofNat 24 (dcTenant c), gen := e.gen
    lmask := BitVec.ofNat 64 (bits n 127 64), ranks := BitVec.ofNat 24 (bits n 191 168), acode := bits n 167 164
    bcode := bits n 163 160, src := BitVec.ofNat 64 src, len := BitVec.ofNat 64 (dcLen c)
    digest := BitVec.ofNat 256 (dcDigest c) }
  s.doneCmd c d St.ok

def State.dirLoad (s : State) (c : DirCmd) (d : Nat) : State := s.startLoad d (some c)

def State.dirPark (s : State) (c : DirCmd) (d : Nat) : State := s.orWait c d

/-- PINNED entries that the limit counts. -/
def State.pinned (s : State) (d : Nat) : Nat :=
  (s.dir.entries.filter fun e => e.2.st = .pinned && s.inRange (s.didxPart d) e.1).length

def State.dirPin (s : State) (c : DirCmd) (d : Nat) : State :=
  if s.pinned d < (if s.mode.cur.four then 2048 else 8192) then
    (s.modEntry d fun e => { e with st := .pinned }).doneCmd c d St.ok
  else s.doneCmd c d St.adapterPinLimit

def State.dirUnpin (s : State) (c : DirCmd) (d : Nat) : State :=
  (s.modEntry d fun e => { e with st := .resident }).doneCmd c d St.ok

/-- TRAIN_BEGIN locks every listed base region, or nothing (R183). -/
def State.dirTrainBegin (s : State) (c : DirCmd) (d : Nat) : State :=
  let p := s.didxPart d
  let l := s.baseList p
  let good (e : Nat) : Bool :=
    let r := tabGet {} s.regions e
    decide (16 ≤ e) && r.v && r.owner == p
  if l.isEmpty ∨ !l.all good then s.doneCmd c d St.adapterBaseUnlocked
  else
    let s := { s with regions := l.foldl (fun t e => tabMod {} t e fun r => { r with baseRo := true }) s.regions }
    (s.modEntry d fun e => { e with st := .training }).doneCmd c d St.ok

def State.dirTrainEnd (s : State) (c : DirCmd) (d : Nat) : State := s.orWait c d

def State.dirFree (s : State) (c : DirCmd) (d : Nat) : State := s.orWait c d

/-- States from which REVOKE acts. -/
def DState.revocable (t : DState) : Bool :=
  match t with
  | .parked | .loading | .resident | .pinned | .training => true
  | _ => false

/-- An entry moves to REVOKED: a command that waits or builds there ends ADAPTER_REVOKED, and a load is abandoned with those
who wait on it (R162, R166, R167). -/
def State.revokeEntry (s : State) (d : Nat) : State :=
  let waiting := ((s.dir.waits ++ s.dir.builds).filter (·.didx = d)).map (·.cmd)
  let waiters := if (s.entry d).st = .loading then s.loadWaiters d else []
  let s := ((s.dropWait d).dropBuild d).modEntry d fun e => { e with st := .revoked }
  let (s, cmds) := s.dropLoad d
  let s := waiters.foldl (fun s i => s.workFail i St.adapterRevoked) s
  (waiting ++ cmds).foldl (fun s c => s.doneCmd c d St.adapterRevoked) s

def State.dirRevoke (s : State) (c : DirCmd) (d : Nat) : State := (s.revokeEntry d).doneCmd c d St.ok

/-- REVOKE_TENANT, whatever DIDX and GEN hold. -/
def State.dirRevokeTenant (s : State) (c : DirCmd) : State :=
  let l := (s.dir.entries.filter fun e =>
    s.inRange c.part e.1 && e.2.st.revocable && e.2.tenant.toNat == dcTenant c).map (·.1)
  (l.foldl State.revokeEntry s).endCmd c St.ok

/-- A command may act in a state. -/
def dirAllowed (op : Nat) (t : DState) : Bool :=
  match op with
  | 1 => t = .empty
  | 2 => t = .parked
  | 3 | 4 => t = .resident
  | 5 => t = .pinned
  | 6 => t = .resident || t = .pinned
  | 7 => t = .training
  | 8 => t.revocable
  | _ => t = .parked || t = .revoked

/-- A command on an entry that is in a line: generation, a command that waits there, the entry's state, then its
action. A commit that was interrupted is restarted first (R224). -/
def State.dirOn (s : State) (c : DirCmd) (d : Nat) : State :=
  let op := dcOp c
  let s := s.noteGen c d
  let e := s.entry d
  let s := match e.area with
    | some a => if s.training d then s else (s.restartRecord (s.didxPart d) a).1
    | none => s
  if op ≠ 1 ∧ e.gen.toNat ≠ dcGen c then s.doneCmd c d St.adapterStale
  else if e.wait ∧ op ≠ 8 then s.doneCmd c d St.adapterBusy
  else if !dirAllowed op e.st then s.doneCmd c d St.adapterStateInvalid
  else match op with
    | 1 => s.dirCreate c d
    | 2 => s.dirLoad c d
    | 3 => s.dirPark c d
    | 4 => s.dirPin c d
    | 5 => s.dirUnpin c d
    | 6 => s.dirTrainBegin c d
    | 7 => s.dirTrainEnd c d
    | 8 => s.dirRevoke c d
    | _ => s.dirFree c d

/-- A command from its start: block, index, line (R159, R160). -/
def State.dirRun (s : State) (c : DirCmd) : State :=
  let d := dcDidx c
  if !dirBlockOk c.block then s.endCmd c St.adapterCmdInvalid
  else if dcOp c = 9 then s.dirRevokeTenant c
  else if !s.didxOk c.part d then s.endCmd c St.adapterIndexInvalid
  else if s.walkFails d then (s.noteWalk d).endCmd c St.memoryUncorrectable
  else match s.takeLine d with
    | some s => s.dirOn c d
    | none => { s with dir := { s.dir with lineWaits := s.dir.lineWaits ++ [.cmd c] } }

/-- A command of the row's operation: one that a HELD DIRECTORY work carries, which then runs, or one of firmware. While
the arithmetic domain is down, HELD work stays held (R249). -/
def dirRow (op : Nat) (c : DirCmd) (s : State) : State :=
  if dcOp c ≠ op then s
  else match c.slot with
    | none => s.dirRun c
    | some i =>
      let w := s.wk i
      if w.st = .held ∧ w.kind = 3 ∧ w.block = c.block ∧ !s.domainDown (s.slotPart i) ∧ s.firstHeld i then
        (s.modWork i fun w => { w with st := .running }).dirRun ⟨some i, Fin.ofNat 4 (s.slotPart i), c.block⟩
      else s

def execCreate (d : DirCmd) (s : State) : Out := .next (dirRow 1 d s)
def execLoad (d : DirCmd) (s : State) : Out := .next (dirRow 2 d s)
def execPark (d : DirCmd) (s : State) : Out := .next (dirRow 3 d s)
def execPin (d : DirCmd) (s : State) : Out := .next (dirRow 4 d s)
def execUnpin (d : DirCmd) (s : State) : Out := .next (dirRow 5 d s)
def execTrainBegin (d : DirCmd) (s : State) : Out := .next (dirRow 6 d s)
def execTrainEnd (d : DirCmd) (s : State) : Out := .next (dirRow 7 d s)
def execRevoke (d : DirCmd) (s : State) : Out := .next (dirRow 8 d s)
def execRevokeTenant (d : DirCmd) (s : State) : Out := .next (dirRow 9 d s)
def execFree (d : DirCmd) (s : State) : Out := .next (dirRow 10 d s)

/-! ### Cache lines (R159) -/

/-- Partition of what waits for a line. -/
def State.lineWaitPart (s : State) (w : LineWait) : Nat :=
  match w with
  | .ref i => s.slotPart i
  | .cmd c => c.part.val
  | .fill k _ => s.partOf (k / 8)

/-- The oldest wait of a partition takes a line that has come free. -/
def execCacheLineAvailable (part : Fin 4) (s : State) : Out :=
  match s.dir.lineWaits.find? fun w => s.lineWaitPart w = part.val with
  | none => .next s
  | some w =>
    let gone (s : State) : State := { s with dir := { s.dir with lineWaits := s.dir.lineWaits.erase w } }
    match w with
    | .ref i =>
      let d := daDidx (s.wk i).da
      if s.walkFails d then .next (((gone s).noteWalk d).workFail i St.memoryUncorrectable)
      else match s.takeLine d with
        | some s => .next ((gone s).refOutcome i d)
        | none => .next s
    | .cmd c =>
      if s.walkFails (dcDidx c) then .next (((gone s).noteWalk (dcDidx c)).endCmd c St.memoryUncorrectable)
      else match s.takeLine (dcDidx c) with
        | some s => .next ((gone s).dirOn c (dcDidx c))
        | none => .next s
    | .fill k i =>
      match ((s.lcore (k / 8) (k % 8)).slotA i).held with
      | none => .next (gone s)
      | some d =>
        if s.walkFails (fdDidx d) then .next ((gone s).fillUnread (k / 8) (k % 8) i d)
        else match s.takeLine (fdDidx d) with
          | some s => .next ((gone s).fillBegin (k / 8) (k % 8) i d)
          | none => .next s

end Sys2Proof.Machine
end

