-- ==== Sys2Proof/Machine/ChurnBase.lean ====
section
/-!
DEFINITION. The Churn unit: its arithmetic, the memory it reads and writes, and its command ring (R206 to R210).
-/

namespace Sys2Proof.Machine

/-! ### Arithmetic (R207) -/

/-- One round of a pairwise tree. -/
def pairSums : List Nat → List Nat
  | a :: b :: l => f32Add a b :: pairSums l
  | l => l

/-- Add a row of values lane by lane; lanes past the row keep their sums. -/
def addLanes : List Nat → List Nat → List Nat
  | a :: as, b :: bs => f32Add a b :: addLanes as bs
  | as, _ => as

/-- The sum of R207: 256 lanes in ascending order, then the fixed tree. -/
def csum (v : List Nat) : Nat :=
  let lanes := (chunks 256 (v.length + 1) v).foldl addLanes (List.replicate 256 0x80000000)
  (Nat.repeat pairSums 8 lanes).headD 0

/-- A matrix by rows, of FP32 patterns. -/
abbrev Mat := List (List Nat)

def Mat.at (m : Mat) (i j : Nat) : Nat := (m.getD i []).getD j 0

def Mat.gen (r c : Nat) (f : Nat → Nat → Nat) : Mat := (List.range r).map fun i => (List.range c).map (f i)

/-- Transpose of a matrix with c columns. -/
def Mat.tr (m : Mat) (c : Nat) : Mat := (List.range c).map fun j => m.map (·.getD j 0)

/-- The product of two matrices, the second given transposed (R207). -/
def Mat.mulT (a bt : Mat) : Mat := a.map fun x => bt.map fun y => csum (List.zipWith f32Mul x y)

/-- The product; `c` is the number of columns of the second. -/
def Mat.mul (a b : Mat) (c : Nat) : Mat := a.mulT (b.tr c)

/-- Apply a function to every element. -/
def Mat.each (m : Mat) (f : Nat → Nat) : Mat := m.map fun r => r.map f

def Mat.map2 (f : Nat → Nat → Nat) (a b : Mat) : Mat := List.zipWith (List.zipWith f) a b

def f32OneBits : Nat := 0x3F800000

def Mat.ident (n : Nat) : Mat := Mat.gen n n fun i j => if i = j then f32OneBits else 0

/-- A count as FP32. -/
def f32Of (n : Nat) : Nat := f32Enc (Q.ofInt n) false

/-- max(1.0, x); the spec gives no result for a NaN, which is the free value `free`. -/
def f32MaxOne (x free : Nat) : Nat := if f32IsNaN x then Config.freeNat free % 2 ^ 32 else f32MaxNum f32OneBits x

/-- What a computed NaN looks like in memory: IEEE 754 fixes neither its sign nor its payload, so both are free. -/
def freeNaN (free : Nat) : Nat :=
  let v := Config.freeNat free
  v % 2 * 2 ^ 31 + 0x7F800001 + v / 2 % 0x7FFFFF

/-- The same of a BF16. -/
def freeNaN16 (free : Nat) : Nat :=
  let v := Config.freeNat free
  v % 2 * 2 ^ 15 + 0x7F81 + v / 2 % 0x7F

/-- The pattern that a value takes in an element of `w` bytes. -/
def storedPat (w v free : Nat) : Nat :=
  if w = 2 then (if f32IsNaN v then freeNaN16 free else bf16Of v) else if f32IsNaN v then freeNaN free else v

/-- A stored pattern is a NaN or an infinity. -/
def patNonFinite (w v : Nat) : Bool :=
  if w = 2 then decide (0x7F80 ≤ v % 2 ^ 15) else f32NonFinite v

/-- Stored patterns of a component, in order; free values are numbered from `free`. -/
def storedComp (c : Comp) (m : Mat) (free : Nat) : List Nat :=
  m.flatten.zipIdx.map fun e => storedPat c.width e.1 (free + e.2)

/-! ### Memory (R209) -/

/-- A range of HBM or shelf SRAM of partition p on this device. -/
def State.inJob (s : State) (p : Nat) (a : BitVec 64) (n : Nat) : Bool :=
  match s.localSram a n with
  | some (sh, _) => s.partOf sh == p
  | none => match s.localHbm a n with
    | some o => s.offsetPart o == some p && s.offsetPart (o + (n - 1)) == some p
    | none => false

def State.churnRead (s : State) (p : Nat) (a : BitVec 64) (n : Nat) : Except Status (List Byte) :=
  if !s.inJob p a n then .error St.addressInvalid
  else match s.localSram a n with
    | some (sh, o) => .ok (memRead (s.sram sh) o n)
    | none => s.engineRead (Init.job p false) a n

def State.churnWrite (s : State) (p : Nat) (a : BitVec 64) (bs : List Byte) : State × Status :=
  if !s.inJob p a bs.length then (s, St.addressInvalid)
  else match s.localSram a bs.length with
    | some (sh, o) => (s.sramWrite sh o bs, St.ok)
    | none => s.engineWrite (Init.job p false) a bs

/-- A state shard of the job's partition (R220, R221). -/
def State.jobShard (s : State) (p : Nat) (a : BitVec 64) : Except Status Shard :=
  if gaSpace a ≠ 0 ∨ !s.inJob p a 256 then .error St.addressInvalid
  else match s.shardAt p a with
    | .error st => .error st
    | .ok d => if s.inJob p a d.size then .ok d else .error St.addressInvalid

/-- HBM ranges of a shard's header and of components of its live bank. -/
def State.shardReads (s : State) (p : Nat) (a : BitVec 64) (f : Comp → Bool) : List (Nat × Nat) :=
  s.hbmRange a 256 ++ match s.jobShard p a with
    | .error _ => []
    | .ok d => ((hComps d.h).filter f).map fun k => (d.live + k.off, k.rows * k.cols * k.width)

/-- A whole component of a bank. -/
def State.bankComp (s : State) (p : Nat) (d : Shard) (b c : Nat) : Except Status Mat :=
  match d.comp c with
  | none => .ok []
  | some k => s.readComp (Init.job p false) (d.bank b) k

/-- Write components of a bank in order: stored patterns with their component. -/
def State.putComps (s : State) (p : Nat) (d : Shard) (b : Nat) : List (Comp × List Nat) → State × Status
  | [] => (s, St.ok)
  | (c, pats) :: l =>
    andThen (s.hbmPutLong (Init.job p false) (d.bank b + c.off) (pats.flatMap (natLE · c.width))) fun s => s.putComps p d b l

/-! ### The step flag register (R198, R211, R218) -/

def State.churnFlag (s : State) (sh flags tag : Nat) : State :=
  s.modShelf sh fun h => { h with churnFlags := stepFlagOr h.churnFlags flags tag }

/-! ### The ring (R208, R209) -/

/-- A command entry. -/
structure ChurnCmd where
  opc : Nat
  part : Nat
  done : BitVec 64
  arg0 : BitVec 64
  arg1 : BitVec 64
  arg2 : BitVec 64
  arg3 : BitVec 64
  body : BitVec 512
  /-- its reserved bits are zero -/
  clean : Bool
deriving DecidableEq, Repr

/-- Fields of an entry, 128 bytes as a number. -/
def ChurnCmd.of (n : Nat) : ChurnCmd :=
  let w (i : Nat) : BitVec 64 := BitVec.ofNat 64 (n / 2 ^ (64 * i))
  { opc := bits n 63 56, part := bits n 47 46, done := w 1, arg0 := w 2, arg1 := w 3, arg2 := w 4, arg3 := w 5
    body := BitVec.ofNat 512 (n / 2 ^ 512), clean := bits n 55 48 == 0 && bits n 45 0 == 0 && bits n 511 384 == 0 }

/-- The 128 bytes of an entry. -/
def ChurnCmd.bytes (c : ChurnCmd) : List Byte :=
  natLE (c.opc * 2 ^ 56 + c.part * 2 ^ 46) 8 ++ natLE c.done.toNat 8 ++ natLE c.arg0.toNat 8 ++ natLE c.arg1.toNat 8
    ++ natLE c.arg2.toNat 8 ++ natLE c.arg3.toNat 8 ++ natLE 0 16 ++ natLE c.body.toNat 64

def ringSlot (n : Nat) : Nat := 0xBE0000 + 0x80 * (n % 32)

def State.ringRoom (s : State) (sh : Nat) : Bool := decide (ringTail (s.sram sh) < ringHead (s.sram sh) + 32)

/-- Firmware places a command: the entry, then TAIL. -/
def State.ringPut (s : State) (sh : Nat) (c : ChurnCmd) : State :=
  let n := ringTail (s.sram sh)
  (s.sramWrite sh (ringSlot n) c.bytes).sramWrite sh 0xBE1000 (natLE (n + 1) 8)

/-- Churn moves HEAD past the entry. -/
def State.ringPop (s : State) (sh : Nat) : State :=
  s.sramWrite sh 0xBE1008 (natLE (ringHead (s.sram sh) + 1) 8)

/-- Entries that an abort dropped leave the ring (R230). -/
def State.ringSkip : Nat → State → Nat → State
  | 0, s, _ => s
  | n + 1, s, sh =>
    let h := ringHead (s.sram sh)
    if h < ringTail (s.sram sh) ∧ (s.shelf sh).churnDropped.contains h then
      State.ringSkip n ((s.ringPop sh).modShelf sh fun x => { x with churnDropped := x.churnDropped.filter (· ≠ h) }) sh
    else s

/-- The next entry of a ring, if one is placed. -/
def State.ringNext (s : State) (sh : Nat) : Option ChurnCmd :=
  let m := s.sram sh
  let h := ringHead m
  if h < ringTail m then some (ChurnCmd.of (memNat m (ringSlot h) 128)) else none

/-- Where the completion word of an entry goes: EMIT uses the DONE field of its body (R209). -/
def ChurnCmd.doneAt (c : ChurnCmd) : BitVec 64 := if c.opc = 1 then BitVec.ofNat 64 (bits c.body.toNat 447 384) else c.done

/-- The addresses that an entry names, each with the bytes there that its command reads or writes for certain; EMIT checks
those of its body after the descriptor (R92, R209). -/
def ChurnCmd.addrs (c : ChurnCmd) : List (BitVec 64 × Nat) :=
  (c.doneAt, 8) :: match c.opc with
    | 2 => [(c.arg0, 256), (c.arg1, 64), (c.arg2, 8)]
    | 3 => [(c.arg0, 256)]
    | 4 => [(c.arg0, 256), (c.arg1, 256), (c.arg2, 32), (c.arg3, 1)]
    | 5 => [(c.arg0, 256), (c.arg1, 1)] ++ (if c.arg2 = 0 then [] else [(c.arg2, 65)])
    | 6 => [(c.arg0, 128), (c.arg1, 256)]
    | 7 => [(c.arg0, 8)]
    | 9 => [(c.arg0, 256), (c.arg1, 1)]
    | _ => []

/-- Each lies in the job's partition (R209). -/
def State.addrsOk (s : State) (c : ChurnCmd) : Bool := c.addrs.all fun e => s.inJob c.part e.1 e.2

/-- The completion word, then HEAD (R208). -/
def State.churnDone (s : State) (sh : Nat) (c : ChurnCmd) (st : Status) (value : Nat) : State :=
  ((s.churnWrite c.part c.doneAt (natLE (min value (2 ^ 48 - 1) * 65536 + st.toNat) 8)).1).ringPop sh

/-- Unused fields of an entry are zero, by opcode (R209, R210). -/
def ChurnCmd.fieldsOk (c : ChurnCmd) : Bool :=
  let hi0 (a : BitVec 64) := decide (a.toNat < 2 ^ 32)
  c.clean && (c.opc == 1 || c.body == 0) && match c.opc with
    | 1 => c.done == 0 && c.arg0 == 0 && c.arg1 == 0 && c.arg2 == 0 && c.arg3 == 0
    | 2 => hi0 c.arg3
    | 3 => hi0 c.arg1 && hi0 c.arg2 && c.arg3 == 0
        && (c.arg2.toNat == (c.arg1.toNat + 1) % 2 ^ 32 || c.arg1.toNat == (c.arg2.toNat + 1) % 2 ^ 32)
    | 4 => true
    | 5 => decide (c.arg3.toNat < 256)
    | 6 => c.arg2 == 0 && hi0 c.arg3
    | 7 | 8 => c.arg1 == 0 && c.arg2 == 0 && c.arg3 == 0
    | 9 => c.arg3 == 0
    | _ => false

/-- The Churn unit of a shelf runs its next entry where it holds this row's opcode; an entry that R209 rejects ends
here whatever row comes. `act` answers the state, the status and the value; `reads` are the HBM ranges that the command
reads, in order (a write that meets an uncorrectable granule has logged it). -/
def churnRow (opc : Nat) (reads : State → ChurnCmd → List (Nat × Nat))
    (act : State → Nat → ChurnCmd → State × Status × Nat) (sh : Nat) (s : State) : State :=
  let s := State.ringSkip 32 s sh
  match s.ringNext sh with
  | none => s
  | some c =>
    if c.opc = opc ∨ c.opc = 0 ∨ 9 < c.opc then
      if !c.fieldsOk then s.churnDone sh c St.churnCmdInvalid 0
      else if !s.addrsOk c then s.churnDone sh c St.addressInvalid 0
      else
        let (t, st, v) := act s sh c
        let t := if t.ecc.losses.length = s.ecc.losses.length then t.noteFail st (reads s c) else t
        t.churnDone sh c st v
    else s

/-! ### What Churn needs of the job (R217, R219, R225, R228) -/

/-- The job whose shard table names a shard. -/
def State.shardJob (s : State) (a : BitVec 64) : Option Job :=
  s.work.jobs.find? fun j => (s.shardTable (gaOff j.area)).contains a.toNat

/-- The entry whose state area names a shard. -/
def State.shardEntry (s : State) (a : BitVec 64) : Option DirEntry :=
  (s.dir.entries.find? fun e => match e.2.area with
    | some o => (s.shardTable o).contains a.toNat
    | none => false).map (·.2)

end Sys2Proof.Machine
end

