-- ==== Sys2Proof/Machine/ChurnRules.lean ====
section
/-!
DEFINITION. The update rules of Churn (R211 to R219).
-/

namespace Sys2Proof.Machine

/-! ### The tensor record (R212) -/

structure TensorRec where
  rule : Nat
  mfmt : Nat
  nest : Bool
  pint : Nat
  gpoint : Int
  ttag : Nat
  lr : Nat
  wd : Nat
  b1 : Nat
  b2 : Nat
  e1 : Nat
  e2 : Nat
  cd : Nat
  garea : BitVec 64
  fac : BitVec 64
  ok : Bool
deriving DecidableEq, Repr

/-- An FP32 pattern in [0, 1). -/
def f32Unit (w : Nat) : Bool := match f32Fin w with
  | some x => decide (0 ≤ x.num) && x.lt (Q.ofInt 1)
  | none => false

/-- An FP32 pattern that is not negative. -/
def f32NonNeg (w : Nat) : Bool := !f32IsNaN w && (decide (w < 2 ^ 31) || w == 2 ^ 31)

/-- Fields and checks of a record, 64 bytes as a number. -/
def TensorRec.of (n : Nat) : TensorRec :=
  let at_ (off hi lo : Nat) := hdrAt n off hi lo
  let rule := at_ 0 63 60
  let mfmt := at_ 0 59 58
  let pint := at_ 0 55 40
  let cd := at_ 0x20 63 32
  let garea := at_ 0x28 63 0
  { rule := rule, mfmt := mfmt, nest := bit n 57, pint := pint, gpoint := sext 8 (at_ 0 39 32), ttag := at_ 0 31 20
    lr := at_ 8 63 32, wd := at_ 8 31 0, b1 := at_ 0x10 63 32, b2 := at_ 0x10 31 0, e1 := at_ 0x18 63 32
    e2 := at_ 0x18 31 0, cd := cd, garea := BitVec.ofNat 64 garea, fac := BitVec.ofNat 64 (at_ 0x30 63 0)
    ok := decide (rule ≤ 3) && mfmt != 3 && (mfmt != 0 || rule == 1) && !bit n 56 && at_ 0 19 0 == 0
      && (if rule = 3 then 1 ≤ pint else pint = 0) && f32Unit (at_ 0x10 63 32) && f32Unit (at_ 0x10 31 0)
      && f32NonNeg (at_ 0x18 63 32) && f32NonNeg (at_ 0x18 31 0)
      && (if rule = 1 then f32NonNeg cd && cd % 2 ^ 31 != 0 else cd == 0)
      && at_ 0x20 31 0 == 0 && garea % 16 == 0 && at_ 0x38 63 0 == 0 }

/-! ### The gradient (R211) -/

/-- One gradient element and whether it overflowed, formed as the drain forms an output (R40): a factor that is not finite
counts as 0 (R45). That it sets no flag of Churn is DEDUCED, log 51. -/
def gradElem (word : BitVec 128) (gpoint : Int) (frow fcol : Nat) : Nat × Bool :=
  let factor (w : Nat) : Q := (f32Scale (BitVec.ofNat 32 w)).1
  let r := roundNearest 0 ((((Q.ofInt (tallyRead word).1).mul (Q.pow2 gpoint)).mul (factor frow)).mul (factor fcol))
  (r.bits, r.clip)

/-- The gradient area's words, store row by store row with n words each, to FP32 (d × n), and whether one overflowed.
The order of the words is DEDUCED from R191 and R212, log 32. -/
def gradient (words : List (BitVec 128)) (t : TensorRec) (fac : List Nat) (d n : Nat) : Mat × Bool :=
  let ws := words.zipIdx.map fun e => gradElem e.1 t.gpoint (fac.getD (e.2 / n) 0) (fac.getD (d + e.2 % n) 0)
  (chunks n (d + 1) (ws.map (·.1)), ws.any (·.2))

/-! ### Gram matrices (R219) -/

/-- Scale exponent and W12 codes of a row; none where an element is not finite. -/
def gramRow (x : List Nat) : Option (Int × List Int) :=
  let v := x.map f32Fin
  if v.any (·.isNone) then none else
  let v := v.filterMap id
  let m := maxAbs v
  let e := if m.isZero then 0 else (m.div (Q.ofInt 2047)).ceilLog2
  some (e, v.map fun y => (y.div (Q.pow2 e)).roundInt)

/-- x · xᵀ on a borrowed matrix core in W12 wide mode: exact sums at P = 0, one rounding each. A row with a value that
is not finite has no W12 codes: its products are free. -/
def gramBorrowed (x : Mat) (free : Nat) : Mat :=
  let r := x.map gramRow
  r.zipIdx.map fun a => r.zipIdx.map fun b =>
    match a.1, b.1 with
    | some (ea, ca), some (eb, cb) => (roundNearest 0 ((Q.ofInt (dot ca cb)).mul (Q.pow2 (ea + eb)))).bits
    | _, _ => Config.freeNat (free + r.length * a.2 + b.2) % 2 ^ 32

/-- A rule forms Gram matrices, over a dimension d that exceeds the threshold: ORTHO and PRECOND (R219). -/
def borrows (rule d borrow : Nat) : Bool := decide (2 ≤ rule) && decide (borrow < d)

/-- x · xᵀ for x of n rows and d columns. -/
def gram (x : Mat) (d borrow free : Nat) : Mat := if borrow < d then gramBorrowed x free else x.mulT x

/-! ### Rules (R214 to R217) -/

/-- What a rule works on: the record, the matrix's rows and columns, its orientation, the live bank, the gradient in the
matrix orientation, the committed step count, the borrow threshold and the first free value. -/
structure RuleIn where
  t : TensorRec
  r : Nat
  c : Nat
  role : Nat
  w0 : Mat
  m0 : Mat
  rv0 : Mat
  cv0 : Mat
  lr0 : Mat
  qr0 : Mat
  dd0 : Mat
  g : Mat
  stepc : Nat
  borrow : Nat
  free : Nat
deriving DecidableEq, Repr

/-- Rank dimension and the other one (R213). -/
def RuleIn.n (i : RuleIn) : Nat := if i.role = 0 then i.c else i.r
def RuleIn.d (i : RuleIn) : Nat := if i.role = 0 then i.r else i.c

/-- What a rule writes: components by COMP, moments and statistics before W (R221). -/
abbrev RuleOut := List (Nat × Mat)

/-- w = fma(-lr, fma(wd, w0, u), w0). -/
def RuleIn.step (i : RuleIn) (w0 u : Nat) : Nat := f32Fma (f32Neg i.t.lr) (f32Fma i.t.wd w0 u) w0

def RuleIn.msgd (i : RuleIn) : RuleOut :=
  let m := Mat.map2 (f32Fma i.t.b1) i.m0 i.g
  let u := if i.t.nest then Mat.map2 (f32Fma i.t.b1) m i.g else m
  [(1, m), (0, Mat.map2 i.step i.w0 u)]

def RuleIn.factored (i : RuleIn) : RuleOut :=
  let t := i.t
  let ob1 := f32Sub f32OneBits t.b1
  let ob2 := f32Sub f32OneBits t.b2
  let q := i.g.each fun x => f32Fma x x t.e1
  let rv := (q.zipIdx).map fun e => f32Fma t.b2 (i.rv0.at e.2 0) (f32Mul ob2 (f32Div (csum e.1) (f32Of i.c)))
  let cv := ((q.tr i.c).zipIdx).map fun e => f32Fma t.b2 (i.cv0.at e.2 0) (f32Mul ob2 (f32Div (csum e.1) (f32Of i.r)))
  let rm := f32Div (csum rv) (f32Of i.r)
  let u : Mat := i.g.zipIdx.map fun e => e.1.zipIdx.map fun x =>
    f32Div x.1 (f32Sqrt (f32Div (f32Mul (rv.getD e.2 0) (cv.getD x.2 0)) rm))
  let rms := f32Sqrt (f32Div (csum (u.flatten.map fun x => f32Mul x x)) (f32Of (i.r * i.c)))
  let f := f32MaxOne (f32Div rms t.cd) i.free
  let u := u.each fun x => f32Div x f
  let mean : RuleOut := [(2, rv.map fun x => [x]), (3, cv.map fun x => [x])]
  if t.mfmt = 0 then mean ++ [(0, Mat.map2 i.step i.w0 u)]
  else
    let m := Mat.map2 (fun a b => f32Fma t.b1 a (f32Mul ob1 b)) i.m0 u
    [(1, m)] ++ mean ++ [(0, Mat.map2 i.step i.w0 m)]

/-- 3.4445, −4.7750, 2.0315 and 1.0e-7 as their nearest FP32 values. -/
def orthoC (k : Nat) : Nat :=
  match k with
  | 0 => f32Enc ⟨34445, 10000⟩ false
  | 1 => f32Enc ⟨-47750, 10000⟩ false
  | 2 => f32Enc ⟨20315, 10000⟩ false
  | _ => f32Enc ⟨1, 10000000⟩ false

/-- Newton–Schulz steps on x (n × d). -/
def orthoIter (n d borrow : Nat) : Nat → Nat → Mat → Mat
  | 0, _, x => x
  | k + 1, free, x =>
    let a := gram x d borrow free
    let aa := a.mul a n
    let b := Mat.map2 (fun y z => f32Fma (orthoC 2) y (f32Mul (orthoC 1) z)) aa a
    let bx := b.mul x d
    orthoIter n d borrow k (free + n * n) (Mat.map2 (fun y z => f32Fma (orthoC 0) y z) x bx)

def RuleIn.ortho (i : RuleIn) : RuleOut :=
  let m := Mat.map2 (f32Fma i.t.b1) i.m0 i.g
  let y := if i.t.nest then Mat.map2 (f32Fma i.t.b1) m i.g else m
  let flip := decide (i.c < i.r)
  let x := if flip then y.tr i.c else y
  let s := f32Add (f32Sqrt (csum (x.flatten.map fun v => f32Mul v v))) (orthoC 3)
  let x := x.each fun v => f32Div v s
  let n := if flip then i.c else i.r
  let d := if flip then i.r else i.c
  let x := orthoIter n d i.borrow 5 (i.free + 1) x
  let o := if flip then x.tr i.r else x
  let k := f32Sqrt (f32MaxOne (f32Div (f32Of i.r) (f32Of i.c)) i.free)
  [(1, m), (0, Mat.map2 (fun w0 v => i.step w0 (f32Mul k v)) i.w0 o)]

/-- Coupled Newton steps of R217 on M and X. -/
def invrootIter (n : Nat) : Nat → Mat → Mat → Mat
  | 0, _, x => x
  | k + 1, m, x =>
    let five := f32Of 5
    let four := f32Of 4
    let t := Mat.map2 (fun e v => f32Div (f32Sub (f32Mul five e) v) four) (Mat.ident n) m
    let t2 := t.mul t n
    invrootIter n k ((t2.mul t2 n).mul m n) (x.mul t n)

/-- L^(-1/4). -/
def invroot4 (n : Nat) (l : Mat) : Mat :=
  let c := f32Sqrt (csum (l.flatten.map fun v => f32Mul v v))
  if c % 2 ^ 31 = 0 then Mat.ident n
  else
    let q := f32Sqrt (f32Sqrt c)
    invrootIter n 12 (l.each fun v => f32Div v c) ((Mat.ident n).each fun v => f32Div v q)

def RuleIn.precond (i : RuleIn) : RuleOut :=
  let t := i.t
  let n := i.n
  let ob2 := f32Sub f32OneBits t.b2
  let g := if i.role = 0 then i.g else i.g.tr i.d
  let gg := gram (g.tr n) i.d i.borrow (i.free + 1)
  let lr := Mat.map2 (fun a b => f32Fma t.b2 a (f32Mul ob2 b)) i.lr0 gg
  let dd := g.zipIdx.map fun e => f32Fma t.b2 (i.dd0.at e.2 0) (f32Mul ob2 (csum (e.1.map fun x => f32Mul x x)))
  let qr := if i.stepc % t.pint = 0 then
      invroot4 n (Mat.map2 f32Add lr ((Mat.ident n).each (f32Mul t.e1)))
    else i.qr0
  let gq := g.mul qr n
  let u : Mat := gq.zipIdx.map fun e => e.1.map fun x => f32Div x (f32Sqrt (f32Sqrt (f32Add (dd.getD e.2 0) t.e2)))
  let u := if i.role = 0 then u else u.tr n
  let m := Mat.map2 (f32Fma t.b1) i.m0 u
  [(1, m), (4, lr), (5, qr), (6, dd.map fun x => [x]), (0, Mat.map2 i.step i.w0 m)]

def RuleIn.run (i : RuleIn) : RuleOut :=
  match i.t.rule with
  | 0 => i.msgd
  | 1 => i.factored
  | 2 => i.ortho
  | _ => i.precond

end Sys2Proof.Machine
end

