-- ==== Sys2Proof/Machine/ChurnSketch.lean ====
section
/-!
DEFINITION. The residual sketch (R180, R225).
-/

namespace Sys2Proof.Machine

/-! ### ln, cos and sin, each correctly rounded (R206) -/

/-- Signed terms x^k / k!, k = start, start + 2, …, in fixed point; `t` is term k. -/
def trigTerms : Nat → Nat → Nat → Nat → Bool → Int
  | 0, _, _, _, _ => 0
  | fuel + 1, k, x2, t, neg =>
    (if neg then -(t : Int) else t) + trigTerms fuel (k + 2) x2 (t * x2 / fxOne / ((k + 1) * (k + 2))) (!neg)

/-- cos x and sin x for x from 0 to 7, with 320 fraction bits. -/
def fxCos (x : Nat) : Int := trigTerms 80 0 (x * x / fxOne) fxOne false
def fxSin (x : Nat) : Int := trigTerms 80 1 (x * x / fxOne) x false

/-- A trigonometric value of an FP32 pattern that is a small finite number; otherwise the operand is a NaN or an
infinity. -/
def f32Trig (f : Nat → Int) (w : Nat) : Nat :=
  match f32Fin w with
  | some x => f32Enc ⟨f (fxOf x), fxOne⟩ false
  | none => f32NaN

/-- ln of an FP32 pattern: exact values round once. -/
def f32Ln (w : Nat) : Nat :=
  match f32Dec w with
  | .nan => f32NaN
  | .inf s => if s then f32NaN else w
  | .fin s x =>
    if x.isZero then f32Inf true
    else if s then f32NaN
    else if w = f32OneBits then 0
    else
      let e := x.floorLog2
      f32Enc ((fxQ (fxLn (fxOf (x.mul (Q.pow2 (-e)))))).add ((Q.ofInt e).mul (fxQ fxLn2))) false

/-! ### Normal draws -/

/-- One uniform value of a draw. -/
def uniform (d : Nat) : Nat := f32Enc ⟨2 * d + 1, 2 ^ 33⟩ false

/-- Pairs of normal values from a draw state. -/
def normals : Nat → Nat → List Nat
  | 0, _ => []
  | n + 1, st =>
    let s1 := srNext st
    let s2 := srNext s1
    let u1 := uniform (srDraw s1)
    let u2 := uniform (srDraw s2)
    let rr := f32Sqrt (f32Mul (f32Of 2 + 2 ^ 31) (f32Ln u1))
    let a := f32Mul 0x40C90FDB u2
    f32Mul rr (f32Trig fxCos a) :: f32Mul rr (f32Trig fxSin a) :: normals n s2

/-- G, m × k, filled column by column, rows ascending. -/
def drawG (seed layer group m k : Nat) : Mat :=
  let l := normals ((m * k + 1) / 2) (srStart seed (0xFFF00000 + 8 * layer + group))
  Mat.tr (chunks m (k + 1) (l.take (m * k))) m

/-! ### orth (R225) -/

def dotSum (a b : List Nat) : Nat := csum (List.zipWith f32Mul a b)

/-- Column a of Rc above the diagonal: rows 0 to a − 1 of the rows found so far. -/
def colAbove (rc : Mat) (a : Nat) : List Nat := rc.map (·.getD a 0)

/-- One row of the Cholesky factor from S and the rows above it. -/
def cholRow (s rc : Mat) (k : Nat) : List Nat :=
  let a := rc.length
  let ca := colAbove rc a
  let piv := f32Sub (s.at a a) (dotSum ca ca)
  let raa := if f32Lt (f32Mul (f32Enc (Q.pow2 (-100)) false) (s.at 0 0)) piv then f32Sqrt piv else 0
  (List.range k).map fun b =>
    if b < a then 0
    else if b = a then raa
    else if raa % 2 ^ 31 = 0 then 0
    else f32Div (f32Sub (s.at a b) (dotSum ca (colAbove rc b))) raa

def chol (s : Mat) (k : Nat) : Mat := (List.range k).foldl (fun rc _ => rc ++ [cholRow s rc k]) []

/-- z with z · Rc = y, by forward substitution; a column with a zero pivot gives 0. -/
def solveRow (rc : Mat) (k : Nat) (y : List Nat) : List Nat :=
  (List.range k).foldl (fun z a =>
    let p := rc.at a a
    z ++ [if p % 2 ^ 31 = 0 then 0 else f32Div (f32Sub (y.getD a 0) (dotSum z ((rc.take a).map (·.getD a 0)))) p]) []

/-- One pass of Cholesky QR on Y (m × k). -/
def orthPass (k : Nat) (y : Mat) : Mat :=
  let yt := y.tr k
  let rc := chol (yt.mulT yt) k
  y.map (solveRow rc k)

def orth (k : Nat) (y : Mat) : Mat := orthPass k (orthPass k y)

/-! ### svd (R225) -/

/-- Rotation of a pair: c and s. The spec gives θ and t; c = 1/√(t² + 1) and s = t·c, and sign(0) = 1, are DEDUCED,
log 33. -/
def jacobiCS (haa hbb hab : Nat) : Nat × Nat :=
  let th := f32Div (f32Sub hbb haa) (f32Mul (f32Of 2) hab)
  let ath := th % 2 ^ 31
  let mag := f32Div f32OneBits (f32Add ath (f32Sqrt (f32Add (f32Mul th th) f32OneBits)))
  let t := if f32Lt th 0 then f32Neg mag else mag
  let c := f32Div f32OneBits (f32Sqrt (f32Add (f32Mul t t) f32OneBits))
  (c, f32Mul t c)

/-- Rotate entries a and b of a row: c·x − s·y and s·x + c·y. -/
def rotRow (a b c s : Nat) (r : List Nat) : List Nat :=
  let x := r.getD a 0
  let y := r.getD b 0
  (r.set a (f32Sub (f32Mul c x) (f32Mul s y))).set b (f32Add (f32Mul s x) (f32Mul c y))

/-- One rotation of H and U: columns of H, then its rows, and the columns of U. -/
def jacobiStep (k : Nat) (hu : Mat × Mat) (ab : Nat × Nat) : Mat × Mat :=
  let (h, u) := hu
  let (a, b) := ab
  let hab := h.at a b
  if hab % 2 ^ 31 = 0 then hu
  else
    let (c, s) := jacobiCS (h.at a a) (h.at b b) hab
    let h : Mat := h.map (rotRow a b c s)
    let h : Mat := Mat.tr ((h.tr k).map (rotRow a b c s)) k
    (h, u.map (rotRow a b c s))

/-- Pairs (a < b) in row order. -/
def jacobiPairs (k : Nat) : List (Nat × Nat) :=
  (List.range k).flatMap fun a => ((List.range k).filter (a < ·)).map fun b => (a, b)

/-- Insert behind the entries that are not less. -/
def insertDesc (e : Nat × Nat) : List (Nat × Nat) → List (Nat × Nat)
  | [] => [e]
  | x :: l => if f32Lt x.1 e.1 then e :: x :: l else x :: insertDesc e l

/-- Indices of the eigenvalues in descending order, ties by lower index. -/
def sortDesc (l : List Nat) : List Nat :=
  (l.zipIdx.foldl (fun acc e => insertDesc e acc) []).map (·.2)

/-- U, S and Vt of C (k × n), the columns of U in the order of S. -/
def svdOf (k : Nat) (c : Mat) : Mat × List Nat × Mat :=
  let h := c.mulT c
  let (h, u) := (List.range 12).foldl (fun hu _ => (jacobiPairs k).foldl (jacobiStep k) hu) (h, Mat.ident k)
  let order := sortDesc ((List.range k).map fun i => h.at i i)
  let ut := order.map fun i => u.map (·.getD i 0)
  let s := order.map fun i => f32Sqrt (f32MaxNum (h.at i i) 0)
  let n := (c.headD []).length
  let ct := c.tr n
  let vt := List.zipWith (fun col sv => if sv % 2 ^ 31 = 0 then List.replicate n 0 else ct.map fun x => f32Div (dotSum col x) sv) ut s
  (Mat.tr ut k, s, vt)

/-! ### The sketch (R180) -/

/-- A (d_in × r) and B (r × d_out) from the residual D (d_out × d_in). -/
def sketch (d : Mat) (dOut dIn r seed layer group : Nat) : Mat × Mat :=
  let k := r + 8
  let dt := d.tr dIn
  let g := drawG seed layer group dIn k
  let y := d.mul g k
  let y := (List.range 2).foldl (fun (y : Mat) _ => let q := orth k y; d.mul (dt.mul q k) k) y
  let qb := orth k y
  let (u, s, vt) := svdOf k ((qb.tr k).mulT dt)
  let root := s.map f32Sqrt
  let qu := qb.mul u k
  (Mat.gen dIn r fun j q => f32Mul (vt.at q j) (root.getD q 0), Mat.gen r dOut fun q c => f32Mul (root.getD q 0) (qu.at c q))

/-- Q(W) of a row of base codes: code value × row scale, rounded once. -/
def baseValue (code : Nat) (w : Nat) (srow : Q) : Nat := f32Enc ((codeVal code w).mul srow) false

/-- The residual from master weights and base codes, row-major. -/
def residual (b : BaseRec) (srow : List Q) (master codes : List Nat) : Mat :=
  Mat.gen b.dOut b.dIn fun c j =>
    f32Sub (master.getD (c * b.dIn + j) 0) (baseValue b.codeW (codes.getD (c * b.dIn + j) 0) (srow.getD c Q.zero))

end Sys2Proof.Machine
end

