-- ==== Sys2Proof/Machine/Churn.lean ====
section
/-!
DEFINITION. The commands of a Churn unit (R92 to R95, R210 to R230). Each row runs the next entry of a shelf's ring where
that entry holds its opcode.
-/

namespace Sys2Proof.Machine

/-- What a command answers: the state, the status and the value of its completion word. -/
abbrev ChurnOut := State × Status × Nat

/-- A row of codes: whole groups, then zeros up to 64 bytes (R92). -/
def emitRow (code : Nat) (l : List Nat) : List Byte :=
  let b := packCodes code l
  padTo b ((b.length + 63) / 64 * 64)

/-! ### EMIT (R92 to R95) -/

def emitOp (s : State) (sh : Nat) (c : ChurnCmd) : ChurnOut :=
  let b := c.body.toNat
  let w (off hi lo : Nat) := hdrAt b off hi lo
  let ga (off : Nat) : BitVec 64 := BitVec.ofNat 64 (w off 63 0)
  let cols := w 0x18 63 32
  let rows := w 0x18 31 0
  let smode := w 0x20 6 5
  let byCol := w 0x20 4 4 == 1
  let code := w 0x20 3 0
  let nch := if byCol then cols else rows
  let ok := w 0 5 0 == 0 && w 8 5 0 == 0 && w 0x10 1 0 == 0 && decide (1 ≤ cols ∧ cols ≤ 1048576 ∧ 1 ≤ rows ∧ rows ≤ 1048576)
    && w 0x20 63 20 == 0 && w 0x20 7 7 == 0 && smode != 3 && decide (code ≤ 7) && (smode == 2 || w 0x28 63 0 == 0)
    && w 0x38 63 0 == 0
  if !ok then (s, St.emitDescInvalid, 0)
  else if !s.inJob c.part (ga 8) (rows * ((codeBytes code cols + 63) / 64 * 64)) ∨ !s.inJob c.part (ga 0x10) (4 * nch) then
    (s, St.addressInvalid, 0)
  else
    match s.churnRead c.part (ga 0) (4 * rows * cols), (if smode = 2 then s.churnRead c.part (ga 0x28) (4 * nch) else .ok []) with
    | .error st, _ | _, .error st => (s, st, 0)
    | .ok src, .ok sin =>
      let fixed := words32 sin
      let m := chunks cols (rows + 1) ((words32 src).map (·.toNat))
      let e := emitMatrix code smode byCol cols m (fixed.getD · 0) s.free
      let s := { s with free := 2 * (s.free + rows * cols) }
      match s.churnWrite c.part (ga 8) (e.codes.flatMap (emitRow code)) with
      | (s, st) =>
        if st ≠ 0 then (s, st, 0) else
        match s.churnWrite c.part (ga 0x10) (e.scales.flatMap fun v => natLE v.toNat 4) with
        | (s, st) =>
          if st ≠ 0 then (s, st, 0) else
          let tag := w 0x20 19 8
          let s := s.postStat false c.part tag (codeSkim code) e.stat
          (if e.nfe then s.churnFlag sh 0x10 tag else s, St.ok, e.stat.clip + e.stat.flush)

/-- What an EMIT reads: the source, then fixed scales. -/
def emitReads (s : State) (c : ChurnCmd) : List (Nat × Nat) :=
  let b := c.body.toNat
  let cols := hdrAt b 0x18 63 32
  let rows := hdrAt b 0x18 31 0
  let nch := if hdrAt b 0x20 4 4 = 1 then cols else rows
  s.hbmRange (BitVec.ofNat 64 (hdrAt b 0 63 0)) (4 * rows * cols)
    ++ (if hdrAt b 0x20 6 5 = 2 then s.hbmRange (BitVec.ofNat 64 (hdrAt b 0x28 63 0)) (4 * nch) else [])

def execEmit (sh : Fin 16) (s : State) : Out := .next (churnRow 1 emitReads emitOp sh s)

/-! ### UPDATE (R211 to R219, R223) -/

/-- STEPC of the commit record (R217): of the state area that names the shard. -/
def State.shardStepc (s : State) (a : BitVec 64) : Option Nat :=
  match s.shardJob a, s.shardEntry a with
  | some j, _ => some (s.recStepc (gaOff j.area))
  | none, some e => e.area.map s.recStepc
  | none, none => none

/-- Borrow threshold of the job record (R219). -/
def State.shardBorrow (s : State) (a : BitVec 64) : Nat :=
  match s.shardJob a with
  | some j => j.borrow
  | none => s.odVal 0x605001 4096

/-- The live bank, the gradient and the record of an UPDATE, as its rule takes them, and whether a gradient element
overflowed. -/
def State.updateIn (s : State) (p : Nat) (d : Shard) (t : TensorRec) (a : BitVec 64) : Except Status (RuleIn × Bool) :=
  let r := hRtot d.h
  let c := hCtot d.h
  let role := hRole d.h
  let n := if role = 0 then c else r
  let k := if role = 0 then r else c
  let live (x : Nat) := s.bankComp p d d.epoch x
  match s.churnRead p t.garea (16 * n * k), s.churnRead p t.fac (4 * (n + k)), live 0, live 1 with
  | .error st, _, _, _ | _, .error st, _, _ | _, _, .error st, _ | _, _, _, .error st => .error st
  | .ok gb, .ok fb, .ok w0, .ok m0 =>
    match live 2, live 3, live 4, live 5, live 6 with
    | .ok rv, .ok cv, .ok lr, .ok qr, .ok dd =>
      let words := (chunks 16 (gb.length + 1) gb).map fun l => BitVec.ofNat 128 (leNat l)
      let (g, big) := gradient words t ((words32 fb).map (·.toNat)) k n
      let stepc := (s.shardStepc a).getD (Config.freeNat s.free)
      .ok ({ t := t, r := r, c := c, role := role, w0 := w0, m0 := m0, rv0 := rv, cv0 := cv, lr0 := lr, qr0 := qr, dd0 := dd
             g := if role = 0 then g else g.tr n, stepc := stepc, borrow := s.shardBorrow a, free := s.free + 1 }, big)
    | .error st, _, _, _, _ | _, .error st, _, _, _ | _, _, .error st, _, _ | _, _, _, .error st, _ | _, _, _, _, .error st =>
      .error st

/-- Write what a rule gives, and NF for a value that is not finite (R218). -/
def State.updateOut (s : State) (sh p : Nat) (d : Shard) (t : TensorRec) (big : Bool) (out : RuleOut) : ChurnOut :=
  let step (acc : List (Comp × List Nat) × Nat) (e : Nat × Mat) : List (Comp × List Nat) × Nat :=
    match d.comp e.1 with
    | none => acc
    | some k => (acc.1 ++ [(k, storedComp k e.2 acc.2)], acc.2 + k.rows * k.cols)
  let (l, free) := out.foldl step ([], s.free)
  let s := { s with free := free }
  match s.putComps p d (d.epoch + 1) l with
  | (s, st) =>
    let bad := big || l.any fun e => e.2.any (patNonFinite e.1.width)
    (if bad then s.churnFlag sh 8 t.ttag else s, st, 0)

def updateOp (s : State) (sh : Nat) (c : ChurnCmd) : ChurnOut :=
  match s.churnRead c.part c.arg2 8, s.jobShard c.part c.arg0, s.churnRead c.part c.arg1 64 with
  | .error st, _, _ => (s, st, 0)
  | .ok fb, shard, recd =>
    if bits (leNat fb) 8 0 ≠ 0 then (s, St.stepFlagged, 0) else
    match shard, recd with
    | .error st, _ | _, .error st => (s, st, 0)
    | .ok d, .ok rb =>
      let t := TensorRec.of (leNat rb)
      if !t.ok then (s, St.churnCmdInvalid, 0)
      else if t.rule ≠ hRule d.h ∨ t.mfmt ≠ hMfmt d.h then (s, St.shardHeaderInvalid, 0)
      else if c.arg3.toNat ≠ (d.epoch + 1) % 2 ^ 32 then (s, St.shardEpochMismatch, 0)
      else match s.updateIn c.part d t c.arg0 with
        | .error st => (s, st, 0)
        | .ok (i, big) =>
          let n := i.n
          ({ s with free := i.free + 1 + 5 * n * n } : State).updateOut sh c.part d t big i.run

/-- What an UPDATE reads: the step flag word, the shard's header, the tensor record, gradient, factors, live bank. -/
def updateReads (s : State) (c : ChurnCmd) : List (Nat × Nat) :=
  s.hbmRange c.arg2 8 ++ s.hbmRange c.arg0 256 ++ s.hbmRange c.arg1 64
    ++ (match s.jobShard c.part c.arg0, s.churnRead c.part c.arg1 64 with
      | .ok d, .ok rb =>
        let t := TensorRec.of (leNat rb)
        let n := hRtot d.h * hCtot d.h
        s.hbmRange t.garea (16 * n) ++ s.hbmRange t.fac (4 * (hRtot d.h + hCtot d.h))
      | _, _ => [])
    ++ s.shardReads c.part c.arg0 fun _ => true

/-- The next entry is an UPDATE that passes its checks and whose Gram matrices a borrowed core forms, and the shelf serves,
or has no core enabled: the tile program waits for the shelf (R201, R219, R230). -/
def State.borrowWaits (s : State) (sh : Nat) : Bool :=
  let s := State.ringSkip 32 s sh
  match s.ringNext sh with
  | none => false
  | some c => c.opc == 2 && c.fieldsOk && s.addrsOk c && decide ((updateOp s sh c).2.1 = St.ok) &&
    ((s.shelf sh).serving || (List.range 8).all fun k => (s.phys sh k).isNone) &&
    match s.jobShard c.part c.arg0 with
    | .ok d => borrows (hRule d.h) (if hRole d.h = 0 then hRtot d.h else hCtot d.h) (s.shardBorrow c.arg0)
    | .error _ => false

def execUpdate (sh : Fin 16) (s : State) : Out :=
  .next (if s.borrowWaits sh then s else churnRow 2 updateReads updateOp sh s)

/-! ### SETEPOCH (R221) -/

def setepochOp (s : State) (_ : Nat) (c : ChurnCmd) : ChurnOut :=
  match s.jobShard c.part c.arg0 with
  | .error st => (s, st, 0)
  | .ok d =>
    if d.epoch ≠ c.arg1.toNat then (s, St.shardEpochMismatch, 0)
    else
      let (s, st) := s.engineWrite (Init.job c.part false) (BitVec.ofNat 64 (c.arg0.toNat + 0x80)) (natLE c.arg2.toNat 8)
      (s, st, 0)

def execSetepoch (sh : Fin 16) (s : State) : Out := .next (churnRow 3 (fun s c => s.hbmRange c.arg0 256) setepochOp sh s)

/-! ### SKETCH (R180, R225) -/

/-- A component with every element 0, or QR the identity (R213, R225). -/
def freshComp (k : Comp) : Mat :=
  if k.comp = 5 then Mat.ident k.rows else Mat.gen k.rows k.cols fun _ _ => 0

/-- Components of a shadow bank with W given and the others fresh, W last (R221). -/
def sketchComps (d : Shard) (w : Mat) (free : Nat) : List (Comp × List Nat) :=
  ((hComps d.h).filter (·.comp ≠ 0)).map (fun k => (k, storedComp k (freshComp k) free))
    ++ ((hComps d.h).filter (·.comp = 0)).map fun k => (k, storedComp k w free)

/-- The seed of the job that the shard belongs to (R237 TRAIN, SEED); with no such job the spec names none, and it is
free. -/
def State.shardSeed (s : State) (a : BitVec 64) : Nat :=
  match s.shardJob a with
  | some j => (s.wk j.slot).body 0x28
  | none => Config.freeNat s.free % 2 ^ 64

/-- r of a sketch, from the RANKS of the entry that the shard belongs to; with no such entry known, the width of A itself
(DESIGN CHOICE, log 53). -/
def State.sketchRank (s : State) (d : Shard) (a : BitVec 64) : Nat :=
  match s.shardEntry a with
  | some e => rankOf (e.rankCode (hGroup d.h))
  | none => hCtot d.h

/-- `codes`: the base codes that Churn reads, row-major, whose place the spec does not state; `bf16`: the master
weights are BF16. -/
def sketchOp (codes : List (BitVec 12)) (bf16 : Bool) (s : State) (_ : Nat) (c : ChurnCmd) : ChurnOut :=
  let p := c.part
  match s.jobShard p c.arg0, s.jobShard p c.arg1, s.churnRead p c.arg2 32 with
  | .error st, _, _ | _, .error st, _ | _, _, .error st => (s, st, 0)
  | .ok a, .ok b, .ok rb =>
    let base := BaseRec.of (leNat rb)
    let r := s.sketchRank a c.arg0
    if !base.ok then (s, St.adapterBaseScaleInvalid, 0)
    else if hRole a.h ≠ 0 ∨ hRole b.h ≠ 1 ∨ hLayer a.h ≠ hLayer b.h ∨ hGroup a.h ≠ hGroup b.h ∨ hCtot a.h ≠ r
        ∨ hRtot b.h ≠ r ∨ hRtot a.h ≠ base.dIn ∨ hCtot b.h ≠ base.dOut then (s, St.shardHeaderInvalid, 0)
    else match s.baseScales p base, s.churnRead p c.arg3 ((if bf16 then 2 else 4) * base.dIn * base.dOut) with
      | .error st, _ | _, .error st => (s, st, 0)
      | .ok srow, .ok mb =>
        let master := (chunks (if bf16 then 2 else 4) (mb.length + 1) mb).map fun l =>
          if bf16 then leNat l * 65536 else leNat l
        let d := residual base srow master (codes.map (·.toNat))
        let (ma, mb) := sketch d base.dOut base.dIn r (s.shardSeed c.arg0) (hLayer a.h) (hGroup a.h)
        let na := base.dIn * r
        let f := s.free + 1
        let s := { s with free := f + na + base.dOut * r }
        let (s, st) := andThen (s.putComps p a (a.epoch + 1) (sketchComps a ma f)) fun s =>
          s.putComps p b (b.epoch + 1) (sketchComps b mb (f + na))
        (s, st, 0)

/-- What a SKETCH reads: the shards' headers, the base record, its row scales, the master weights. -/
def sketchReads (bf16 : Bool) (s : State) (c : ChurnCmd) : List (Nat × Nat) :=
  s.hbmRange c.arg0 256 ++ s.hbmRange c.arg1 256 ++ s.hbmRange c.arg2 32 ++ match s.churnRead c.part c.arg2 32 with
    | .error _ => []
    | .ok rb =>
      let b := BaseRec.of (leNat rb)
      s.hbmRange b.srow (4 * b.dOut) ++ s.hbmRange c.arg3 ((if bf16 then 2 else 4) * b.dIn * b.dOut)

def execSketch (sh : Fin 16) (codes : List (BitVec 12)) (bf16 : Bool) (s : State) : Out :=
  .next (churnRow 4 (sketchReads bf16) (sketchOp codes bf16) sh s)

/-! ### EXPORT (R226, R227) -/

/-- Row ranges of a component: first row and rows of each piece of at most 64 MiB. -/
def rowRanges (rows rowBytes : Nat) : List (Nat × Nat) :=
  let per := max 1 (0x4000000 / max 1 rowBytes)
  (List.range ((rows + per - 1) / per)).map fun i => (i * per, min per (rows - i * per))

/-- A wrapped shard for a tenant key (R227); `draw` numbers the ephemeral key. -/
def wrapShard (front payload digest : List Byte) (adid key draw : Nat) : List Byte :=
  let header := front ++ digest ++ natLE 0 32
  let eph := Config.drbg draw
  let z := bigBytes (Config.ecdh eph key) 32
  let k := hkdf32 z (sha256 front) (asciiBytes "T8-SHARD-WRAP-1" ++ natLE adid 8)
  let cipher := (List.range (payload.length + 16)).map fun i =>
    BitVec.ofNat 8 (Config.gcmByte (bigNat k) (bigNat header) (bigNat payload) payload.length i)
  header ++ (4 :: bigBytes (Config.ecPub eph) 64) ++ natLE 0 15 ++ cipher

/-- One export shard of rows [row0, row0 + n) of a component. -/
def exportShard (d : Shard) (k : Comp) (data : List Byte) (row0 n : Nat) (key : Option Nat) (draw : Nat) : List Byte :=
  let payload := (data.drop (row0 * k.cols * k.width)).take (n * k.cols * k.width)
  let f : HdrF := ⟨hAdid d.h, hLayer d.h, hGroup d.h, hRole d.h, k.comp, if k.width = 2 then 9 else 8, 0, key.isSome, d.epoch,
    k.rows, k.cols, row0, n, payload.length, hRule d.h, hMfmt d.h⟩
  match key with
  | none => f.bytes payload ++ payload
  | some q => wrapShard f.front payload (sha256 (f.front ++ payload)) (hAdid d.h) q draw

/-- The export shards of a component, one behind the other. -/
def State.exportShards (s : State) (p : Nat) (d : Shard) (k : Comp) (key : Option Nat) : Except Status (List (List Byte)) :=
  match s.hbmGet (Init.job p false) (d.live + k.off) (k.rows * k.cols * k.width) with
  | .error st => .error st
  | .ok data => .ok ((rowRanges k.rows (k.cols * k.width)).zipIdx.map fun e =>
      exportShard d k data e.1.1 e.1.2 key (s.free + e.2))

/-- `moved`: the two reads of the epoch word differ, since another Churn unit flips the shard between them. -/
def exportOp (moved : Bool) (s : State) (_ : Nat) (c : ChurnCmd) : ChurnOut :=
  let p := c.part
  match s.jobShard p c.arg0, (if c.arg2 = 0 then .ok [] else s.churnRead p c.arg2 65) with
  | .error st, _ | _, .error st => (s, st, 0)
  | .ok d, .ok kb =>
    match d.comp c.arg3.toNat with
    | none => (s, St.churnCmdInvalid, 0)
    | some k =>
      if c.arg2 ≠ 0 ∧ !pointOk kb then (s, St.exportKeyInvalid, 0)
      else if moved then (s, St.shardEpochMismatch, 0)
      else match s.exportShards p d k (if c.arg2 = 0 then none else some (bigNat kb)) with
        | .error st => (s, st, 0)
        | .ok l =>
          let s := { s with free := s.free + l.length }
          let (s, st) := s.churnWrite p c.arg1 l.flatten
          (s, st, if st = 0 then l.length else 0)

/-- What an EXPORT reads: the header, the tenant key, the component. -/
def exportReads (s : State) (c : ChurnCmd) : List (Nat × Nat) :=
  s.hbmRange c.arg0 256 ++ (if c.arg2 = 0 then [] else s.hbmRange c.arg2 65)
    ++ s.shardReads c.part c.arg0 (·.comp = c.arg3.toNat)

def execExport (sh : Fin 16) (moved : Bool) (s : State) : Out := .next (churnRow 5 exportReads (exportOp moved) sh s)

/-! ### IMPORT (R229) -/

/-- Put a range of rows into a matrix of stored patterns, row-major with `cols` columns. -/
def overRange (old : List Nat) (cols row0 col0 nrows ncols : Nat) (new : List Nat) : List Nat :=
  old.zipIdx.map fun e =>
    let i := e.2 / cols
    let j := e.2 % cols
    if row0 ≤ i ∧ i < row0 + nrows ∧ col0 ≤ j ∧ j < col0 + ncols then new.getD ((i - row0) * ncols + (j - col0)) 0 else e.1

/-- Check 1 of R229, with the header's own form. -/
def importHeaderOk (h : Nat) : Bool := hdrOk h && !hWrap h

/-- Check 2 of R229. -/
def importDigestOk (bs : List Byte) : Bool := sha256 (bs.take 64 ++ bs.drop 128) == hDigest (leNat (bs.take 128))

/-- The checks of R229 in order, on the export shard's bytes (header and payload) and the state shard: the component that
it names. The fields beyond R229's list are checked with its last check; RTOT and CTOT are the component's. DEDUCED,
log 34. -/
def importCheck (bs : List Byte) (d : Shard) : Except Status Comp :=
  let h := leNat (bs.take 128)
  if !importHeaderOk h then .error St.shardHeaderInvalid
  else if !importDigestOk bs then .error St.shardDigestMismatch
  else if hAdid h ≠ hAdid d.h ∨ hLayer h ≠ hLayer d.h ∨ hGroup h ≠ hGroup d.h ∨ hRole h ≠ hRole d.h then
    .error St.shardHeaderInvalid
  else match d.comp (hComp h) with
    | none => .error St.shardHeaderInvalid
    | some k =>
      let w := if hCode h = 9 then 2 else 4
      if hRtot h ≠ k.rows ∨ hCtot h ≠ k.cols ∨ k.rows < hRow0 h + hNrows h ∨ k.cols < hCol0 h + hNcols h ∨ hSaxis h ≠ 0
          ∨ (hCode h ≠ 8 ∧ hCode h ≠ 9) ∨ hPlen h ≠ hNrows h * hNcols h * w then .error St.shardHeaderInvalid
      else .ok k

/-- Values of an export shard's data as FP32 patterns. -/
def importVals (h : Nat) (data : List Byte) : List Nat :=
  let w := if hCode h = 9 then 2 else 4
  (chunks w (data.length + 1) data).map fun l => if w = 2 then leNat l * 65536 else leNat l

/-- A pattern as a component of width w stores it: an FP32 component keeps every bit. -/
def importPat (w v : Nat) : Nat := if w = 2 then (if v % 65536 = 0 then v / 65536 else bf16Of v) else v

/-- Write a checked range into the bank of the target epoch. -/
def State.importRange (s : State) (p : Nat) (d : Shard) (k : Comp) (bs : List Byte) : State × Status :=
  let h := leNat (bs.take 128)
  let o := d.bank (d.epoch + 1) + k.off
  match s.hbmGet (Init.job p false) o (k.rows * k.cols * k.width) with
  | .error st => (s.noteFail st [(o, k.rows * k.cols * k.width)], st)
  | .ok old =>
    let oldP := (chunks k.width (old.length + 1) old).map leNat
    let new := (importVals h (bs.drop 128)).map (importPat k.width)
    s.putComps p d (d.epoch + 1) [(k, overRange oldP k.cols (hRow0 h) (hCol0 h) (hNrows h) (hNcols h) new)]

def importOp (s : State) (_ : Nat) (c : ChurnCmd) : ChurnOut :=
  let p := c.part
  match s.churnRead p c.arg0 128, s.jobShard p c.arg1 with
  | .error st, _ | _, .error st => (s, st, 0)
  | .ok hb, .ok d =>
    if !importHeaderOk (leNat hb) then (s, St.shardHeaderInvalid, 0)
    else match s.churnRead p c.arg0 (128 + hPlen (leNat hb)) with
      | .error st => (s, st, 0)
      | .ok bs =>
        match importCheck bs d with
        | .error st => (s, st, 0)
        | .ok k =>
          if c.arg3.toNat ≠ (d.epoch + 1) % 2 ^ 32 then (s, St.shardEpochMismatch, 0)
          else
            let (s, st) := s.importRange p d k bs
            (s, st, 0)

/-- What an import reads: the export shard and the state shard's header. -/
def State.importReads (s : State) (p : Nat) (a q : BitVec 64) : List (Nat × Nat) :=
  s.hbmRange a 128 ++ s.hbmRange q 256 ++ match s.churnRead p a 128 with
    | .error _ => []
    | .ok hb => s.hbmRange a (128 + hPlen (leNat hb))

def execImport (sh : Fin 16) (s : State) : Out :=
  .next (churnRow 6 (fun s c => s.importReads c.part c.arg0 c.arg1) importOp sh s)

/-! ### The step flag register (R198, R210) -/

def stepfRdOp (s : State) (sh : Nat) (c : ChurnCmd) : ChurnOut :=
  let (s, st) := s.churnWrite c.part c.arg0 (natLE (s.shelf sh).churnFlags.toNat 8)
  (s, st, 0)

def execStepfRd (sh : Fin 16) (s : State) : Out := .next (churnRow 7 (fun _ _ => []) stepfRdOp sh s)

def stepfWrOp (s : State) (sh : Nat) (c : ChurnCmd) : ChurnOut :=
  (s.modShelf sh fun h => { h with churnFlags := stepfWritten c.arg0 }, St.ok, 0)

def execStepfWr (sh : Fin 16) (s : State) : Out := .next (churnRow 8 (fun _ _ => []) stepfWrOp sh s)

/-! ### SERVE (R228) -/

/-- Code of a shard's serving copy: the entry's ACODE or BCODE; where no entry is known to own the shard, the spec names
none, and it is one of the two codes of R152, free. -/
def State.serveCode (s : State) (d : Shard) (a : BitVec 64) : Nat :=
  match s.shardEntry a with
  | some e => if hRole d.h = 0 then e.acode else e.bcode
  | none => 5 * (Config.freeNat s.free % 2)

def serveOp (s : State) (_ : Nat) (c : ChurnCmd) : ChurnOut :=
  match s.jobShard c.part c.arg0 with
  | .error st => (s, st, 0)
  | .ok d =>
    let code := s.serveCode d c.arg0
    match s.serveShard (Init.job c.part false) d code with
    | .error st => (s, st, 0)
    | .ok (bs, e) =>
      let (s', st) := ({ s with free := s.free + 1 } : State).churnWrite c.part c.arg1 bs
      if st ≠ 0 then (s', st, 0)
      else (s'.postStat false c.part 0xFFF (codeSkim code) e.stat, St.ok, 0)

def execServe (sh : Fin 16) (s : State) : Out := .next (churnRow 9 (fun s c => s.shardReads c.part c.arg0 (·.comp = 0)) serveOp sh s)

end Sys2Proof.Machine
end

