-- ==== Sys2Proof/Machine/Host.lean ====
section
/-!
DEFINITION. The host port: opening and closing contexts, acknowledgement, retransmission, pacing, keepalives
(R274 to R288, R346).
-/

namespace Sys2Proof.Machine

/-! ### REFUSE (R275, R277) and CNP (R283) -/

/-- A REFUSE to a host context number at an address. It belongs to no context of the device: its SCTX, PSN, ACKPSN and MSN are
zero (DESIGN CHOICE, log 48). -/
def State.refuse (s : State) (dst : BitVec 128) (hctx : BitVec 16) (st : Status) : State :=
  s.emit (.refuse hctx st (s.wireTo dst true (headerBytes 3 0xB0 hctx.toNat 0 0 0 0 0 ++ be st.toNat 2)))

/-- A packet is dropped and counted in the context that its DCTX names (R269, R275, R279, R280). -/
def State.countDrop (s : State) (c : Nat) : State :=
  if c < 16384 then s.modCtx c fun x => { x with drop := x.drop + 1 } else s

/-- A packet for a context that is neither OPEN nor DRAINING: counted as dropped, and refused at most once per ms per
context number. -/
def State.refuseUnknown (s : State) (dst : BitVec 128) (c : Nat) (hctx : BitVec 16) : State :=
  let s := s.countDrop c
  let last := tabGet 0 s.port.refused c
  if last ≠ 0 ∧ s.tsc < last - 1 + 1000000 then s
  else { s with port := { s.port with refused := tabSet 0 s.port.refused c (s.tsc + 1) } }.refuse dst hctx St.contextInvalid

/-- A packet outside the PSN space: ACK or CNP. It carries the next PSN, which it does not use. -/
def State.sendBare (s : State) (c : Nat) (q : Bool) (typ : BitVec 8) (body : List Byte) : State :=
  let u := (s.ctx c).queue q
  s.emit (.packet c q (s.wire c q u.rx { onePacket typ 0 body with psn := u.tx }))

/-- A CE mark: counted, and answered by a CNP on that queue, one per 50 µs at most (R283). -/
def State.packetCe (s : State) (c : Nat) (q : Bool) : State :=
  let sent := ((s.ctx c).queue q).cnpSent
  let s := s.modCtx c fun x => { x.modQueue q fun u => { u with cnpSent := true } with ce := x.ce + 1 }
  if sent then s else s.sendBare c q 0x21 []

/-! ### OPEN (R277, R278, R346) -/

/-- Bytes [o, o + n) of an extension that starts at offset 24, most significant first. -/
def extField (b : List Byte) (o n : Nat) : Nat := beNat ((b.drop (o - 24)).take n)

/-- Context numbers that an OPEN of a partition may get (R274, R275). -/
def State.freeCtxs (s : State) (p : Nat) : List Nat :=
  let (lo, n) := if s.mode.cur.four then (4096 * p, 4096) else (0, 16384)
  ((List.range n).map (· + lo)).filter fun c => !(s.ctx c).joined

/-- The context that a host's number had when it failed, if it can serve the requested partition (R275). -/
def State.failedCtx (s : State) (p : Nat) (host : BitVec 128) (hctx : BitVec 16) : Option Nat :=
  ((s.port.ctxs.filter fun e => e.2.st = .failed && e.2.host == host && e.2.hctx == hctx
    && (!s.mode.cur.four || e.1 / 4096 == p)).map (·.1)).head?

/-- Field ranges of R277; a non-secure OPEN must carry zero AUTH. -/
def State.openFieldsOk (s : State) (b : List Byte) : Bool :=
  let part := extField b 36 1
  let world := extField b 27 1
  decide (world ≤ 1) && (if s.mode.cur.four then decide (part ≤ 3) else part == 0)
    && decide (1500 ≤ extField b 38 2 ∧ extField b 38 2 ≤ 9216) && decide (extField b 26 1 ≤ extField b 24 1)
    && extField b 37 1 == 0 && (world == 1 || (b.drop 32).all (· == 0))

/-- The bytes under AUTH (R346). -/
def State.authMessage (s : State) (sctx : BitVec 16) (b : List Byte) : List Byte :=
  asciiBytes "T8-OPEN-1" ++ natLE s.sec.nonce.toNat 8 ++ be sctx.toNat 2 ++ b.take 32

/-- K_own of an owner key: HKDF over the ECDH of the AK with it (R345). -/
def ownerKown (key : BitVec 520) : BitVec 256 :=
  BitVec.ofNat 256 (leNat (hkdf32 (bigBytes (Config.ecdh 0 key.toNat) 32) (natLE (Config.fuse 0x101001) 8)
    (asciiBytes "T8-OWNER-1")))

/-- The working copy of K_own, derived again where a scan grant or a start has left it zero (R345, R395). -/
def State.ownKey (s : State) : BitVec 256 := if s.sec.kown = 0 then ownerKown s.sec.ownerKey else s.sec.kown

/-- Saggar verifies AUTH; never on an UNCLAIMED device. -/
def State.authOk (s : State) (sctx : BitVec 16) (b : List Byte) : Bool :=
  s.sec.claimed && (b.drop 32).take 32 == hmac (natLE s.ownKey.toNat 32) (s.authMessage sctx b)

/-- The working copy that verifying an AUTH leaves. -/
def State.keepKown (s : State) : State :=
  { s with sec := { s.sec with kown := if s.sec.claimed then s.ownKey else s.sec.kown } }

/-- A fresh nonce from the DRBG, whose state moves on; that state is a free value (log 88). -/
def State.drawNonce (s : State) : State :=
  { s with
    free := s.free + 1
    sec := { s.sec with
      nonce := BitVec.ofNat 64 (Config.drbg s.free), keys := { s.sec.keys with drbg := BitVec.ofNat 256 (Config.freeNat s.free) } } }

/-- A secure OPEN is refused for its AUTH: the refusal counts, and the eighth within 1 s starts the lockout. -/
def State.countRefusal (s : State) : State :=
  let l := (s.sec.refusals.filter fun t => decide (s.tsc < t + 1000000000)) ++ [s.tsc]
  { s with sec := { s.sec with refusals := l, lockout := decide (8 ≤ l.length) } }

/-- The checks of R277 before AUTH, in order; or the context number, whose choice among the free ones is open. -/
def State.openCheck (s : State) (host : BitVec 128) (sctx : BitVec 16) (b : List Byte) : Except Status Nat :=
  let part := extField b 36 1
  let secure := extField b 27 1 = 1
  if s.boot = .starting ∨ (s.boot = .failed ∧ !secure) ∨ s.power.parking then .error St.contextInvalid
  else if !s.openFieldsOk b then .error St.openInvalid
  else if extField b 24 1 < 1 ∨ 1 < extField b 26 1 then .error St.versionUnsupported
  else if s.sec.resetting.contains part ∨ s.mode.scrub.contains part then .error St.contextInvalid
  else
    let l := s.freeCtxs part
    let pick : Option Nat := match s.failedCtx part host sctx with
      | some c => some c
      | none => l[Config.freeNat s.free % l.length]?
    match pick with
    | none => .error St.contextInvalid
    | some c =>
      let hlen := extField b 48 8
      if hlen = 0 ∨ hlen % 4096 ≠ 0 ∨ extField b 40 8 % 4096 ≠ 0 then .error St.addressInvalid else .ok c

/-- Body of ACCEPT: major 1, minor 0, MTU, capabilities 0, the device's number, its counter. -/
def acceptBody (mtu c t : Nat) : List Byte := [1, 0] ++ be mtu 2 ++ be 0 8 ++ be c 2 ++ [0, 0] ++ be t 8

/-- The context opens: the OPEN was control packet 0 of the host, ACCEPT is control packet 0 of the device. -/
def State.acceptOpen (s : State) (c : Nat) (p : Packet) : State :=
  let b := p.body
  let secure := extField b 27 1 = 1
  let mtu := min (extField b 38 2) (s.portCfg 5 1500)
  let rto := s.odVal 0xA02002 64
  let s := s.modCtx c fun x => { x with
    st := .open_, part := extField b 36 1, secure := secure, hctx := p.sctx, host := p.src, openBody := b, hbase := BitVec.ofNat 64 (extField b 40 8)
    hlen := BitVec.ofNat 64 (extField b 48 8), mtu := mtu, rto := rto, retry := s.odVal 0xA02003 12
    keep := s.odVal 0xA02004 10000, rate := s.odVal 0xA02001 400 * 1000000000, cnpSeen := false, cutSeen := false
    kaOut := false, rqin := 0, rqout := 0, rqfail := 0, retx := 0, ce := 0, drop := 0
    ctl := { rx := 1, due := 1, timer := rto }, bulk := { timer := rto }, asm := [], fences := [], msn := 0, expert := false }
  let s := s.send c true (onePacket 0x02 0 (acceptBody mtu c (coarseTime secure s.tsc)))
  if p.ce then s.packetCe c true else s

/-- The context that this OPEN has opened already: the same bytes came from the same host, and the ACCEPT is not yet
acknowledged, so that its sender may have repeated it (R280). DEDUCED, log 48. -/
def State.openRepeat (s : State) (p : Packet) : Option Nat :=
  (s.port.ctxs.find? fun e => e.2.joined && e.2.host == p.src && e.2.hctx == p.sctx && e.2.openBody == p.body
    && e.2.ctl.unacked.any fun u => u.pkt.typ == 2).map (·.1)

/-- An OPEN packet, whose header R269 passes and which travels with Q = 1. A repeated one is a duplicate: acknowledged, not
applied (R280). -/
def State.openPacket (s : State) (p : Packet) : State :=
  let b := p.body
  if s.port.port ≠ .up ∨ p.typ ≠ 1 ∨ p.flags &&& 0x8F ≠ 0x80 ∨ p.rsv ≠ 0 ∨ b.length < 64 then s
  else match s.openRepeat p with
    | some c => s.modCtx c fun x => x.modQueue true fun u => { u with due := u.due + 1 }
    | none =>
      let secure := extField b 27 1 = 1
      match s.openCheck p.src p.sctx b with
      | .error st => (if secure then s.drawNonce else s).refuse p.src p.sctx st
      | .ok c =>
        if !secure then { s with free := s.free + 1 }.acceptOpen c p
        else if s.sec.lockout then s.drawNonce.refuse p.src p.sctx St.accessDenied
        else if !s.authOk p.sctx b then s.keepKown.countRefusal.drawNonce.refuse p.src p.sctx St.accessDenied
        else s.keepKown.drawNonce.acceptOpen c p

def execOpen (p : Packet) (s : State) : Out := .next (s.openPacket p)

/-! ### CLOSE and CLOSED (R275, R390) -/

/-- Nothing is outstanding on a context in either direction. -/
def State.drained (s : State) (c : Nat) : Bool :=
  (s.ctx c).asm.isEmpty && s.ops.all fun o => !(gaSpace o.remote == 15 && hostCtx o.remote == c) || o.done

/-- The context leaves OPEN: its expert session ends (R416). -/
def State.beginDrain (s : State) (c : Nat) : State := s.modCtx c fun x => { x with st := .draining, expert := false }

/-- The device enters Parked: LINK_STATE to every peer, lasers dimmed, links down (R390). -/
def State.park (s : State) : State :=
  let words := (List.range 8).map s.groupWord
  let s := (List.range 8).foldl (fun s p => s.control p 0x40 words) s
  let s := (List.range 8).foldl State.failPeer s
  { s with
    power := { s.power with sleep := .parked, parking := false, round := 0 }
    port := { s.port with port := .down }
    ecc := { s.ecc with selfRefresh := true }
    fabric := { s.fabric with groups := s.fabric.groups.map fun e =>
      (e.1, { e.2 with st := if e.2.st = .dark then .dark else .training, lanes := 0, phase := 0, attempts := 0 }) } }

/-- Every context has closed: a park that waits for it goes on. -/
def State.parkIfDrained (s : State) : State :=
  if s.power.parking ∧ s.port.ctxs.all (fun e => !e.2.joined) then s.park else s

/-- A DRAINING context becomes CLOSED, and CLOSED is sent. -/
def State.finishClose (s : State) (c : Nat) : State :=
  let u := (s.ctx c).ctl
  let s := s.emit (.packet c true (s.wire c true u.rx { onePacket 0x05 0 [] with psn := u.tx }))
  (s.modCtx c fun x => { x with st := .closed, ctl := {}, bulk := {}, asm := [], fences := [], kaOut := false }).parkIfDrained

/-- CLOSE from the host, or by the device. -/
def execClose (c : Fin 16384) (fromHost : Bool) (s : State) : Out :=
  if (s.ctx c).st = .open_ then
    .next ((if fromHost then s else s.send c true (onePacket 0x04 0 [])).beginDrain c)
  else .next s

/-- The context closes once every outstanding operation has completed; a CLOSED of the host closes no other way. -/
def execClosed (c : Fin 16384) (s : State) : Out :=
  .next (if (s.ctx c).st = .draining ∧ s.drained c then s.finishClose c else s)

/-- 10 ms after CLOSE: what is not completed fails. 10 ms after a partition reset was accepted, a context of the partition
closes without exchange (R275, R358; that this row marks those 10 ms too is a DESIGN CHOICE, log 87). -/
def execDrainTimeout (c : Fin 16384) (s : State) : Out :=
  if s.sec.resetting.contains (s.ctxPart c) then .next (s.dropCtx c)
  else .next (if (s.ctx c).st = .draining then (s.failCtxOps c St.contextInvalid).finishClose c else s)

/-! ### Acknowledgement (R280 to R282) -/

/-- A PSN lies in a SACK range. -/
def inSack (p : BitVec 32) (l : List (BitVec 32 × BitVec 32)) : Bool := l.any fun r => decide ((p - r.1).toNat ≤ (r.2 - r.1).toNat)

/-- Packets that wait take the room that acknowledgement made. -/
def State.fillWindow (s : State) (c : Nat) (q : Bool) : List TxPacket → State
  | [] => s
  | p :: l => (s.send c q p).fillWindow c q l

/-- Send packets again. -/
def State.resend (s : State) (c : Nat) (q : Bool) (l : List Sent) : State :=
  l.foldl (fun s e => (s.emit (.packet c q (s.wire c q ((s.ctx c).queue q).rx e.pkt))).modCtx c fun x => { x with retx := x.retx + 1 }) s

/-- An ACKPSN with SACK ranges: covered packets leave, packets in a range count as received, and a packet before one
that three acknowledgements have named is sent again. -/
def State.ackUpdate (s : State) (c : Nat) (q : Bool) (ack : BitVec 32) (sack : List (BitVec 32 × BitVec 32)) : State :=
  let x := s.ctx c
  let u := x.queue q
  let base := u.tx - BitVec.ofNat 32 u.unacked.length
  let k := (ack - base).toNat
  let n := if k ≤ u.unacked.length then k else 0
  let l := (u.unacked.drop n).map fun e => if inSack e.pkt.psn sack then { e with got := true } else e
  let hi := (l.zipIdx.filter fun (e : Sent × Nat) => inSack e.1.pkt.psn sack).foldl (fun m e => max m (e.2 + 1)) 0
  let l := l.zipIdx.map fun (e : Sent × Nat) => if !e.1.got && decide (e.2 + 1 < hi) then { e.1 with sacked := e.1.sacked + 1 } else e.1
  let lost := l.filter fun e => 3 ≤ e.sacked
  let fresh := decide (0 < n) || (u.unacked.drop n).any fun e => !e.got && inSack e.pkt.psn sack
  let s := s.modCtx c fun x => x.modQueue q fun u => { u with
    unacked := l.map fun e => if 3 ≤ e.sacked then { e with sacked := 0 } else e
    backlog := [], timer := if fresh then x.rto else u.timer }
  (s.resend c q lost).fillWindow c q u.backlog

def execAck (c : Fin 16384) (q : Bool) (ack : BitVec 32) (sack : List (BitVec 32 × BitVec 32)) (s : State) : Out :=
  .next (if (s.ctx c).joined then s.ackUpdate c q ack sack else s)

/-- Ranges of consecutive numbers in ascending window order. -/
def sackRanges : List Nat → List (Nat × Nat)
  | [] => []
  | a :: l => match sackRanges l with
    | (b, e) :: r => if b = a + 1 then (a, e) :: r else (a, a) :: (b, e) :: r
    | [] => [(a, a)]

/-- The body of an ACK: up to four ranges of what came beyond ACKPSN, the lowest first (R281). -/
def Queue.ackBody (u : Queue) : List Byte :=
  let offs := (List.range 1024).filter fun d => u.marks.contains ((u.rx + BitVec.ofNat 32 d).toNat)
  let l := (sackRanges offs).take 4
  be l.length 2 ++ [0, 0] ++ l.flatMap fun r => be (u.rx + BitVec.ofNat 32 r.1).toNat 4 ++ be (u.rx + BitVec.ofNat 32 r.2).toNat 4

/-- The acknowledgement of a queue falls due (R281). -/
def execAckTimer (c : Fin 16384) (q : Bool) (s : State) : Out :=
  let u := (s.ctx c).queue q
  if (s.ctx c).joined ∧ 0 < u.due then
    .next ((s.sendBare c q 0x20 u.ackBody).modCtx c fun x => x.modQueue q fun u => { u with due := 0 })
  else .next s

/-- Rates in bits per second: least, the port's, and the step of a quiet interval (R284). -/
def rateMin : Nat := 1000000000
def rateMax : Nat := 1600000000000
def rateStep : Nat := 16000000000

/-- A packet exhausts its retry limit: the context fails (R275, R282). -/
def State.failCtx (s : State) (c : Nat) : State :=
  ((s.failCtxOps c St.remoteTimeout).modCtx c fun x => { x with
    st := .failed, expert := false, ctl := {}, bulk := {}, asm := [], fences := [], kaOut := false }).parkIfDrained

/-- The retransmit timer of a queue expires: what is neither covered nor in a SACK range is sent again with a doubled
timer, and the rate halves; or the context fails at the retry limit (R282, R284). -/
def execRetransmitTimeout (c : Fin 16384) (q : Bool) (s : State) : Out :=
  let x := s.ctx c
  let u := x.queue q
  let due := u.unacked.filter fun e => !e.got
  if !x.joined ∨ due.isEmpty then .next s
  else if due.any fun e => decide (x.retry ≤ e.expiries + 1) then .next (s.failCtx c)
  else
    let s := s.modCtx c fun x => { x.modQueue q fun u => { u with
      unacked := u.unacked.map fun e => if e.got then e else { e with expiries := e.expiries + 1, sacked := 0 }
      timer := min 8000 (2 * u.timer) } with rate := max rateMin (x.rate / 2), cutSeen := true }
    .next (s.resend c q due)

/-! ### Pacing (R283, R284) -/

def execCnp (c : Fin 16384) (s : State) : Out :=
  .next (if (s.ctx c).joined then s.modCtx c fun x =>
      if x.cnpSeen then x else { x with rate := max rateMin (x.rate * 7 / 8), cnpSeen := true }
    else s)

/-- 50 µs pass on a context. -/
def execRateTick (c : Fin 16384) (s : State) : Out :=
  .next (if (s.ctx c).joined then s.modCtx c fun x => { x with
      rate := if x.cnpSeen || x.cutSeen then x.rate else min rateMax (x.rate + rateStep)
      cnpSeen := false, cutSeen := false, ctl := { x.ctl with cnpSent := false }, bulk := { x.bulk with cnpSent := false } }
    else s)

/-! ### Keepalives (R286) -/

def State.sendKeepalive (s : State) (c : Nat) : State :=
  s.send c true (onePacket 0x30 0 (be (coarseTime (s.ctx c).secure s.tsc) 8))

/-- A KEEPALIVE of the host: the answer to the device's own, or one to answer. -/
def State.keepaliveIn (s : State) (c : Nat) : State :=
  if !(s.ctx c).joined then s
  else if (s.ctx c).kaOut then s.modCtx c fun x => { x with kaOut := false }
  else s.sendKeepalive c

def execKeepalive (c : Fin 16384) (s : State) : Out := .next (s.keepaliveIn c)

def execKeepaliveTimer (c : Fin 16384) (s : State) : Out :=
  if (s.ctx c).st = .open_ then
    .next ((s.sendKeepalive c).modCtx c fun x => { x with kaOut := true })
  else .next s

/-! ### The port (R287, R288) -/

/-- The values of A010.02 to A010.08 as they stand (R287). -/
def State.trainedCfg (s : State) : Tab Nat :=
  [2, 3, 4, 5, 6, 7, 8].map fun sub =>
    match odRow 0xA010 sub with
    | some r => (sub, s.odVal (0xA01000 + sub) (odDefault r) + 1)
    | none => (sub, 1)

/-- The port is DOWN, trains, or comes UP; contexts keep their states. The die must be out of reset, and not Parked. After a
lane fault the port is DOWN until the module is replaced (R21). -/
def execPortStateChange (e : PortEvent) (s : State) : Out :=
  if e = .laneFault then .next { s with mod := { s.mod with portBad := true }, port := { s.port with port := .down } }
  else if s.boot = .held ∨ s.boot = .dead ∨ s.power.sleep = .parked ∨ s.mod.portBad then .next s
  else match e with
    | .training => .next { s with port := { s.port with port := .training, cfg := s.trainedCfg } }
    | .up => .next { s with port := { s.port with port := .up } }
    | .down | .laneFault => .next { s with port := { s.port with port := .down } }

end Sys2Proof.Machine
end

