-- ==== Sys2Proof/Machine/Fabric.lean ====
section
/-!
DEFINITION. The device fabric: training of groups and spare lanes, retirement and failover, timeouts, LINK_STATE and
POWER_CREDIT (R289 to R308, R356, R383 to R385). In this model group 8 + k is spare lane k; group 0 is the spare group
as a whole (R290).
-/

namespace Sys2Proof.Machine

/-! ### States of groups (R301, R307) -/

/-- Peer at the other end of a group or of a spare lane: d XOR its number (R290). -/
def State.groupPeer (s : State) (g : Nat) : Nat := Nat.xor s.mod.pos.val (g % 8)

/-- Each change of a group's state is announced to every peer (R300). -/
def State.announce (s : State) : State :=
  let words := (List.range 8).map s.groupWord
  (List.range 8).foldl (fun s p => s.control p 0x40 words) s

/-- Firmware declares a peer unreachable once its group and its spare lane are down (R299, R301); a digest round with a member
there is abandoned (R328). -/
def State.checkPeer (s : State) (p : Nat) : State :=
  if s.reachable p ∨ p = s.mod.pos.val then s
  else
    let s := (s.failPeer p).groupsLose p
    if s.members.any (memberDev · == p) then s.abandonRound else s

/-- State of a failed group: SPARED while the spare lane to its peer is up (R305, R307). -/
def State.failedState (s : State) (g : Nat) : GState := if g < 8 ∧ (s.group (8 + g)).st.up then .spared else .failed

/-- Flits from ACKSEQ on go out again (R294). -/
def State.replayPeer (s : State) (p : Nat) : State :=
  (s.peer p).replay.foldl (fun s e =>
    s.emit (.flit p (flitBytes e.2.1 e.2.2.1 e.1 (s.peer p).rx false none e.2.2.2))) s

/-- A group or a spare lane fails: its traffic moves to the spare lane, with the flits not yet acknowledged sent again;
or its peer is lost. The state word keeps the lanes and the version (R294, R301, R305, R307). -/
def State.groupFail (s : State) (g : Nat) : State :=
  let was := (s.group g).st
  let spared := s.failedState g = .spared
  let s := s.modGroup g fun l => { l with
    st := s.failedState g, failovers := if was.up && spared then l.failovers + 1 else l.failovers }
  let s := if 8 ≤ g ∧ (s.group (g - 8)).st = .spared then s.modGroup (g - 8) fun l => { l with st := .failed } else s
  let s := if spared then (s.modPeer (s.groupPeer g) fun x => { x with stuck := 0 }).replayPeer (s.groupPeer g) else s
  (s.checkPeer (s.groupPeer g)).announce

/-! ### Training (R303, R304, R356) -/

/-- SHA-256 of the owner public key; of 65 zero bytes while UNCLAIMED. -/
def State.ownerDigest (s : State) : BitVec 256 := BitVec.ofNat 256 (leNat (sha256 (natLE s.sec.ownerKey.toNat 65)))

/-- The peer passed authentication and has this device's owner (R298, R356). -/
def State.peerTrusted (s : State) (i : PeerIdent) : Bool :=
  i.certOk && i.sigOk && i.claimed && s.sec.claimed && i.ownerDigest == s.ownerDigest

/-- Number of lanes of a mask. -/
def laneCount (m : BitVec 8) : Nat := ((List.range 8).filter m.getLsbD).length

/-- Lanes whose pre-FEC symbol error ratios are above OD 9030.03, or were not measured (R303, R305). -/
def State.badLanes (s : State) (ratios : List (BitVec 32)) : List Nat :=
  let t := s.odVal 0x903003 0x38D1B717
  (List.range ratios.length).filter fun i =>
    let r := (ratios.getD i 0).toNat
    decide (t < r ∧ r ≤ 0x7F800000)

/-- This side's good-lane mask of phase 5: lanes measured whose ratio is not above OD 9030.03. -/
def State.goodLanes (s : State) (ratios : List (BitVec 32)) : BitVec 8 :=
  let bad := s.badLanes ratios
  BitVec.ofNat 8 (((List.range (min 8 ratios.length)).filter fun i => !bad.contains i).map (2 ^ ·)).sum

/-- Lanes of phase 5: the intersection of both sides' masks, and whether a group may not run on them: fewer than 7, or of a
spare lane its one lane. -/
def State.mapLanes (s : State) (g : Nat) (t : Training) : BitVec 8 × Bool :=
  let lanes := s.goodLanes t.ratios &&& t.theirs
  (lanes, if g < 8 then decide (laneCount lanes < 7) else !lanes.getLsbD 0)

/-- Outcome of phases 5 and 6: the state of the group, and its lanes in use. -/
def State.trained (s : State) (g : Nat) (t : Training) : GState × BitVec 8 :=
  let (lanes, bad) := s.mapLanes g t
  if bad then (s.failedState g, 0)
  else if t.ident.position.val ≠ s.groupPeer g then (.miswired, 0)
  else if t.ident.vmajHi < 1 ∨ 1 < t.ident.vmajLo then (.version, 0)
  else if !t.ident.certOk ∨ !t.ident.sigOk then (.authFailed, 0)
  else if g < 8 then (if laneCount lanes = 8 then .up8 else .up7, lanes) else (.up8, 1)

/-- What this device sends in phase 6: Stavuc major 1 only, minor 0, capability bits 0, its certificate, a fresh challenge, and
its IK's signature over the peer's challenge, its own position and owner-key digest (R303, R304, R356). -/
def State.ownIdent (s : State) (i : PeerIdent) : OwnIdent :=
  let digest := natLE s.ownerDigest.toNat 32
  let signed := sha256 (asciiBytes "T8-STAVUC-1" ++ natLE i.challenge.toNat 32 ++ [BitVec.ofNat 8 s.mod.pos.val] ++ digest)
  { position := s.mod.pos.val, stepping := 0x00B0, firmware := s.fw.running.sgf.version, vmajHi := 1, vmin := 0, vmajLo := 1
    caps := 0, cert := natLE (Config.fuse 0x101002) 2048, challenge := BitVec.ofNat 256 (Config.drbg s.free)
    ownerDigest := s.ownerDigest, proof := bigBytes (Config.ecdsaSign (bigNat signed)) 64 }

/-- The identification goes out on a group. -/
def State.sendIdent (s : State) (g : Nat) (i : PeerIdent) : State :=
  { s with free := s.free + 1 }.emit (.ident g (s.ownIdent i))

/-- What the log holds of a group that does not come up (R304). -/
def State.logTraining (s : State) (g : Nat) (t : Training) : State :=
  match (s.trained g t).1 with
  | .miswired => s.emit (.log none .firmware [g, s.groupPeer g, t.ident.position.val])
  | .version => s.emit (.log none .firmware [g, St.versionUnsupported.toNat])
  | .authFailed => s.emit (.log none .firmware [g, t.ident.position.val])
  | _ => s

/-- Cone holds no current message from some device: a positive shift drops to 0 at once, any other is held (R302). -/
def State.dropShift (s : State) : State :=
  if s.mode.cur.four then s else { s with power := { s.power with shiftmW := min s.power.shiftmW 0, fresh := false } }

/-- Phase 7: SEQ spaces from 0 and full credits where the pair starts anew; kept while another path was up (R303). A peer that
becomes reachable has sent no POWER_CREDIT yet (R302). -/
def State.linkUp (s : State) (p : Nat) (trusted fresh : Bool) : State :=
  if fresh then
    (s.modPeer p fun x => { x with
      seq := 0, rx := 0, replay := [], stuck := 0, stream := [], out := [], ctlq := [], held := [], slot := 0
      credits := creditsFull s.mode.cur.four, auth := trusted, credit := none, stale := true }).dropShift
  else (s.modPeer p fun x => { x with auth := trusted, stuck := 0 }).pumpPeer p

/-- The die is out of reset and not Parked: links may train. -/
def State.linksAlive (s : State) : Bool := s.boot != .held && s.boot != .dead && s.power.sleep != .parked

/-- The Ophel engine that carries a group: F0 groups 0 to 3 with the spare group, F1 groups 4 to 7 (R306). -/
def engineOf (g : Nat) : Nat := if 4 ≤ g ∧ g < 8 then 1 else 0

/-- A group or spare lane has completed phases of its training: the first ones, up to the last named. Spare lane 0 is a
loopback and has no peer (R290); nothing trains on an engine that has failed (R306). -/
def execGroupTraining (g : Fin 16) (t : Training) (s : State) : Out :=
  let l := s.group g
  let early := t.phase.val < 7 && !(5 ≤ t.phase.val && (s.mapLanes g t).2)
  if g.val = 0 ∨ !s.linksAlive ∨ (l.st ≠ .training ∧ l.st ≠ .dark) ∨ s.mod.engineBad.contains (engineOf g) then .next s
  else
  let s := if g.val ≠ 8 ∧ l.phase < 6 ∧ 6 ≤ t.phase.val ∧ !(s.mapLanes g t).2 then s.sendIdent g t.ident else s
  if early then .next (s.modGroup g fun l => { l with st := .training, phase := t.phase })
  else if g.val = 8 then
    let ok := !s.test.loopBad && (s.goodLanes t.ratios).getLsbD 0
    .next (s.modGroup 8 fun l => { l with st := if ok then .up8 else .failed, lanes := if ok then 1 else 0 }).announce
  else
    let p := s.groupPeer g
    let fresh := !s.reachable p
    let (st, lanes) := s.trained g t
    let s := (s.logTraining g t).modGroup g fun l => { l with
      st := st, lanes := lanes, ver := if st.up then 0x10 else 0, caps := 0, phase := if st.up then 7 else 0, attempts := 0 }
    let s := if 8 ≤ g.val ∧ st.up ∧ (s.group (g.val - 8)).st = .failed then
        s.modGroup (g.val - 8) fun l => { l with st := .spared } else s
    let s := if st.up then s.linkUp p (s.peerTrusted t.ident) fresh else s.checkPeer p
    .next s.announce

/-- A phase exceeds its time: phase 1 again, or FAILED after the third attempt (R303). Without light from its position
the group is DARK (R291). -/
def execTrainingPhaseTimeout (g : Fin 16) (light : Bool) (s : State) : Out :=
  let l := s.group g
  if g.val = 0 ∨ l.st ≠ .training then .next s
  else if !light then .next (s.modGroup g fun l => { l with st := .dark, lanes := 0, phase := 0, attempts := 0 }).announce
  else if l.attempts + 1 < 3 then .next (s.modGroup g fun l => { l with attempts := l.attempts + 1, phase := 0 })
  else .next ((s.modGroup g fun l => { l with attempts := 0, phase := 0 }).groupFail g)

/-- A group goes back to TRAINING. -/
def State.retrain (s : State) (g : Nat) : State :=
  s.modGroup g fun l => { l with st := .training, lanes := 0, phase := 0, attempts := 0 }

/-- The group restore interval of OD 9030.04 passes after a failure; 0 means never (R303, R307). -/
def execGroupRestoreTimer (g : Fin 16) (s : State) : Out :=
  if ((s.group g).st = .failed ∨ (s.group g).st = .spared) ∧ s.odVal 0x903004 10000 ≠ 0 ∧ s.linksAlive ∧ g.val ≠ 0 then
    .next (s.retrain g).announce
  else .next s

/-- OD 9030.05: traffic moves to the spare lane first; a group that carries traffic and whose spare lane is down is
refused (R308). Group 0 retrains every spare lane, none of which may carry a failed group's traffic. -/
def State.odRetrain (s : State) (g : Nat) : State × Status :=
  let lanes := if g = 0 then (List.range 8).map (· + 8) else [g]
  let busy := if g = 0 then (List.range 8).any fun k => (s.group k).st == .spared
    else (s.group g).st.up && !(s.group (8 + g)).st.up
  if busy then (s, St.odBusy)
  else
    let s := lanes.foldl State.retrain s
    ((lanes.foldl (fun s g => s.checkPeer (s.groupPeer g)) s).announce, St.ok)

def execRetrainGroup (q : OdReq) (s : State) : Out :=
  .next (s.odCommand q (· == 0x903005) fun s _ v => s.odRetrain v)

/-! ### Lanes (R305) -/

/-- Lanes of a group stop: with one lane lost of eight the group runs on seven and replays; with another it fails. -/
def State.loseLanes (s : State) (g : Nat) (lost : List Nat) : State :=
  let l := s.group g
  let n := (lost.filter fun i => l.lanes.getLsbD i).length
  let m := lost.foldl (fun (m : BitVec 8) i => m &&& ~~~ BitVec.ofNat 8 (2 ^ i)) l.lanes
  if !l.st.up ∨ n = 0 then s
  else if l.st = .up8 ∧ n = 1 ∧ g < 8 then
    ((s.modGroup g fun l => { l with st := .up7, lanes := m, retirements := l.retirements + 1 }).replayPeer (s.groupPeer g)).announce
  else ((s.modGroup g fun l => { l with lanes := m, retirements := l.retirements + n }).groupFail g)

/-- A 1 ms window ends; `ratios` are the pre-FEC symbol error ratios of the lanes, as FP32. -/
def execLaneErrorWindow (g : Fin 16) (ratios : List (BitVec 32)) (s : State) : Out :=
  .next (s.loseLanes g (s.badLanes (ratios.take 8)))

def execLaneLockLoss (g : Fin 16) (lane : Fin 8) (s : State) : Out := .next (s.loseLanes g [lane.val])

/-- Groups and spare lanes that an Ophel engine carries (R306). -/
def engineGroups (e : Nat) : List Nat := (List.range 16).filter fun g => g ≠ 0 && engineOf g == e

/-- A fault of an Ophel engine takes down what it carries, until the module is replaced; its spare lanes go first, so that no
group moves to one of them (R21, R306). -/
def State.engineFault (s : State) (e : Nat) : State :=
  let s := { s with mod := { s.mod with engineBad := if s.mod.engineBad.contains e then s.mod.engineBad else e :: s.mod.engineBad } }
  (engineGroups e).reverse.foldl (fun s g => if (s.group g).st = .dark then s else s.groupFail g) s

/-- The peer of a group is in reset or without power: the group drops to TRAINING (R308). -/
def State.peerReset (s : State) (g : Nat) : State := ((s.retrain g).checkPeer (s.groupPeer g)).announce

/-- A group's clock channel falls silent: lane sparing does not cover it (R292, R306, R308). -/
def execClockChannelLoss (e : ClockEvent) (s : State) : Out :=
  let g := e.group
  match e.why with
  | .channel => .next (if (s.group g).st.up then s.groupFail g else s)
  | .peerReset => .next (if (s.group g).st = .dark ∨ g.val = 0 ∨ g.val = 8 then s else s.peerReset g)
  | .engine => .next (s.engineFault (engineOf g))

/-! ### Operations and messages (R299, R300) -/

/-- No response within OD 9030.01. -/
def execFabricOpTimeout (op : Nat) (s : State) : Out :=
  .next (if s.fabric.ops.any (·.1 = op) then s.answerOp op (failure St.remoteTimeout) true else s)

/-- What a peer's LINK_STATE says of the group between the two: lanes that the peer has retired are retired here too, so that
both ends run on the lanes that are left, and a group that has failed there has failed (R305). -/
def State.followPeer (s : State) (g : Nat) (w : BitVec 32) : State :=
  let st := bits w.toNat 31 28
  if st = 3 then s.loseLanes g ((List.range 8).filter fun i => !bit w.toNat (8 + i))
  else if (st = 4 ∨ st = 5) ∧ (s.group g).st.up then s.groupFail g
  else s

/-- LINK_STATE: a peer's group states, group g at index g (R300). -/
def execLinkState (peer : Fin 8) (words : List (BitVec 32)) (s : State) : Out :=
  let g := s.groupTo peer
  .next (if s.reachable peer then (s.modPeer peer fun x => { x with links := words }).followPeer g (words.getD g 0) else s)

/-! ### Power credit (R302, R383, R384) -/

def execPowerCredit (peer : Fin 8) (c : Credit) (s : State) : Out :=
  .next (if s.reachable peer ∧ !s.mode.cur.four then s.modPeer peer fun x => { x with credit := some c, stale := false } else s)

/-- The latest message of a present peer is older than 300 µs: a positive shift drops to 0, any other is held. -/
def execPowerCreditStale (peer : Fin 8) (s : State) : Out :=
  if s.mode.cur.four then .next s
  else
    .next (s.modPeer peer fun x => { x with stale := true }).dropShift

/-- This device's base cap in mW: OD 3030.02, which the example of R385 calls 1,500 W. -/
def State.basecap (s : State) : Int := 1000 * s.odVal 0x303002 1500

/-- Devices present to Cone beside this one, with their latest messages. -/
def State.presentCredits (s : State) : List (Nat × Option Credit) :=
  ((List.range 8).filter s.reachable).map fun p => (p, if (s.peer p).stale then none else (s.peer p).credit)

/-- Five rounds' rise of a device with this base cap, rounded up (R383). -/
def rise5 (cap : Int) : Int := (cap + 79) / 80

/-- Target of device d in mW and its claim limit (R384). `l`: the peers' messages; the device's own values beside. Divisions
round toward less power. -/
def shiftTarget (d : Nat) (cap : Int) (barriers : Nat) (wait : Nat) (l : List (Nat × Credit)) : Int × Int :=
  let n : Int := l.length + 1
  let all := (d, barriers, wait, cap) :: l.map fun e => (e.1, e.2.barriers.toNat, e.2.waitns.toNat, (e.2.capmW : Int))
  let best := (all.filter fun e => 0 < e.2.1).foldl (fun (b : Option (Nat × Nat × Nat × Int)) e => match b with
    | none => some e
    | some c => if e.2.2.1 < c.2.2.1 ∨ (e.2.2.1 = c.2.2.1 ∧ e.1 < c.1) then some e else some c) none
  let pool : Int := (l.map fun e => max 0 (-e.2.shiftmW - rise5 e.2.capmW)).foldl (· + ·) 0
  let k : Int := 1 + (l.filter fun e => decide (-(rise5 e.2.capmW) < e.2.shiftmW)).length
  let limit := min (15 * cap / 100) (pool / k)
  match best with
  | none => (0, limit)
  | some c =>
    if n ≤ 1 then (0, limit)
    else if c.1 = d then (15 * cap / 100, limit)
    else (-(min (15 * cap / 100) (-((-(15 * c.2.2.2)) / (100 * (n - 1))) + rise5 cap)), limit)

/-- The shift after a round: down at once, up by at most ρ and above zero only to the claim limit. -/
def shiftMove (s ρ target limit : Int) : Int :=
  let t := if target ≤ s then target else min target (s + ρ)
  if 0 < t then min t limit else t

/-- A round of 100 µs of the device's own counter; `barriers` and `waitns` are its own values of the round. -/
def execPowerRound (barriers : BitVec 32) (waitns : BitVec 64) (s : State) : Out :=
  if s.mode.cur.four ∨ !s.linksAlive then .next s else
  let on := s.odVal 0x303201 1 = 1
  let l := s.presentCredits
  let msgs := l.filterMap fun e => e.2.map fun c => (e.1, c)
  let current := l.length = msgs.length
  let b := if on then barriers.toNat else 0
  let w := s.power
  let (t, limit) := shiftTarget s.mod.pos.val s.basecap b waitns.toNat msgs
  let shift := if !on then 0
    else if !current then min w.shiftmW 0
    else if !w.fresh then w.shiftmW
    else shiftMove w.shiftmW (s.basecap / 400) t limit
  let s := { s with power := { w with shiftmW := shift, fresh := current, round := w.round + 1 } }
  let fp (m : Int) : Nat := f32Enc ((Q.ofInt m).div (Q.ofInt 1000)) false
  .next (((List.range 8).filter s.reachable).foldl (fun s p => s.control p 0x30
    [w.round.toNat * 2 ^ 32 + b, fp s.basecap * 2 ^ 32 + fp shift, waitns.toNat]) s)

end Sys2Proof.Machine
end

