-- ==== Sys2Proof/Machine/Scrub.lean ====
section
/-!
DEFINITION. Resets and scrubs of cores, shelves and partitions (R106, R172, R206, R359, R426).
-/

namespace Sys2Proof.Machine

/-- A core reset or a scrub: the core's contents go, its repair map is empty; its use stays (R49, R359). -/
def Core.wipe (k : Core) : Core := { use := k.use }

/-- Failed physical rows of an array in the repair record, oldest first. -/
def State.failedRows (s : State) (p a : Nat) : List Nat :=
  (s.test.rows.filter fun e => e.1 == p && e.2.1 == a).map (·.2.2)

/-- The repair map that the record gives an array: its failed logical rows, in order, in those of its two spare rows, 64
and 65, that have not failed (R56). -/
def State.arrayMap (s : State) (p a : Nat) : List RepairEntry :=
  let l := s.failedRows p a
  let spares := [0, 1].filter fun i => !l.contains (64 + i)
  ((l.filter (· < 64)).zip spares).map fun e => ⟨a, e.1, e.2⟩

def State.repairMap (s : State) (p : Nat) : List RepairEntry := (List.range 4).flatMap (s.arrayMap p)

/-- Firmware reapplies a core's repair map from the repair record (R358, R382, R394, R427). -/
def State.applyMap (s : State) (p : Nat) : State := s.modCore p fun k => { k with repair := s.repairMap p }

/-- The maps of every core of a shelf that is not retired. -/
def State.applyMaps (s : State) (sh : Nat) : State :=
  (List.range 9).foldl (fun s q => if (s.core (9 * sh + q)).use = .retired then s else s.applyMap (9 * sh + q)) s

/-- The same for every shelf of a partition, once its shelves are reinitialised (R358, R382). -/
def State.applyPart (s : State) (p : Nat) : State := (s.shelvesOf p).foldl State.applyMaps s

/-- A trim core after a reset; the TRF image that it runs is its shelf's (R424). -/
def Trim.wipe (t : Trim) : Trim := { off := t.off }

/-- Reset every core of a shelf, spare included. -/
def State.wipeCores (s : State) (sh : Nat) : State :=
  (List.range 9).foldl (fun s p => s.modCore (9 * sh + p) Core.wipe) s

/-- Answers to operations of a shelf's trim cores are dropped when they reset (R151). -/
def State.dropOps (s : State) (sh : Nat) : State :=
  { s with ops := s.ops.filter fun o => match o.who with
      | .trim h _ _ => h ≠ sh
      | _ => true }

/-- A shelf reset or scrub: cores, SRAM, trim cores and Churn unit (R206, R359, R426). -/
def State.wipeShelf (s : State) (sh : Nat) : State :=
  ((s.wipeCores sh).dropOps sh).modShelf sh fun h =>
    { h with
      sram := [], churnFlags := 0, churnBuf := [], churnDropped := [], serving := false, awaiting := []
      trims := (List.range 4).foldl (fun t k => tabMod {} t k Trim.wipe) h.trims }

/-- HBM range of a partition's user area (R311, R359). -/
def State.userArea (s : State) (p : Nat) : Nat × Nat :=
  if s.mode.cur.four then (p * s.quarter, s.quarter) else (0, s.sysBase)

/-- Slots of a partition: first and number (R231). -/
def State.slotRange (s : State) (p : Nat) : Nat × Nat := if s.mode.cur.four then (4096 * p, 4096) else (0, 16384)

/-- Zero a partition's directory range, cache lines and waits (R164, R359). -/
def State.wipeDirectory (s : State) (p : Nat) : State :=
  let d := s.dir
  let mine (i : Nat) := s.inRange p i
  let (lo, n) := if s.mode.cur.four then (4096 * p, 4096) else (0, 16384)
  { s with dir := { d with
    entries := tabClearIf d.entries mine
    lines := d.lines.filter fun l => l.num < lo || lo + n ≤ l.num
    lineWaits := d.lineWaits.filter fun w => match w with
      | .ref i => s.slotPart i ≠ p
      | .cmd c => c.part.val ≠ p
      | .fill k _ => s.partOf (k / 8) ≠ p
    waits := d.waits.filter fun w => !mine w.didx
    builds := d.builds.filter fun w => !mine w.didx
    loads := d.loads.filter fun l => !mine l.didx
    alloc := d.alloc.filter fun a => !mine a.2.2 } }

/-- Zero a partition's slots and their status words; every slot is FREE at generation 1 (R233, R359). -/
def State.wipeSlots (s : State) (p : Nat) : State :=
  let (lo, n) := s.slotRange p
  let s := s.hbmZero (s.slotOff lo) (256 * n)
  { s with work := { s.work with
    slots := tabClear s.work.slots lo n
    jobs := s.work.jobs.filter fun j => j.slot < lo || lo + n ≤ j.slot
    groups := if s.mode.cur.four then s.work.groups.filter fun g => ghPart g.handle ≠ p else [] } }

/-- Close a partition's contexts without exchange: state dropped, operations into them gone (R275). -/
def State.wipeContexts (s : State) (p : Nat) : State :=
  let mine (c : Nat) := !s.mode.cur.four || c / 4096 == p
  { s with
    port := { s.port with ctxs := tabClearIf s.port.ctxs mine }
    ops := s.ops.filter fun o => !(gaSpace o.remote == 15 && mine (hostCtx o.remote)) }

/-- Region-table entries of a partition become invalid (R314, R359). -/
def State.wipeRegions (s : State) (p : Nat) : State :=
  { s with regions :=
      if s.mode.cur.four then tabClear s.regions (16 + 60 * p) 60 else tabClearIf s.regions (16 ≤ ·) }

/-- A partition's statistics bank (R98, R359). -/
def State.wipeStats (s : State) (p : Nat) : State :=
  let t := s.stats
  { s with stats := {
    drainMon := tabClear t.drainMon (4096 * p) 4096, emitMon := tabClear t.emitMon (4096 * p) 4096
    skim := tabClear t.skim (16 * 4096 * p) (16 * 4096), snap := tabDel t.snap p } }

/-- The scrub of a partition (R359). -/
def State.scrubPart (s : State) (p : Nat) : State :=
  let (lo, n) := s.userArea p
  let s := (s.shelvesOf p).foldl State.wipeShelf (s.hbmZero lo n)
  ((((s.wipeDirectory p).wipeSlots p).wipeContexts p).wipeRegions p).wipeStats p

/-- The partition's subindices of 5010, 5011, 5030 and 5031 return to their defaults (R358, R418). -/
def State.wipePartOd (s : State) (p : Nat) : State :=
  let keys := [0x501001 + p, 0x501101 + p, 0x503001 + p] ++ (List.range 4).map fun k => 0x503101 + 4 * p + k
  { s with od := keys.foldl tabDel s.od }

/-- Live slots of a partition. -/
def State.liveSlots (s : State) (p : Nat) : List Nat :=
  (s.work.slots.filter fun e => e.2.live && s.slotPart e.1 == p).map (·.1)

/-- A part has ended here with a status of its own: its leader hears FAIL, or sends DISCARD where this device leads, and the
group record closes (R243, R244). -/
def State.tellGroup (s : State) (h : BitVec 64) (part : Nat) (st : Status) : State :=
  if ghLeader h = s.mod.pos.val then
    match s.grp h with
    | none => s
    | some g => ((s.devicesOf g).foldl (fun s d => s.groupMsg h d 0x14 [part, st.toNat, g.tokens]) s).dropGrp h
  else s.groupMsg h (ghLeader h) 0x12 [part, st.toNat]

/-- Every work of a partition ends with a status, by the discard sequence of R247 (R249, R358), and the groups of its parts
fail (R244). -/
def State.endAll (s : State) (p : Nat) (st : Status) : State :=
  let l := s.liveSlots p
  let parts := (l.map s.wk).filter fun w => w.group ≠ 0
  parts.foldl (fun s w => s.tellGroup w.group w.part st) (l.foldl (fun s i => s.stopEnd i st) s)

/-- Issue at once the records of a partition's works whose status is fixed (R358). -/
def State.flushRecords (s : State) (p : Nat) : State :=
  let l := (s.work.slots.filter fun e => e.2.st = .ending && s.slotPart e.1 == p).map (·.1)
  l.foldl (fun s i => (s.freeSlot i).issueRecord i (s.wk i) (s.wk i).gen.toNat (s.wk i).status) s

/-! ### TRF images of the shelves (R424, R425) -/

def State.setTrf (s : State) (sh : Nat) (new : Bool) : State :=
  let b : BitVec 16 := 1 <<< sh
  { s with fw := { s.fw with trfsh := if new then s.fw.trfsh ||| b else s.fw.trfsh &&& ~~~b } }

/-- The bank of a successful update is the active one, and the update is IDLE with result OK. -/
def State.updateDone (s : State) : State :=
  { s with fw := { s.fw with activeB := !s.fw.activeB, ust := .idle, result := St.ok, pend := none, trfsh := 0 } }

/-- A rollout ends when every shelf runs the new image, a revert when none does. -/
def State.settleTrf (s : State) : State :=
  if s.fw.ust = .rollout ∧ s.fw.trfsh = 0xFFFF then
    match s.fw.pend with
    | some i => { s with fw := { s.fw with running := { s.fw.running with trf := i } } }.updateDone
    | none => s
  else if s.fw.ust = .reverting ∧ s.fw.trfsh = 0 then
    { s with fw := { s.fw with ust := .failed, pend := none } }
  else s

/-- The shelves of a reset partition reload trim firmware: the pending image during a rollout, else the running one
(R358, R366). -/
def State.reloadTrf (s : State) (p : Nat) : State :=
  ((s.shelvesOf p).foldl (fun s sh => s.setTrf sh (s.fw.ust = .rollout)) s).settleTrf

/-- Partitions that exist: four, or P0 alone (R20). -/
def State.parts (s : State) : List Nat := if s.mode.cur.four then [0, 1, 2, 3] else [0]

end Sys2Proof.Machine
end

