-- ==== Sys2Proof/Machine/Spare.lean ====
section
/-!
DEFINITION. Core retirement and the handing of a logical number to the spare (R75, R76, R132, R151, R401, R403).
-/

namespace Sys2Proof.Machine

/-- The physical core of a shelf in retention that a logical number may move to. -/
def State.spareOf (s : State) (sh : Nat) : Option Nat :=
  (List.range 9).find? fun q => (s.core (9 * sh + q)).use = .retention && !(s.shelf sh).map.contains q

/-- The job state of R75 step 3, copied into a core that wakes with its own repair map and nothing else. STEPF is copied
where the old core answers. -/
def Core.takeJob (new old : Core) (answers : Bool) : Core :=
  { new.wipe with
    use := .active
    repair := new.repair
    maskTab := old.maskTab
    scale := { rowScale := old.scale.rowScale, tokScale := old.scale.tokScale, seed := old.scale.seed
               seedHeld := old.scale.seedHeld, loads := old.scale.loads }
    stepf := if answers then old.stepf else 0 }

/-- Firmware empties the summary ports of a shelf (R132). -/
def State.flushPorts (s : State) (sh : Nat) : State :=
  (List.range 4).foldl (fun s k => s.modTrim sh k fun t => { t with port := [], coming := [] }) s

/-- The 8,192 entries of a maxima file, rows before tokens. -/
def Core.maxima (k : Core) : List Byte :=
  (tabGetList 0 k.scale.rowMax 0 4096 ++ tabGetList 0 k.scale.tokMax 0 4096).flatMap fun v => natLE v.toNat 4

/-- Steps 2 to 4 of R75: the job state of logical core c goes to physical core q, its maxima to SRAM at `dst` where the
old core answers, and the map changes. Loads and a seed that the old core held land at once: the new core has no drain. -/
def State.handover (s : State) (sh c q : Nat) (answers : Bool) (dst : Nat) : State :=
  match s.phys sh c with
  | none => s
  | some p =>
    let old := s.core p
    let s := if s.lead sh = some c then s.flushPorts sh else s
    let s := if answers then s.sramWrite sh dst old.maxima else s
    let (new, go) := ((s.core (9 * sh + q)).takeJob old answers).releaseLoads
    let new := match new.scale.seedHeld with
      | some (v, _, _) => { new with scale := { new.scale with seed := v, seedHeld := none } }
      | none => new
    let s := s.modCore (9 * sh + q) fun _ => new
    let s := go.foldl (fun s l => s.modTrim sh l.trim (·.retire l.rd 0)) s
    let s := match old.scale.seedHeld with
      | some (_, k, rd) => s.modTrim sh k (·.retire rd 0)
      | none => s
    s.modShelf sh fun h => { h with map := h.map.set c q }

/-- A logical number loses its core: its trim cores' held loads and seed end CORE_UNAVAILABLE (R76). -/
def State.uncover (s : State) (sh c : Nat) : State :=
  let k := s.lcore sh c
  let s := if s.lead sh = some c then s.flushPorts sh else s
  let s := k.scale.loads.foldl (fun s l => s.modTrim sh l.trim (·.retire l.rd (St.coreUnavailable.setWidth 64))) s
  let s := match k.scale.seedHeld with
    | some (_, t, rd) => s.modTrim sh t (·.retire rd (St.coreUnavailable.setWidth 64))
    | none => s
  s.modShelf sh fun h => { h with map := h.map.set c 15 }

/-- First word of a result entry or repair record entry (R398, R401). -/
def resultW0 (blk inst unit test res mem : Nat) : BitVec 64 :=
  BitVec.ofNat 64 (blk * 2 ^ 56 + inst * 2 ^ 50 + unit * 2 ^ 44 + test * 2 ^ 40 + res * 2 ^ 36 + mem * 2 ^ 24)

/-- An entry of the repair record, which holds 4,096. -/
def State.recordRepair (s : State) (w0 w1 : BitVec 64) : State :=
  { s with test := { s.test with repairs := (s.test.repairs ++ [(⟨w0, w1⟩ : Result)]).take 4096 } }

/-- A service-ending event (R405). -/
def State.serviceEnding (s : State) : State :=
  { s with test := { s.test with ending := s.test.ending + 1 } }

/-- A result entry of the in-service tests, newest first; 256 are kept (R398). -/
def State.recordService (s : State) (w0 w1 : BitVec 64) : State :=
  { s with test := { s.test with serviceResults := ((⟨w0, w1⟩ : Result) :: s.test.serviceResults).take 256 } }

/-- An in-service test is abandoned: RES 3 is recorded, its core is reset and may serve as the spare (R408). Before the
handover the core keeps its number and its contents. -/
def State.abandonTest (s : State) : State :=
  let x := s.test
  if x.st = .idle then s
  else
    let s := s.recordService (resultW0 1 x.shelf x.phys 1 3 0) 0
    let s := if x.st = .handover then s
      else (s.modCore (9 * x.shelf + x.phys) fun k => { k.wipe with use := .retention }).applyMap (9 * x.shelf + x.phys)
    { s with test := { s.test with st := .idle } }

/-- A retirement in the shelf under test abandons the test, whose core then takes the number (R408). -/
def State.testYields (s : State) (sh : Nat) : State :=
  if s.test.st ≠ .idle ∧ s.test.shelf = sh then s.abandonTest else s

/-- Retirement of the core behind a logical number (R75, R76): recorded before it takes effect, its contents abandoned,
the spare in its place, or none. -/
def State.retireCore (s : State) (sh c : Nat) (answers : Bool) (dst : Nat) : State :=
  match s.phys sh c with
  | none => s
  | some p =>
    let w0 := resultW0 1 sh (p % 9) 0 2 0
    let s := s.testYields sh
    let done (s : State) : State := s.modCore p fun k => { k.wipe with use := .retired }
    match s.spareOf sh with
    | some q =>
      let s := (s.recordRepair w0 (BitVec.ofNat 64 q)).handover sh c q answers dst
      let s := done s
      if answers then s else s.modShelf sh fun h => { h with awaiting := c :: h.awaiting }
    | none => (done ((s.recordRepair w0 0xF).uncover sh c)).serviceEnding

/-- A combine has reached a core: TALLY_ADDs have landed in one of its slots, or are on their way there from this device
(R85). -/
def State.combining (s : State) (sh c p : Nat) : Bool :=
  !(s.core p).tadds.isEmpty || s.ops.any fun o =>
    o.opc == 6 && o.answered.isNone && gaSpace o.remote == 3 && gaDev o.remote == s.mod.pos.val
      && bits (gaOff o.remote) 27 24 == sh && bits (gaOff o.remote) 23 21 == c

/-- A retirement in service: where a combine had reached the core, its owner part ends COMBINE_TARGET_LOST (R85): the work
named, or those whose code runs on the shelf (log 25). -/
def State.retireInService (s : State) (sh c : Nat) (answers : Bool) (dst : Nat) (combine : Option Nat) : State :=
  match s.phys sh c with
  | none => s
  | some p =>
    let lost := s.combining sh c p
    let s := s.retireCore sh c answers dst
    match combine with
    | some i => s.workFail i St.combineTargetLost
    | none => if lost then (s.worksOn sh).foldl (fun s i => s.workFail i St.combineTargetLost) s else s

/-- Firmware retires a core. `answers`: the retired core answers the reads of its STEPF and maxima; `dst`: where in the
shelf SRAM firmware stores the maxima; `combine`: the work whose reduction owner slot lay in that core (R85). -/
def execRetireCore (c : CoreRef) (answers : Bool) (dst : Fin 12288001) (combine : Option (Fin 16384)) (s : State) : Out :=
  .next (s.retireInService c.sh c.c answers dst (combine.map (·.val)))

/-- LOST in the step flag words of a partition's jobs (R198). -/
def State.flagLost (s : State) (p : Nat) : State :=
  let mark (j : Job) : Job := if j.part = p then { j with flags := j.flags ||| 0x100 } else j
  { s with work := { s.work with jobs := s.work.jobs.map mark } }

/-- The reads of a retired core have not returned within 2 µs: LOST is set (R75, R198). -/
def execMaximaReadTimeout (c : CoreRef) (s : State) : Out :=
  if !(s.shelf c.sh).awaiting.contains c.c.val then .next s else
  let s := s.modShelf c.sh fun h => { h with awaiting := h.awaiting.filter (· ≠ c.c.val) }
  .next (s.flagLost (s.partOf c.sh))

end Sys2Proof.Machine
end

