-- ==== Sys2Proof/Machine/Memory.lean ====
section
/-!
DEFINITION. HBM upkeep: patrol reads, row remaps, region-table entries, and the commands of the replica check (R313 to
R316, R321 to R324, R327 to R330).
-/

namespace Sys2Proof.Machine

/-! ### The device code (R317 to R319) -/

/-- What a burst returns after on-die ECC: nothing wrong after a single-bit error; otherwise the wrong bits, and whether the
burst is flagged (R317). -/
def onDie (e : BurstError) : List Nat × Bool :=
  let l := e.bits.map (·.val)
  if l.length ≤ 1 then ([], false) else (l, e.found)

/-- The check byte of a burst that code ℓ uses: first check byte in burst 2 × (ℓ mod 8), second in the burst after it; the
four check bytes of a burst stand in ascending order of their codes (R318; the order is log 77's). -/
def checkCode (burst j : Nat) : Nat := burst / 2 + 8 * j

/-- Codes in which a wrong bit of a burst's data stands: byte ℓ of a data symbol belongs to code ℓ (R318). -/
def dataCode (bit : Nat) : Nat := bit / 8

/-- What the controller makes of a granule's errors: none seen, corrected, or uncorrectable (R319). -/
inductive Verdict where
  | clean
  | corrected
  | uncorrectable
deriving DecidableEq, Repr

/-- The bursts that return something wrong, each with its wrong bits and flag. -/
def returnedBursts (e : GranuleError) : List (Nat × List Nat × Bool) :=
  (e.bursts.map fun b => (b.burst.val, onDie b)).filter fun b => !b.2.1.isEmpty

/-- The codes of R318 that a burst's wrong bits touch. -/
def burstCodes (b : Nat × List Nat × Bool) : List Nat :=
  b.2.1.map fun i => if i < 256 then dataCode i else checkCode b.1 ((i - 256) / 8)

/-- R319: an error confined to the data bytes of one symbol is corrected, and so is one confined to one flagged burst, where
no code has more than two erasures; any other is taken as detected. DESIGN CHOICE, log 77. -/
def verdictOf (e : GranuleError) : Verdict :=
  match returnedBursts e with
  | [] => .clean
  | [b] => if b.2.2 || b.2.1.all (· < 256) then .corrected else .uncorrectable
  | _ => .uncorrectable

/-- Pseudo-channel of burst i of a granule at a stack address: 16h + i, h the low bit of the address divided by 512 (R318). -/
def burstChannel (sa i : Nat) : Nat := 16 * (sa / 512 % 2) + i

/-- Errors arise in a granule. -/
def State.granuleFault (s : State) (e : GranuleError) : State :=
  let pcs := (returnedBursts e).map fun b => burstChannel (s.stackOf (512 * e.granule)).2 b.1
  let x := s.ecc
  if s.hbmCap ≤ 512 * e.granule then s
  else match verdictOf e with
    | .clean => s
    | .corrected =>
      if x.bad.contains e.granule then s else { s with ecc := { x with errors := tabSet ([], 0) x.errors e.granule (pcs, e.row) } }
    | .uncorrectable =>
      { s with ecc := { x with
          errors := tabSet ([], 0) x.errors e.granule (pcs, e.row)
          bad := if x.bad.contains e.granule then x.bad else x.bad ++ [e.granule] } }

/-! ### Patrol (R322) -/

/-- Granules of a stack. -/
def State.stackGranules (s : State) : Nat := s.hbmCap / 12 / 512

/-- A granule that patrol corrected is written back, unless a write has reached it since (R322). -/
def State.writeBack (s : State) (g : Nat) : State := { s with ecc := { s.ecc with errors := tabDel s.ecc.errors g } }

/-- Patrol reads the next granule of a stack. `arisen`: errors that have arisen in any granules; every access meets them from
here on. `intervened`: a write has reached the granule since the patrol read, so that a write-back is dropped. -/
def execPatrolRead (h : Fin 12) (arisen : List GranuleError) (intervened : Bool) (s : State) : Out :=
  let s := arisen.foldl State.granuleFault s
  let n := tabGet 0 s.ecc.patrol h
  let o := s.granuleIn s.mode.cur.four h n
  let s := { s with ecc := { s.ecc with patrol := tabSet 0 s.ecc.patrol h ((n + 1) % s.stackGranules) } }
  if s.ecc.bad.contains (o / 512) then .next (s.eccEvent o)
  else if (s.ecc.errors.any fun e => e.1 == o / 512) then
    let s := s.countCorrected (o / 512)
    .next (if intervened then s else s.writeBack (o / 512))
  else .next s

/-! ### Row remaps (R323, R324) -/

/-- Corrected granules of a row within 24 h. -/
def State.rowHits (s : State) (h pc row : Nat) : Nat :=
  (s.ecc.hits.filter fun e => decide (s.tsc < e.1 + 86400000000000) && e.2 == (h, pc, row)).length

/-- The lowest spare row of a pseudo-channel that no remap entry uses (R323). -/
def State.freeSpare (s : State) (h pc : Nat) : Nat :=
  ((List.range 65).find? fun r => s.ecc.remaps.all fun e => !(e.1 == h && e.2.1 == pc && e.2.2.2 == r)).getD 0

/-- A row with 4 corrected granules within 24 h, or with an uncorrectable error, moves to a spare row of its
pseudo-channel, recorded first; with all 64 entries of the stack in use its repair alarm is raised. -/
def execRowRemap (h : Fin 12) (pc : Fin 32) (row : Nat) (s : State) : Out :=
  let key := (h.val, pc.val, row)
  let mapped := s.ecc.remaps.any fun e => (e.1, e.2.1, e.2.2.1) == key
  if mapped ∨ (s.rowHits h pc row < 4 ∧ !s.ecc.lostRows.contains key) then .next s
  else
    let n := (s.ecc.remaps.filter (·.1 = h.val)).length
    if 64 ≤ n then
      .next ({ s with ecc := { s.ecc with alarm := tabSet 0 s.ecc.alarm h 1 } }.emit (.log none .repairAlarm [h.val]))
    else
      let spare := s.freeSpare h pc
      let s := s.recordRepair (resultW0 7 h 0 0 1 0) (BitVec.ofNat 64 (pc.val * 2 ^ 32 + spare))
      .next ({ s with ecc := { s.ecc with
        remaps := s.ecc.remaps ++ [(h.val, pc.val, row, spare)], lostRows := s.ecc.lostRows.filter (· ≠ key) } }.emit
          (.log none .remap [h.val, pc.val, row, spare]))

/-! ### Region-table entries (R314, R316) -/

/-- Partition of a region-table entry of host software. -/
def State.entryPart (s : State) (e : Nat) : Nat := if s.mode.cur.four then (e - 16) / 60 else 0

/-- Two ranges of pages meet. -/
def pagesMeet (a n b m : Nat) : Bool := decide (a < b + m) && decide (b < a + n)

/-- What R314 lets an entry hold. -/
def State.regionOk (s : State) (e : Nat) (r : Region) : Bool :=
  let p := s.entryPart e
  let (lo, n) := s.userArea p
  decide (16 ≤ e) && decide (e < 256) && !r.baseRo && !(tabGet {} s.regions e).baseRo && r.owner == p
    && (!r.v || (decide (1 ≤ r.npg) && decide (lo ≤ 0x200000 * r.base)
      && decide (0x200000 * (r.base + r.npg) ≤ lo + n)
      && s.regions.all fun x => x.1 == e || !(x.2.v || s.sec.scrubs.contains x.1) || !pagesMeet r.base r.npg x.2.base x.2.npg))

/-- OD 4020.02: the entry that the session's Region select names. An entry under a region scrub is busy (R360). -/
def State.odRegion (s : State) (c v : Nat) : State × Status :=
  let e := (s.ctx c).regSel.toNat
  if s.sec.scrubs.contains e then (s, St.odBusy)
  else
    let r := Region.ofBytes v
    if s.regionOk e r then ({ s with regions := tabSet {} s.regions e r }, St.ok) else (s, St.odValueInvalid)

def execRegionEntry (q : OdReq) (s : State) : Out :=
  .next (s.odCommand q (· == 0x402002) fun s _ v => s.odRegion q.ctx v)

/-! ### Replica checks (R328, R329) -/

/-- The replica check interval passes. -/
def execReplicaCheck (s : State) : Out := .next s.digestRound

/-- A DIGEST message at the coordinator's device: a member's digest, the digest of a paired work's output, or the word that
a reset has restored a member. -/
def State.digestAtCoordinator (s : State) (u : DigestUse) (m k : Nat) (d : BitVec 256) (e : Nat) : State :=
  match u with
  | .round => s.takeDigest false m k d e
  | .refetched => s.takeDigest true m k d e
  | .restore => s.releaseMember m
  | .output utag slot gen => s.takeOutput ⟨utag, m, slot, gen, k, d⟩
  | .quarantine | .start => s

/-- A DIGEST message at a member's own device: an order of the coordinator. -/
def State.digestAtMember (s : State) (u : DigestUse) (m k : Nat) : State :=
  match u with
  | .quarantine => s.quarantine m k
  | .restore => if s.replica.refetch.contains (m, k) then s.restoreMember m k else s
  | .round | .refetched | .start | .output _ _ _ => s

/-- A DIGEST message (R328 to R330, log 38). -/
def execDigest (use : DigestUse) (member : Fin 32) (shard : Nat) (d : ShardDigest) (s : State) : Out :=
  let mine := memberDev member = s.mod.pos.val
  match s.coordinator with
  | none => .next s
  | some c =>
    if memberDev c = s.mod.pos.val then
      .next (if mine ∨ !s.members.contains member.val then s else s.digestAtCoordinator use member shard d.digest d.ecc)
    else if use = .start then .next (if mine then s.digestRound else s)
    else .next (if mine ∧ s.members.contains member.val then s.digestAtMember use member shard else s)

/-- Write a shard's bytes over its pieces, with the checks of R315 as firmware. -/
def State.putShard (s : State) (p : Nat) : List (Nat × Nat) → List Byte → State × Status
  | [], _ => (s, St.ok)
  | (a, n) :: l, bs =>
    match s.regionCheck (Init.firmware p) a n true with
    | some st => (s, st)
    | none =>
      let (s, st) := s.hbmStore a (bs.take n)
      if st ≠ 0 then (s, st) else s.putShard p l (bs.drop n)

/-- The shard that a member's GET from OD 7050.03 brings: shard k stands at 64 MiB × k from there. A GET within this device
reads it as it stands; another device's answer is `a`; SPACE 15 takes no GET (R262, R329). -/
def State.goldenShard (s : State) (p k n : Nat) (a : Answer) : State × Answer :=
  let src := BitVec.ofNat 64 (s.odVal 0x705003 0 + shardSize * k)
  if gaSpace src = 15 then (s, failure St.addressInvalid)
  else if gaDev src ≠ s.mod.pos.val then
    (s, if a.status = 0 ∧ a.data.length ≠ n then failure St.addressInvalid else a)
  else
    match s.place ⟨Init.firmware p, false⟩ 2 src n with
    | .error st => (s, failure st)
    | .ok pl => s.readPlace ⟨Init.firmware p, false⟩ pl n

/-- A quarantined member of this device has fetched a shard from the golden source: it is written, and its new digest
goes to the coordinator. A GET that failed, or a region that refuses the write, leaves the member quarantined. -/
def execReplicaRefetchDone (member : Fin 32) (shard : Nat) (a : Answer) (s : State) : Out :=
  let m := member.val
  let p := memberPart m
  let pieces := s.shardPieces p shard
  if !s.replica.refetch.contains (m, shard) ∨ memberDev m ≠ s.mod.pos.val then .next s
  else
    let (s, got) := s.goldenShard p shard (pieces.map (·.2)).sum a
    if got.status ≠ 0 then .next (s.logReplica m shard 2)
    else
      let (s, st) := s.putShard p pieces got.data
      .next (if st ≠ 0 then s.logReplica m shard 2 else s.sendDigest true m shard)

end Sys2Proof.Machine
end

