-- ==== Sys2Proof/Machine/Modes.lean ====
section
/-!
DEFINITION. Aborts by the object dictionary (R246) and mode changes (R250 to R254).
-/

namespace Sys2Proof.Machine

/-! ### Aborts (R246, R414) -/

/-- OD 2070.03: the slot in [45:32], the generation in [31:0]; an abort that matches no live work is ignored. A value
with a bit of [63:46] set is out of range (DEDUCED, log 24). -/
def State.odAbortWork (s : State) (c v : Nat) : State × Status :=
  let i := bits v 45 32
  let x := s.ctx c
  if bits v 63 46 ≠ 0 then (s, St.odValueInvalid)
  else if !x.secure ∧ s.mode.cur.four ∧ s.slotPart i ≠ x.part then (s, St.odAccessDenied)
  else if (s.wk i).live ∧ (s.wk i).gen.toNat = bits v 31 0 then (s.abortWork i, St.ok)
  else (s, St.ok)

def execAbortWork (q : OdReq) (s : State) : Out :=
  .next (s.odCommand q (· == 0x207003) fun s _ v => s.odAbortWork q.ctx v)

/-- OD 2070.04, on the leader device: every part of the group aborts; a handle of another leader, or of no group, is
ignored. -/
def State.odAbortGroup (s : State) (c v : Nat) : State × Status :=
  let h := BitVec.ofNat 64 v
  let x := s.ctx c
  if !x.secure ∧ s.mode.cur.four ∧ ghPart h ≠ x.part then (s, St.odAccessDenied)
  else if ghLeader h = s.mod.pos.val then (s.leaderAbort h, St.ok)
  else (s, St.ok)

def execAbortGroup (q : OdReq) (s : State) : Out :=
  .next (s.odCommand q (· == 0x207004) fun s _ v => s.odAbortGroup q.ctx v)

/-! ### A mode change on this device (R251 to R253) -/

/-- Ceiling of a power profile (R372). -/
def profileCeiling (p : Nat) : Nat :=
  match p with
  | 0 => 15
  | 1 => 10
  | _ => 5

/-- Islands above a new ceiling are lowered, frequency first (R370, R392). -/
def State.capSteps (s : State) (top : Nat) : State :=
  (List.range 4).foldl (fun s i => s.modIsland i fun d =>
    if d.step ≤ top then d
    else { d with step := top, clk := min d.clk top, mV := s.power.curve.getD top 0, slew := none }) s

/-- Step 1: units begin to quiesce. A digest round is abandoned (R328). -/
def State.modeBegin (s : State) (board : Bool) : State :=
  { s with mode := { s.mode with
    st := .transitioning, applied := 0, pend := s.mode.staged, board := board, ready := [], waiting := false
    committed := false, asked := [] } }.abandonRound

/-- Step 1 of a BOARD change, whose number goes with PREPARE (R254; the number is a DESIGN CHOICE, log 84). -/
def State.boardBegin (s : State) (change : BitVec 32) : State :=
  let s := s.modeBegin true
  { s with mode := { s.mode with change := change } }

/-- A change of layout moves the bytes of the user area, and the errors of its granules, to other offsets (R311). -/
def State.remapUser (s : State) (four : Bool) : State :=
  let old := s.mode.cur.four
  let moved (g : Nat) : Nat := if 512 * g < s.sysBase then s.remapOffset old four (512 * g) / 512 else g
  { s with
    hbm := s.hbm.foldl (fun m e =>
      tabSet 0 m (if e.1 < s.sysBase then s.remapOffset old four e.1 else e.1) e.2) []
    ecc := { s.ecc with
      bad := s.ecc.bad.map moved
      errors := s.ecc.errors.foldl (fun m e => tabSet ([], 0) m (moved e.1) e.2) [] } }

/-- The credit pools of a layout, full, at the epoch that changes it; flits in flight, and what the old layout's streams still
hold, complete as they are (R296, R308). -/
def State.refillCredits (s : State) (four : Bool) : State :=
  let peers := s.fabric.peers.map fun e =>
    (e.1, { e.2 with credits := (creditsFull four).foldl (fun t c => tabSet 0 t c.1 c.2) e.2.credits })
  { s with fabric := { s.fabric with peers := peers } }

/-- The commit of step 3: one epoch for every unit; a layout change goes on to its scrub, with the user area remapped, every
context of the layout's partitions closed and every statistics bank zero (R98, R253, R275, R311, R418). -/
def State.modeCommit (s : State) : State :=
  let m := s.mode
  let change := m.pend.four != m.cur.four
  let s := if change then
      { ((s.remapUser m.pend.four).parts.foldl State.wipeContexts (s.remapUser m.pend.four)).refillCredits m.pend.four with
        stats := {} }
    else s
  let s := { s with
    mode := { m with
      cur := m.pend, epoch := m.epoch + 1, result := St.ok, st := if change then .scrubbing else .stable
      waiting := false, committed := m.board, asked := []
      scrub := if change then (if m.pend.four then [0, 1, 2, 3] else [0]) else [] }
    power := { s.power with
      shiftmW := if change then 0 else s.power.shiftmW
      curve := (chunks 2 16 (natLE (s.odVal 0x306001 (leNat (s.power.curve.flatMap (natLE · 2)))) 32)).map leNat }
    odStore := tabSet 0 (tabSet 0 (tabSet 0 s.odStore 0x201001 (m.pend.four.toNat + 1)) 0x201101 (m.pend.drainFmt.toNat + 1))
      0x301001 (m.pend.profile + 1) }
  s.capSteps (profileCeiling m.pend.profile)

/-- Step 4: every unit resumes with the values it had. -/
def State.modeBack (s : State) : State :=
  { s with mode := { s.mode with
    st := .stable, pend := s.mode.cur, result := St.modeRolledBack, waiting := false, asked := [] } }

/-- Work is HELD or RUNNING somewhere that a new layout reshapes; every layout change reshapes every partition. -/
def State.workActive (s : State) : Bool := s.work.slots.any (·.2.live)

/-- The refusals of R252, R358 and R430. -/
def State.modeRefused (s : State) (board : Bool) : Option Status :=
  if s.mode.st ≠ .stable ∨ !s.sec.resetting.isEmpty ∨ [UState.switching, .rollout, .reverting].contains s.fw.ust then
    some St.modeBusy
  else if board ∧ s.mod.pos.val ≠ 0 then some St.modeNotLeader
  else if s.mode.staged.four ≠ s.mode.cur.four ∧ s.workActive then some St.modeWorkActive
  else if 6 < s.mode.staged.drainFmt.toNat ∨ 2 < s.mode.staged.profile then some St.odValueInvalid
  else none

/-- Devices of the board other than this one. -/
def State.boardPeers (s : State) : List Nat :=
  (List.range 8).filter fun p => p ≠ s.mod.pos.val && !s.absent p

/-- OD 2000.03 with a SCOPE in [1:0]; the other bits are reserved and ignored (R7). The result entry holds the status
of the last command (R252). -/
def State.odMode (s : State) (v scope : Nat) : State × Status :=
  let fail (st : Status) : State × Status := ({ s with mode := { s.mode with result := st } }, st)
  if v % 4 ≠ 1 ∧ v % 4 ≠ 2 then fail St.odValueInvalid
  else if v % 4 ≠ scope then (s, St.ok)
  else match s.modeRefused (scope == 2) with
    | some st => fail st
    | none =>
      if scope ≠ 2 then (s.modeBegin false, St.ok)
      else
        let n := s.mode.change + 1
        let s := s.boardBegin n
        (s.boardPeers.foldl (fun s p => s.control p 0x20 [n.toNat]) s, St.ok)

/-- A mode command of the scope that the row names; any other value goes to the row of its own scope. -/
def modeScope (q : OdReq) (scope : Nat) : Bool :=
  leNat q.value % 4 == scope || (scope == 1 && leNat q.value % 4 != 2)

def execModeCommandDevice (q : OdReq) (s : State) : Out :=
  .next (s.odCommand q (fun k => k == 0x200003 && modeScope q 1) fun s _ v => s.odMode v 1)

def execModeCommandBoard (q : OdReq) (s : State) : Out :=
  .next (s.odCommand q (fun k => k == 0x200003 && modeScope q 2) fun s _ v => s.odMode v 2)

/-- READY of every device of the board: COMMIT (R254). -/
def State.boardCommit (s : State) : State :=
  if s.mode.board ∧ s.mode.st = .transitioning ∧ s.mode.applied = 0xFFFFFF
      ∧ s.boardPeers.all (fun p => s.mode.ready.contains p) then
    (s.boardPeers.foldl (fun s p => s.control p 0x23 []) s).modeCommit
  else s

/-- D0 sends ROLLBACK and rolls back (R254). -/
def State.boardBack (s : State) : State := (s.boardPeers.foldl (fun s p => s.control p 0x24 []) s).modeBack

/-- A shelf is at a tile-program boundary of every core (R253). -/
def State.shelfIdle (s : State) (sh : Nat) : Bool :=
  (List.range 8).all fun c => (s.lcore sh c).tile.between

/-- A unit at its boundary loads the staged values and sets its bit; the last bit commits, or reports READY (R253,
R254). -/
def execUnitQuiesced (u : Fin 24) (s : State) : Out :=
  if s.mode.st ≠ .transitioning ∨ s.mode.waiting ∨ (u.val < 16 ∧ !s.shelfIdle u) then .next s else
  let ap := s.mode.applied ||| BitVec.ofNat 24 (2 ^ u.val)
  let s := { s with mode := { s.mode with applied := ap } }
  if ap ≠ 0xFFFFFF then .next s
  else if !s.mode.board then .next s.modeCommit
  else if s.mod.pos.val = 0 then .next s.boardCommit
  else .next ({ s with mode := { s.mode with waiting := true } }.control 0 0x21 [s.mod.pos.val])

/-- 1 ms has passed with a bit still clear: the change rolls back; a follower reports FAIL, D0 sends ROLLBACK (R253,
R254). -/
def execModeTimeout (s : State) : Out :=
  if s.mode.st ≠ .transitioning ∨ s.mode.applied = 0xFFFFFF then .next s
  else if !s.mode.board then .next s.modeBack
  else if s.mod.pos.val = 0 then .next s.boardBack
  else .next (s.modeBack.control 0 0x22 [s.mod.pos.val])

/-! ### Messages of a BOARD change (R254) -/

/-- PREPARE of a change from D0: steps 1 and 2, or FAIL at once where a change of this device would be refused. -/
def State.boardPrepare (s : State) (change : BitVec 32) : State :=
  if s.mod.pos.val = 0 then s
  else match s.modeRefused false with
    | some st => { s with mode := { s.mode with result := st } }.control 0 0x22 [s.mod.pos.val]
    | none => s.boardBegin change

/-- PREPARE of the change after the last that this device has taken part in; a PREPARE that a flit carries brings its
number (log 84). -/
def execModePrepare (s : State) : Out := .next (s.boardPrepare (s.mode.change + 1))

def execModeReady (from_ : Fin 8) (s : State) : Out :=
  if s.mod.pos.val = 0 ∧ s.mode.board ∧ s.mode.st = .transitioning then
    .next { s with mode := { s.mode with ready := from_.val :: s.mode.ready } }.boardCommit
  else .next s

def execModeFail (from_ : Fin 8) (s : State) : Out :=
  if s.mod.pos.val = 0 ∧ s.mode.board ∧ s.mode.st = .transitioning ∧ from_.val ≠ 0 then .next s.boardBack else .next s

def execModeCommit (s : State) : Out :=
  if s.mode.board ∧ s.mode.waiting then .next s.modeCommit else .next s

def execModeRollback (s : State) : Out :=
  if s.mode.board ∧ s.mode.st = .transitioning ∧ s.mod.pos.val ≠ 0 then .next s.modeBack else .next s

/-- A peer that holds no decision asks for it; the answer says whether this device has committed that change. -/
def execModeQuery (q : BoardQuery) (s : State) : Out :=
  .next (s.control q.from_ 0x26 [s.mod.pos.val, (s.mode.committed && s.mode.change == q.change).toNat])

def execModeAnswer (from_ : Fin 8) (committed : Bool) (s : State) : Out :=
  if !s.mode.waiting ∨ !s.mode.asked.contains from_.val then .next s
  else if committed then .next s.modeCommit
  else
    let asked := s.mode.asked.filter (· ≠ from_.val)
    let s := { s with mode := { s.mode with asked := asked } }
    .next (if asked.isEmpty then s.modeBack else s)

/-- No decision within 2 ms of READY: each reachable peer is asked; with none, the device rolls back. -/
def execModeDecisionTimeout (s : State) : Out :=
  if !s.mode.waiting then .next s else
  let l := (List.range 8).filter s.reachable
  if l.isEmpty then .next s.modeBack
  else .next (l.foldl (fun s p => s.control p 0x25 [s.mod.pos.val, s.mode.change.toNat])
    { s with mode := { s.mode with asked := l } })

def execBoardReadyTimeout (s : State) : Out :=
  if s.mod.pos.val = 0 ∧ s.mode.board ∧ s.mode.st = .transitioning then .next s.boardBack else .next s

/-! ### Scrubs (R253, R358, R359) -/

/-- The scrub of a partition completes: of a layout change, whose last scrub returns STATE to STABLE; or of a partition
reset, whose records are issued first and which returns the partition to service. -/
def execScrubComplete (part : Fin 4) (s : State) : Out :=
  let p := part.val
  if s.mode.st = .scrubbing ∧ s.mode.scrub.contains p then
    let s := (s.scrubPart p).applyPart p
    let left := s.mode.scrub.filter (· ≠ p)
    .next { s with mode := { s.mode with scrub := left, st := if left.isEmpty then .stable else .scrubbing } }
  else if s.sec.resetting.contains p then
    let s := ((((s.flushRecords p).scrubPart p).applyPart p).wipePartOd p).reloadTrf p
    let s := s.memberReset (4 * s.mod.pos.val + p)
    .next { s with
      sec := { s.sec with
        resetting := s.sec.resetting.filter (· ≠ p), presets := tabMod 0 s.sec.presets p (· + 1)
        scrubs := s.sec.scrubs.filter fun e => (tabGet {} s.regions e).npg ≠ 0 } }
  else .next s

end Sys2Proof.Machine
end

