-- ==== Sys2Proof/Machine/Repair.lean ====
section
/-!
DEFINITION. What firmware does with the findings of a test of a matrix core: repairs, retirements, result entries and
downtime (R396 to R401, R404, R405).
-/

namespace Sys2Proof.Machine

/-! ### Result entries (R398) -/

/-- Second word of a result entry. -/
def resultW1 (addr bit : Nat) : BitVec 64 := BitVec.ofNat 64 (addr * 2 ^ 32 + bit * 2 ^ 16)

/-- TEST, MEM, ADDR and BIT of a finding: 1 logic BIST, 2 memory BIST; arrays are memories 8 to 11, a row its address. -/
def findingPlace (f : TestFinding) : Nat × Nat × Nat × Nat :=
  match f with
  | .pass => (2, 0, 0, 0)
  | .logic => (1, 0, 0, 0)
  | .arrayRow a r => (2, 8 + a.val, r.val, 0)
  | .cell m w b => (2, m.val, w.toNat, b.toNat)
  | .unrepairable => (2, 0, 0, 0)

/-- The result entry of a finding on a physical core. -/
def coreResult (sh p : Nat) (f : TestFinding) (res : Nat) : Result :=
  let (t, m, a, b) := findingPlace f
  ⟨resultW0 1 sh p t res m, resultW1 a b⟩

/-! ### Repairs (R399, R401) -/

/-- A failing physical row of array a of core p, of which 64 and 65 are the spare rows, enters the record; the array can
still be repaired while it has no more than two (R56, R399). The answer carries what the record entry names: the spare row
that the row moves to, or, for a spare row, its own number. -/
def State.addRow (s : State) (p a row : Nat) : Option (State × Nat) :=
  let l := s.failedRows p a
  let s' : State := if l.contains row then s else { s with test := { s.test with rows := s.test.rows ++ [(p, a, row)] } }
  if 2 < (s'.failedRows p a).length then none
  else some (s', if 64 ≤ row then row - 64 else (((s'.arrayMap p a).find? (·.row = row)).map (·.spare)).getD 0)

/-- Spare columns in use of a macro. -/
def State.columnsUsed (s : State) (key : Nat) : Nat := tabGet 0 s.test.columns key

/-- A repair of a core memory, remembered with its address for the 30 days of R400. -/
def State.noteFix (s : State) (key addr : Nat) : State :=
  { s with test := { s.test with fixes := s.test.fixes ++ [(key, s.tsc, addr)] } }

/-- Repair a finding of physical core p of a shelf, recorded before it takes effect; none where R399 has no repair. -/
def State.repairCore (s : State) (sh p : Nat) (f : TestFinding) : Option State :=
  let key := 9 * sh + p
  let w0 (m : Nat) : BitVec 64 := resultW0 1 sh p 2 1 m
  match f with
  | .pass => some s
  | .logic | .unrepairable => none
  | .arrayRow a r =>
    match s.addRow key a r with
    | none => none
    | some (s', i) =>
      if (s.failedRows key a).contains r.val then some s
      else some ((s'.recordRepair (w0 (8 + a.val)) (BitVec.ofNat 64 i)).noteFix key (2 ^ 32 * (8 + a.val) + r.val))
  | .cell m w _ =>
    let n := s.columnsUsed (16 * key + m.val)
    if 2 ≤ n then none
    else
      let s := (s.recordRepair (w0 m) (BitVec.ofNat 64 n)).noteFix key (2 ^ 32 * m.val + w.toNat)
      some { s with test := { s.test with columns := tabSet 0 s.test.columns (16 * key + m.val) (n + 1) } }

/-- R400: a core memory or array fails at a new address within 30 days after a repair of that core. -/
def State.recurs (s : State) (key : Nat) (f : TestFinding) : Bool :=
  let new (at_ : Nat) : Bool :=
    s.test.fixes.any fun e => e.1 == key && decide (s.tsc < e.2.1 + 30 * 86400000000000) && e.2.2 != at_
  match f with
  | .cell m w _ => new (2 ^ 32 * m.val + w.toNat)
  | .arrayRow a r => new (2 ^ 32 * (8 + a.val) + r.val)
  | _ => false

/-- A physical core that holds no logical number retires. -/
def State.retireIdle (s : State) (sh p : Nat) (spare : Nat) : State :=
  (s.recordRepair (resultW0 1 sh p 0 2 0) (BitVec.ofNat 64 spare)).modCore (9 * sh + p) fun k => { k.wipe with use := .retired }

end Sys2Proof.Machine
end

