-- ==== Sys2Proof/Machine/Reset.lean ====
section
/-!
DEFINITION. Resets of the die and the start-up sequence (R349, R393, R399, R418, R426 to R429).
-/

namespace Sys2Proof.Machine

/-! ### A reset of the die (R418, R426, R427) -/

/-- A core after a reset of the die: its retirement stands in the repair record; the repair map is empty until the
start-up reapplies it (R49, R427). -/
def Core.afterReset (k : Core) : Core := { use := if k.use = .retired then .retired else .active }

/-- A shelf after a reset of the die: the core map and the disabled trim cores stay. -/
def Shelf.afterReset (h : Shelf) : Shelf :=
  { map := h.map, trims := (h.trims.map fun e => (e.1, ({ off := e.2.off } : Trim))).filter (·.2 ≠ {}) }

/-- A directory entry after a device reset: REFCNT 0, LOADING back to PARKED, WAIT clear. -/
def DirEntry.afterReset (e : DirEntry) : DirEntry :=
  { e with refcnt := 0, refMem := 0, wait := false, st := if e.st = .loading then .parked else e.st }

/-- A logical number under in-service test goes back to its core. -/
def State.endTestAtReset (s : State) : State :=
  let x := s.test
  if x.st = .idle then s
  else { (s.modShelf x.shelf fun h => { h with map := h.map.set x.logical x.phys }) with test := { x with st := .idle } }

/-- HBM as a device reset leaves it: the work slots are zeroed; everything else stays (R427). A layout change whose scrub it
cuts off leaves no user data (R311; when the zeros are written is a DESIGN CHOICE, log 84). -/
def State.keptHbm (s : State) : Mem :=
  let m := s.mode.scrub.foldl (fun m p => tabClear m (s.userArea p).1 (s.userArea p).2) s.hbm
  tabClear m s.slotBase 0x420000

/-- Errors of HBM after a device reset: what the zeros cover whole is good. -/
def State.keptEcc (s : State) : Ecc :=
  (s.mode.scrub.foldl (fun e p => e.written (s.userArea p).1 (s.userArea p).2) s.ecc).written s.slotBase 0x420000

/-- The die is reset. `cold`: power was lost, and with it HBM, the held entries and the reset counts. -/
def State.dieReset (s : State) (cold : Bool) : State :=
  let s := s.endTestAtReset
  { s with
    cores := (s.cores.map fun e => (e.1, e.2.afterReset)).filter (·.2 ≠ {})
    shelves := (s.shelves.map fun e => (e.1, e.2.afterReset)).filter (·.2 ≠ {})
    ops := []
    hbm := if cold then [] else s.keptHbm
    regions := if cold then [] else tabClearIf s.regions (· < 16)
    ecc :=
      { remaps := s.ecc.remaps, selfRefresh := !cold
        bad := if cold then [] else s.keptEcc.bad, errors := if cold then [] else s.keptEcc.errors }
    stats := {}
    replica := if cold then {} else { s.replica with
      round := false, events := 0, pairs := [], cause := none, digests := [], fresh := [], compared := [], differ := false }
    dir := if cold then {} else
      { entries := (s.dir.entries.map fun e => (e.1, e.2.afterReset)).filter (·.2 ≠ {})
        alloc := s.dir.alloc }
    work := {}
    mode := { epoch := if cold then 0 else s.mode.epoch }
    port := {}
    fabric := {}
    power := {}
    fw := { s.fw with
      ust := .idle, result := 0, pend := none, stage := none, trfsh := 0, pause := false, heldReqs := [] }
    sec := { s.sec with
      kown := 0, keys := {}
      refusals := [], lockout := false, resetting := [], scrubs := [], grant := none, cleared := 0
      presets := if cold then [] else s.sec.presets }
    test := { s.test with ending := 0 }
    od := if cold then [] else s.od.filter fun e => odHeld e.1 }

/-- A device reset by command (R347, R424, R427): HBM goes into self-refresh, then the die is reset, and the start-up
sequence begins. -/
def State.deviceReset (s : State) (c : Cause) : State := { s.dieReset false with boot := .starting, cause := c }

/-! ### Boot (R349, R428) -/

/-- Every image of a bank is valid, with an SVN not below the fused counter. -/
def State.bankOk (s : State) (b : Bank) : Bool :=
  let ok (i : Image) (n : Nat) : Bool := i.valid && decide (s.fw.fused.getD n 0 ≤ i.svn)
  b.valid && ok b.sgf 0 && ok b.mgf 1 && ok b.trf 2

/-- The bank that starts: the active one, or the other one where it is rejected. -/
def State.bootBank (s : State) : Option Bool :=
  let bank (b : Bool) : Bank := if b then s.fw.bankB else s.fw.bankA
  if s.bankOk (bank s.fw.activeB) then some s.fw.activeB
  else if s.bankOk (bank !s.fw.activeB) then some !s.fw.activeB
  else none

/-! ### Start-up self-test (R393, R398, R399) -/

/-- Blocks and tests of the start-up self-test: BLK, INST, UNIT, TEST. Log 40. -/
def startUnits : List (Nat × Nat × Nat × Nat) :=
  let shelves := List.range 16
  (shelves.flatMap fun h => (List.range 9).flatMap fun p => [(1, h, p, 1), (1, h, p, 2)])
    ++ (shelves.flatMap fun h => (List.range 4).flatMap fun k => [(2, h, k, 1), (2, h, k, 2)])
    ++ (shelves.flatMap fun h => [(3, h, 0, 1), (3, h, 0, 2)])
    ++ (shelves.flatMap fun h => (List.range 32).map fun b => (4, h, b, 2))
    ++ (shelves.map fun h => (5, h, 0, 1)) ++ [(6, 0, 0, 2)]
    ++ ((List.range 12).flatMap fun h => [(7, h, 0, 1), (7, h, 0, 3)])
    ++ [(8, 0, 0, 1), (8, 0, 0, 2), (9, 0, 0, 1), (9, 0, 0, 2), (10, 0, 0, 1), (10, 0, 0, 2), (10, 0, 1, 1), (10, 0, 1, 2),
      (11, 0, 0, 1)]

/-- A finding of a core at start-up: repaired, or the core retires. -/
def State.startCore (s : State) (sh p : Nat) (f : TestFinding) : State × Result :=
  match s.repairCore sh p f with
  | some s => (s, coreResult sh p f 1)
  | none =>
    let s := match (List.range 8).find? fun c => (s.shelf sh).map[c]? = some p with
      | some c => s.retireCore sh c true 0
      | none => s.retireIdle sh p 0xF
    (s, coreResult sh p f 2)

/-- A trim core is disabled; its matrix cores go to the next trim core that runs. A second one is service-ending. -/
def State.disableTrim (s : State) (sh k : Nat) : State :=
  let s := s.modTrim sh k fun t => { t with off := true }
  let ok (j : Nat) : Bool := !(s.trim sh j).off
  let s := match (List.range 4).find? ok with
    | some j => s.modShelf sh fun h => { h with
        owner := BitVec.ofNat 16 (((List.range 8).map fun c => (if h.ownerOf c = k then j else h.ownerOf c) * 4 ^ c).sum) }
    | none => s
  if 2 ≤ ((List.range 4).filter fun j => !ok j).length then s.serviceEnding else s

/-- A fault of the start-up self-test, and its result entry with the unit it belongs to. -/
def State.startFault (s : State) (f : StartFault) : State × (Nat × Nat × Nat × Nat) × Result :=
  match f with
  | .core sh p g =>
    let (s, r) := s.startCore sh p g
    (s, (1, sh.val, p.val, (findingPlace g).1), r)
  | .trim t m =>
    let test := if m then 2 else 1
    (s.disableTrim t.sh t.k, (2, t.sh.val, t.k.val, test), ⟨resultW0 2 t.sh t.k test 2 0, 0⟩)
  | .sram sh b w bit =>
    let key := 2304 + 32 * sh.val + b.val
    let n := s.columnsUsed key
    let r (res : Nat) : Result := ⟨resultW0 4 sh b 2 res 0, resultW1 w.toNat bit.toNat⟩
    let u := (4, sh.val, b.val, 2)
    if 4 ≤ n then (s.serviceEnding, u, r 2)
    else
      let s := s.recordRepair (resultW0 4 sh b 2 1 0) (BitVec.ofNat 64 n)
      ({ s with test := { s.test with columns := tabSet 0 s.test.columns key (n + 1) } }, u, r 1)
  | .block b i u m =>
    let test := if m then 2 else 1
    (s.serviceEnding, (b.val, i.val, u.val, test), ⟨resultW0 b i u test 2 0, 0⟩)
  | .stack h => (s.serviceEnding, (7, h.val, 0, 3), ⟨resultW0 7 h 0 3 2 0, 0⟩)
  | .loopback =>
    ({ s with test := { s.test with loopBad := true } }, (9, 0, 0, 4), ⟨resultW0 9 0 0 4 2 0, 0⟩)

/-- The loopback entry: skipped where spare lane 0 is not looped back (R290). -/
def loopEntry (r : StartReport) : Result :=
  ⟨resultW0 9 0 0 4 (if !r.looped then 3 else if r.faults.contains .loopback then 2 else 0) 0, 0⟩

/-- The store's repair record does not verify: it is rebuilt from this self-test (R401). -/
def State.rebuildRecord (s : State) : State :=
  { s with
    test := { s.test with repairs := [], columns := [], rows := [], fixes := [] }
    ecc := { s.ecc with remaps := [] } : State }.emit (.log none .selfTest [0x401])

/-- The whole self-test: faults handled, one entry for each failure and one for each test that passed. -/
def State.selfTest (s : State) (r : StartReport) : State :=
  let s := if r.recordOk then s else s.rebuildRecord
  let (s, l) := r.faults.foldl (fun (acc : State × List ((Nat × Nat × Nat × Nat) × Result)) f =>
    let (s, u, e) := acc.1.startFault f
    (s, acc.2 ++ [(u, e)])) ({ s with test := { s.test with loopBad := false } }, [])
  let entries := startUnits.flatMap fun u =>
    match (l.filter (·.1 = u)).map (·.2) with
    | [] => [(⟨resultW0 u.1 u.2.1 u.2.2.1 u.2.2.2 0 0, 0⟩ : Result)]
    | m => m
  { s with test := { s.test with startResults := (entries ++ [loopEntry r]).take 4096 } }

/-- A result entry tells of a service-ending failure: unrepairable, in a block that R399 gives no repair or no more. -/
def Result.ending (r : Result) : Bool :=
  let b := bits r.w0.toNat 63 56
  bits r.w0.toNat 39 36 == 2 && decide (3 ≤ b) && bits r.w0.toNat 43 40 != 4

/-- Something of R405 leaves the device with less than full service. -/
def State.degraded (s : State) : Bool :=
  decide (0 < s.test.ending) || s.test.startResults.any Result.ending
    || (List.range 16).any fun sh => (s.shelf sh).map.contains 15
        || decide (2 ≤ ((List.range 4).filter fun k => (s.trim sh k).off).length)

/-! ### The steps of R428 -/

/-- Value of the firmware store. -/
def State.stored (s : State) (k d : Nat) : Nat :=
  match tabGet 0 s.odStore k with
  | 0 => d
  | n + 1 => n

/-- The persistent entries are loaded; where no copy verifies every one takes its default (R418). -/
def State.loadStore (s : State) (ok : Bool) : State :=
  let s := if ok then s else ({ s with odStore := [(0xA01002, 1)] }).emit (.log none .firmware [0x418])
  let items : ModeItems :=
    { four := s.stored 0x201001 0 != 0, drainFmt := BitVec.ofNat 8 (s.stored 0x201101 1), profile := s.stored 0x301001 0 }
  let s := { s with
    od := s.odStore.foldl (fun t e => tabSet 0 t e.1 e.2) s.od
    mode := { s.mode with cur := items, staged := items, pend := items } }
  match odRow 0x3060 1 with
  | some r =>
    { s with power := { s.power with curve := (chunks 2 16 (natLE (s.odVal 0x306001 (odDefault r)) 32)).map leNat } }
  | none => s

/-- Firmware writes region-table entries 0 to 7; the slots are FREE at generation 1, which `dieReset` left them (R428). -/
def State.startSystemArea (s : State) : State :=
  { s with
    regions := s.fixedRegions.foldl (fun t e => tabSet {} t e.1 e.2) s.regions
    ecc := { s.ecc with selfRefresh := false } }

/-- Post-package repair at a cold start: the remap entry of each recorded row that still has a spare in its bank is free
again (R324). -/
def State.postRepair (s : State) (r : StartReport) : State :=
  { s with ecc := { s.ecc with remaps := s.ecc.remaps.filter fun e => r.noSpare.contains (e.1, e.2.1, e.2.2.1) } }

/-- Every core that is not retired has its repair map again (R427). -/
def State.startMaps (s : State) : State := (List.range 16).foldl State.applyMaps s

/-- Cores behind a logical number run; the spare of a shelf waits in retention (R75). -/
def State.startCores (s : State) : State :=
  (List.range 16).foldl (fun s sh => (List.range 9).foldl (fun s p => s.modCore (9 * sh + p) fun k =>
    { k with use := if k.use = .retired then .retired else if (s.shelf sh).map.contains p then .active else .retention }) s) s

/-- Every group and spare lane trains; the host-port PHY is enabled (R303, R428). -/
def State.startLinks (s : State) : State :=
  let s := (List.range 15).foldl (fun s i => s.modGroup (i + 1) fun l => { l with st := .training, phase := 0, attempts := 0 }) s
  { s with port := { s.port with port := if s.mod.portBad then .down else .training, cfg := s.trainedCfg } }

/-- Saggar derives K_own at each start (R343). -/
def State.startKeys (s : State) : State :=
  { s with sec := { s.sec with kown := if s.sec.claimed then ownerKown s.sec.ownerKey else 0 } }

/-- Running images: the booted bank's. -/
def State.startImages (s : State) (b : Bool) : State :=
  { s with fw := { s.fw with runB := b, running := if b then s.fw.bankB else s.fw.bankA } }

/-- The die is held in reset with its port down (R349, R429). -/
def State.holdDie (s : State) : State := { s with boot := .dead, port := { s.port with port := .down } }

/-- Saggar or the host-port engine fails, so that no service is possible (R429). -/
def reportDead (r : StartReport) : Bool :=
  r.faults.any fun f => match f with
    | .block b _ _ _ => b.val == 8 || b.val == 11
    | _ => false

/-- A stack fails training, or both management cores fail (R429). -/
def reportFailed (r : StartReport) : Bool :=
  let mgmt (u : Nat) : Bool := r.faults.any fun f => match f with
    | .block b _ v _ => b.val == 10 && v.val == u
    | _ => false
  mgmt 0 && mgmt 1 || r.faults.any fun f => match f with
    | .stack _ => true
    | _ => false

/-- A report without the findings of tests that a device reset does not run: logic and memory BIST, stack test (R427). -/
def reportAtReset (r : StartReport) : StartReport :=
  { r with faults := r.faults.filter fun f => match f with
      | .stack _ => true
      | _ => false }

/-- The start-up sequence. -/
def State.startUp (s : State) (r : StartReport) : State :=
  let cold := s.mod.cold
  let r := if cold then r else reportAtReset r
  match s.bootBank with
  | none => (s.serviceEnding).holdDie
  | some b =>
    if reportDead r then s.holdDie
    else
      let s := s.startImages b
      let s := if cold then (s.startCores.selfTest r).postRepair r else s
      let s := ((s.startSystemArea.loadStore r.storeOk).startLinks.startCores.startMaps).startKeys.drawNonce
      { s with
        boot := if reportFailed r then .failed else if s.degraded then .degraded else .ready
        mod := { s.mod with cold := false } }

/-- RESET_N deasserts, once PGOOD is high; or a device reset by command goes on to its start-up. -/
def execStartup (r : StartReport) (s : State) : Out :=
  if s.boot = .held ∧ s.mod.pgood ∧ s.mod.rails then
    .next ({ s with mod := { s.mod with resetN := true } }.startUp r)
  else if s.boot = .starting ∧ s.mod.resetN then .next (s.startUp r)
  else .next s

/-- RESET_N is low for 1 µs: HBM into self-refresh, then the die is reset until RESET_N deasserts; a start-up in progress
begins again (R427, R430). -/
def execResetNAssert (s : State) : Out :=
  let s := { s with mod := { s.mod with resetN := false } }
  if !s.mod.pgood ∨ s.boot = .held then .next s
  else .next { s.dieReset s.mod.cold with boot := .held, cause := .resetPin }

end Sys2Proof.Machine
end

