-- ==== Sys2Proof/Machine/Power.lean ====
section
/-!
DEFINITION. Cone: estimates, caps, current limit, thermal throttle, droop and supply supervision, resets of the
arithmetic domain, and the sleep states (R367 to R392).
-/

namespace Sys2Proof.Machine

/-! ### Estimates (R367, R369)

Powers are in microwatts, voltages in millivolts, temperatures in degrees Celsius. The fused weights, in femtojoules, and
the static and shared tables are the module's own and stand as fuse values (log 41). -/

/-- Frequency of a step in MHz (R369). -/
def stepMHz (k : Nat) : Nat := 600 + 60 * k

/-- V_s of a step under the curve in force. -/
def State.stepmV (s : State) (k : Nat) : Nat := s.power.curve.getD k (600 + 10 * k)

/-- P_static(V, T). -/
def staticPower (mV : Nat) (temp : Int) : Nat := Config.fuse (2 ^ 40 + mV * 2 ^ 12 + (temp + 1000).toNat)

/-- P_shared for the HBM access count of the period, the sleep state and the number of links up. -/
def sharedPower (hbm sleep links : Nat) : Nat := Config.fuse (2 ^ 60 + hbm * 2 ^ 8 + links * 4 + sleep)

/-- Σ w_i × n_i in femtojoules. -/
def activityEnergy (a : Activity) : Nat :=
  let w (i : Nat) : Nat := Config.fuse (0x30600200 + i)
  w 0 * a.mac + w 1 * a.tree + w 2 * a.tally + w 3 * a.adapter + w 4 * a.vector + w 5 * a.churn + w 6 * a.sram + w 7 * a.clock

/-- P_est of one island at a voltage, with its counts scaled by a ratio of frequencies. -/
def islandPower (mV : Nat) (a : Activity) (num den : Nat) : Nat :=
  staticPower mV a.temp + mV * mV * activityEnergy a * num / (562500 * 2000 * den)

/-- Estimates of 2 µs within a window of that many. -/
def average (l : List Nat) (n : Nat) : Nat := (l.take n).sum / max 1 (min n l.length)

/-- Estimates of the last 1 s and of the last 8 s (R373). -/
def window1 : Nat := 500000
def window8 : Nat := 4000000

/-! ### Target steps (R371 to R375) -/

/-- The cap controller: down while an average is above its cap, up when both lie 2 % below and no lowering has taken place
for 100 µs, which is 50 periods. Averages and caps in microwatts. -/
def capStep (cur sinceLower : Nat) (a1 a8 c1 c8 : Int) : Nat :=
  if c1 < a1 ∨ c8 < a8 then cur - 1
  else if 100 * a1 ≤ 98 * c1 ∧ 100 * a8 ≤ 98 * c8 ∧ 50 ≤ sinceLower then cur + 1
  else cur

/-- Highest step at or below `k` at which an island's current estimate stays within a limit in mA; the counts scale with
the clock (R374; DEDUCED, log 42). -/
def State.limitStep (s : State) (d : Island) (a : Activity) (limit : Nat) : Nat → Nat
  | 0 => 0
  | k + 1 =>
    let mV := s.stepmV (k + 1)
    if islandPower mV a (stepMHz (k + 1)) (stepMHz d.step) ≤ limit * mV then k + 1 else s.limitStep d a limit k

/-- Current estimate of an island in mA. -/
def Island.current (d : Island) (a : Activity) : Nat := islandPower d.mV a 1 1 / max 1 d.mV

/-- The step that the current limit allows an island, and whether it acts: a quarter of OD 3030.03 each, and in whole-device
mode all of it together. -/
def State.currentStep (s : State) (acts : List Activity) (i : Nat) : Nat × Bool :=
  let d := s.island i
  let a := acts.getD i ⟨0, 0, 0, 0, 0, 0, 0, 0, 0⟩
  let limit := 1000 * s.odVal 0x303003 2000
  let all := ((List.range 4).map fun j => (s.island j).current (acts.getD j ⟨0, 0, 0, 0, 0, 0, 0, 0, 0⟩)).sum
  if limit / 4 < d.current a ∨ (!s.mode.cur.four ∧ limit < all) then
    (min (d.step - 1) (s.limitStep d a (limit / 4) d.step), true)
  else (15, false)

/-- Ceilings of profile and throttle. -/
def State.stepCeiling (s : State) : Nat := min (profileCeiling s.mode.cur.profile) s.power.ceiling

/-- Target of island i by its own controller: caps of the device with its shift, or of the partition. -/
def State.islandTarget (s : State) (acts : List Activity) (i : Nat) : Nat :=
  let d := s.island i
  let c : Nat :=
    if s.mode.cur.four then
      let cap : Int := s.odVal (0x303101 + i) 340 * 1000000
      capStep d.step d.sinceLower (average d.hist window1) (average d.hist window8) cap cap
    else
      let sh := s.power.shiftmW * 1000
      capStep d.step d.sinceLower (average s.power.hist window1) (average s.power.hist window8)
        (s.odVal 0x303001 1600 * 1000000 + sh) (s.odVal 0x303002 1500 * 1000000 + sh)
  let (l, acts') := s.currentStep acts i
  let c := if 0 < d.hold then min c d.step else c
  min (min c s.stepCeiling) (if acts' then l else 15)

/-! ### Step changes (R370, R379, R380) -/

/-- A droop response or a supply warning is in force on island i: in whole-device mode on any island, since all take one
step. -/
def State.response (s : State) (i : Nat) : Bool :=
  if s.mode.cur.four then (s.island i).droop || (s.island i).warn
  else (List.range 4).any fun j => (s.island j).droop || (s.island j).warn

/-- Step whose frequency an island's clock has now: 0 under a warning, eight steps less in a droop (R379, R381). -/
def Island.clockNow (d : Island) : Nat := if d.warn then 0 else if d.droop then d.clk - 8 else d.clk

/-- A lowering: clock first, then the voltage. -/
def Island.lower (d : Island) (t mV : Nat) : Island :=
  { d with step := t, clk := min d.clk t, mV := mV, slew := none, deferred := none, sinceLower := 0 }

/-- Carry out a decided target: lower at once; raise by one step, its slew first; deferred while a response is in force. -/
def State.applyTarget (s : State) (i t : Nat) : State :=
  let d := s.island i
  if s.response i ∨ d.deferred.isSome then
    s.modIsland i fun d => { d with deferred := match d.deferred with
      | some x => some (min x t)
      | none => if t < d.step then some t else if t = d.step ∨ d.slew.isSome then none else some (d.step + 1) }
  else if t = d.step then s
  else if t < d.step then s.modIsland i fun d => d.lower t (s.stepmV t)
  else if d.slew.isSome then s
  else s.modIsland i fun d => { d with step := d.step + 1, slew := some (d.step + 1) }

/-- One estimation period: `acts` holds the activity counts of the four islands, `hbm` the HBM access count. -/
def execEstimationPeriod (acts : List Activity) (hbm : Nat) (s : State) : Out :=
  if !s.serving ∨ s.power.sleep ≠ .active then .next s else
  let act (i : Nat) : Activity := acts.getD i ⟨0, 0, 0, 0, 0, 0, 0, 0, 0⟩
  let own (i : Nat) : Nat := islandPower (s.island i).mV (act i) 1 1
  let links := ((List.range 16).filter fun g => (s.group g).st.up).length
  let total := sharedPower hbm 0 links + ((List.range 4).map own).sum
  let s := (List.range 4).foldl (fun s i => s.modIsland i fun d => { d with
    hist := (own i :: d.hist).take window8, sinceLower := d.sinceLower + 1, hold := d.hold - 1 }) s
  let s := { s with power := { s.power with hist := (total :: s.power.hist).take window8 } }
  let s' := (List.range 4).foldl (fun s i =>
    if (s.currentStep acts i).2 then s.modIsland i fun d => { d with hold := 5 } else s) s
  let targets := (List.range 4).map (s.islandTarget acts)
  let common := targets.foldl min 15
  .next ((List.range 4).foldl (fun s' i => s'.applyTarget i (if s.mode.cur.four then targets.getD i 0 else common)) s')

/-- A slew ends: the clock switches up, unless a response defers the switch. -/
def execSlewDone (i : Fin 4) (s : State) : Out :=
  match (s.island i).slew with
  | none => .next s
  | some k =>
    .next (s.modIsland i fun d =>
      let d := { d with slew := none, mV := s.stepmV k }
      if s.response i then { d with deferred := some (match d.deferred with
        | some x => min x k
        | none => k) }
      else { d with clk := k })

/-- 1 µs after the response cleared, the deferred change is carried out; in whole-device mode on every island. -/
def execDeferredStep (i : Fin 4) (s : State) : Out :=
  if s.response i then .next s
  else
    let l := if s.mode.cur.four then [i.val] else List.range 4
    .next (l.foldl (fun s j =>
      let d := s.island j
      match d.deferred with
      | none => s
      | some t =>
        let s := s.modIsland j fun d => { d with deferred := none }
        if t = d.step then s.modIsland j fun d => { d with clk := t }
        else if t < d.step then s.modIsland j fun d => d.lower t (s.stepmV t)
        else s.modIsland j fun d => { d with step := t, slew := some t }) s)

/-! ### Thermal throttle and trip (R376, R377) -/

/-- Every 2 s, by the hottest sensor. -/
def execThermalTick (temp : Int) (s : State) : Out :=
  let c := s.power.ceiling
  .next { s with power := { s.power with
    ceiling := if 97 < temp then c - 1 else if temp < 92 then min 15 (c + 1) else c } }

/-- A mode change in step 2 rolls back (R253). -/
def State.rollBackMode (s : State) : State :=
  if s.mode.st ≠ .transitioning ∨ s.mode.waiting then s
  else if !s.mode.board then s.modeBack
  else if s.mod.pos.val = 0 then s.boardBack
  else s.modeBack.control 0 0x22 [s.mod.pos.val]

/-- Directory commands of a partition that wait: for a line, for references, for a build, for a load. -/
def State.waitingCmds (s : State) (p : Nat) : List DirCmd :=
  let d := s.dir
  let mine (i : Nat) := s.inRange p i
  d.lineWaits.filterMap (fun w => match w with
      | .cmd c => if c.part.val = p then some c else none
      | _ => none)
    ++ ((d.waits ++ d.builds).filter fun w => mine w.didx).map (·.cmd) ++ (d.loads.filter fun l => mine l.didx).filterMap (·.cmd)

/-- A HELD request that was handed out and has lost its reference is gathered again. -/
def Work.regather (w : Work) : Work := { w with ref := none, waitLoad := false, handed := false, gathering := true }

/-- The walker loses the cache lines and the queued work of a partition: waiting commands end ABORTED, and in the
partition's range REFCNT is 0, WAIT clear and LOADING entries PARKED again (R184, R382). -/
def State.dropWalker (s : State) (p : Nat) : State :=
  let mine (i : Nat) := s.inRange p i
  let (lo, n) := if s.mode.cur.four then (4096 * p, 4096) else (0, 16384)
  let s := (s.waitingCmds p).foldl (fun s c => s.endCmd c St.aborted) s
  let s := (s.dir.entries.filter fun e => mine e.1).foldl (fun s e => s.modEntry e.1 fun e => { e with
    refcnt := 0, refMem := 0, wait := false, st := if e.st = .loading then .parked else e.st }) s
  let s := (s.work.slots.filter fun e => e.2.st = .held && e.2.kind == 1 && e.2.handed && s.slotPart e.1 == p).foldl
    (fun s e => s.modWork e.1 Work.regather) s
  let d := s.dir
  { s with dir := { d with
    lines := d.lines.filter fun l => l.num < lo || lo + n ≤ l.num
    lineWaits := d.lineWaits.filter fun w => match w with
      | .ref i => s.slotPart i ≠ p
      | .cmd c => c.part.val ≠ p
      | .fill k _ => s.partOf (k / 8) ≠ p
    waits := d.waits.filter fun w => !mine w.didx
    builds := d.builds.filter fun w => !mine w.didx
    loads := d.loads.filter fun l => !mine l.didx } }

/-- What a partition's shelves and walker lose when its arithmetic domain resets (R382). -/
def State.resetDomain (s : State) (p : Nat) : State :=
  let s := if s.partOf s.test.shelf = p then s.abandonTest else s
  ((s.shelvesOf p).foldl State.wipeShelf s).dropWalker p

/-- RUNNING work of a partition ends by a supply reset: POWER_FAULT, or GROUP_PART_FAILED with POWER_FAULT for a part,
which its leader hears of (R244, R249). A DIRECTORY work runs while its command waits, which the walker's reset ends
ABORTED (R184). -/
def State.faultWorks (s : State) (p : Nat) : State :=
  let l := (s.work.slots.filter fun e => e.2.st = .running && e.2.kind != 3 && s.slotPart e.1 == p).map (·.1)
  l.foldl (fun s i =>
    let w := s.wk i
    if w.group = 0 then s.stopEnd i St.powerFault
    else if ghLeader w.group = s.mod.pos.val then s.leaderFail w.group w.part St.powerFault
    else (s.groupMsg w.group (ghLeader w.group) 0x12 [w.part, St.powerFault.toNat]).stopEnd i St.groupPartFailed w.part
      St.powerFault) s

/-- The islands of a partition. -/
def State.islandsOf (s : State) (p : Nat) : List Nat := if s.mode.cur.four then [p] else List.range 4

/-- A sensor reaches the junction limit: every work ends THERMAL_TRIP and the whole arithmetic domain resets. -/
def execJunctionLimit (s : State) : Out :=
  if s.power.trip ∨ !s.serving then .next s else
  let s := s.parts.foldl (fun s p => s.endAll p St.thermalTrip) s
  let s := s.parts.foldl State.resetDomain s.rollBackMode
  .next { s with power := { s.power with trip := true } }

/-- Islands that come back run at step 0 (R442). -/
def State.islandsUp (s : State) (l : List Nat) : State :=
  l.foldl (fun s i => s.modIsland i fun d => { hist := d.hist }) s

/-- Every sensor reads below 85 °C: the domain restarts; records that waited are issued (R249, R377). -/
def execThermalRestart (s : State) : Out :=
  if !s.power.trip then .next s else
  let s := { s with power := { s.power with trip := false } }.islandsUp (List.range 4)
  .next (s.parts.foldl (fun s p => (s.applyPart p).flushRecords p) s)

/-! ### Droop and supply (R379 to R382) -/

def execDroopDetect (i : Fin 4) (s : State) : Out := .next (s.modIsland i fun d => { d with droop := true })

def execDroopClear (i : Fin 4) (s : State) : Out := .next (s.modIsland i fun d => { d with droop := false })

def execSupplyWarning (i : Fin 4) (s : State) : Out := .next (s.modIsland i fun d => { d with warn := true })

/-- The rail has held the recovery level for 1 µs: hold and clock are released, the event counted. -/
def execSupplyRecovery (i : Fin 4) (s : State) : Out :=
  if !(s.island i).warn then .next s
  else .next (({ s with power := { s.power with warnings := s.power.warnings + 1 } }).modIsland i fun d => { d with warn := false })

/-- The rail falls below the reset level: in whole-device mode every island resets, in partition mode this one. -/
def execSupplyReset (i : Fin 4) (s : State) : Out :=
  let p := if s.mode.cur.four then i.val else 0
  if (s.island i).down ∨ !s.serving then .next s else
  let s := ((s.faultWorks p).rollBackMode).resetDomain p
  let s := (s.islandsOf p).foldl (fun s j => s.modIsland j fun d => { hist := d.hist, down := true, downAt := s.tsc }) s
  .next { s with power := { s.power with resets := s.power.resets + 1 } }

/-- Firmware has restored the domain, within 200 ms: records are issued, HELD work may start, and the outage counts as
downtime, of a quarter where one partition was out (R249, R382, R404). -/
def execArithmeticDomainRestore (i : Fin 4) (s : State) : Out :=
  let d := s.island i
  if !d.down then .next s else
  let p := if s.mode.cur.four then i.val else 0
  let s := s.addDown ((s.tsc - d.downAt) / 1000) (if s.mode.cur.four then 32 else 128)
  .next (((s.islandsUp (s.islandsOf p)).applyPart p).flushRecords p)

/-! ### Sleep (R388 to R390) -/

/-- Nothing is to be done: no work HELD or RUNNING, no Churn command queued, no remote operation outstanding. -/
def State.quiet (s : State) : Bool :=
  !s.workActive && s.ops.all (·.done)
    && (List.range 16).all fun sh => ringTail (s.sram sh) == ringHead (s.sram sh)

/-- The Idle-ready delay of OD 3050.01 has passed without work. -/
def execIdleReadyEntry (s : State) : Out :=
  if s.serving ∧ s.power.sleep = .active ∧ s.quiet then
    .next { s with power := { s.power with sleep := .idleReady }, ecc := { s.ecc with selfRefresh := true } }
  else .next s

def execIdleReadyExit (s : State) : Out :=
  if s.power.sleep = .idleReady then
    .next { s with power := { s.power with sleep := .active }, ecc := { s.ecc with selfRefresh := false } }
  else .next s

/-- OD 3050.02: TRUE closes every context by CLOSE; when the last has drained the module parks. FALSE changes nothing. -/
def State.odPark (s : State) (v : Nat) : State × Status :=
  if v = 0 then (s, St.ok)
  else if s.workActive then (s, St.modeWorkActive)
  else if s.mode.st ≠ .stable ∨ !s.sec.resetting.isEmpty then (s, St.modeBusy)
  else
    let l := (s.port.ctxs.filter fun e => e.2.st = .open_).map (·.1)
    let s := l.foldl (fun s c => (s.send c true (onePacket 0x04 0 [])).beginDrain c) s
    ({ s with power := { s.power with parking := true } }.parkIfDrained, St.ok)

def execEnterParked (q : OdReq) (s : State) : Out :=
  .next (s.odCommand q (· == 0x305002) fun s _ v => s.odPark v)

/-- Light on the host port's lane 0 or on a clock channel: every link trains again. -/
def execParkedWake (s : State) : Out :=
  if s.power.sleep ≠ .parked then .next s else
  let s := { s with power := { s.power with sleep := .active }, ecc := { s.ecc with selfRefresh := false } }
  .next s.startLinks

end Sys2Proof.Machine
end

