-- ==== Sys2Proof/Machine/Security.lean ====
section
/-!
DEFINITION. Ownership, the secure-open nonce, quotes, security versions, partition resets, region scrubs and the scan
grant (R345 to R360, R395).
-/

namespace Sys2Proof.Machine

/-! ### Saggar's registers (R343, R344) -/

/-- A key operation ends: its working registers are zeroed; K_own's copy and the DRBG state stay (R344). -/
def State.endKeyOp (s : State) : State :=
  { s with sec := { s.sec with keys := { drbg := s.sec.keys.drbg } } }

/-- Saggar signs with the IK: until the signature is made, the IK's working copy and the ECDSA working registers are in use.
Their contents are secret: the fused key, and a free value (log 88). -/
def State.beginSign (s : State) : State :=
  { s with free := s.free + 1, sec := { s.sec with keys := { s.sec.keys with
      ik := BitVec.ofNat 256 (Config.fuse 0x494B505256), ecdsa := BitVec.ofNat 256 (Config.freeNat s.free) } } }

/-! ### Ownership (R345 to R347) -/

/-- OD 1020.02: a point of P-256 is stored, K_own derived from it. -/
def State.odClaim (s : State) (v : Nat) : State × Status :=
  let key := natLE v 65
  if !pointOk key then (s, St.odValueInvalid)
  else
    let k := BitVec.ofNat 520 v
    (({ s with sec := { s.sec with claimed := true, ownerKey := k, kown := ownerKown k } } : State).endKeyOp, St.ok)

def execOwnerKeyClaim (q : OdReq) (s : State) : Out :=
  .next (s.odCommand q (· == 0x102002) fun s _ v => s.odClaim v)

/-- OD 4001.01 with 0x5245_4C53: work ends, contexts close without exchange, user state is zeroed, the owner key erased,
and the device resets. -/
def State.odRelease (s : State) (v : Nat) : State × Status :=
  if v ≠ 0x52454C53 then (s, St.odValueInvalid)
  else
    let s := s.parts.foldl (fun s p => s.endAll p St.partitionReset) s
    let s := s.parts.foldl State.scrubPart s
    let s := s.hbmZero (s.sysBase + 0x13C00000) 0x40400000
    let s := { s with sec := { s.sec with claimed := false, ownerKey := 0, kown := 0 } }
    ((s.deviceReset .ownerRelease), St.ok)

def execOwnerRelease (q : OdReq) (s : State) : Out :=
  .next (s.odCommand q (· == 0x400101) fun s _ v => s.odRelease v)

/-- 10 s pass: Saggar draws a fresh nonce (R346). -/
def execNonceRefresh (s : State) : Out := .next s.drawNonce

/-- The lockout's second is over (R346). -/
def execSecureOpenLockoutEnd (s : State) : Out :=
  .next { s with sec := { s.sec with lockout := false, refusals := [] } }

/-! ### Quotes (R351 to R355) -/

/-- The partition that a quote's scope names. -/
def quotePart (scope : Nat) : Option Nat := if 0x10 ≤ scope ∧ scope ≤ 0x13 then some (scope - 0x10) else none

/-- OD 1030.01: nonce in bytes 0 to 31, scope in byte 32. A new request replaces the previous quote. -/
def State.odQuote (s : State) (c v : Nat) : State × Status :=
  let scope := v / 2 ^ 256
  let x := s.ctx c
  let go (reset : Bool) : State := s.beginSign.modCtx c fun x => { x with
    quote := .busy, quoteReq := BitVec.ofNat 264 v, quoteBytes := [], quoteReset := reset }
  if scope = 0 then (go false, St.ok)
  else match quotePart scope with
    | none => (s, St.odValueInvalid)
    | some p =>
      if !s.mode.cur.four then (s, St.odValueInvalid)
      else if !x.secure ∧ p ≠ x.part then (s, St.odAccessDenied)
      else (go (s.sec.resetting.contains p), St.ok)

def execQuoteRequest (q : OdReq) (s : State) : Out :=
  .next (s.odCommand q (· == 0x103001) fun s _ v => s.odQuote q.ctx v)

/-- A firmware update is pending (R354). -/
def State.updatePending (s : State) : Bool := s.fw.pend.isSome

def layoutByte (four : Bool) : Byte := if four then 1 else 0

/-- M_CFG (R353). -/
def State.measureCfg (s : State) : List Byte :=
  sha256 (natLE s.sec.ownerKey.toNat 65 ++ [layoutByte s.mode.cur.four] ++ s.fw.fused.flatMap (natLE · 4))

/-- Partition resets of a scope (R352). -/
def State.presetsOf (s : State) (scope : Nat) : Nat :=
  match quotePart scope with
  | some p => (tabGet 0 s.sec.presets p).toNat
  | none => ((List.range 4).map fun p => (tabGet 0 s.sec.presets p).toNat).sum

/-- M_PART (R353). -/
def State.measurePart (s : State) (scope : Nat) : List Byte :=
  let entries (lo n p : Nat) : List Byte :=
    ((List.range n).map (· + lo)).flatMap (fun e => let r := tabGet {} s.regions e; if r.v then r.bytes else [])
      ++ ((List.range 4).flatMap fun k => natLE (s.odVal (0x503101 + 4 * p + k) 0) 10)
      ++ natLE (s.presetsOf scope) 4
  match quotePart scope with
  | some p => sha256 (entries (16 + 60 * p) 60 p)
  | none => if s.mode.cur.four then natLE 0 32 else sha256 (entries 16 240 0)

/-- Bytes 0x050 to 0x11F of a quote. -/
def State.quoteBody (s : State) (scope : Nat) : List Byte :=
  let m (v : BitVec 256) : List Byte := natLE v.toNat 32
  let f := s.fw
  m f.running.sgf.measure ++ m f.running.mgf.measure ++ m f.running.trf.measure ++ s.measureCfg ++ s.measurePart scope
    ++ (match f.pend with
      | some i => m i.measure
      | none => natLE 0 32)
    ++ natLE f.running.sgf.version.toNat 4 ++ natLE f.running.mgf.version.toNat 4 ++ natLE f.running.trf.version.toNat 4
    ++ [match f.pend with
      | some i => BitVec.ofNat 8 i.kind
      | none => 0] ++ [layoutByte f.runB] ++ natLE f.trfsh.toNat 2

/-- The quote of R352 for a request; `resetting`: in the form of R355. -/
def State.quoteOf (s : State) (req : BitVec 264) (resetting : Bool) : List Byte :=
  let scope := req.toNat / 2 ^ 256
  let st : Status := if resetting then St.partitionResetting else if s.updatePending then St.updateInProgress else St.ok
  let head := natLE 0x54515554 4 ++ [1, 0] ++ natLE 0x01C0 2 ++ natLE st.toNat 2 ++ [BitVec.ofNat 8 scope]
    ++ [layoutByte s.mode.cur.four] ++ natLE s.mode.epoch.toNat 4 ++ natLE req.toNat 32
    ++ natLE (Config.fuse 0x101001) 8 ++ natLE 0x00B0 2 ++ natLE (Config.fuse 0x524F4D) 2 ++ natLE (s.presetsOf scope) 4
    ++ natLE (s.tsc / 1000000) 8 ++ natLE 0 8
  let body := if resetting then natLE 0 208 else s.quoteBody scope
  let tail := s.fw.fused.flatMap (natLE · 4) ++ natLE 0 20 ++ sha256 (natLE (Config.fuse 0x494B) 65) ++ natLE 0 32
  let signed := head ++ body ++ tail
  signed ++ bigBytes (Config.ecdsaSign (bigNat (sha256 signed))) 64

/-- Saggar captures every field in one step and signs; its working registers are zeroed. -/
def execQuoteCapture (c : Fin 16384) (s : State) : Out :=
  let x := s.ctx c
  if x.quote ≠ .busy then .next s else
  let resetting := x.quoteReset || (match quotePart (x.quoteReq.toNat / 2 ^ 256) with
    | some p => s.sec.resetting.contains p
    | none => false)
  .next ((s.modCtx c fun x => { x with quote := .done, quoteBytes := s.quoteOf x.quoteReq resetting }).endKeyOp)

/-! ### Security versions (R350) -/

/-- OD 4010.02: TRUE fuses each counter, of 32 steps (R343), up to the running SVN; refused during an update. FALSE changes nothing. -/
def State.odCommitVersions (s : State) (v : Nat) : State × Status :=
  if s.fw.ust ≠ .idle ∧ s.fw.ust ≠ .failed then (s, St.modeBusy)
  else if v = 0 then (s, St.ok)
  else
    let r := s.fw.running
    let up (n svn : Nat) : Nat := min 31 (max (s.fw.fused.getD n 0) svn)
    ({ s with fw := { s.fw with fused := [up 0 r.sgf.svn, up 1 r.mgf.svn, up 2 r.trf.svn] } }, St.ok)

def execSecurityVersionCommit (q : OdReq) (s : State) : Out :=
  .next (s.odCommand q (· == 0x401002) fun s _ v => s.odCommitVersions v)

/-! ### Partition resets (R355, R358) -/

/-- BUSY quotes of the partition complete as PARTITION_RESETTING, its expert sessions end (R355, R416). -/
def State.markSessions (s : State) (p : Nat) : State :=
  { s with port := { s.port with ctxs := (s.port.ctxs.map fun e =>
      let x := e.2
      let x := if x.quote = .busy ∧ quotePart (x.quoteReq.toNat / 2 ^ 256) = some p then { x with quoteReset := true } else x
      (e.1, if x.part = p then { x with expert := false } else x)).filter (·.2 ≠ {}) } }

/-- OD 4030.01: accepted, the partition is RESETTING, its work ends, and SCRUB_COMPLETE does the rest. -/
def State.odPartReset (s : State) (p : Nat) : State × Status :=
  if !s.parts.contains p then (s, St.odValueInvalid)
  else if s.mode.st ≠ .stable ∨ s.sec.resetting.contains p then (s, St.modeBusy)
  else
    let s := { s with sec := { s.sec with resetting := s.sec.resetting ++ [p] } }
    let s := (s.endAll p St.partitionReset).markSessions p
    let s := if s.members.contains (4 * s.mod.pos.val + p) then s.abandonRound else s
    (if s.partOf s.test.shelf = p then s.abandonTest else s, St.ok)

def execPartitionReset (q : OdReq) (s : State) : Out :=
  .next (s.odCommand q (· == 0x403001) fun s _ v => s.odPartReset v)

/-! ### Region scrubs (R360) -/

/-- OD 4030.03: the entry reads as invalid while zeros are written. -/
def State.odRegionScrub (s : State) (e : Nat) : State × Status :=
  let r := tabGet {} s.regions e
  if s.sec.scrubs.contains e then (s, St.odBusy)
  else if r.baseRo ∧ r.v ∧ 16 ≤ e then (s, St.regionReadOnly)
  else if e < 16 ∨ !r.v then (s, St.odValueInvalid)
  else ({ s with
    regions := tabSet {} s.regions e { r with v := false }
    sec := { s.sec with scrubs := s.sec.scrubs ++ [e] } }, St.ok)

def execRegionScrub (q : OdReq) (s : State) : Out :=
  .next (s.odCommand q (· == 0x403003) fun s _ v => s.odRegionScrub v)

/-- The zeros are written; the entry is restored. -/
def execRegionScrubDone (e : Fin 256) (s : State) : Out :=
  let r := tabGet {} s.regions e
  if !s.sec.scrubs.contains e.val ∨ r.npg = 0 then .next s
  else
    let s := s.hbmZero (0x200000 * r.base) (0x200000 * r.npg)
    .next { s with
      regions := tabSet {} s.regions e { r with v := true }
      sec := { s.sec with scrubs := s.sec.scrubs.filter (· ≠ e.val) } }

/-! ### The scan grant (R395) -/

/-- Saggar zeroes every secret-holding register, reports how many it checked (the spec gives no number: a free value), and
sets the latch of the named block. A quote that is BUSY is made after the grant (R344, R395). -/
def execScanGrantRequest (blk : Fin 12) (inst : Fin 16) (unit : Fin 64) (s : State) : Out :=
  let (n, s) := s.takeFree
  .next { s with sec := { s.sec with
    kown := 0, keys := {}, grant := some (blk.val, inst.val, unit.val), cleared := n } }

end Sys2Proof.Machine
end

