-- ==== Sys2Proof/Machine/SelfTest.lean ====
section
/-!
DEFINITION. The in-service test of a core, faults of the firmware window and of management data, and shelf resets
(R402, R403, R408, R426).
-/

namespace Sys2Proof.Machine

/-! ### The next core to test (R403) -/

/-- Core number i in turn: 9 × s + c for C0 to C7, 9 × s + 8 for the spare of shelf s. A shelf without a spare in
retention is skipped, and so are a logical number with no core and a shelf whose arithmetic domain is down. -/
def State.testable (s : State) (i : Nat) : Bool :=
  (s.spareOf (i / 9)).isSome && !s.domainDown (s.partOf (i / 9)) && (i % 9 == 8 || (s.phys (i / 9) (i % 9)).isSome)

/-- The next core in turn, from the number that the last test left. -/
def State.nextTest (s : State) : Option Nat :=
  ((List.range 144).map fun k => (s.test.next + k) % 144).find? s.testable

/-- A tile-program boundary with an empty vector queue and no combine in progress, so that nothing in the core is left to
use; for the lead core, no sort in progress. -/
def State.testBoundary (s : State) (sh c : Nat) : Bool :=
  let k := s.lcore sh c
  let sorting := s.lead sh == some c && (List.range 4).any fun t =>
    !(s.trim sh t).coming.isEmpty || !(s.trim sh t).port.isEmpty
  k.quiet && k.tadds.isEmpty && !sorting

/-! ### The test (R394 to R401) -/

/-- The scan grant of a core under test: Saggar's registers cleared, the latch set; the latch clears with the core's reset. -/
def State.testGrant (s : State) : State :=
  let (n, s) := s.takeFree
  { s with sec := { s.sec with grant := none, cleared := n } }

/-- A physical core is fenced off and its contents are lost. -/
def State.fenceCore (s : State) (p : Nat) : State := s.modCore p fun k => { k.wipe with use := .fenced }

/-- Findings repaired in order; none where one has no repair, or recurs after a repair of the last 30 days (R399, R400). -/
def State.repairAll (s : State) (sh p : Nat) (l : List TestFinding) : Option State :=
  if l.any (s.recurs (9 * sh + p)) then none
  else l.foldl (fun (a : Option State) f => a.bind fun s => s.repairCore sh p f) (some s)

/-- The results of a core's test: an entry of each finding, or an entry of each BIST that found nothing. -/
def State.noteTest (s : State) (sh p : Nat) (l : List TestFinding) (res : Nat) : State :=
  let bad := l.filter (· ≠ .pass)
  match bad with
  | [] => (s.recordService (resultW0 1 sh p 1 0 0) 0).recordService (resultW0 1 sh p 2 0 0) 0
  | _ => bad.foldl (fun s f => let r := coreResult sh p f res; s.recordService r.w0 r.w1) s

/-- The core was tested: with its repair map reapplied it waits to take its number back, or it retires and the spare keeps
the number (R394). `spare` is the spare index that its repair record names. -/
def State.judgeCore (s : State) (sh p spare : Nat) (l : List TestFinding) (retestOk : Bool) : State × Bool :=
  match s.repairAll sh p l with
  | some r =>
    if retestOk ∨ l.all (· = .pass) then ((r.noteTest sh p l 1).applyMap (9 * sh + p), true)
    else ((r.noteTest sh p l 2).retireIdle sh p spare, false)
  | none => ((s.noteTest sh p l 2).retireIdle sh p spare, false)

/-- The test of the spare that covers no number, at its own turn. -/
def State.testSpare (s : State) (sh q : Nat) (l : List TestFinding) (retestOk : Bool) : State :=
  let (s, good) := (s.testGrant.fenceCore (9 * sh + q)).judgeCore sh q 0xF l retestOk
  let s := if good then s.modCore (9 * sh + q) fun k => { k with use := .retention } else s
  { s with test := { s.test with st := .idle, next := 9 * sh + 9 } }

/-- The test of the core behind logical number c, covered by the spare q. -/
def State.testCore (s : State) (sh c q : Nat) (l : List TestFinding) (retestOk : Bool) (dst : Nat) : State :=
  match s.phys sh c with
  | none => s
  | some key =>
    let p := key % 9
    let (s, good) := (((s.handover sh c q true dst).testGrant).fenceCore key).judgeCore sh p q l retestOk
    { s with test := { s.test with
        st := if good then .returning else .idle, shelf := sh, logical := c, phys := p, next := 9 * sh + c + 1 } }

/-- The in-service interval expires. `findings`: what the tests find in the core; `retestOk`: the retest of the repaired
memories passes; `dst`: where firmware stores the maxima. Until the core reaches a boundary the test stays in handover,
and a later run of this command goes on. -/
def execInServiceTest (findings : List TestFinding) (retestOk : Bool) (dst : Fin 12288001) (s : State) : Out :=
  if s.odVal 0x703001 1 = 0 ∨ (s.boot ≠ .ready ∧ s.boot ≠ .degraded) ∨ (s.test.st ≠ .idle ∧ s.test.st ≠ .handover) then .next s
  else match s.nextTest with
    | none => .next { s with test := { s.test with st := .idle } }
    | some i =>
      let sh := i / 9
      match s.spareOf sh with
      | none => .next s
      | some q =>
        if i % 9 = 8 then .next (s.testSpare sh q findings retestOk)
        else if s.testBoundary sh (i % 9) then .next (s.testCore sh (i % 9) q findings retestOk dst)
        else .next { s with test := { s.test with
          st := .handover, shelf := sh, logical := i % 9, phys := (s.phys sh (i % 9)).getD 0 % 9 } }

/-- The tested core takes its number back at the spare's next boundary, and the spare returns to retention. -/
def execInServiceHandback (dst : Fin 12288001) (s : State) : Out :=
  let x := s.test
  match s.phys x.shelf x.logical with
  | none => .next s
  | some q =>
    if x.st ≠ .returning ∨ !s.testBoundary x.shelf x.logical then .next s
    else
      let s := (s.handover x.shelf x.logical x.phys true dst).modCore q fun k =>
        { k.wipe with use := .retention, repair := k.repair }
      .next { s with test := { s.test with st := .idle } }

/-! ### Faults of the firmware window and of management data (R402) -/

/-- Granules good again after firmware has written them whole. -/
def State.rewriteGranule (s : State) (g : Nat) : State :=
  { s with ecc := s.ecc.written (512 * g) 512 }

/-- A shelf is reset: a mode change in step 2 rolls back (R430), its works end with a status, its cores, SRAM, trim cores
and Churn unit start afresh (R426), and its cores have their repair maps again before they serve. DEDUCED, log 80. -/
def State.resetShelf (s : State) (sh : Nat) (st : Status) : State :=
  let s := s.rollBackMode
  let s := (s.worksOn sh).foldl (fun s i => s.workFail i st) s
  let s := if s.test.shelf = sh then s.abandonTest else s
  (s.wipeShelf sh).applyMaps sh

/-- A management core restarts from the running bank, `us` microseconds after its fault; answers to its operations find no
one (R402). -/
def State.restartManagement (s : State) (core us : Nat) : State :=
  let s := s.abandonOps fun o => match o.who with
    | .trim h k _ => h == 16 && k == core
    | _ => false
  ((s.modTrim 16 core Trim.wipe).addDown us 128).emit (.log none .firmware [0x402, core])

/-- A trim core fetches an uncorrectable line at offset `o` of the firmware window: firmware rewrites the granule and
reloads the shelf; `us` microseconds pass. A management core, which has no shelf, restarts (DEDUCED, log 80). -/
def execTrimFetchFault (t : TrimRef) (o : Fin 0x10000000) (us : Nat) (s : State) : Out :=
  let g := (s.sysBase + o.val) / 512
  if !s.ecc.bad.contains g then .next s
  else if t.sh.val = 16 then .next ((s.rewriteGranule g).restartManagement t.k us)
  else .next (((s.resetShelf t.sh St.memoryUncorrectable).rewriteGranule g).addDown us 8)

/-- A fault in the data region of management core `core`: the region is rewritten and the core restarts from the running
bank; `us` microseconds pass. -/
def execManagementDataFault (core : Fin 2) (o : Fin 0x1000000) (us : Nat) (s : State) : Out :=
  let g := (s.sysBase + 0x10000000 + 0x1000000 * core.val + o.val) / 512
  if !s.ecc.bad.contains g then .next s
  else .next ((s.rewriteGranule g).restartManagement core us)

/-! ### Shelf reset (R426) -/

/-- OD 2090.02: in partition mode, a shelf of the session's partition. -/
def State.odShelfReset (s : State) (c v : Nat) : State × Status :=
  if s.mode.cur.four ∧ s.partOf v ≠ (s.ctx c).part then (s, St.odValueInvalid)
  else (s.resetShelf v St.aborted, St.ok)

/-- OD 2090.02, or firmware's reset of a shelf on a fault with status `st` (no request). -/
def execShelfReset (q : Option OdReq) (sh : Fin 16) (st : Status) (s : State) : Out :=
  match q with
  | some q => .next (s.odCommand q (· == 0x209002) fun s _ v => s.odShelfReset q.ctx v)
  | none => .next (s.resetShelf sh st)

end Sys2Proof.Machine
end

