-- ==== Sys2Proof/Machine/Stats.lean ====
section
/-!
DEFINITION. Snapshots of monitors and skim counters (R102, R103).
-/

namespace Sys2Proof.Machine

/-- The 32 bytes of a monitor entry (R99). -/
def Monitor.bytes (m : Monitor) : List Byte :=
  natLE m.count.toNat 8 ++ natLE m.sse.toNat 8 ++ natLE m.ssq.toNat 8 ++ natLE m.amax.toNat 8

/-- The 256 bytes of a skim entry (R101). -/
def State.skimBytes (s : State) (p tag : Nat) : List Byte :=
  (List.range 16).flatMap fun f =>
    let k := tabGet {} s.stats.skim (16 * (4096 * p + tag) + f)
    natLE k.clip.toNat 8 ++ natLE k.flush.toNat 8

/-- The selected entries of a command word, in ascending tag order. -/
def State.snapBody (s : State) (p cmd : Nat) : List Byte :=
  let first := bits cmd 11 0
  (List.range (bits cmd 23 12 + 1 - first)).flatMap fun i =>
    let tag := first + i
    (if bit cmd 24 then (tabGet {} s.stats.drainMon (4096 * p + tag)).bytes else [])
      ++ (if bit cmd 25 then (tabGet {} s.stats.emitMon (4096 * p + tag)).bytes else [])
      ++ (if bit cmd 26 then s.skimBytes p tag else [])

/-- CLR: each copied entry is zeroed in the step that copies it. -/
def State.snapClear (s : State) (p cmd : Nat) : State :=
  let lo := 4096 * p + bits cmd 11 0
  let n := bits cmd 23 12 + 1 - bits cmd 11 0
  let t := s.stats
  { s with stats := { t with
      drainMon := if bit cmd 24 then tabClear t.drainMon lo n else t.drainMon
      emitMon := if bit cmd 25 then tabClear t.emitMon lo n else t.emitMon
      skim := if bit cmd 26 then tabClear t.skim (16 * lo) (16 * n) else t.skim } }

def State.snapshot (s : State) (p : Nat) : Snapshot := tabGet {} s.stats.snap p

def State.setSnap (s : State) (p : Nat) (f : Snapshot → Snapshot) : State :=
  { s with stats := { s.stats with snap := tabMod {} s.stats.snap p f } }

/-- Key of OD 8020.02 for a partition. -/
def snapAddrKey (p : Nat) : Nat := 0x802002 + 2 ^ 24 * p

/-- A snapshot command: refused while BUSY, for an empty tag range, or for an address outside the partition's HBM;
otherwise the copy is taken and the record is on its way. The reserved bits are ignored (R7). -/
def State.odSnapshot (s : State) (c v : Nat) : State × Status :=
  let p := s.odPart c
  let reject (st : Status) : State × Status := (s.setSnap p fun q => { q with st := .failed }, st)
  if (s.snapshot p).st = .busy then (s, St.odBusy)
  else if bits v 23 12 < bits v 11 0 then reject St.odValueInvalid
  else
    let body := s.snapBody p v
    let a := BitVec.ofNat 64 (s.odVal (snapAddrKey p) 0)
    let n := 64 + body.length
    match s.localHbm a n with
    | none => reject St.addressInvalid
    | some o =>
      if s.sysBase < o + n ∨ s.offsetPart o ≠ some p then reject St.addressInvalid
      else match s.regionCheck (Init.firmware p) o n true with
        | some st => reject (if st = St.accessDenied then St.addressInvalid else st)
        | none =>
          let s := if bit v 27 then s.snapClear p v else s
          (s.setSnap p fun _ => { st := .busy, cmd := BitVec.ofNat 32 v, addr := a, started := s.tsc
                                  secure := (s.ctx c).secure, body := body }, St.ok)

def execSnapshotCommand (q : OdReq) (s : State) : Out :=
  .next (s.odCommand q (· == 0x802001) fun s _ v => s.odSnapshot q.ctx v)

/-- The record is written, with its header, and the state reads DONE; a write that fails reads FAILED. -/
def execSnapshotDone (part : Fin 4) (s : State) : Out :=
  let q := s.snapshot part
  if q.st ≠ .busy then .next s else
  let head := natLE (coarseTime q.secure q.started) 8 ++ natLE (coarseTime q.secure s.tsc) 8 ++ natLE q.cmd.toNat 8 ++ natLE 0 40
  let (s, st) := s.engineWrite (Init.firmware part) q.addr (head ++ q.body)
  .next (s.setSnap part fun q => { q with st := if st = 0 then .done else .failed, body := [] })

end Sys2Proof.Machine
end

