-- ==== Sys2Proof/Machine/Management.lean ====
section
/-!
DEFINITION. Object-dictionary writes, sessions, the device reset command and live firmware update (R350, R354, R415 to
R425).
-/

namespace Sys2Proof.Machine

/-! ### Writes of plain entries (R415) -/

/-- A region of partition p carries BASE_RO (R420). -/
def State.baseLocked (s : State) (p : Nat) : Bool :=
  s.regions.any fun e => e.2.v && e.2.baseRo && decide (16 ≤ e.1) && s.entryPart e.1 == p

/-- The shared allowance and the partition caps stay within OD 3030.02 when one entry takes a new value (R375). -/
def State.capsFit (s : State) (k v : Nat) : Bool :=
  let cap (key d : Nat) : Nat := if key = k then v else s.odVal key d
  decide (140 + ((List.range 4).map fun p => cap (0x303101 + p) 340).sum ≤ cap 0x303002 1500)

/-- A voltage curve lies between the fused default and 800 mV and does not fall (R369). -/
def curveOk (v : Nat) : Bool :=
  let l := (chunks 2 16 (natLE v 32)).map leNat
  (l.zipIdx.all fun e => decide (600 + 10 * e.2 ≤ e.1) && decide (e.1 ≤ 800))
    && (List.range 15).all fun i => decide (l.getD i 0 ≤ l.getD (i + 1) 0)

/-- Logical cores of a shelf whose owner a new OD 2060 value changes. -/
def State.ownersChange (s : State) (sh v : Nat) : List Nat :=
  (List.range 8).filter fun c => bits v (2 * c + 1) (2 * c) != bits (s.shelf sh).owner.toNat (2 * c + 1) (2 * c)

/-- The staged mode items. -/
def State.stageItem (s : State) (f : ModeItems → ModeItems) : State × Status :=
  if s.mode.st ≠ .stable then (s, St.odBusy) else ({ s with mode := { s.mode with staged := f s.mode.staged } }, St.ok)

/-- OD 7011.01: the core behind the number retires (R75, R85). The request says neither whether the core answers its reads
nor where in the shelf SRAM firmware stores its maxima: it answers, and the place is a free value. DESIGN CHOICE, log 81. -/
def State.odRetire (s : State) (v : Nat) : State × Status :=
  if (s.phys (v / 8) (v % 8)).isNone then (s, St.odValueInvalid)
  else
    let (n, s) := s.takeFree
    (s.retireInService (v / 8) (v % 8) true (n % 12288001) none, St.ok)

/-- Store the value of a plain entry. -/
def State.odPut (s : State) (c : Nat) (r : OdRow) (k v : Nat) : State × Status := (s.odStoreVal c r k v, St.ok)

/-- A write to an entry that has no behaviour of its own, with the checks of its home chapter. -/
def State.odPlain (s : State) (c : Nat) (r : OdRow) (k v : Nat) : State × Status :=
  let sub := k % 256
  let put := s.odPut c r k v
  let need (ok : Bool) : State × Status := if ok then put else (s, St.odValueInvalid)
  match k / 256 with
  | 0x2010 => s.stageItem fun m => { m with four := v != 0 }
  | 0x2011 => s.stageItem fun m => { m with drainFmt := BitVec.ofNat 8 v }
  | 0x3010 => s.stageItem fun m => { m with profile := v }
  | 0x2060 =>
    if (s.ownersChange (sub - 1) v).any fun o => !(s.lcore (sub - 1) o).tile.queue.isEmpty then (s, St.odBusy)
    else (s.modShelf (sub - 1) fun h => { h with owner := BitVec.ofNat 16 v }, St.ok)
  | 0x3020 => need ([4, 8, 16, 32].contains v)
  | 0x3030 => need (sub != 2 || s.capsFit k v)
  | 0x3031 => need (s.capsFit k v)
  | 0x3060 => need (curveOk v)
  | 0x4020 => (s.modCtx c fun x => { x with regSel := BitVec.ofNat 8 v }, St.ok)
  | 0x4040 => need (v % 4096 == 0 && (s.localHbm (BitVec.ofNat 64 v) 4096).isSome)
  | 0x5010 =>
    let (lo, n) := s.userArea (sub - 1)
    need (v % 0x200000 == 0 && decide (lo ≤ v) && decide (v < lo + n))
  | 0x5011 => need (v % 0x200000 == 0)
  | 0x5030 => if s.baseLocked (odIndexPart k) then (s, St.odAccessDenied) else need (v % 32 == 0)
  | 0x5031 => if s.baseLocked (odIndexPart k) then (s, St.odAccessDenied) else put
  | 0x7011 => s.odRetire v
  | 0x7020 => (s.modCtx c fun x => { x with resSel := BitVec.ofNat 16 v }, St.ok)
  | 0xA030 => (s.modCtx c fun x => { x with ctxSel := BitVec.ofNat 16 v }, St.ok)
  | _ => put

/-- Entries whose writes are rows of their own. -/
def odOwn : List Nat :=
  [0x102002, 0x103001, 0x104001, 0x200003, 0x207003, 0x207004, 0x209001, 0x209002, 0x305002, 0x400101, 0x401002, 0x402002,
    0x403001, 0x403003, 0x404002, 0x802001, 0x903005]

def execOdWrite (q : OdReq) (s : State) : Out :=
  .next (s.odCommand q (fun k => !odOwn.contains k) fun s r v => s.odPlain q.ctx r (odKeyOf q) v)

/-! ### Session levels (R416) -/

/-- Another session holds the one expert level of this world and isolation unit. -/
def State.expertTaken (s : State) (c : Nat) : Bool :=
  let x := s.ctx c
  s.port.ctxs.any fun e => e.1 != c && e.2.expert && e.2.secure == x.secure && (x.secure || s.ctxPart e.1 == s.ctxPart c)

def State.odLevel (s : State) (c v : Nat) : State × Status :=
  let set (b : Bool) : State × Status := (s.modCtx c fun x => { x with expert := b }, St.ok)
  if v = 0 then set false
  else if !(s.ctx c).secure ∧ s.odVal 0x405001 0 = 0 then (s, St.odAccessDenied)
  else if s.expertTaken c then (s, St.odBusy)
  else set true

def execSessionLevel (q : OdReq) (s : State) : Out :=
  .next (s.odCommand q (· == 0x104001) fun s _ v => s.odLevel q.ctx v)

/-- An expert session sees no OD_REQ for OD 1040.02. -/
def execExpertSessionTimeout (c : Fin 16384) (s : State) : Out :=
  .next (s.modCtx c fun x => { x with expert := false })

/-! ### Device reset command (R420, R427) -/

def State.odReset (s : State) (v : Nat) : State × Status :=
  if v ≠ 0x52535444 then (s, St.odValueInvalid) else (s.deviceReset .deviceCommand, St.ok)

def execDeviceReset (q : OdReq) (s : State) : Out :=
  .next (s.odCommand q (· == 0x209001) fun s _ v => s.odReset v)

/-! ### Firmware update (R348, R349, R423 to R425) -/

/-- The image in HBM at an offset: its header's fields (R348). -/
def State.imageAt (s : State) (o : Nat) : Image :=
  { kind := s.hbmNat (o + 6) 1, measure := BitVec.ofNat 256 (leNat (sha256 (s.hbmRead o 256)))
    version := BitVec.ofNat 32 (s.hbmNat (o + 8) 4), svn := s.hbmNat (o + 0xC) 4 }

/-- A signing key whose hash is fused in a slot that is not revoked. -/
def keyFused (pub : List Byte) : Bool :=
  (List.range 4).any fun i =>
    decide (Config.fuse (0x4B455900 + i) = bigNat (sha256 pub)) && decide (Config.fuse (0x52455600 + i) = 0)

/-- The checks of R349 on the image at an offset, for an update of a KIND. An image with an uncorrectable granule fails. -/
def State.imageValid (s : State) (o kind : Nat) : Bool :=
  let blen := s.hbmNat (o + 0x10) 8
  let pub := s.hbmRead (o + 0x80) 65
  let img := s.imageAt o
  s.hbmNat o 4 == 0x54464D57 && s.hbmNat (o + 4) 2 == 0x140 && img.kind == kind
    && decide (o + 0x140 + blen ≤ s.hbmCap) && (s.hbmLoad o (0x140 + blen)).isSome
    && keyFused pub && Config.ecdsaOk (bigNat pub) (bigNat (sha256 (s.hbmRead o 256))) (bigNat (s.hbmRead (o + 0x100) 64))
    && s.hbmRead (o + 0x40) 32 == sha256 (s.hbmRead (o + 0x140) blen)
    && decide (s.fw.fused.getD (kind - 1) 0 ≤ img.svn) && decide (img.svn ≤ 31)

/-- A bank with one KIND's image replaced. -/
def Bank.withImage (b : Bank) (i : Image) : Bank :=
  match i.kind with
  | 1 => { b with sgf := i, valid := true }
  | 2 => { b with mgf := i, valid := true }
  | _ => { b with trf := i, valid := true }

/-- STAGE of a KIND. -/
def State.odStage (s : State) (kind : Nat) : State × Status :=
  let a := BitVec.ofNat 64 (s.odVal 0x404001 0)
  if kind < 1 ∨ 3 < kind then (s, St.odValueInvalid)
  else if (s.fw.ust ≠ .idle ∧ s.fw.ust ≠ .failed) ∨ s.mode.st ≠ .stable then (s, St.modeBusy)
  else if s.hbmNat (gaOff a + 6) 1 ≠ kind then (s, St.odValueInvalid)
  else ({ s with fw := { s.fw with ust := .verifying, stage := some (kind, a) } }, St.ok)

/-- ACTIVATE, by the KIND that is pending (R424). -/
def State.odActivate (s : State) : State × Status :=
  match s.fw.ust, s.fw.pend with
  | .pending, some i =>
    match i.kind with
    | 1 => (({ s with fw := { s.fw with activeB := !s.fw.activeB } }.deviceReset .firmwareActivate), St.ok)
    | 2 => ({ s with fw := { s.fw with ust := .switching, pause := true, pauseAt := s.tsc } }, St.ok)
    | _ => ({ s with fw := { s.fw with ust := .rollout, trfsh := 0 } }, St.ok)
  | _, _ => (s, St.modeBusy)

/-- ABANDON: the inactive bank is invalid. -/
def State.odAbandon (s : State) : State × Status :=
  if s.fw.ust ≠ .pending then (s, St.modeBusy)
  else
    let bad (b : Bank) : Bank := { b with valid := false }
    let f := s.fw
    ({ s with fw := { f with
      bankA := if f.activeB then bad f.bankA else f.bankA
      bankB := if f.activeB then f.bankB else bad f.bankB
      ust := .idle, result := St.ok, pend := none } }, St.ok)

/-- OD 4040.02: action in [15:8], KIND in [7:0]. -/
def State.odUpdate (s : State) (v : Nat) : State × Status :=
  match v / 256 with
  | 1 => s.odStage (v % 256)
  | 2 => if v % 256 ≠ 0 then (s, St.odValueInvalid) else s.odActivate
  | 3 => if v % 256 ≠ 0 then (s, St.odValueInvalid) else s.odAbandon
  | _ => (s, St.odValueInvalid)

/-- The action that a request names; one that names none goes to the row of STAGE. -/
def updateAction (q : OdReq) : Nat := match leNat q.value / 256 with
  | 2 => 2
  | 3 => 3
  | _ => 1

def execUpdateStage (q : OdReq) (s : State) : Out :=
  .next (s.odCommand q (fun k => k == 0x404002 && updateAction q == 1) fun s _ v => s.odUpdate v)

def execUpdateActivate (q : OdReq) (s : State) : Out :=
  .next (s.odCommand q (fun k => k == 0x404002 && updateAction q == 2) fun s _ v => s.odUpdate v)

def execUpdateAbandon (q : OdReq) (s : State) : Out :=
  .next (s.odCommand q (fun k => k == 0x404002 && updateAction q == 3) fun s _ v => s.odUpdate v)

/-- Saggar has checked the image, and on success written a complete inactive bank. -/
def execUpdateVerifyDone (s : State) : Out :=
  match s.fw.ust, s.fw.stage with
  | .verifying, some (kind, a) =>
    let o := gaOff a
    if s.imageValid o kind then
      let img := s.imageAt o
      let f := s.fw
      let bank := f.running.withImage img
      .next { s with fw := { f with
        bankA := if f.activeB then bank else f.bankA
        bankB := if f.activeB then f.bankB else bank
        ust := .pending, result := St.ok, pend := some img, stage := none } }
    else
      let n := 0x140 + s.hbmNat (o + 0x10) 8
      .next (({ s with fw := { s.fw with ust := .failed, result := St.signatureInvalid, stage := none } } : State).noteReads
        [(o, if o + n ≤ s.hbmCap then n else 0x140)])
  | _, _ => .next s

/-! ### TRF rollout and its revert -/

/-- The shelf whose turn it is: ascending in a rollout, descending in a revert. -/
def State.trfShelf (s : State) : Option Nat :=
  let new (sh : Nat) : Bool := s.fw.trfsh.getLsbD sh
  match s.fw.ust with
  | .rollout => (List.range 16).find? fun sh => !new sh
  | .reverting => (List.range 16).reverse.find? new
  | _ => none

/-- A job boundary of every core of a shelf. -/
def State.shelfBoundary (s : State) (sh : Nat) : Bool :=
  (List.range 8).all fun c => (s.lcore sh c).quiet

/-- A trim core starts afresh. -/
def State.restartTrim (s : State) (sh k : Nat) : State :=
  { s with ops := s.ops.filter fun o => match o.who with
      | .trim h j _ => h ≠ sh || j ≠ k
      | _ => true }.modTrim sh k Trim.wipe

/-- The trim cores of the shelf in turn switch, one by one; at the end each core's owner is the one it had. -/
def execTrfShelfSwitch (s : State) : Out :=
  match s.trfShelf with
  | none => .next s
  | some sh =>
    if s.sec.resetting.contains (s.partOf sh) ∨ !s.shelfBoundary sh then .next s
    else
      let s := (List.range 4).foldl (fun s k => s.restartTrim sh k) s
      .next (s.setTrf sh (s.fw.ust = .rollout)).settleTrf

/-- A trim core of the shelf in turn fails to start the new TRF, with status `st`: it restarts on the old image, and the
rollout reverts. -/
def execTrfStartFailure (t : TrimRef) (st : Status) (s : State) : Out :=
  if s.fw.ust ≠ .rollout ∨ s.trfShelf ≠ some t.sh.val then .next s
  else
    let s := s.restartTrim t.sh t.k
    .next { s with fw := { s.fw with ust := .reverting, result := st } }.settleTrf

/-! ### The management pause (R285, R424) -/

/-- The write of any entry, whichever row it is. -/
def State.odEffect (s : State) (q : OdReq) (r : OdRow) (v : Nat) : State × Status :=
  let c := q.ctx.val
  match odKeyOf q with
  | 0x102002 => s.odClaim v
  | 0x103001 => s.odQuote c v
  | 0x104001 => s.odLevel c v
  | 0x200003 => s.odMode v (if v % 4 = 2 then 2 else 1)
  | 0x207003 => s.odAbortWork c v
  | 0x207004 => s.odAbortGroup c v
  | 0x209001 => s.odReset v
  | 0x209002 => s.odShelfReset c v
  | 0x305002 => s.odPark v
  | 0x400101 => s.odRelease v
  | 0x401002 => s.odCommitVersions v
  | 0x402002 => s.odRegion c v
  | 0x403001 => s.odPartReset v
  | 0x403003 => s.odRegionScrub v
  | 0x404002 => s.odUpdate v
  | 0x802001 => s.odSnapshot c v
  | 0x903005 => s.odRetrain v
  | k => s.odPlain c r k v

/-- Serve an OD_REQ: a write, or a read. -/
def State.serveOd (s : State) (q : OdReq) (write : Bool) : State :=
  if write then s.odCommand q (fun _ => true) fun s r v => s.odEffect q r v
  else if s.fw.pause then
    if s.fw.heldReqs.length < 256 then { s with fw := { s.fw with heldReqs := s.fw.heldReqs ++ [(q, false)] } } else s
  else s.odRead q.ctx q.msn (odKeyOf q) q.value.length

/-- The management cores run again, on the new MGF; the held requests are served in order. -/
def execManagementRestartDone (s : State) : Out :=
  if !s.fw.pause then .next s else
  let held := s.fw.heldReqs
  let s := s.addDown ((s.tsc - s.fw.pauseAt) / 1000) 128
  let s := { s with fw := { s.fw with pause := false, heldReqs := [] } }
  let s := match s.fw.ust, s.fw.pend with
    | .switching, some i => { s with fw := { s.fw with running := { s.fw.running with mgf := i } } }.updateDone
    | _, _ => s
  .next (held.foldl (fun s e => s.serveOd e.1 e.2) s)

end Sys2Proof.Machine
end

