-- ==== Sys2Proof/Machine/Module.lean ====
section
/-!
DEFINITION. The module's pins, rails, laser cartridges and leak sensor (R435 to R443).
-/

namespace Sys2Proof.Machine

/-! ### What the pins and indicators show -/

/-- A bay's indicator (R435, R436). -/
inductive Indicator where
  | green
  | flashingGreen
  | amber
  | flashingAmber
  | off
deriving DecidableEq, Repr

/-- The cartridge of a bay: true is bay 1. -/
def State.cart (s : State) (bay : Bool) : Cart := if bay then s.mod.cart1 else s.mod.cart0

def State.setCart (s : State) (bay : Bool) (c : Cart) : State :=
  { s with mod := if bay then { s.mod with cart1 := c } else { s.mod with cart0 := c } }

def State.indicator (s : State) (bay : Bool) : Indicator :=
  if s.mod.refused = some bay then .flashingAmber
  else match s.cart bay with
    | .supplying => .green
    | .warming => .flashingGreen
    | .releasing | .faulted => .amber
    | .absent | .off => .off

/-- ALERT_N is low (R438). -/
def State.alertLow (s : State) : Bool :=
  s.power.trip || s.boot == .degraded || s.boot == .failed || s.boot == .dead
    || s.mod.cart0 != .supplying || s.mod.cart1 != .supplying || s.mod.wet || s.mod.railFault

/-- A record of the device event log about the module: what happened, and to which bay or rail. -/
def State.logModule (s : State) (what which : Nat) : State := s.emit (.log none .module [what, which])

/-! ### Rails (R439 to R443) -/

/-- The switched rails come up in order, and PGOOD is released. -/
def State.powerUp (s : State) : State :=
  if s.mod.aon ∧ s.mod.pwrEn ∧ !s.mod.rails then { s with mod := { s.mod with rails := true, pgood := true } } else s

/-- PGOOD goes low, the die is reset, the rails ramp down: all die state and all HBM contents are lost. -/
def State.powerDown (s : State) : State :=
  if s.mod.rails then
    { s.dieReset true with boot := .held, cause := .powerOn, mod := { s.mod with rails := false, pgood := false, cold := true } }
  else s

/-- The input reaches the start threshold: VDD_AON comes up, the straps are read, and PWR_EN is sampled. -/
def execInputPowerApplied (straps : Fin 8) (s : State) : Out :=
  if s.mod.input then .next s
  else .next ({ s with mod := { s.mod with input := true, aon := true, pos := straps } }).powerUp

def execPwrEnRise (s : State) : Out := .next ({ s with mod := { s.mod with pwrEn := true } }).powerUp

def execPwrEnFall (s : State) : Out := .next { s.powerDown with mod := { s.powerDown.mod with pwrEn := false } }

/-- The input is below 43 V for 100 µs: VDD_AON goes too, and with it a rail fault's memory. -/
def execInputUndervoltage (s : State) : Out :=
  let s := s.powerDown
  .next { s with mod := { s.mod with input := false, aon := false, railFault := false } }

/-- The input is above 58 V for 100 µs; VDD_AON stays up. -/
def execInputOvervoltage (s : State) : Out := .next s.powerDown

/-- A rail other than VDD_AC leaves its tolerance for 10 µs: 0 VDD_AON, 1 VPP_HBM, 2 VDD_SOC, 3 VDD_TRIM, 4 VDDQ_HBM,
5 VDD_OPT. -/
def execRailFault (rail : Fin 6) (s : State) : Out :=
  if s.mod.rails then .next (({ s with mod := { s.mod with railFault := true } }.powerDown).logModule 0x441 rail)
  else .next s

/-! ### Laser cartridges (R435, R436) -/

/-- A lever reaches its first detent. The release is refused while the other cartridge does not supply. -/
def execCartridgeRelease (bay : Bool) (s : State) : Out :=
  if [Cart.absent, .releasing, .off].contains (s.cart bay) then .next s
  else if s.cart (!bay) ≠ .supplying then .next ({ s with mod := { s.mod with refused := some bay } }.logModule 0x436 bay.toNat)
  else .next ((({ s with mod := { s.mod with refused := none } }).setCart bay .releasing).logModule 0x437 bay.toNat)

/-- The released cartridge gives no more light. -/
def execCartridgeOff (bay : Bool) (s : State) : Out :=
  if s.cart bay = .releasing then .next ((s.setCart bay .off).logModule 0x438 bay.toNat) else .next s

/-- A cartridge is withdrawn. Before its indicator went off its light drops at once; what that does to lanes and to the
host port reaches the model as lane, flit and port rows of their own. -/
def execCartridgePull (bay : Bool) (s : State) : Out :=
  if s.cart bay = .absent then .next s
  else
    let r := if s.mod.refused = some bay then none else s.mod.refused
    .next ((({ s with mod := { s.mod with refused := r } }).setCart bay .absent).logModule 0x439 bay.toNat)

/-- A cartridge latches and warms up. -/
def execCartridgeLatch (bay : Bool) (s : State) : Out :=
  if s.cart bay = .absent then .next ((s.setCart bay .warming).logModule 0x43A bay.toNat) else .next s

/-- The new cartridge has locked its wavelengths; both supply half the power. -/
def execCartridgeWarmupDone (bay : Bool) (s : State) : Out :=
  if s.cart bay = .warming then .next ((s.setCart bay .supplying).logModule 0x43B bay.toNat) else .next s

def execCartridgeFault (bay : Bool) (s : State) : Out :=
  if s.cart bay = .absent then .next s else .next ((s.setCart bay .faulted).logModule 0x43C bay.toNat)

/-! ### The leak sensor (R438, R446) -/

def execLeakSensorWet (s : State) : Out :=
  .next ({ s with mod := { s.mod with wet := true } }.logModule 0x43D 0)

def execLeakSensorDry (s : State) : Out := .next { s with mod := { s.mod with wet := false } }

end Sys2Proof.Machine
end

