-- ==== Sys2Proof/Machine/Receive.lean ====
section
/-!
DEFINITION. What arrives: Marale packets at the host port and flits at the fabric (R263, R269 to R288, R293 to R302).
-/

namespace Sys2Proof.Machine

/-- The next state of an answer that always is one. -/
def stateOf (s : State) (o : Out) : State :=
  match o with
  | .next s => s
  | _ => s

/-- A request lands as its OPC says; any other OPC is rejected (R262, R263). -/
def State.land (s : State) (opc : Nat) (r : Request) : State :=
  match opc with
  | 1 => stateOf s (execPut r s)
  | 2 => stateOf s (execGet r s)
  | 3 => stateOf s (execAtomicAdd r s)
  | 4 => stateOf s (execAtomicSwap r s)
  | 5 => stateOf s (execAtomicCas r s)
  | 6 => stateOf s (execTallyAdd r s)
  | 7 => stateOf s (execPutSignal r s)
  | 8 => stateOf s (execFence r s)
  | _ => s.answer opc r (failure St.rmCmdInvalid)

/-- Response segments so far, in order of their offsets. -/
def joinParts (l : List (Nat × List Byte)) : List Byte :=
  (l.mergeSort fun a b => decide (a.1 ≤ b.1)).flatMap (·.2)

/-- Bytes of data that the response to an operation carries (R262). -/
def RemOp.answerLen (o : RemOp) : Nat :=
  match o.opc with
  | 2 => o.wireLen
  | 3 | 4 | 5 => 8
  | _ => 0

/-- A response segment of operation `o`: the first segment's status counts; the response is whole when it failed, or when
all its data has come. -/
def State.answerPart (s : State) (o : RemOp) (off : Nat) (st : Status) (sat : Bool) (data : List Byte) : State :=
  if off = 0 ∧ st ≠ 0 then stateOf s (execResponse o.id ⟨st, sat, []⟩ s)
  else
    let parts := o.parts ++ [(off, data)]
    let all := joinParts parts
    if o.answerLen ≤ all.length then stateOf s (execResponse o.id ⟨St.ok, sat, all.take o.answerLen⟩ s)
    else { s with ops := s.ops.map fun (q : RemOp) => if q.id = o.id then { q with parts := parts } else q }

/-! ### Packets (R269 to R275) -/

/-- Bytes of a body that starts at offset 24, as a number, most significant byte first (R6). -/
def packetField (p : Packet) (o n : Nat) : Nat := extField p.body o n

/-- Queue Q of a packet: control is true. -/
def packetQ (p : Packet) : Bool := p.flags.getLsbD 7

/-- The fields of a UDP payload's common header, most significant byte first (R6, R269); none of a shorter one. -/
def packetOf (src : BitVec 128) (ce : Bool) (b : List Byte) : Option Packet :=
  let f (o n : Nat) : Nat := beNat ((b.drop o).take n)
  if b.length < 24 then none
  else some {
    src := src, ver := BitVec.ofNat 8 (f 0 1), typ := BitVec.ofNat 8 (f 1 1), flags := BitVec.ofNat 8 (f 2 1)
    rsv := BitVec.ofNat 8 (f 3 1), dctx := BitVec.ofNat 16 (f 4 2), sctx := BitVec.ofNat 16 (f 6 2)
    psn := BitVec.ofNat 32 (f 8 4), ackpsn := BitVec.ofNat 32 (f 12 4), msn := BitVec.ofNat 32 (f 16 4)
    segoff := BitVec.ofNat 32 (f 20 4), body := b.drop 24, ce := ce }

/-- Reserved header bits are zero and the major version is 1, which an OPEN need not have (R269, R277). -/
def headerOk (p : Packet) : Bool := p.flags &&& 0x0F == 0 && p.rsv == 0 && (p.typ == 1 || p.ver.toNat / 16 == 1)

/-- A TYPE of R270, and an extension as long as the TYPE's. -/
def typeOk (p : Packet) : Bool :=
  let need : Option Nat := match p.typ.toNat with
    | 0x01 | 0x02 | 0x03 | 0x04 | 0x05 | 0x21 => some 0
    | 0x10 => some 40
    | 0x11 | 0x30 | 0x40 | 0x41 => some 8
    | 0x20 => some 4
    | _ => none
  match need with
  | some n => decide (n ≤ p.body.length)
  | none => false

/-- The SACK ranges of an ACK (R281). -/
def packetSack (p : Packet) : List (BitVec 32 × BitVec 32) :=
  if p.typ = 0x20 then
    (List.range (min 4 (packetField p 24 2))).map fun i =>
      (BitVec.ofNat 32 (packetField p (28 + 8 * i) 4), BitVec.ofNat 32 (packetField p (32 + 8 * i) 4))
  else []

/-- The REQUEST that a packet carries (R271). -/
def requestIn (p : Packet) (c : Fin 16384) : Request :=
  { origin := .host c, msn := p.msn, addr := BitVec.ofNat 64 (packetField p 32 8), len := packetField p 28 4, off := p.segoff.toNat
    data := p.body.drop 40, opnd1 := BitVec.ofNat 64 (packetField p 40 8), opnd2 := BitVec.ofNat 64 (packetField p 48 8)
    signal := BitVec.ofNat 64 (packetField p 56 8), point := BitVec.ofNat 8 (packetField p 25 1), cfl := BitVec.ofNat 3 (packetField p 26 1) }

/-- The entry and value bytes of an OD_REQ (R270). -/
def odReqIn (p : Packet) (c : Fin 16384) : OdReq :=
  { ctx := c, msn := p.msn, index := BitVec.ofNat 16 (packetField p 24 2), sub := BitVec.ofNat 8 (packetField p 26 1)
    value := (p.body.drop 8).take (packetField p 28 4) }

/-- Every PSN below this one has come. -/
def Queue.covers (u : Queue) (psn : BitVec 32) : Bool := decide ((psn - u.rx).toNat ≥ 2 ^ 31)

/-- A REQUEST: applied on an OPEN context, answered CONTEXT_INVALID on a DRAINING one. A FENCE waits for the packets before it
(R267). -/
def State.packetRequest (s : State) (p : Packet) (c : Fin 16384) : State :=
  let opc := packetField p 24 1
  let q := packetQ p
  if (s.ctx c).st ≠ .open_ then s.respond c p.msn (failure St.contextInvalid)
  else if opc = 8 ∧ packetField p 28 4 = 0 ∧ !((s.ctx c).queue q).covers p.psn then
    s.modCtx c fun x => x.modQueue q fun u => { u with early := u.early ++ [(p.psn, p.msn)] }
  else s.land opc (requestIn p c)

/-- FENCEs that every packet before them has now reached. -/
def State.lateFences (s : State) (c : Fin 16384) (q : Bool) : State :=
  let u := (s.ctx c).queue q
  let (ready, rest) := u.early.partition fun e => u.covers e.1
  let fence (m : BitVec 32) : Request :=
    { origin := .host c, msn := m, addr := 0, len := 0, off := 0, data := [], opnd1 := 0, opnd2 := 0, signal := 0, point := 0, cfl := 0 }
  ready.foldl (fun s e => s.land 8 (fence e.2)) (s.modCtx c fun x => x.modQueue q fun u => { u with early := rest })

/-- A RESPONSE of the host to an operation of this device. -/
def State.packetResponse (s : State) (p : Packet) (c : Nat) : State :=
  match s.ops.find? fun o => gaSpace o.remote == 15 && hostCtx o.remote == c && o.sent && o.answered.isNone && o.msn == p.msn with
  | none => s
  | some o => s.answerPart o p.segoff.toNat (BitVec.ofNat 16 (packetField p 24 2)) (packetField p 26 1 % 2 == 1)
      ((p.body.drop 8).take (packetField p 28 4))

/-- An OD_REQ: OP 0 reads, OP 1 writes; a length that differs from the value's bytes is invalid. -/
def State.packetOd (s : State) (p : Packet) (c : Fin 16384) : State :=
  let q := odReqIn p c
  if (s.ctx c).st ≠ .open_ then s.odAnswer c p.msn St.contextInvalid []
  else if 1 < packetField p 27 1 ∨ q.value.length ≠ packetField p 28 4 then s.odAnswer c p.msn St.odValueInvalid []
  else s.serveOd q (packetField p 27 1 = 1)

/-- What an accepted packet of a joined context does. ACCEPT, REFUSE and OD_RSP do nothing at the device. -/
def State.packetEffect (s : State) (p : Packet) (c : Fin 16384) : State :=
  match p.typ.toNat with
  | 0x04 => stateOf s (execClose c true s)
  | 0x05 => stateOf s (execClosed c s)
  | 0x10 => s.packetRequest p c
  | 0x11 => s.packetResponse p c
  | 0x30 => s.keepaliveIn c
  | 0x40 => s.packetOd p c
  | _ => s

/-! ### The window (R280, R281) -/

/-- Numbers from E on that have all come: E moves past them. -/
def advance (rx : BitVec 32) (marks : List Nat) : Nat → BitVec 32
  | 0 => rx
  | n + 1 => if marks.contains rx.toNat then advance (rx + 1) marks n else rx

/-- Mark a PSN of the window as received. -/
def Queue.accept (u : Queue) (psn : BitVec 32) : Queue :=
  let marks := psn.toNat :: u.marks
  let rx := advance u.rx marks 1024
  { u with rx := rx, marks := marks.filter fun m => decide ((BitVec.ofNat 32 m - rx).toNat < 1024), due := u.due + 1 }

/-- Acknowledge at once where the packet asks for it or 16 wait. -/
def State.ackIfDue (s : State) (c : Fin 16384) (q ackreq : Bool) : State :=
  let u := (s.ctx c).queue q
  if ackreq ∨ 16 ≤ u.due then stateOf s (execAckTimer c q s) else s

/-- The management pause holds no more OD_REQs (R285). -/
def State.odFull (s : State) (p : Packet) : Bool := p.typ == 0x40 && s.fw.pause && decide (256 ≤ s.fw.heldReqs.length)

/-- A packet of a queue's PSN space: in the window and new, it is accepted and takes effect; behind the window or a
duplicate, it is acknowledged and dropped; ahead of it, dropped. -/
def State.packetWindow (s : State) (p : Packet) (c : Fin 16384) : State :=
  let q := packetQ p
  let u := (s.ctx c).queue q
  let d := (p.psn - u.rx).toNat
  let ackreq := p.flags.getLsbD 6
  let old : State := ((s.countDrop c).modCtx c fun x => x.modQueue q fun u => { u with due := u.due + 1 }).ackIfDue c q ackreq
  if 2 ^ 31 ≤ d then old
  else if 1023 < d then s.countDrop c
  else if u.marks.contains p.psn.toNat then old
  else if s.odFull p then s
  else (((s.modCtx c fun x => x.modQueue q fun u => u.accept p.psn).packetEffect p c).lateFences c q).ackIfDue c q ackreq

/-- A packet of a joined context: CE, acknowledgements, and then ACK, CNP, or a packet of the PSN space. -/
def State.packetJoined (s : State) (p : Packet) (c : Fin 16384) : State :=
  let q := packetQ p
  let s := if p.ce then s.packetCe c q else s
  let s := s.ackUpdate c q p.ackpsn (packetSack p)
  match p.typ.toNat with
  | 0x20 => s
  | 0x21 => stateOf s (execCnp c s)
  | _ => s.packetWindow p c

/-- A packet for a DCTX: dropped for its header or its TYPE, an OPEN, one of a joined context, or one that is refused (R269,
R270, R275). -/
def State.packetIn (s : State) (p : Packet) : State :=
  let c := p.dctx.toNat
  if !headerOk p then s.countDrop c
  else if p.typ = 1 then s.openPacket p
  else if !typeOk p then s
  else if h : c < 16384 then
    if (s.ctx c).joined then s.packetJoined p ⟨c, h⟩ else s.refuseUnknown p.src c p.sctx
  else s.refuseUnknown p.src c p.sctx

/-- The port has an address of this IP version (R287). -/
def State.ipOn (s : State) (ipv6 : Bool) : Bool := s.portCfg (if ipv6 then 2 else 3) 0 != 0

/-- A UDP datagram's checksum passes; zero only under IPv4 (R268). -/
def udpOk (ipv6 : Bool) (k : UdpSum) : Bool :=
  match k with
  | .good => true
  | .bad => false
  | .zero => !ipv6

/-- A UDP payload: a packet, or one that is too short for a header, dropped and counted where it names its context (R269). -/
def State.datagram (s : State) (src : BitVec 128) (ce : Bool) (b : List Byte) : State :=
  match packetOf src ce b with
  | some p => s.packetIn p
  | none => if 6 ≤ b.length then s.countDrop (beNat ((b.drop 4).take 2)) else s

/-- An Ethernet frame arrives: R268 says which are dropped, and which firmware answers. -/
def execPacketReceive (f : Frame) (s : State) : Out :=
  if s.port.port ≠ .up ∨ 2 ≤ f.tags ∨ f.special ∨ !s.ipOn f.ipv6 then .next s
  else match f.content with
    | .udp port sum ce bytes =>
      .next (if port.toNat = s.portCfg 4 19284 ∧ udpOk f.ipv6 sum then s.datagram f.src ce bytes else s)
    | .query k => .next (s.emit (.netReply k f.src))
    | .other => .next s

/-! ### Flits (R293 to R297) -/

/-- Word w of an operation header. -/
def headWord (l : List Byte) (w : Nat) : Nat := beNat ((l.drop (8 * w)).take 8)

/-- The request of a segment: header and data (R297). -/
def segRequest (p : Fin 8) (l data : List Byte) : Request :=
  let w (i : Nat) := headWord l i
  { origin := .peer p (bit (w 0) 33) ⟨bits (w 0) 32 31 % 4, Nat.mod_lt _ (by decide)⟩ (BitVec.ofNat 32 (bits (w 1) 63 32))
    msn := 0, addr := BitVec.ofNat 64 (w 3), len := bits (w 2) 63 32, off := bits (w 1) 31 0, data := data
    opnd1 := BitVec.ofNat 64 (w 4), opnd2 := BitVec.ofNat 64 (w 5), signal := BitVec.ofNat 64 (w 6)
    point := BitVec.ofNat 8 (bits (w 0) 47 40), cfl := BitVec.ofNat 3 (bits (w 0) 39 37) }

/-- The operation that a response segment of a peer answers. -/
def State.opOfTxid (s : State) (p : Nat) (txid : Nat) : Option RemOp :=
  match s.fabric.ops.find? fun e => e.2.1.toNat == txid && e.2.2 == p with
  | some e => s.ops.find? (·.id = e.1)
  | none => none

/-- The value of an FP32 pattern in milliwatts, rounded toward less; a non-finite one is 0. -/
def milliwatts (v : Nat) : Int :=
  match f32Fin v with
  | some x => (x.num * 1000) / x.den
  | none => 0

/-- The payload of POWER_CREDIT (R302). -/
def creditOf (data : List Byte) : Credit :=
  let w (i : Nat) := headWord data i
  { round := BitVec.ofNat 32 (bits (w 0) 63 32), barriers := BitVec.ofNat 32 (bits (w 0) 31 0)
    capmW := (milliwatts (bits (w 1) 63 32)).toNat, shiftmW := milliwatts (bits (w 1) 31 0), waitns := BitVec.ofNat 64 (w 2) }

/-- The use that a DIGEST message states (log 38). -/
def digestUse (data : List Byte) : DigestUse :=
  match headWord data 0 with
  | 0 => .round
  | 1 => .refetched
  | 2 => .quarantine
  | 3 => .restore
  | 4 => .start
  | _ => .output (BitVec.ofNat 64 (headWord data 8)) (headWord data 9) (BitVec.ofNat 32 (headWord data 10))

/-- A control message of a peer: what the rows of the group protocol, of mode changes, of POWER_CREDIT, DIGEST and LINK_STATE
do (R300). Where R300's chapters lay no payload out, its words are the model's: DESIGN CHOICE, log 38. -/
def State.controlIn (s : State) (p : Fin 8) (msgt : Nat) (data : List Byte) : State :=
  let w (i : Nat) : Nat := headWord data i
  let h := BitVec.ofNat 64 (w 0)
  let part : Fin 64 := ⟨w 1 % 64, Nat.mod_lt _ (by decide)⟩
  match msgt with
  | 0x10 => stateOf s (execGroupRegister p h part (w 2) s)
  | 0x11 => stateOf s (execGroupReady h part (w 2) (w 3 == 1) s)
  | 0x12 => stateOf s (execGroupFail h part (BitVec.ofNat 16 (w 2)) s)
  | 0x13 => stateOf s (execGroupCommit h (w 1) s)
  | 0x14 => stateOf s (execGroupDiscard h (w 1) (BitVec.ofNat 16 (w 2)) (w 3) s)
  | 0x15 => stateOf s (execGroupCopied h part (w 2) s)
  | 0x16 => stateOf s (execGroupEnd h (w 1) s)
  | 0x17 => stateOf s (execGroupAbort h (w 1) s)
  | 0x20 => s.boardPrepare (BitVec.ofNat 32 (w 0))
  | 0x21 => stateOf s (execModeReady p s)
  | 0x22 => stateOf s (execModeFail p s)
  | 0x23 => stateOf s (execModeCommit s)
  | 0x24 => stateOf s (execModeRollback s)
  | 0x25 => stateOf s (execModeQuery ⟨p, BitVec.ofNat 32 (w 1)⟩ s)
  | 0x26 => stateOf s (execModeAnswer p (w 1 == 1) s)
  | 0x30 => stateOf s (execPowerCredit p (creditOf data) s)
  | 0x38 => stateOf s (execDigest (digestUse data) ⟨w 1 % 32, Nat.mod_lt _ (by decide)⟩ (w 2)
      ⟨BitVec.ofNat 256 ((List.range 4).map fun i => w (3 + i) * 2 ^ (64 * i)).sum, w 7⟩ s)
  | 0x40 => stateOf s (execLinkState p ((List.range 8).map fun i => BitVec.ofNat 32 (w i)) s)
  | _ => s

/-- A whole segment is delivered: a request lands, a response answers, a control message takes effect (R297, R300). -/
def State.deliver (s : State) (p : Fin 8) (l data : List Byte) : State :=
  let w0 := headWord l 0
  let opc := bits w0 55 48
  match bits w0 63 56 with
  | 1 => s.land opc (segRequest p l data)
  | 2 =>
    match s.opOfTxid p (bits (headWord l 1) 63 32) with
    | some o => s.answerPart o (bits (headWord l 1) 31 0) (BitVec.ofNat 16 (bits w0 15 0)) (bit (headWord l 2) 0) data
    | none => s
  | msgt => s.controlIn p msgt data

/-- Whole segments of a VC's stream, oldest first, and what is left. Zeros between messages fill a flit. -/
def segmentsOf : Nat → List Byte → List (List Byte × List Byte) × List Byte
  | 0, l => ([], l)
  | fuel + 1, l =>
    let l := l.dropWhile (· == 0)
    if l.length < 64 then ([], l)
    else
      let n := bits (headWord l 2) 31 16
      if l.length < 64 + n then ([], l)
      else
        let (ms, rest) := segmentsOf fuel (l.drop (64 + n))
        ((l.take 64, (l.drop 64).take n) :: ms, rest)

/-- The payload of a flit joins its VC's stream; what is whole is delivered. -/
def State.streamIn (s : State) (p : Fin 8) (vc part : Nat) (payload : List Byte) : State :=
  let key := vcKey vc part
  let l := tabGet [] (s.peer p).stream key ++ payload
  let (ms, rest) := segmentsOf (l.length / 64 + 1) l
  let s := s.modPeer p fun x => { x with stream := tabSet [] x.stream key rest }
  ms.foldl (fun s m => s.deliver p m.1 m.2) s

/-- The group that carries a peer's flits: its own while up, else its spare lane. -/
def State.pathTo (s : State) (p : Nat) : Nat :=
  if (s.group (s.groupTo p)).st.up then s.groupTo p else 8 + s.groupTo p

/-- ACKSEQ covers flits of the replay buffer, which leave it. -/
def State.ackFlits (s : State) (p : Nat) (ack : BitVec 12) : State :=
  let x := s.peer p
  let base := x.seq - BitVec.ofNat 12 x.replay.length
  let k := (ack - base).toNat
  if 0 < k ∧ k ≤ x.replay.length then s.modPeer p fun x => { x with replay := x.replay.drop k, stuck := 0 } else s

/-- Credits that a flit returns: CR0 and CR1 to the pools of CRP, CR2 to VC 2, whose oldest flits they are for (R293, R296).
No pool holds more than its receiver's buffers. -/
def State.takeCredits (s : State) (p : Nat) (f : Flit) : State :=
  let full := creditsFull s.mode.cur.four
  let add (t : Tab Int) (k n : Nat) : Tab Int :=
    let m := tabGet 0 full k
    tabMod 0 t k fun v => if m = 0 then v + (n : Int) else min m (v + (n : Int))
  s.modPeer p fun x => { x with
    credits := add (add (add x.credits (vcKey 0 f.crp) f.cr0.toNat) (vcKey 1 f.crp) f.cr1.toNat) (vcKey 2 0) f.cr2.toNat
    held := x.held.drop f.cr2.toNat }

/-- A NAK: everything from ACKSEQ on goes out again; after as many replays without progress as OD 9030.02 allows, the path has
failed (R294, R305). -/
def State.nakFlits (s : State) (p : Nat) : State :=
  let g := s.pathTo p
  if (s.peer p).replay.isEmpty then s
  else if s.odVal 0x903002 16 ≤ (s.peer p).stuck then s.groupFail g
  else
    let s := s.modPeer p fun x => { x with stuck := x.stuck + 1 }
    (s.modGroup g fun l => { l with replays := l.replays + 1 }).replayPeer p

/-- The fields of a flit's 504 bytes, after FEC; none where the CRC does not agree (R293, R294). -/
def flitOf (b : List Byte) : Option Flit :=
  let h := beNat (b.take 8)
  if b.length ≠ 504 ∨ leNat (b.drop 500) ≠ (crc32 (b.take 500)).toNat then none
  else some {
    vc := ⟨h / 2 ^ 62 % 4, Nat.mod_lt _ (by decide)⟩, part := ⟨h / 2 ^ 60 % 4, Nat.mod_lt _ (by decide)⟩
    seq := BitVec.ofNat 12 (bits h 59 48), ackseq := BitVec.ofNat 12 (bits h 47 36), nak := bit h 35
    cr0 := BitVec.ofNat 8 (bits h 31 24), cr1 := BitVec.ofNat 8 (bits h 23 16), cr2 := BitVec.ofNat 8 (bits h 15 8)
    crp := ⟨h / 2 ^ 6 % 4, Nat.mod_lt _ (by decide)⟩, payload := (b.drop 8).take 492 }

/-- A flit whose CRC agrees: its acknowledgement, credits and NAK; then a flit of VC 0, 1 or 2 is delivered in SEQ order, once
(R294). -/
def State.flitIn (s : State) (peer : Fin 8) (f : Flit) : State :=
  let p := peer.val
  let s := (s.ackFlits p f.ackseq).takeCredits p f
  let s := (if f.nak then s.nakFlits p else s).pumpPeer p
  if f.vc = 3 then s
  else
    let d := (f.seq - (s.peer p).rx).toNat
    if d = 0 then
      ((s.modPeer p fun x => { x with rx := x.rx + 1 }).streamIn peer f.vc f.part f.payload).idleFlit p false
        (some (f.vc.val, f.part.val))
    else if 2048 ≤ d then s
    else s.idleFlit p true none

/-- A flit arrives, after FEC. -/
def execFlitReceive (peer : Fin 8) (bytes : List Byte) (s : State) : Out :=
  let p := peer.val
  if !s.reachable p then .next s
  else match flitOf bytes with
    | some f => .next (s.flitIn peer f)
    | none => .next ((s.modGroup (s.pathTo p) fun l => { l with crcFails := l.crcFails + 1 }).idleFlit p true none)

end Sys2Proof.Machine
end

