-- ==== Sys2Proof/Machine/Train.lean ====
section
/-!
DEFINITION. Training jobs (R185 to R205, R222 to R224): their start, steps, flagged steps, commits, preemption.
-/

namespace Sys2Proof.Machine

/-! ### The start of a job (R186, R224) -/

/-- Why a state area cannot be used: its record lies outside the partition's HBM, or firmware cannot read it. -/
def State.areaStatus (s : State) (p : Nat) (area : BitVec 64) : Option Status :=
  if gaSpace area ≠ 0 ∨ !s.inJob p area 64 then some St.addressInvalid
  else match s.engineRead (Init.firmware p) area 64 with
    | .error st => some st
    | .ok _ => none

/-- Another status than OK ends a TRAIN work before it runs. -/
def State.startTrain (s : State) (i : Nat) : State :=
  let w := s.wk i
  let p := s.slotPart i
  let d := daDidx w.da
  let area := BitVec.ofNat 64 (w.body 8)
  match s.trainCheck p d with
  | some st => s.workFail i st
  | none =>
    match s.areaStatus p area with
    | some st => s.workFail i st
    | none =>
      let a := gaOff area
      let j : Job := { slot := i, didx := d, part := p, area := area, restart := s.recState a != 0 || !s.recSound a
                       sketched := !bit (w.body 0x38) 0, borrow := s.odVal 0x605001 4096 }
      let s := (s.modWork i fun w => { w with st := .running }).modEntry d fun e => { e with area := some a }
      { s with work := { s.work with jobs := s.work.jobs ++ [j] } }

/-- Firmware starts the job of an accepted TRAIN work. -/
def execTrainWork (slot : Fin 16384) (s : State) : Out :=
  let w := s.wk slot
  .next (if w.kind = 2 ∧ w.st = .held ∧ !w.stopped ∧ s.mayStart (s.slotPart slot) ∧ s.firstHeld slot then
    s.startTrain slot else s)

/-- The jobs of an entry. -/
def State.jobsOf (s : State) (d : Nat) : List Job := s.work.jobs.filter (·.didx = d)

/-- Firmware restarts the commit record of an adaptation, unless a job is in its commit. -/
def execCommitRestart (didx : Nat) (s : State) : Out :=
  match (s.entry didx).area with
  | none => .next s
  | some a =>
    let l := s.jobsOf didx
    if l.any (·.commit.isSome) then .next s
    else
      let (s, st) := s.restartRecord (s.didxPart didx) a
      .next (if st ≠ 0 then l.foldl (fun s j => s.workFail j.slot st) s
        else l.foldl (fun s j => s.modJob j.slot fun j => { j with restart := false }) s)

/-! ### Placing Churn commands (R208, R223) -/

/-- Place commands n, n + 1, … while the rings have room, command n on shelf number n mod the job's shelf count. -/
def State.placeFrom (mk : State → Nat → ChurnCmd) (shelves : List Nat) (total : Nat) : Nat → State → Nat → State × Nat
  | 0, s, n => (s, n)
  | k + 1, s, n =>
    let sh := shelves.getD (n % shelves.length) 0
    if n < total ∧ s.ringRoom sh then State.placeFrom mk shelves total k (s.ringPut sh (mk s n)) (n + 1) else (s, n)

def State.place_ (s : State) (p total : Nat) (mk : State → Nat → ChurnCmd) (n : Nat) : State × Nat :=
  State.placeFrom mk (s.shelvesOf p) total total s n

def churnCmd (opc part : Nat) (done a0 a1 a2 a3 : Nat) : ChurnCmd :=
  let w (n : Nat) : BitVec 64 := BitVec.ofNat 64 n
  ⟨opc, part, w done, w a0, w a1, w a2, w a3, 0, true⟩

/-! ### The start of a step (R187, R188, R193) -/

/-- Header of a shard at a global address. -/
def State.shardHdr (s : State) (a : Nat) : Nat := s.hbmNat (gaOff (BitVec.ofNat 64 a)) 128

/-- SMODE of a descriptor by OD 6030.05 and the tags that AUTO moved (R104). -/
def State.smodeOf (s : State) (j : Job) (tag : Nat) : Nat :=
  match s.odVal 0x603005 2 with
  | 0 => 0
  | 1 => 1
  | _ => if j.mse8.contains tag then 1 else 0

/-- The emitter descriptor of shard number n (R92, R188). -/
def State.emitBody (s : State) (j : Job) (n : Nat) : BitVec 512 :=
  let a := (s.shardTable (gaOff j.area)).getD n 0
  let h := s.shardHdr a
  let d : Shard := ⟨gaOff (BitVec.ofNat 64 a), h, s.shardEpoch a⟩
  let pl := j.copies.getD n ⟨0, 0, 0, 0⟩
  let e := s.entry j.didx
  let code := if hRole h = 0 then e.acode else e.bcode
  let src := a + (d.live - d.off)
  BitVec.ofNat 512 (leNat (natLE src 8 ++ natLE pl.dst.toNat 8 ++ natLE pl.sdst.toNat 8 ++ natLE (hCtot h * 2 ^ 32 + hRtot h) 8
    ++ natLE (pl.tag.toNat * 2 ^ 8 + s.smodeOf j pl.tag.toNat * 2 ^ 5 + 2 ^ 4 + code) 8 ++ natLE 0 8 ++ natLE pl.done.toNat 8))

/-- Least power of two ω with max / ω below 448, as an exponent, from a maximum of drains whose outputs were divided by
2^unit; a maximum of 0 or +∞ keeps the previous ω (R193; DEDUCED, log 36). -/
def omegaOf (amax : BitVec 32) (unit prev : Int) : Int :=
  match f32Fin amax.toNat with
  | none => prev
  | some x =>
    if x.isZero then prev
    else
      let y := (x.abs.mul (Q.pow2 unit)).div (Q.ofInt 448)
      let e := y.ceilLog2
      if (Q.pow2 e).le y then e + 1 else e

/-- ω of a step from the previous step's rank vectors, in units of their ω (R193). -/
def nextOmegas (omega : Tab Int) (m : Tab (BitVec 32)) : Tab Int :=
  m.foldl (fun t e => tabMod 0 t e.1 fun prev => omegaOf e.2 prev prev) omega

/-! ### Sequences of a micro-batch (R203, R204) -/

/-- Tokens of the chunks of a sequence, in order: 4,096 each, a shorter last one. -/
def chunkTokens (tokens : Nat) : List Nat :=
  (List.range ((tokens + 4095) / 4096)).map fun i => min 4096 (tokens - 4096 * i)

/-- The forward pass runs the chunks in order, the backward pass in reverse (R203). -/
def SeqPlan.forward (q : SeqPlan) : List Nat := List.range q.chunks.length

def SeqPlan.backward (q : SeqPlan) : List Nat := q.forward.reverse

/-- Sequences in the order of placement: longest first, ties by lower number. -/
def insertSeq (e : Nat × SeqIn) : List (Nat × SeqIn) → List (Nat × SeqIn)
  | [] => [e]
  | x :: l =>
    if (chunkTokens x.2.tokens).length < (chunkTokens e.2.tokens).length then e :: x :: l else x :: insertSeq e l

/-- Least power of two s up to `n`, from 2^k on, with chunks / s at most the threshold. Where no number of shelves is
enough, the sequence takes the most there are (DESIGN CHOICE, log 82). -/
def splitOf (chunks n : Nat) (limit : Q) : Nat → Nat → Nat
  | 0, k => 2 ^ k
  | fuel + 1, k => if (Q.mk chunks (2 ^ k)).le limit ∨ n < 2 ^ (k + 1) then 2 ^ k else splitOf chunks n limit fuel (k + 1)

/-- Shelves by their loads in sixteenths of a chunk: the one with the least, ties by lower number. -/
def leastLoaded : List (Nat × Nat) → Option (Nat × Nat)
  | [] => none
  | x :: l => match leastLoaded l with
    | none => some x
    | some y => if y.2 < x.2 ∨ (y.2 = x.2 ∧ y.1 < x.1) then some y else some x

/-- The s least loaded shelves, each then with `w` more. -/
def takeShelves (w : Nat) : Nat → List (Nat × Nat) → List Nat × List (Nat × Nat)
  | 0, loads => ([], loads)
  | s + 1, loads =>
    match leastLoaded loads with
    | none => ([], loads)
    | some x =>
      let (l, rest) := takeShelves w s (loads.filter (·.1 ≠ x.1))
      (x.1 :: l, (x.1, x.2 + w) :: rest)

/-- Place sequences on shelves: each on the least loaded shelf, one that exceeds the split ratio times the mean load
divided across several (R204). -/
def placeSeqs (shelves : List Nat) (ratio : Q) (batch : List SeqIn) : List SeqPlan :=
  let seqs := batch.zipIdx.foldl (fun l e => insertSeq (e.2, e.1) l) []
  let total := (batch.map fun q => (chunkTokens q.tokens).length).sum
  let limit := ratio.mul ⟨total, shelves.length⟩
  let step (acc : List SeqPlan × List (Nat × Nat)) (e : Nat × SeqIn) : List SeqPlan × List (Nat × Nat) :=
    let c := chunkTokens e.2.tokens
    let s := splitOf c.length shelves.length limit 4 0
    let (l, loads) := takeShelves (16 * c.length / s) s acc.2
    (acc.1 ++ [⟨e.1, c, l, (e.2.kvOff, e.2.kvLen)⟩], loads)
  (seqs.foldl step ([], shelves.map fun h => (h, 0))).1

/-- An FP32 entry's value. -/
def State.odF32 (s : State) (k d : Nat) : Q := (f32Fin (s.odVal k d)).getD Q.zero

/-- The plan of the job's micro-batch in progress. -/
def State.planOf (s : State) (j : Job) : List SeqPlan :=
  placeSeqs (s.shelvesOf j.part) (s.odF32 0x604004 0x40000000) (j.batches.getD j.micro [])

/-- A sequence has more than 2,560 chunks (R203). -/
def tooLong (batches : List (List SeqIn)) : Bool := batches.any fun l => l.any fun q => decide (10485760 < q.tokens)

/-! ### Where training may write (R186) -/

/-- A range of HBM meets what the entry has published: its serving copy or its image. -/
def State.onImage (s : State) (d o n : Nat) : Bool :=
  s.dir.alloc.any fun x => x.2.2 = d && decide (x.1 < o + n) && decide (o < x.1 + x.2.1)

/-- The same for a range at a global address. -/
def State.onImageAt (s : State) (d : Nat) (a : BitVec 64) (n : Nat) : Bool :=
  match s.localHbm a n with
  | some o => s.onImage d o n
  | none => false

/-- Places of a step that training may write: gradient areas and sequence areas in the partition, and nothing on the
published image. -/
def State.stepPlacesOk (s : State) (j : Job) (garea : List (Nat × Nat)) (copies : List EmitPlace)
    (batches : List (List SeqIn)) : Bool :=
  let areas := garea ++ (batches.flatten.filter (·.kvLen ≠ 0)).map fun q => (q.kvOff, q.kvLen)
  let tab := s.shardTable (gaOff j.area)
  areas.all (fun r => s.inJob j.part (s.hbmAddr j.part r.1) r.2 && !s.onImage j.didx r.1 r.2)
    && (copies.zip tab).all fun e =>
      let h := s.shardHdr e.2
      !s.onImageAt j.didx e.1.dst (hRtot h * ((hCtot h + 63) / 64 * 64)) && !s.onImageAt j.didx e.1.sdst (4 * hCtot h)
        && !s.onImageAt j.didx e.1.done 8

/-- The step's gradient areas, zeroed in turn. -/
def State.zeroAreas (s : State) (p : Nat) : List (Nat × Nat) → State × Status
  | [] => (s, St.ok)
  | r :: l => andThen (s.hbmPutZero (Init.firmware p) r.1 r.2) fun s => s.zeroAreas p l

/-- A step starts: gradient areas zeroed, ω set, emitter descriptors placed as the rings take them; a further command
places the rest. `garea`: HBM offset and bytes of each gradient area; `copies`: where the working copies go, in the
order of SHTAB; `batches`: the sequences of each micro-batch. -/
def execStepStart (slot : Fin 16384) (garea : List (Nat × Nat)) (copies : List EmitPlace) (batches : List (List SeqIn))
    (s : State) : Out :=
  match s.jobOf slot with
  | none => .next s
  | some j =>
    if j.restart ∨ !j.sketched ∨ j.commit.isSome ∨ !(s.wk slot).live then .next s
    else if !j.begun ∧ tooLong batches then .next (s.workFail slot St.sequenceTooLong)
    else if !j.begun ∧ !s.stepPlacesOk j garea copies batches then .next s
    else
      let (s, st) := if j.begun then (s, St.ok) else s.zeroAreas j.part garea
      if st ≠ 0 then .next (s.workFail slot st) else
      let s := if j.begun then s else
        s.modJob slot fun j => { j with
          begun := true, micro := 0, image := 0, timage := 0, emitted := 0, garea := garea, copies := copies
          omega := nextOmegas j.omega j.rankMax, rankMax := [], batches := batches, arrivals := [] }
      match s.jobOf slot with
      | none => .next s
      | some j =>
        let total := (s.shardTable (gaOff j.area)).length
        let (s, n) := s.place_ j.part total (fun s n => { churnCmd 1 j.part 0 0 0 0 0 with body := s.emitBody j n }) j.emitted
        .next (s.modJob slot fun j => { j with emitted := n, plan := s.planOf j })

/-! ### The step's images (R188, R189) -/

/-- EMIT entries not yet completed whose completion word is one of the job's. -/
def State.emitsOut (s : State) (j : Job) : Bool :=
  (s.shelvesOf j.part).any fun sh =>
    let m := s.sram sh
    ((List.range (ringTail m - ringHead m)).map (· + ringHead m)).any fun n =>
      let c := ChurnCmd.of (memNat m (ringSlot n) 128)
      c.opc == 1 && j.copies.any fun p => p.done == c.doneAt

/-- Status in a completion word. -/
def State.doneStatus (s : State) (p : Nat) (a : BitVec 64) : Status :=
  match s.churnRead p a 8 with
  | .ok bs => BitVec.ofNat 16 (leNat bs)
  | .error st => st

/-- First status of a list that is not 0. -/
def firstBad (l : List Status) : Status := (l.find? (· ≠ 0)).getD 0

/-- The working copy of a matrix of `rows` rows and `cols` columns, in a code of one byte (R28, R92, R152). -/
def State.workingCopy (s : State) (p code rows cols : Nat) (pl : EmitPlace) : Except Status Coded :=
  let rb := (cols + 63) / 64 * 64
  match s.churnRead p pl.dst (rows * rb), s.churnRead p pl.sdst (4 * cols) with
  | .error st, _ | _, .error st => .error st
  | .ok bs, .ok sc =>
    .ok ⟨code, (words32 sc).map fun v => (f32Scale v).1, (chunks rb (rows + 1) bs).map fun r => (r.take cols).map (·.toNat)⟩

/-- Layer, group and working copies of pair k: shards 2k and 2k + 1. -/
def State.jobPair (s : State) (j : Job) (k : Nat) : Except Status CopyPair :=
  let tab := s.shardTable (gaOff j.area)
  let ha := s.shardHdr (tab.getD (2 * k) 0)
  let hb := s.shardHdr (tab.getD (2 * k + 1) 0)
  let e := s.entry j.didx
  let pl (n : Nat) := j.copies.getD n ⟨0, 0, 0, 0⟩
  match s.workingCopy j.part e.acode (hRtot ha) (hCtot ha) (pl (2 * k)),
      s.workingCopy j.part e.bcode (hRtot hb) (hCtot hb) (pl (2 * k + 1)), s.baseRec j.part (hLayer ha) (hGroup ha) with
  | .error st, _, _ | _, .error st, _ | _, _, .error st => .error st
  | .ok a, .ok b, .ok r => .ok ⟨hLayer ha, hGroup ha, e.rankCode (hGroup ha), r, a, b⟩

def State.jobPairs (s : State) (j : Job) : Nat → Except Status (List CopyPair)
  | 0 => .ok []
  | k + 1 =>
    match s.jobPairs j k, s.jobPair j k with
    | .error st, _ | _, .error st => .error st
    | .ok l, .ok p => .ok (l ++ [p])

/-- Build both images of a step and record κ. A build that would write on the published image does nothing (R186). -/
def State.buildStep (s : State) (j : Job) (image timage : Nat) : Except Status (State × Status) :=
  match s.jobPairs j ((s.shardTable (gaOff j.area)).length / 2) with
  | .error st => .error st
  | .ok l =>
    match s.buildImage j.part l, s.buildPairs j.part (fun b sr c => buildTrec b sr c.rank c.a c.b) l with
    | .error st, _ | _, .error st => .error st
    | .ok (bytes, cl, fl), .ok tl =>
      let tb := imageBytes (tl.map fun e => (e.1.layer, e.1.group, e.2.1))
      if s.onImage j.didx image bytes.length ∨ s.onImage j.didx timage tb.length then .ok (s, St.ok) else
      let e := s.entry j.didx
      let s := s.countSkim j.part e.bcode (cl + (tl.map (·.2.2.2.1)).sum) (fl + (tl.map (·.2.2.2.2)).sum)
      let s := s.countSkim j.part e.acode (tl.map (·.2.1.clip)).sum (tl.map (·.2.1.flush)).sum
      .ok (andThen (s.hbmPutLong (Init.firmware j.part) image bytes) fun s =>
        andThen (s.hbmPutLong (Init.firmware j.part) timage tb) fun s =>
          (s.modJob j.slot fun j => { j with
            image := image, timage := timage
            kappa := tl.foldl (fun t e => tabSet 0 t (8 * e.1.layer + e.1.group) e.2.2.1) j.kappa }, St.ok))

/-- What building a step's images reads: the working copies, then the base records and their scales. -/
def State.stepReads (s : State) (j : Job) : List (Nat × Nat) :=
  let tab := s.shardTable (gaOff j.area)
  let e := s.entry j.didx
  ((tab.zip j.copies).flatMap fun x =>
    let h := s.shardHdr x.1
    s.hbmRange x.2.dst (hRtot h * ((hCtot h + 63) / 64 * 64)) ++ s.hbmRange x.2.sdst (4 * hCtot h)) ++ s.baseReads j.part e.pairs

/-- Both working-copy descriptors of every matrix have completed: the device builds the two images at offsets of the
job's training area. -/
def execTrainingImageBuild (slot : Fin 16384) (image timage : Nat) (s : State) : Out :=
  match s.jobOf slot with
  | none => .next s
  | some j =>
    if !j.begun ∨ j.image ≠ 0 ∨ j.emitted ≠ (s.shardTable (gaOff j.area)).length ∨ s.emitsOut j
        ∨ !s.imageIn j.part (s.hbmAddr j.part image) ∨ !s.imageIn j.part (s.hbmAddr j.part timage) then .next s
    else
      let st := firstBad (j.copies.map fun p => s.doneStatus j.part p.done)
      if st ≠ 0 then .next (s.workFail slot st)
      else match s.buildStep j image timage with
        | .error st => .next ((s.noteFail st (s.stepReads j)).workFail slot st)
        | .ok (t, st) => .next (if st ≠ 0 then t.workFail slot st else t.noteCorrected (s.stepReads j))

/-! ### Flags and the flagged-step policy (R198 to R200) -/

/-- OR the registers of the job's cores into its word and clear them. -/
def State.gatherStepf (s : State) (j : Job) (shelves : List Nat) : State :=
  shelves.foldl (fun s sh => (List.range 8).foldl (fun s c =>
    let f := (s.lcore sh c).stepf
    if f = 0 then s
    else (s.modJob j.slot fun j => { j with flags := stepFlagMerge j.flags f }).onCore sh c fun k => { k with stepf := 0 }) s) s

/-- The same for the Churn units' registers. -/
def State.gatherChurn (s : State) (j : Job) : State :=
  (s.shelvesOf j.part).foldl (fun s sh =>
    let f := (s.shelf sh).churnFlags
    if f = 0 then s
    else (s.modJob j.slot fun j => { j with flags := stepFlagMerge j.flags f }).modShelf sh fun h => { h with churnFlags := 0 }) s

/-- Both, at a micro-step's end and at preemption (R198). -/
def State.gatherFlags (s : State) (j : Job) : State := (s.gatherStepf j (s.shelvesOf j.part)).gatherChurn j

/-- Flags of a completion record that a step flag word gives (R240). -/
def recordFlags (f : BitVec 64) : BitVec 5 := BitVec.ofNat 5 (bits f.toNat 2 0 + (bit f.toNat 3).toNat * 16)

/-- Margins of a tag, ±bound. -/
def clampMargin (bound : Nat) (m : Int) : Int := if m > bound then bound else if m < -(bound : Int) then -(bound : Int) else m

/-- A step whose only flag is LOST (R200). -/
def lostOnly (f : BitVec 64) : Bool := bits f.toNat 8 0 == 0x100

/-- The step is discarded (R199). -/
def Job.discard (j : Job) : Job :=
  { j with begun := false, micro := 0, flags := 0, garea := [], emitted := 0, copies := [], image := 0, timage := 0
           commit := none, rankMax := [], batches := [], plan := [], arrivals := [] }

/-- A flagged step: its event record and the action of R200 (0 SKIP, 1 SHRINK, 2 STOP, 3 run again for LOST alone). -/
def State.flaggedStep (s : State) (i : Nat) : State :=
  match s.jobOf i with
  | none => s
  | some j =>
    let lost := lostOnly j.flags
    let n := if lost then j.flagged else j.flagged + 1
    let action := if lost then 3 else if s.odVal 0x604003 8 ≤ n then 2 else s.odVal 0x604002 0
    let s := s.emit (.log (some j.part) .flaggedStep [j.step, j.micro, j.flags.toNat, action])
    let s := s.modWork i fun w => { w with flags := w.flags ||| recordFlags j.flags }
    let bound := s.odVal 0x603004 4
    let margins := if action = 1 then j.gradTags.foldl (fun t g => tabMod 0 t g fun m => clampMargin bound (m + 1)) j.margins
      else j.margins
    let s := s.modJob i fun j => { j.discard with
      flagged := n, rerun := decide (action = 1 ∨ action = 3), margins := margins }
    if action = 2 then s.workFail i St.trainStopped else s

/-! ### Steering (R97, R104) -/

/-- FP64 pattern as a rational; none for an infinity. -/
def f64Fin (w : BitVec 64) : Option Q :=
  match Fmt.fp64.decode w.toNat with
  | .fin _ x => some x
  | _ => none

/-- Events per million conversions. -/
def perMillion (events : BitVec 64) (count : Nat) : Q := ⟨1000000 * events.toNat, count⟩

/-- A tag's margin after a micro-step, and the rate, where its margin met the bound. -/
def State.steerTag (s : State) (j : Job) (tag : Nat) : Int × Option Q :=
  let key := 4096 * j.part + tag
  let n := (tabGet {} s.stats.drainMon key).count.toNat
  let k := tabGet {} s.stats.skim (16 * key + 4)
  let m := tabGet 0 j.margins tag
  let bound : Int := s.odVal 0x603004 4
  let above (x limit : Q) : Bool := n != 0 && limit.lt x
  if above (perMillion k.clip n) (s.odF32 0x603001 0x41200000) then
    (if m + 1 ≤ bound then (m + 1, none) else (m, some (perMillion k.clip n)))
  else if k.clip = 0 ∧ above (perMillion k.flush n) (s.odF32 0x603002 0x447A0000) then
    (if -bound ≤ m - 1 then (m - 1, none) else (m, some (perMillion k.flush n)))
  else (m, none)

/-- The tag's emitter error exceeds the limit under AUTO. -/
def State.emitterHigh (s : State) (j : Job) (tag : Nat) : Bool :=
  let m := tabGet {} s.stats.emitMon (4096 * j.part + tag)
  s.odVal 0x603005 2 == 2 && match f64Fin m.sse, f64Fin m.ssq with
    | some e, some q => !q.isZero && (s.odF32 0x603006 0x3A83126F).lt (e.div q)
    | none, some _ => true
    | _, _ => false

/-- Margins and MSE8 tags after a micro-step. -/
def State.steer (s : State) (i : Nat) (tags : List (BitVec 12)) : State :=
  tags.foldl (fun s t =>
    match s.jobOf i with
    | none => s
    | some j =>
      let (m, rate) := s.steerTag j t.toNat
      let s := match rate with
        | some r => s.emit (.log (some j.part) .margin [t.toNat, f32Enc r false])
        | none => s
      s.modJob i fun j => { j with
        margins := tabSet 0 j.margins t.toNat m
        gradTags := if j.gradTags.contains t.toNat then j.gradTags else j.gradTags ++ [t.toNat] }) s
  |> fun s => s.modJob i fun j => { j with
      mse8 := (j.copies.map (·.tag.toNat)).foldl (fun l t => if s.emitterHigh j t ∧ !l.contains t then l ++ [t] else l) j.mse8 }

/-- The snapshot with CLR of the job's tags: their counters restart (05_quantisation, Steering a training run). -/
def State.snapJob (s : State) (j : Job) (tags : List (BitVec 12)) : State :=
  (tags.map (·.toNat) ++ j.copies.map (·.tag.toNat)).foldl (fun s t => s.snapClear j.part (0x7000000 + t * 4096 + t)) s

/-! ### Maxima and channel scales (R90, R97, R193) -/

/-- The maximum at a place. -/
def State.maxAt (s : State) (m : MaxPlace) : BitVec 32 :=
  match m with
  | .file c tok i =>
    let u := (s.lcore c.sh c.c).scale
    tabGet 0 (if tok then u.tokMax else u.rowMax) i
  | .kept sh o => BitVec.ofNat 32 (memNat (s.sram sh) o 4)

/-- The largest of several. -/
def State.maxOf (s : State) (l : List MaxPlace) : BitVec 32 := (l.map s.maxAt).foldl f32Max 0

/-- A maxima-file entry that firmware has read is +0: it reads with CLR. -/
def State.clearMax (s : State) (m : MaxPlace) : State :=
  match m with
  | .file c tok i => s.onCore c.sh c.c fun k => { k with scale :=
      if tok then { k.scale with tokMax := tabClear k.scale.tokMax i 1 } else { k.scale with rowMax := tabClear k.scale.rowMax i 1 } }
  | .kept _ _ => s

/-- Cores that the places of a micro-step's end name. -/
def maxCores (chans : List GradChan) (cols : List RankCol) : List CoreRef :=
  let cores := (chans.flatMap (·.drained) ++ cols.flatMap fun c => c.first ++ c.drained).filterMap fun m => match m with
    | .file c _ _ => some c
    | .kept _ _ => none
  cores ++ chans.flatMap fun c => c.loads.map (·.1)

/-- grad_scale of R97, as an exponent; the maximum is that of drains whose outputs were divided by 2^prev. -/
def gradScale (amax : BitVec 32) (margin prev : Int) : Int :=
  match f32Fin amax.toNat with
  | none => prev
  | some x =>
    if x.isZero then prev
    else
      let e := ((x.abs.mul (Q.pow2 prev)).div (Q.ofInt 57344)).ceilLog2 + margin
      if e < -126 then -126 else if e > 126 then 126 else e

/-- A channel's scale for the next micro-step, with 1/2^e loaded into its row-scale entries (R97). A channel that has no
scale yet has been drained as BF16, at scale 2^0 (DESIGN CHOICE, log 91). -/
def State.setSigma (s : State) (i : Nat) (c : GradChan) : State :=
  match s.jobOf i with
  | none => s
  | some j =>
    let e := gradScale (s.maxOf c.drained) (tabGet 0 j.margins (c.key / 65536)) (tabGet 0 j.sigma c.key)
    let v : BitVec 32 := BitVec.ofNat 32 (f32Enc (Q.pow2 (-e)) false)
    let s := c.loads.foldl (fun s l => s.onCore l.1.sh l.1.c fun k => { k with scale :=
      { k.scale with rowScale := tabSet 0 k.scale.rowScale l.2 v } }) s
    s.modJob i fun j => { j with sigma := tabSet 0 j.sigma c.key e }

/-- A rank vector's column: in the job's first micro-step ω from the BF16 drains; then the step's largest output. -/
def State.noteRank (s : State) (i : Nat) (c : RankCol) : State :=
  s.modJob i fun j => { j with
    omega := if j.step = 0 ∧ j.micro = 0 then
        tabSet 0 j.omega c.key (omegaOf (s.maxOf c.first) 0 (tabGet 0 j.omega c.key))
      else j.omega
    rankMax := tabSet 0 j.rankMax c.key (f32Max (tabGet 0 j.rankMax c.key) (s.maxOf c.drained)) }

/-- The maxima of a micro-step: channel scales, rank vectors, and the files read with CLR. -/
def State.takeMaxima (s : State) (i : Nat) (chans : List GradChan) (cols : List RankCol) : State :=
  let s := chans.foldl (fun s c => s.setSigma i c) s
  let s := cols.foldl (fun s c => s.noteRank i c) s
  (chans.flatMap (·.drained) ++ cols.flatMap fun c => c.first ++ c.drained).foldl State.clearMax s

/-- The job runs: no shelf of it serves, and the cores whose maxima it names have drained. -/
def State.microDone (s : State) (j : Job) (cores : List CoreRef) : Bool :=
  !j.preempted && (s.shelvesOf j.part).all (fun sh => !(s.shelf sh).serving) && cores.all fun c => (s.lcore c.sh c.c).quiet

/-- A micro-step ends. `tags`: the job's gradient tags; `m.chans` and `m.cols`: its gradient channels and the columns of its
rank vectors, with the places of their maxima; `m.arrived`: the shelves in the order in which they reached the barrier. -/
def execMicroStepEnd (slot : Fin 16384) (tags : List (BitVec 12)) (m : MicroEnd) (s : State) : Out :=
  match s.jobOf slot with
  | none => .next s
  | some j =>
    if !j.begun ∨ j.image = 0 ∨ j.commit.isSome ∨ s.odVal 0x604001 1 ≤ j.micro ∨ !s.microDone j (maxCores m.chans m.cols) then
      .next s
    else
      let s := s.gatherFlags j
      let lost := ((s.jobOf slot).map fun j => lostOnly j.flags).getD false
      let s := if lost then s else s.steer slot tags
      let s := (s.takeMaxima slot m.chans m.cols).snapJob j tags
      let s := s.modJob slot fun j => { j with micro := j.micro + 1, arrivals := j.arrivals ++ [m.arrived.map (·.val)] }
      let s := s.modJob slot fun j => { j with plan := s.planOf j }
      if (s.entry j.didx).st = .revoked then .next (s.workFail slot St.adapterRevoked)
      else match s.jobOf slot with
        | some j => .next (if bits j.flags.toNat 8 0 ≠ 0 then s.flaggedStep slot else s)
        | none => .next s

/-! ### The step commit (R223) -/

/-- Commands of a commit: UPDATE or SKETCH in phase 0, SETEPOCH in phase 1. -/
def commitCmd (j : Job) (c : Commit) (s : State) (n : Nat) : ChurnCmd :=
  let tab := s.shardTable (gaOff j.area)
  let done := c.doneAt.toNat + 8 * n
  let t := c.target.toNat
  if c.phase = 1 then churnCmd 3 j.part done (tab.getD n 0) ((t + 2 ^ 32 - 1) % 2 ^ 32) t 0
  else if c.kind = 2 then
    let ha := s.shardHdr (tab.getD (2 * n) 0)
    let map := (s.hbmAddr j.part (s.odVal (0x503001 + j.part) 0 + 32 * (8 * hLayer ha + hGroup ha))).toNat
    churnCmd 4 j.part done (tab.getD (2 * n) 0) (tab.getD (2 * n + 1) 0) map (c.recs.getD n 0).toNat
  else churnCmd 2 j.part done (tab.getD n 0) (c.recs.getD n 0).toNat c.flagAt.toNat t

/-- Commands of the phase. -/
def commitTotal (s : State) (j : Job) (c : Commit) : Nat :=
  let n := (s.shardTable (gaOff j.area)).length
  if c.phase = 0 ∧ c.kind = 2 then n / 2 else n

/-- Place what the rings take. -/
def State.commitPlace (s : State) (i : Nat) : State :=
  match s.jobOf i with
  | none => s
  | some j =>
    match j.commit with
    | none => s
    | some c =>
      let (s, n) := s.place_ j.part (commitTotal s j c) (commitCmd j c) c.placed
      s.modJob i fun j => { j with commit := some { c with placed := n } }

/-- Every command of the phase has completed: the first status that is not 0, STEP_FLAGGED after any other. -/
def State.commitStatus (s : State) (j : Job) (c : Commit) : Option Status :=
  let shards := s.shardTable (gaOff j.area)
  let total := commitTotal s j c
  if c.placed < total ∨ (s.shelvesOf j.part).any (fun sh => !(ringOf (s.sram sh) shards).isEmpty) then none
  else
    let l := (List.range total).map fun n => s.doneStatus j.part (BitVec.ofNat 64 (c.doneAt.toNat + 8 * n))
    let hard := firstBad (l.filter (· ≠ St.stepFlagged))
    some (if hard ≠ 0 then hard else if l.contains St.stepFlagged then St.stepFlagged else St.ok)

/-- Steps 1 to 3: the step flag word, the OPEN record, and the first commands. -/
def State.commitOpen (s : State) (j : Job) (kind : Nat) (recs : List (BitVec 64)) (flagAt doneAt : BitVec 64) : State :=
  let a := gaOff j.area
  let s := s.gatherChurn j
  let word := ((s.jobOf j.slot).map (·.flags)).getD 0
  let t := (s.recEpoch a + 1) % 2 ^ 32
  let (s, st) := andThen (s.churnWrite j.part flagAt (natLE word.toNat 8)) fun s => s.putRec j.part a 1 kind t
  if st ≠ 0 then s.workFail j.slot st
  else
    let c : Commit := ⟨0, kind, BitVec.ofNat 32 t, 0, recs, flagAt, doneAt⟩
    (s.modJob j.slot fun j => { j with commit := some c }).commitPlace j.slot

/-- Word 0x00 returns to COMMITTED at the committed epoch; KIND 0. -/
def State.commitBack (s : State) (j : Job) (c : Commit) : State :=
  (s.putRec j.part (gaOff j.area) 0 0 (c.target.toNat + 2 ^ 32 - 1)).1.modJob j.slot fun j => { j with commit := none }

/-- A flagged commit rolls back; on a REVOKED entry the job then ends (R167, R230). -/
def State.commitFlagged (s : State) (j : Job) (c : Commit) : State :=
  let s := (s.commitBack j c).flaggedStep j.slot
  if (s.entry j.didx).st = .revoked then s.workFail j.slot St.adapterRevoked else s

/-- Steps 4 to 6. -/
def State.commitPrepare (s : State) (j : Job) (c : Commit) : State :=
  let a := gaOff j.area
  let s := s.gatherChurn j
  let flags := ((s.jobOf j.slot).map (·.flags)).getD 0
  if bits flags.toNat 8 0 ≠ 0 then s.commitFlagged j c
  else
    let (s, st) := andThen (s.putStep j.part a 0x10 (s.recStepc a + if c.kind = 0 then 1 else 0)) fun s =>
      s.putRec j.part a 2 c.kind c.target.toNat
    if st ≠ 0 then (s.commitBack j c).workFail j.slot st
    else (s.modJob j.slot fun j => { j with commit := some { c with phase := 1, placed := 0 } }).commitPlace j.slot

/-- Step 7, and what follows a commit: the next step, the end of the work, or ADAPTER_REVOKED. -/
def State.commitEnd (s : State) (j : Job) (c : Commit) : State :=
  let a := gaOff j.area
  let (s, st) := andThen (s.putStep j.part a 8 (s.recStept a)) fun s => s.putRec j.part a 0 c.kind c.target.toNat
  if st ≠ 0 then s.workFail j.slot st else
  let s := s.modJob j.slot fun j =>
    if c.kind = 0 then { j.discard with
      committed := j.committed + 1, step := j.step + 1, flagged := 0, rerun := false, rankMax := j.rankMax }
    else { j with commit := none, sketched := true }
  if (s.entry j.didx).st = .revoked then s.workFail j.slot St.adapterRevoked
  else if c.kind = 0 ∧ j.committed + 1 = (s.wk j.slot).body 0x20 / 2 ^ 32 then s.partReady j.slot true
  else s

/-- Firmware goes on with a commit in progress. -/
def State.commitRun (s : State) (j : Job) (c : Commit) : State :=
  let s := s.commitPlace j.slot
  match (s.jobOf j.slot).bind (·.commit) with
  | none => s
  | some c' =>
    match s.commitStatus j c' with
    | none => s
    | some st =>
      if c.phase = 1 then (if st ≠ 0 then s.workFail j.slot st else s.commitEnd j c')
      else if st = St.ok then s.commitPrepare j c'
      else if st = St.stepFlagged then s.commitFlagged j c'
      else (s.commitBack j c').workFail j.slot st

/-- The step commit, begun after the last micro-step, or for a residual initialisation before the first; each further
command goes on as far as the Churn units have come. `recs`: addresses of the tensor records by shard, or of the master
weights by pair of shards for KIND 2; `flagAt`: the step flag word; `doneAt`: the first completion word. -/
def execStepCommit (slot : Fin 16384) (recs : List (BitVec 64)) (flagAt doneAt : BitVec 64) (s : State) : Out :=
  match s.jobOf slot with
  | none => .next s
  | some j =>
    if j.restart ∨ !(s.wk slot).live then .next s
    else match j.commit with
      | some c => .next (s.commitRun j c)
      | none =>
        if !j.sketched then .next (s.commitOpen j 2 recs flagAt doneAt)
        else if j.begun ∧ j.micro = s.odVal 0x604001 1 then .next (s.commitOpen j 0 recs flagAt doneAt)
        else .next s

/-! ### Preemption (R201, R202) -/

def Core.saveJob (k : Core) : SavedCore :=
  ⟨k.scale.rowScale, k.scale.tokScale, k.scale.seed, k.maskTab, k.stepf, k.aslot⟩

/-- A slot that the job gets back: EMPTY, with a fill held for it that starts at the chunk in use (R184). -/
def AdptSlot.refill (a : AdptSlot) : AdptSlot :=
  if a.st = .ready ∨ a.st = .filling then
    { a with st := .empty, bytes := []
             held := a.held.or (some (if a.gth then a.desc else fdWithCh0 a.desc a.cursor)) }
  else a

def Core.restoreJob (k : Core) (v : SavedCore) : Core :=
  { k with scale := { k.scale with rowScale := v.rowScale, tokScale := v.tokScale, seed := v.seed }
           maskTab := v.maskTab, stepf := v.stepf, aslot := v.aslot.map fun e => (e.1, e.2.refill) }

/-- The job state of a shelf's cores and of its Churn unit. -/
def Job.saveShelf (j : Job) (s : State) (sh : Nat) : Job :=
  { j with
    preempted := true
    saved := (List.range 8).foldl (fun t c => tabPut t (8 * sh + c) (s.lcore sh c).saveJob) j.saved
    savedChurn := tabSet 0 j.savedChurn sh (s.shelf sh).churnFlags }

/-- OR the registers of a shelf into the words of several jobs, and clear them (R198). -/
def State.gatherShelf (s : State) (jobs : List Nat) (sh : Nat) : State :=
  let fl := (List.range 8).foldl (fun f c => stepFlagMerge f (s.lcore sh c).stepf) (s.shelf sh).churnFlags
  let s := jobs.foldl (fun s i => s.modJob i fun j => { j with flags := stepFlagMerge j.flags fl }) s
  ((List.range 8).foldl (fun s c => s.onCore sh c fun k => { k with stepf := 0 }) s).modShelf sh fun h => { h with churnFlags := 0 }

/-- Serving work reaches a shelf that runs idle-class work: no more is placed there, and once what was placed has run,
the jobs' registers are saved and their flags gathered. -/
def execServingPreempt (sh : Fin 16) (s : State) : Out :=
  let s := s.modShelf sh fun h => { h with serving := true }
  let jobs := s.work.jobs.filter fun j => (s.shelvesOf j.part).contains sh.val && j.saved.all fun e => e.1 / 8 ≠ sh.val
  if jobs.isEmpty ∨ !(List.range 8).all (fun c => (s.lcore sh c).quiet) then .next s
  else .next ((jobs.foldl (fun t j => t.modJob j.slot fun j => j.saveShelf s sh) s).gatherShelf (jobs.map (·.slot)) sh)

/-- Serving has left the shelf: its job state returns. -/
def execTrainingResume (sh : Fin 16) (s : State) : Out :=
  if (s.worksOn sh).any (fun i => (s.wk i).kind = 1) then .next s
  else
    let s := s.modShelf sh fun h => { h with serving := false }
    let jobs := s.work.jobs.filter fun j => j.saved.any fun e => e.1 / 8 = sh.val
    match jobs with
    | [] => .next s
    | j :: _ =>
      let mine := j.saved.filter fun e => e.1 / 8 = sh.val
      let s := mine.foldl (fun s e => s.onCore sh (e.1 % 8) fun k => k.restoreJob e.2) s
      let s := s.modShelf sh fun h => { h with churnFlags := stepFlagMerge h.churnFlags (tabGet 0 j.savedChurn sh) }
      .next (jobs.foldl (fun s j => s.modJob j.slot fun j =>
        let rest := j.saved.filter fun e => e.1 / 8 ≠ sh.val
        { j with saved := rest, savedChurn := tabSet 0 j.savedChurn sh 0, preempted := !rest.isEmpty }) s)

/-! ### EXPORT and IMPORT works (R226 to R229) -/

/-- Export shards of every selected component of every shard, in the order of SHTAB. A component that a shard's rule
does not have is passed over. -/
def State.exportAll (s : State) (p comps : Nat) (key : Option Nat) : List Nat → Except Status (State × List (List Byte))
  | [] => .ok (s, [])
  | a :: l =>
    match s.jobShard p (BitVec.ofNat 64 a) with
    | .error st => .error st
    | .ok d =>
      let step (acc : Except Status (State × List (List Byte))) (k : Comp) : Except Status (State × List (List Byte)) :=
        match acc with
        | .error st => .error st
        | .ok (s, out) =>
          if !bit comps k.comp then .ok (s, out)
          else match s.exportShards p d k key with
            | .error st => .error st
            | .ok x => .ok ({ s with free := s.free + x.length }, out ++ x)
      match (hComps d.h).foldl step (.ok (s, [])) with
      | .error st => .error st
      | .ok (s, out) =>
        match State.exportAll s p comps key l with
        | .error st => .error st
        | .ok (s, rest) => .ok (s, out ++ rest)

/-- Outputs of a work one behind the other. -/
def stageAll : Nat → List (List Byte) → List (Nat × List Byte)
  | _, [] => []
  | o, b :: l => (o, b) :: stageAll (o + b.length) l

/-- The state area of a control work, with its record restarted (R224). -/
def State.areaReady (s : State) (i : Nat) : Except Status (State × Nat) :=
  let w := s.wk i
  let p := s.slotPart i
  let area := BitVec.ofNat 64 (w.body 8)
  if !s.didxOk p (daDidx w.da) then .error St.adapterIndexInvalid
  else match s.areaStatus p area with
    | some st => .error st
    | none =>
      let (s, st) := s.restartRecord p (gaOff area)
      if st ≠ 0 then .error st else .ok (s, gaOff area)

/-- A job of the state area is in its commit. -/
def State.inCommit (s : State) (i : Nat) : Bool :=
  s.work.jobs.any fun j => j.commit.isSome && gaOff j.area == gaOff (BitVec.ofNat 64 ((s.wk i).body 8))

/-- What an EXPORT work reads: its key, and the selected components of the shards of state area `a`. -/
def State.exportReads (s : State) (p : Nat) (w : Work) (a : Nat) : List (Nat × Nat) :=
  (if w.body 0x20 = 0 then [] else s.hbmRange (BitVec.ofNat 64 (w.body 0x20)) 65)
    ++ (s.shardTable a).flatMap fun q => s.shardReads p (BitVec.ofNat 64 q) fun k => bit (w.body 0x28 % 256) k.comp

/-- Firmware runs an EXPORT work: the Churn commands run to their ends within it, and the export shards are its one
commit unit. DESIGN CHOICE, log 37. -/
def execExportWork (slot : Fin 16384) (s : State) : Out :=
  let i := slot.val
  let w := s.wk i
  let p := s.slotPart i
  if w.kind ≠ 4 ∨ w.st ≠ .held ∨ w.ready ∨ w.copying ∨ w.stopped ∨ s.domainDown p ∨ s.inCommit i ∨ !s.firstHeld i then .next s
  else match s.areaReady i with
    | .error st => .next (s.workFail i st)
    | .ok (s, a) =>
      let key := BitVec.ofNat 64 (w.body 0x20)
      match (if key = 0 then .ok [] else s.churnRead p key 65) with
      | .error st => .next ((s.noteFail st (s.hbmRange key 65)).workFail i st)
      | .ok kb =>
        if key ≠ 0 ∧ !pointOk kb then .next (s.workFail i St.exportKeyInvalid)
        else match s.exportAll p (w.body 0x28 % 256) (if key = 0 then none else some (bigNat kb)) (s.shardTable a) with
          | .error st => .next ((s.noteFail st (s.exportReads p w a)).workFail i st)
          | .ok (t, l) =>
            let s := t.noteCorrected (s.exportReads p w a)
            let outs := stageAll 0 l
            if !w.outsFit outs then .next (s.workFail i St.addressInvalid)
            else .next ((s.modWork i fun w => { w with
              st := .running, staged := outs }).partReady i true)

/-- The live bank of every shard is copied to its shadow bank: what an import does not name stays (R229). A shard that
does not stand one epoch before the target ends it (R221). -/
def State.copyBanks (s : State) (p t : Nat) : List Nat → State × Status
  | [] => (s, St.ok)
  | a :: l =>
    match s.jobShard p (BitVec.ofNat 64 a) with
    | .error st => (s.noteFail st (s.hbmRange (BitVec.ofNat 64 a) 256), st)
    | .ok d =>
      if (d.epoch + 1) % 2 ^ 32 ≠ t then (s, St.shardEpochMismatch)
      else match s.hbmGet (Init.job p false) d.live (bankBytes (hComps d.h)) with
        | .error st => (s.noteFail st [(d.live, bankBytes (hComps d.h))], st)
        | .ok bs =>
          andThen ((s.noteCorrected [(d.live, bs.length)]).hbmPutLong (Init.job p false) (d.bank (d.epoch + 1)) bs) fun s =>
            s.copyBanks p t l

/-- The export shard at a global address, with the state shard of its layer, group and role. -/
def State.importSource (s : State) (p : Nat) (shards : List Nat) (a : Nat) : Except Status (List Byte × Shard × Comp) :=
  match s.churnRead p (BitVec.ofNat 64 a) 128 with
  | .error st => .error st
  | .ok hb =>
    let h := leNat hb
    if !importHeaderOk h then .error St.shardHeaderInvalid
    else match s.churnRead p (BitVec.ofNat 64 a) (128 + hPlen h) with
      | .error st => .error st
      | .ok bs =>
        if !importDigestOk bs then .error St.shardDigestMismatch else
        let same (q : Nat) : Bool :=
          let g := s.shardHdr q
          hLayer g == hLayer h && hGroup g == hGroup h && hRole g == hRole h
        match shards.find? same with
        | none => .error St.shardHeaderInvalid
        | some q =>
          match s.jobShard p (BitVec.ofNat 64 q) with
          | .error st => .error st
          | .ok d => match importCheck bs d with
            | .error st => .error st
            | .ok k => .ok (bs, d, k)

/-- Import export shards one behind the other from a global address, into the bank of the target epoch (R221, R229). -/
def State.importFrom (s : State) (p t : Nat) (shards : List Nat) : Nat → Nat → State × Status
  | 0, _ => (s, St.ok)
  | n + 1, a =>
    match s.importSource p shards a with
    | .error st =>
      let g := BitVec.ofNat 64 a
      let whole := match s.churnRead p g 128 with
        | .ok hb => 128 + hPlen (leNat hb)
        | .error _ => 128
      (s.noteFail st (s.hbmRange g whole ++ shards.flatMap fun q => s.hbmRange (BitVec.ofNat 64 q) 256), st)
    | .ok (bs, d, k) =>
      if (d.epoch + 1) % 2 ^ 32 ≠ t then (s, St.shardEpochMismatch)
      else andThen ((s.noteCorrected (s.hbmRange (BitVec.ofNat 64 a) bs.length)).importRange p d k bs) fun s => State.importFrom s p t shards n (a + bs.length)

/-- Steps 2 to 4 of R223 for an import: OPEN, the copies, the imported ranges. -/
def State.importBanks (s : State) (p a : Nat) (w : Work) : State × Status :=
  let t := (s.recEpoch a + 1) % 2 ^ 32
  let shards := s.shardTable a
  andThen (s.putRec p a 1 1 t) fun s => andThen (s.copyBanks p t shards) fun s =>
    s.importFrom p t shards (w.body 0x18 % 65536) (w.body 0x10)

/-- Steps 5 to 7, from committed epoch e. -/
def State.importCommit (s : State) (p a e : Nat) : State × Status :=
  let t := (e + 1) % 2 ^ 32
  andThen (s.putStep p a 0x10 (s.recStepc a)) fun s => andThen (s.putRec p a 2 1 t) fun s =>
    andThen (State.moveEpochs p e t (s.shardTable a) s) fun s => s.putRec p a 0 1 t

/-- Firmware runs an IMPORT work: the imports and their commit with KIND 1 (R223, R229). -/
def execImportWork (slot : Fin 16384) (s : State) : Out :=
  let i := slot.val
  let w := s.wk i
  let p := s.slotPart i
  if w.kind ≠ 5 ∨ w.st ≠ .held ∨ w.stopped ∨ s.domainDown p ∨ s.inCommit i ∨ !s.firstHeld i then .next s
  else match s.areaReady i with
    | .error st => .next (s.workFail i st)
    | .ok (s, a) =>
      let e := s.recEpoch a
      let (s, st) := (s.modEntry (daDidx w.da) fun x => { x with area := some a }).importBanks p a w
      if st ≠ 0 then .next ((s.putRec p a 0 0 e).1.workFail i st)
      else
        let (s, st) := s.importCommit p a e
        if st ≠ 0 then .next (s.workFail i st)
        else .next (s.endWork i St.ok)

end Sys2Proof.Machine
end

