-- ==== Sys2Proof/Machine/Dispatch.lean ====
section
/-!
DEFINITION. One arm per command, each a direct call of its meaning.
-/

namespace Sys2Proof.Machine

def exec (i : Instr) (s : State) : Host.Outcome State Fault Refusal :=
  match i with
  | .tileNop c => Sys2Proof.Machine.execTileNop c s
  | .tileLd c => Sys2Proof.Machine.execTileLd c s
  | .tileLdDone c => Sys2Proof.Machine.execTileLdDone c s
  | .tileSwap c => Sys2Proof.Machine.execTileSwap c s
  | .tileRun c cold => Sys2Proof.Machine.execTileRun c cold s
  | .runComplete c => Sys2Proof.Machine.execRunComplete c s
  | .tallyDrain c => Sys2Proof.Machine.execTallyDrain c s
  | .drainComplete c => Sys2Proof.Machine.execDrainComplete c s
  | .tileMask c => Sys2Proof.Machine.execTileMask c s
  | .tileEnd c => Sys2Proof.Machine.execTileEnd c s
  | .wakeWave part => Sys2Proof.Machine.execWakeWave part s
  | .retireCore c answers dst combine => Sys2Proof.Machine.execRetireCore c answers dst combine s
  | .maximaReadTimeout c => Sys2Proof.Machine.execMaximaReadTimeout c s
  | .discardIdle c => Sys2Proof.Machine.execDiscardIdle c s
  | .tallyAdd r => Sys2Proof.Machine.execTallyAdd r s
  | .put r => Sys2Proof.Machine.execPut r s
  | .get r => Sys2Proof.Machine.execGet r s
  | .atomicAdd r => Sys2Proof.Machine.execAtomicAdd r s
  | .atomicSwap r => Sys2Proof.Machine.execAtomicSwap r s
  | .atomicCas r => Sys2Proof.Machine.execAtomicCas r s
  | .putSignal r => Sys2Proof.Machine.execPutSignal r s
  | .fence r => Sys2Proof.Machine.execFence r s
  | .response op a => Sys2Proof.Machine.execResponse op a s
  | .loadRowScales t o => Sys2Proof.Machine.execLoadRowScales t o s
  | .loadTokenScales t o => Sys2Proof.Machine.execLoadTokenScales t o s
  | .storeRowMaxima t o => Sys2Proof.Machine.execStoreRowMaxima t o s
  | .storeTokenMaxima t o => Sys2Proof.Machine.execStoreTokenMaxima t o s
  | .scSeed t o => Sys2Proof.Machine.execScSeed t o s
  | .seedWriteApply c => Sys2Proof.Machine.execSeedWriteApply c s
  | .snapshotCommand q => Sys2Proof.Machine.execSnapshotCommand q s
  | .snapshotDone part => Sys2Proof.Machine.execSnapshotDone part s
  | .vlaunch r => Sys2Proof.Machine.execVlaunch r s
  | .vectorProgramStart c => Sys2Proof.Machine.execVectorProgramStart c s
  | .vnop c => Sys2Proof.Machine.execVnop c s
  | .vend c => Sys2Proof.Machine.execVend c s
  | .vsetvl c => Sys2Proof.Machine.execVsetvl c s
  | .vsetvlM c => Sys2Proof.Machine.execVsetvlM c s
  | .vsum c => Sys2Proof.Machine.execVsum c s
  | .summaryDeliver t => Sys2Proof.Machine.execSummaryDeliver t s
  | .vrand c => Sys2Proof.Machine.execVrand c s
  | .vld c => Sys2Proof.Machine.execVld c s
  | .vst c => Sys2Proof.Machine.execVst c s
  | .vldx c => Sys2Proof.Machine.execVldx c s
  | .vstx c => Sys2Proof.Machine.execVstx c s
  | .vsxadd c => Sys2Proof.Machine.execVsxadd c s
  | .vmld c => Sys2Proof.Machine.execVmld c s
  | .vmst c => Sys2Proof.Machine.execVmst c s
  | .vadd c => Sys2Proof.Machine.execVadd c s
  | .vsub c => Sys2Proof.Machine.execVsub c s
  | .vmul c => Sys2Proof.Machine.execVmul c s
  | .vmin c => Sys2Proof.Machine.execVmin c s
  | .vmax c => Sys2Proof.Machine.execVmax c s
  | .vminu c => Sys2Proof.Machine.execVminu c s
  | .vmaxu c => Sys2Proof.Machine.execVmaxu c s
  | .vand c => Sys2Proof.Machine.execVand c s
  | .vor c => Sys2Proof.Machine.execVor c s
  | .vxor c => Sys2Proof.Machine.execVxor c s
  | .vsll c => Sys2Proof.Machine.execVsll c s
  | .vsrl c => Sys2Proof.Machine.execVsrl c s
  | .vsra c => Sys2Proof.Machine.execVsra c s
  | .vsadd c => Sys2Proof.Machine.execVsadd c s
  | .vmerge c => Sys2Proof.Machine.execVmerge c s
  | .vmv c => Sys2Proof.Machine.execVmv c s
  | .vid c => Sys2Proof.Machine.execVid c s
  | .vfadd c => Sys2Proof.Machine.execVfadd c s
  | .vfsub c => Sys2Proof.Machine.execVfsub c s
  | .vfmul c => Sys2Proof.Machine.execVfmul c s
  | .vfma c => Sys2Proof.Machine.execVfma c s
  | .vfmin c => Sys2Proof.Machine.execVfmin c s
  | .vfmax c => Sys2Proof.Machine.execVfmax c s
  | .vfabs c => Sys2Proof.Machine.execVfabs c s
  | .vfneg c => Sys2Proof.Machine.execVfneg c s
  | .vfdiv c => Sys2Proof.Machine.execVfdiv c s
  | .vfsqrt c => Sys2Proof.Machine.execVfsqrt c s
  | .vfexp2 c => Sys2Proof.Machine.execVfexp2 c s
  | .vfexp c => Sys2Proof.Machine.execVfexp c s
  | .vflog2 c => Sys2Proof.Machine.execVflog2 c s
  | .vfrcp c => Sys2Proof.Machine.execVfrcp c s
  | .vfrsqrt c => Sys2Proof.Machine.execVfrsqrt c s
  | .vftanh c => Sys2Proof.Machine.execVftanh c s
  | .vfsigm c => Sys2Proof.Machine.execVfsigm c s
  | .vcvt c => Sys2Proof.Machine.execVcvt c s
  | .vcmpEq c => Sys2Proof.Machine.execVcmpEq c s
  | .vcmpNe c => Sys2Proof.Machine.execVcmpNe c s
  | .vcmpLt c => Sys2Proof.Machine.execVcmpLt c s
  | .vcmpLtu c => Sys2Proof.Machine.execVcmpLtu c s
  | .vcmpLe c => Sys2Proof.Machine.execVcmpLe c s
  | .vcmpLeu c => Sys2Proof.Machine.execVcmpLeu c s
  | .vfcmpEq c => Sys2Proof.Machine.execVfcmpEq c s
  | .vfcmpLt c => Sys2Proof.Machine.execVfcmpLt c s
  | .vfcmpLe c => Sys2Proof.Machine.execVfcmpLe c s
  | .vfcmpUno c => Sys2Proof.Machine.execVfcmpUno c s
  | .vmand c => Sys2Proof.Machine.execVmand c s
  | .vmor c => Sys2Proof.Machine.execVmor c s
  | .vmxor c => Sys2Proof.Machine.execVmxor c s
  | .vmandn c => Sys2Proof.Machine.execVmandn c s
  | .vmset c => Sys2Proof.Machine.execVmset c s
  | .vredAdd c => Sys2Proof.Machine.execVredAdd c s
  | .vredMax c => Sys2Proof.Machine.execVredMax c s
  | .vredMaxu c => Sys2Proof.Machine.execVredMaxu c s
  | .vredMin c => Sys2Proof.Machine.execVredMin c s
  | .vredMinu c => Sys2Proof.Machine.execVredMinu c s
  | .vfredAdd c => Sys2Proof.Machine.execVfredAdd c s
  | .vfredMax c => Sys2Proof.Machine.execVfredMax c s
  | .vfredMin c => Sys2Proof.Machine.execVfredMin c s
  | .vscanAdd c => Sys2Proof.Machine.execVscanAdd c s
  | .vscanxAdd c => Sys2Proof.Machine.execVscanxAdd c s
  | .vscanMax c => Sys2Proof.Machine.execVscanMax c s
  | .vscanMaxu c => Sys2Proof.Machine.execVscanMaxu c s
  | .vfscanAdd c => Sys2Proof.Machine.execVfscanAdd c s
  | .vfscanxAdd c => Sys2Proof.Machine.execVfscanxAdd c s
  | .vsscanAdd c => Sys2Proof.Machine.execVsscanAdd c s
  | .vsscanxAdd c => Sys2Proof.Machine.execVsscanxAdd c s
  | .vfsscanAdd c => Sys2Proof.Machine.execVfsscanAdd c s
  | .vsscanMax c => Sys2Proof.Machine.execVsscanMax c s
  | .vcompress c => Sys2Proof.Machine.execVcompress c s
  | .vexpand c => Sys2Proof.Machine.execVexpand c s
  | .vperm c => Sys2Proof.Machine.execVperm c s
  | .vrank c => Sys2Proof.Machine.execVrank c s
  | .rmCmd t o => Sys2Proof.Machine.execRmCmd t o s
  | .rmCompletion op => Sys2Proof.Machine.execRmCompletion op s
  | .counterStore t err n v => Sys2Proof.Machine.execCounterStore t err n v s
  | .waitWNe t o => Sys2Proof.Machine.execWaitWNe t o s
  | .waitWEq t o => Sys2Proof.Machine.execWaitWEq t o s
  | .waitWGeu t o => Sys2Proof.Machine.execWaitWGeu t o s
  | .waitWake t => Sys2Proof.Machine.execWaitWake t s
  | .waitTimeout t => Sys2Proof.Machine.execWaitTimeout t s
  | .waitInterrupt t cause => Sys2Proof.Machine.execWaitInterrupt t cause s
  | .tpIssue t o => Sys2Proof.Machine.execTpIssue t o s
  | .tpStat t o => Sys2Proof.Machine.execTpStat t o s
  | .tpDiscard t o => Sys2Proof.Machine.execTpDiscard t o s
  | .sumRecv t o => Sys2Proof.Machine.execSumRecv t o s
  | .sumPoll t o => Sys2Proof.Machine.execSumPoll t o s
  | .sumFlush t o => Sys2Proof.Machine.execSumFlush t o s
  | .trimException t b e => Sys2Proof.Machine.execTrimException t b e s
  | .create d => Sys2Proof.Machine.execCreate d s
  | .load d => Sys2Proof.Machine.execLoad d s
  | .loadComplete didx fetched => Sys2Proof.Machine.execLoadComplete didx fetched s
  | .park d => Sys2Proof.Machine.execPark d s
  | .pin d => Sys2Proof.Machine.execPin d s
  | .unpin d => Sys2Proof.Machine.execUnpin d s
  | .trainBegin d => Sys2Proof.Machine.execTrainBegin d s
  | .trainEnd d => Sys2Proof.Machine.execTrainEnd d s
  | .revoke d => Sys2Proof.Machine.execRevoke d s
  | .revokeTenant d => Sys2Proof.Machine.execRevokeTenant d s
  | .free d => Sys2Proof.Machine.execFree d s
  | .refcntZero didx => Sys2Proof.Machine.execRefcntZero didx s
  | .commandTmoExpiry didx => Sys2Proof.Machine.execCommandTmoExpiry didx s
  | .cacheLineAvailable part => Sys2Proof.Machine.execCacheLineAvailable part s
  | .tokenBoundary slot => Sys2Proof.Machine.execTokenBoundary slot s
  | .fillDescriptor r => Sys2Proof.Machine.execFillDescriptor r s
  | .fillStart c k => Sys2Proof.Machine.execFillStart c k s
  | .fillCopyDone c k => Sys2Proof.Machine.execFillCopyDone c k s
  | .chunkFetchDone c k => Sys2Proof.Machine.execChunkFetchDone c k s
  | .scannerSweep => Sys2Proof.Machine.execScannerSweep s
  | .batchWindowExpiry => Sys2Proof.Machine.execBatchWindowExpiry s
  | .serveWork slot a => Sys2Proof.Machine.execServeWork slot a s
  | .trainWork slot => Sys2Proof.Machine.execTrainWork slot s
  | .exportWork slot => Sys2Proof.Machine.execExportWork slot s
  | .importWork slot => Sys2Proof.Machine.execImportWork slot s
  | .workEnd slot => Sys2Proof.Machine.execWorkEnd slot s
  | .abortWork q => Sys2Proof.Machine.execAbortWork q s
  | .abortGroup q => Sys2Proof.Machine.execAbortGroup q s
  | .groupRegister from_ h part npart => Sys2Proof.Machine.execGroupRegister from_ h part npart s
  | .groupReady h part unit last => Sys2Proof.Machine.execGroupReady h part unit last s
  | .groupFail h part st => Sys2Proof.Machine.execGroupFail h part st s
  | .groupCommit h unit => Sys2Proof.Machine.execGroupCommit h unit s
  | .groupDiscard h fpart pstat tokens => Sys2Proof.Machine.execGroupDiscard h fpart pstat tokens s
  | .groupCopied h part unit => Sys2Proof.Machine.execGroupCopied h part unit s
  | .groupEnd h tokens => Sys2Proof.Machine.execGroupEnd h tokens s
  | .groupAbort h tokens => Sys2Proof.Machine.execGroupAbort h tokens s
  | .groupAssemblyTimeout h => Sys2Proof.Machine.execGroupAssemblyTimeout h s
  | .groupDecisionTimeout slot => Sys2Proof.Machine.execGroupDecisionTimeout slot s
  | .modeCommandDevice q => Sys2Proof.Machine.execModeCommandDevice q s
  | .modeCommandBoard q => Sys2Proof.Machine.execModeCommandBoard q s
  | .unitQuiesced u => Sys2Proof.Machine.execUnitQuiesced u s
  | .modeTimeout => Sys2Proof.Machine.execModeTimeout s
  | .scrubComplete part => Sys2Proof.Machine.execScrubComplete part s
  | .modePrepare => Sys2Proof.Machine.execModePrepare s
  | .modeReady from_ => Sys2Proof.Machine.execModeReady from_ s
  | .modeFail from_ => Sys2Proof.Machine.execModeFail from_ s
  | .modeCommit => Sys2Proof.Machine.execModeCommit s
  | .modeRollback => Sys2Proof.Machine.execModeRollback s
  | .modeQuery q => Sys2Proof.Machine.execModeQuery q s
  | .modeAnswer from_ committed => Sys2Proof.Machine.execModeAnswer from_ committed s
  | .modeDecisionTimeout => Sys2Proof.Machine.execModeDecisionTimeout s
  | .open_ p => Sys2Proof.Machine.execOpen p s
  | .close c fromHost => Sys2Proof.Machine.execClose c fromHost s
  | .closed c => Sys2Proof.Machine.execClosed c s
  | .drainTimeout c => Sys2Proof.Machine.execDrainTimeout c s
  | .packetReceive f => Sys2Proof.Machine.execPacketReceive f s
  | .ack c q ack sack => Sys2Proof.Machine.execAck c q ack sack s
  | .ackTimer c q => Sys2Proof.Machine.execAckTimer c q s
  | .retransmitTimeout c q => Sys2Proof.Machine.execRetransmitTimeout c q s
  | .cnp c => Sys2Proof.Machine.execCnp c s
  | .rateTick c => Sys2Proof.Machine.execRateTick c s
  | .keepalive c => Sys2Proof.Machine.execKeepalive c s
  | .keepaliveTimer c => Sys2Proof.Machine.execKeepaliveTimer c s
  | .portStateChange e => Sys2Proof.Machine.execPortStateChange e s
  | .flitReceive peer bytes => Sys2Proof.Machine.execFlitReceive peer bytes s
  | .groupTraining g t => Sys2Proof.Machine.execGroupTraining g t s
  | .trainingPhaseTimeout g light => Sys2Proof.Machine.execTrainingPhaseTimeout g light s
  | .groupRestoreTimer g => Sys2Proof.Machine.execGroupRestoreTimer g s
  | .retrainGroup q => Sys2Proof.Machine.execRetrainGroup q s
  | .laneErrorWindow g ratios => Sys2Proof.Machine.execLaneErrorWindow g ratios s
  | .laneLockLoss g lane => Sys2Proof.Machine.execLaneLockLoss g lane s
  | .clockChannelLoss e => Sys2Proof.Machine.execClockChannelLoss e s
  | .fabricOpTimeout op => Sys2Proof.Machine.execFabricOpTimeout op s
  | .linkState peer words => Sys2Proof.Machine.execLinkState peer words s
  | .powerCredit peer c => Sys2Proof.Machine.execPowerCredit peer c s
  | .powerRound barriers waitns => Sys2Proof.Machine.execPowerRound barriers waitns s
  | .digest use member shard d => Sys2Proof.Machine.execDigest use member shard d s
  | .patrolRead h arisen intervened => Sys2Proof.Machine.execPatrolRead h arisen intervened s
  | .rowRemap h pc row => Sys2Proof.Machine.execRowRemap h pc row s
  | .regionEntry q => Sys2Proof.Machine.execRegionEntry q s
  | .replicaCheck => Sys2Proof.Machine.execReplicaCheck s
  | .replicaRefetchDone member shard a => Sys2Proof.Machine.execReplicaRefetchDone member shard a s
  | .ownerKeyClaim q => Sys2Proof.Machine.execOwnerKeyClaim q s
  | .ownerRelease q => Sys2Proof.Machine.execOwnerRelease q s
  | .nonceRefresh => Sys2Proof.Machine.execNonceRefresh s
  | .secureOpenLockoutEnd => Sys2Proof.Machine.execSecureOpenLockoutEnd s
  | .quoteRequest q => Sys2Proof.Machine.execQuoteRequest q s
  | .quoteCapture c => Sys2Proof.Machine.execQuoteCapture c s
  | .securityVersionCommit q => Sys2Proof.Machine.execSecurityVersionCommit q s
  | .partitionReset q => Sys2Proof.Machine.execPartitionReset q s
  | .regionScrub q => Sys2Proof.Machine.execRegionScrub q s
  | .scanGrantRequest blk inst unit => Sys2Proof.Machine.execScanGrantRequest blk inst unit s
  | .estimationPeriod acts hbm => Sys2Proof.Machine.execEstimationPeriod acts hbm s
  | .slewDone n => Sys2Proof.Machine.execSlewDone n s
  | .thermalTick temp => Sys2Proof.Machine.execThermalTick temp s
  | .junctionLimit => Sys2Proof.Machine.execJunctionLimit s
  | .thermalRestart => Sys2Proof.Machine.execThermalRestart s
  | .droopDetect n => Sys2Proof.Machine.execDroopDetect n s
  | .droopClear n => Sys2Proof.Machine.execDroopClear n s
  | .supplyWarning n => Sys2Proof.Machine.execSupplyWarning n s
  | .supplyRecovery n => Sys2Proof.Machine.execSupplyRecovery n s
  | .supplyReset n => Sys2Proof.Machine.execSupplyReset n s
  | .deferredStep n => Sys2Proof.Machine.execDeferredStep n s
  | .idleReadyEntry => Sys2Proof.Machine.execIdleReadyEntry s
  | .idleReadyExit => Sys2Proof.Machine.execIdleReadyExit s
  | .parkedWake => Sys2Proof.Machine.execParkedWake s
  | .inServiceTest findings retestOk dst => Sys2Proof.Machine.execInServiceTest findings retestOk dst s
  | .inServiceHandback dst => Sys2Proof.Machine.execInServiceHandback dst s
  | .trimFetchFault t o us => Sys2Proof.Machine.execTrimFetchFault t o us s
  | .managementDataFault core o us => Sys2Proof.Machine.execManagementDataFault core o us s
  | .shelfReset q sh st => Sys2Proof.Machine.execShelfReset q sh st s
  | .stepStart slot garea copies batches => Sys2Proof.Machine.execStepStart slot garea copies batches s
  | .trainingImageBuild slot image timage => Sys2Proof.Machine.execTrainingImageBuild slot image timage s
  | .microStepEnd slot tags m => Sys2Proof.Machine.execMicroStepEnd slot tags m s
  | .stepCommit slot recs flagAt doneAt => Sys2Proof.Machine.execStepCommit slot recs flagAt doneAt s
  | .commitRestart didx => Sys2Proof.Machine.execCommitRestart didx s
  | .servingPreempt sh => Sys2Proof.Machine.execServingPreempt sh s
  | .trainingResume sh => Sys2Proof.Machine.execTrainingResume sh s
  | .stepfWrite r => Sys2Proof.Machine.execStepfWrite r s
  | .emit sh => Sys2Proof.Machine.execEmit sh s
  | .update sh => Sys2Proof.Machine.execUpdate sh s
  | .setepoch sh => Sys2Proof.Machine.execSetepoch sh s
  | .sketch sh codes bf16 => Sys2Proof.Machine.execSketch sh codes bf16 s
  | .export_ sh moved => Sys2Proof.Machine.execExport sh moved s
  | .import_ sh => Sys2Proof.Machine.execImport sh s
  | .stepfRd sh => Sys2Proof.Machine.execStepfRd sh s
  | .stepfWr sh => Sys2Proof.Machine.execStepfWr sh s
  | .serve sh => Sys2Proof.Machine.execServe sh s
  | .odWrite q => Sys2Proof.Machine.execOdWrite q s
  | .sessionLevel q => Sys2Proof.Machine.execSessionLevel q s
  | .expertSessionTimeout c => Sys2Proof.Machine.execExpertSessionTimeout c s
  | .deviceReset q => Sys2Proof.Machine.execDeviceReset q s
  | .updateStage q => Sys2Proof.Machine.execUpdateStage q s
  | .updateVerifyDone => Sys2Proof.Machine.execUpdateVerifyDone s
  | .updateActivate q => Sys2Proof.Machine.execUpdateActivate q s
  | .updateAbandon q => Sys2Proof.Machine.execUpdateAbandon q s
  | .trfShelfSwitch => Sys2Proof.Machine.execTrfShelfSwitch s
  | .trfStartFailure t st => Sys2Proof.Machine.execTrfStartFailure t st s
  | .resetNAssert => Sys2Proof.Machine.execResetNAssert s
  | .startup r => Sys2Proof.Machine.execStartup r s
  | .inputPowerApplied straps => Sys2Proof.Machine.execInputPowerApplied straps s
  | .pwrEnRise => Sys2Proof.Machine.execPwrEnRise s
  | .pwrEnFall => Sys2Proof.Machine.execPwrEnFall s
  | .inputUndervoltage => Sys2Proof.Machine.execInputUndervoltage s
  | .inputOvervoltage => Sys2Proof.Machine.execInputOvervoltage s
  | .railFault rail => Sys2Proof.Machine.execRailFault rail s
  | .cartridgeRelease bay => Sys2Proof.Machine.execCartridgeRelease bay s
  | .cartridgeOff bay => Sys2Proof.Machine.execCartridgeOff bay s
  | .cartridgePull bay => Sys2Proof.Machine.execCartridgePull bay s
  | .cartridgeLatch bay => Sys2Proof.Machine.execCartridgeLatch bay s
  | .cartridgeWarmupDone bay => Sys2Proof.Machine.execCartridgeWarmupDone bay s
  | .leakSensorWet => Sys2Proof.Machine.execLeakSensorWet s
  | .enterParked q => Sys2Proof.Machine.execEnterParked q s
  | .powerCreditStale peer => Sys2Proof.Machine.execPowerCreditStale peer s
  | .boardReadyTimeout => Sys2Proof.Machine.execBoardReadyTimeout s
  | .managementRestartDone => Sys2Proof.Machine.execManagementRestartDone s
  | .arithmeticDomainRestore n => Sys2Proof.Machine.execArithmeticDomainRestore n s
  | .cartridgeFault bay => Sys2Proof.Machine.execCartridgeFault bay s
  | .leakSensorDry => Sys2Proof.Machine.execLeakSensorDry s
  | .regionScrubDone e => Sys2Proof.Machine.execRegionScrubDone e s

end Sys2Proof.Machine
end

