-- ==== Sys2Proof/Machine/Step.lean ====
section
/-!
DEFINITION. One step: the command at the front of the queue, or a tick of the device timestamp counter.
-/

namespace Sys2Proof.Machine

/-- Take the command at the front of the queue and run it with the queue's rest. With no command waiting, one
nanosecond passes on the device timestamp counter and nothing else (R9's table of clocks). DESIGN CHOICE, log 7. -/
def step (s : State) : Host.Outcome State Fault Refusal :=
  match s.pending with
  | [] => .next { s with tsc := (s.tsc + 1) % 2 ^ 64 }
  | i :: rest => exec i { s with pending := rest }

/-- The state with the command that the word spells put at the front of the queue; unchanged where it spells none. -/
def State.withFetchWord (s : State) (nbits w : Nat) : State :=
  match decodeTableWord nbits w with
  | some i => { s with pending := i :: s.pending }
  | none => s

end Sys2Proof.Machine
end

