-- ==== Sys2Proof/Laws/Tab.lean ====
section
/-!
SUPPORT. Tables and memories: a read after a write, other keys, and the canonical form that every operation keeps.
-/

namespace Sys2Proof.Machine

variable {α : Type}

/-! ### Reads -/

theorem tabGet_put_same (d : α) (t : Tab α) (k : Nat) (v : α) : tabGet d (tabPut t k v) k = v := by
  induction t with
  | nil => simp [tabPut, tabGet]
  | cons e t ih =>
    obtain ⟨j, w⟩ := e
    by_cases h : k < j
    · simp [tabPut, h, tabGet]
    · by_cases h2 : k = j
      · simp [tabPut, h2, tabGet]
      · simp [tabPut, h, h2, tabGet, Ne.symm h2, ih]

theorem tabGet_put_other (d : α) (t : Tab α) (k i : Nat) (v : α) (h : i ≠ k) : tabGet d (tabPut t k v) i = tabGet d t i := by
  induction t with
  | nil => simp [tabPut, tabGet, Ne.symm h]
  | cons e t ih =>
    obtain ⟨j, w⟩ := e
    by_cases h1 : k < j
    · simp [tabPut, h1, tabGet, Ne.symm h]
    · by_cases h2 : k = j
      · subst h2
        simp [tabPut, tabGet, Ne.symm h]
      · simp [tabPut, h1, h2, tabGet, ih]

theorem tabGet_del_same (d : α) (t : Tab α) (k : Nat) : tabGet d (tabDel t k) k = d := by
  induction t with
  | nil => rfl
  | cons e t ih =>
    obtain ⟨j, w⟩ := e
    by_cases h : j = k
    · subst h
      simpa [tabDel] using ih
    · simpa [tabDel, List.filter_cons, h, tabGet] using ih

theorem tabGet_del_other (d : α) (t : Tab α) (k i : Nat) (h : i ≠ k) : tabGet d (tabDel t k) i = tabGet d t i := by
  induction t with
  | nil => rfl
  | cons e t ih =>
    obtain ⟨j, w⟩ := e
    by_cases h1 : j = k
    · subst h1
      simpa [tabDel, tabGet, Ne.symm h] using ih
    · have h2 : (j != k) = true := by simpa using h1
      simp only [tabDel, List.filter_cons, h2, if_true, tabGet] at ih ⊢
      rw [ih]

@[simp] theorem tabGet_set_same [DecidableEq α] (d : α) (t : Tab α) (k : Nat) (v : α) : tabGet d (tabSet d t k v) k = v := by
  unfold tabSet
  split
  · rename_i h
    rw [tabGet_del_same, h]
  · exact tabGet_put_same d t k v

theorem tabGet_set_other [DecidableEq α] (d : α) (t : Tab α) (k i : Nat) (v : α) (h : i ≠ k) :
    tabGet d (tabSet d t k v) i = tabGet d t i := by
  unfold tabSet
  split
  · exact tabGet_del_other d t k i h
  · exact tabGet_put_other d t k i v h

theorem tabGet_set [DecidableEq α] (d : α) (t : Tab α) (k i : Nat) (v : α) :
    tabGet d (tabSet d t k v) i = if i = k then v else tabGet d t i := by
  split
  · rename_i h
    rw [h, tabGet_set_same]
  · rename_i h
    exact tabGet_set_other d t k i v h

@[simp] theorem tabGet_mod_same [DecidableEq α] (d : α) (t : Tab α) (k : Nat) (f : α → α) :
    tabGet d (tabMod d t k f) k = f (tabGet d t k) := by
  simp [tabMod]

theorem tabGet_mod_other [DecidableEq α] (d : α) (t : Tab α) (k i : Nat) (f : α → α) (h : i ≠ k) :
    tabGet d (tabMod d t k f) i = tabGet d t i := by
  simp [tabMod, tabGet_set_other _ _ _ _ _ h]

theorem tabGet_mod [DecidableEq α] (d : α) (t : Tab α) (k i : Nat) (f : α → α) :
    tabGet d (tabMod d t k f) i = if i = k then f (tabGet d t k) else tabGet d t i := by
  simp [tabMod, tabGet_set]

theorem tabGet_clearIf (d : α) (t : Tab α) (p : Nat → Bool) (i : Nat) :
    tabGet d (tabClearIf t p) i = if p i then d else tabGet d t i := by
  induction t with
  | nil => simp [tabClearIf, tabGet]
  | cons e t ih =>
    obtain ⟨j, w⟩ := e
    unfold tabClearIf at ih ⊢
    by_cases hj : p j
    · simp only [List.filter_cons, hj, Bool.not_true, Bool.false_eq_true, if_false, ih, tabGet]
      by_cases hij : j = i
      · subst hij
        simp [hj]
      · simp [hij]
    · have hj' : p j = false := by simpa using hj
      simp only [List.filter_cons, hj', Bool.not_false, if_true, tabGet, ih]
      by_cases hij : j = i
      · subst hij
        simp [hj']
      · simp [hij]

theorem tabGet_clear (d : α) (t : Tab α) (lo n i : Nat) :
    tabGet d (tabClear t lo n) i = if lo ≤ i ∧ i < lo + n then d else tabGet d t i := by
  have h := tabGet_clearIf d t (fun k => decide (lo ≤ k) && decide (k < lo + n)) i
  have e : tabClear t lo n = tabClearIf t (fun k => decide (lo ≤ k) && decide (k < lo + n)) := by
    unfold tabClear tabClearIf
    congr 1
    funext kv
    by_cases h1 : kv.1 < lo <;> by_cases h2 : lo + n ≤ kv.1 <;> simp [h1, h2] <;> omega
  rw [e, h]
  simp

theorem tabGet_setList [DecidableEq α] (d : α) (t : Tab α) (k i : Nat) (l : List α) :
    tabGet d (tabSetList d t k l) i = if k ≤ i ∧ i < k + l.length then l.getD (i - k) d else tabGet d t i := by
  induction l generalizing t k with
  | nil =>
    have h : ¬ (k ≤ i ∧ i < k + ([] : List α).length) := by simp
    rw [if_neg h]
    rfl
  | cons v vs ih =>
    simp only [tabSetList, ih, tabGet_set, List.length_cons]
    by_cases h1 : i = k
    · subst h1
      simp
    · by_cases h2 : k + 1 ≤ i ∧ i < k + 1 + vs.length
      · have h3 : k ≤ i ∧ i < k + (vs.length + 1) := by omega
        rw [if_pos h2, if_pos h3]
        obtain ⟨m, rfl⟩ : ∃ m, i = k + 1 + m := ⟨i - (k + 1), by omega⟩
        have e1 : k + 1 + m - (k + 1) = m := by omega
        have e2 : k + 1 + m - k = m + 1 := by omega
        simp [e1, e2]
      · have h3 : ¬ (k ≤ i ∧ i < k + (vs.length + 1)) := by omega
        rw [if_neg h2, if_neg h3, if_neg h1]

/-- A byte after a write of bytes. -/
theorem memByte_write (m : Mem) (a i : Nat) (bs : List Byte) :
    tabGet 0 (memWrite m a bs) i = if a ≤ i ∧ i < a + bs.length then bs.getD (i - a) 0 else tabGet 0 m i :=
  tabGet_setList 0 m a i bs

/-! ### The canonical form -/

theorem tabWfFrom_mono [DecidableEq α] (d : α) (lo hi : Nat) (h : lo ≤ hi) (t : Tab α) (ht : tabWfFrom d hi t = true) :
    tabWfFrom d lo t = true := by
  cases t with
  | nil => rfl
  | cons e t =>
    obtain ⟨k, v⟩ := e
    simp only [tabWfFrom, Bool.and_eq_true, decide_eq_true_eq] at ht ⊢
    exact ⟨⟨Nat.le_trans h ht.1.1, ht.1.2⟩, ht.2⟩

theorem tabWfFrom_put [DecidableEq α] (d : α) (lo k : Nat) (v : α) (t : Tab α) (hk : lo ≤ k) (hv : v ≠ d)
    (ht : tabWfFrom d lo t = true) : tabWfFrom d lo (tabPut t k v) = true := by
  induction t generalizing lo with
  | nil => simp [tabPut, tabWfFrom, hk, hv]
  | cons e t ih =>
    obtain ⟨j, w⟩ := e
    simp only [tabWfFrom, Bool.and_eq_true, decide_eq_true_eq] at ht
    by_cases h1 : k < j
    · have h2 : k + 1 ≤ j := h1
      simp [tabPut, h1, tabWfFrom, hk, hv, h2, ht.1.2, ht.2]
    · by_cases h2 : k = j
      · subst h2
        simp [tabPut, tabWfFrom, hv, ht.1.1, ht.2]
      · have h3 : j + 1 ≤ k := by omega
        simp [tabPut, h1, h2, tabWfFrom, ht.1.1, ht.1.2, ih (j + 1) h3 ht.2]

theorem tabWfFrom_filter [DecidableEq α] (d : α) (lo : Nat) (p : Nat × α → Bool) (t : Tab α)
    (ht : tabWfFrom d lo t = true) : tabWfFrom d lo (t.filter p) = true := by
  induction t generalizing lo with
  | nil => rfl
  | cons e t ih =>
    obtain ⟨j, w⟩ := e
    simp only [tabWfFrom, Bool.and_eq_true, decide_eq_true_eq] at ht
    by_cases h : p (j, w)
    · simp [List.filter_cons, h, tabWfFrom, ht.1.1, ht.1.2, ih (j + 1) ht.2]
    · simp only [List.filter_cons, h, Bool.false_eq_true, if_false]
      exact tabWfFrom_mono d lo (j + 1) (by omega) _ (ih (j + 1) ht.2)

theorem tabWf_set [DecidableEq α] (d : α) (t : Tab α) (k : Nat) (v : α) (h : tabWf d t = true) :
    tabWf d (tabSet d t k v) = true := by
  unfold tabWf tabSet at *
  split
  · exact tabWfFrom_filter d 0 _ t h
  · rename_i hv
    exact tabWfFrom_put d 0 k v t (Nat.zero_le k) hv h

theorem tabWf_mod [DecidableEq α] (d : α) (t : Tab α) (k : Nat) (f : α → α) (h : tabWf d t = true) :
    tabWf d (tabMod d t k f) = true := tabWf_set d t k _ h

theorem tabWf_del [DecidableEq α] (d : α) (t : Tab α) (k : Nat) (h : tabWf d t = true) : tabWf d (tabDel t k) = true :=
  tabWfFrom_filter d 0 _ t h

theorem tabWf_clear [DecidableEq α] (d : α) (t : Tab α) (lo n : Nat) (h : tabWf d t = true) : tabWf d (tabClear t lo n) = true :=
  tabWfFrom_filter d 0 _ t h

theorem tabWf_clearIf [DecidableEq α] (d : α) (t : Tab α) (p : Nat → Bool) (h : tabWf d t = true) :
    tabWf d (tabClearIf t p) = true := tabWfFrom_filter d 0 _ t h

theorem tabWf_setList [DecidableEq α] (d : α) (t : Tab α) (k : Nat) (l : List α) (h : tabWf d t = true) :
    tabWf d (tabSetList d t k l) = true := by
  induction l generalizing t k with
  | nil => exact h
  | cons v vs ih => exact ih _ _ (tabWf_set d t k v h)

/-- Every write of bytes keeps a memory's canonical form. -/
theorem memWrite_wf (m : Mem) (a : Nat) (bs : List Byte) (h : Memory.wf m = true) : Memory.wf (memWrite m a bs) = true :=
  tabWf_setList 0 m a bs h

end Sys2Proof.Machine
end

