-- ==== Sys2Proof/Safety.lean ====
section
/-!
DEFINITION. The terms the statements use: what a command leaves unchanged, and when a command is due.
-/

namespace Sys2Proof.Machine

/-- From `s` to `t` trim cores of shelf `sh` may have seen the write that ends their wait (R143, R151), and none that had
is forgotten. -/
def State.Wakes (s t : State) (sh : Nat) : Prop :=
  (∀ i ∈ s.woken, i ∈ t.woken) ∧ ∀ i ∈ t.woken, i ∈ s.woken ∨ i / 4 = sh

/-- Only the contents of matrix core `p` may differ between `s` and `t`, and which waits of its shelf have been met. -/
def OnlyCore (s t : State) (p : Nat) : Prop :=
  (∀ q, q ≠ p → t.core q = s.core q) ∧ { t with cores := s.cores, woken := s.woken } = s ∧ s.Wakes t (p / 9)

/-- Only shelf `sh` may differ between `s` and `t`, and which waits of it have been met. -/
def OnlyShelf (s t : State) (sh : Nat) : Prop :=
  (∀ i, i ≠ sh → t.shelf i = s.shelf i) ∧ { t with shelves := s.shelves, woken := s.woken } = s ∧ s.Wakes t sh

/-- Only trim core `k` of shelf `sh` may differ between `s` and `t`, and which waits of the shelf have been met. -/
def OnlyTrim (s t : State) (sh k : Nat) : Prop :=
  OnlyShelf s t sh ∧ (∀ i, i ≠ k → t.trim sh i = s.trim sh i) ∧
    { t.shelf sh with trims := (s.shelf sh).trims } = s.shelf sh

/-- Only matrix core `p` and shelf `sh` may differ between `s` and `t`, and which waits of the two shelves have been
met. -/
def OnlyCoreShelf (s t : State) (p sh : Nat) : Prop :=
  (∀ q, q ≠ p → t.core q = s.core q) ∧ (∀ i, i ≠ sh → t.shelf i = s.shelf i) ∧
    { t with cores := s.cores, shelves := s.shelves, woken := s.woken } = s ∧
    (∀ i ∈ s.woken, i ∈ t.woken) ∧ ∀ i ∈ t.woken, i ∈ s.woken ∨ i / 4 = p / 9 ∨ i / 4 = sh

/-- A Tally word after the terms of `l` for key `i`, one saturating addition each, and whether one of them saturated
(R35). -/
def addedAt (l : List (Nat × Int)) (i : Nat) (w : BitVec 128) : BitVec 128 × Bool :=
  (l.filter (·.1 = i)).foldl (fun x e => ((tallyAdd x.1 e.2).1, x.2 || (tallyAdd x.1 e.2).2)) (w, false)

/-- The tile instruction `w` heads the queue of the core behind `c`, nothing holds the core's issue, and it passes
every check of R59. -/
structure State.Issues (s : State) (c : CoreRef) (p : Nat) (w : BitVec 128) : Prop where
  phys : s.phys c.sh c.c = some p
  notHeld : s.issueHeld c.sh = false
  kept : (s.core p).tile.discarding = false
  accepted : (s.core p).tile.rej = none
  head : (s.core p).tile.queue.head? = some w
  fields : tileCheck w.toNat = none
  stateOk : tileStateCheck (s.core p) w.toNat = none

/-- A trim core that is running: not disabled by self-test, and not waiting. -/
def State.Running (s : State) (t : TrimRef) : Prop := (s.trim t.sh t.k).off = false ∧ (s.trim t.sh t.k).wait = none

/-- From `r` to `r'` one extension instruction has completed: rd holds `v` (x0 holds nothing), the pc has passed it, no
wait is left, and nothing else has changed (R139). -/
def Trim.Completes (r r' : Trim) (rd : Nat) (v : BitVec 64) : Prop :=
  r'.pc = r.pc + 4 ∧ r'.wait = none ∧
    (∀ i, tabGet 0 r'.x i = if i = rd ∧ rd ≠ 0 then v else tabGet 0 r.x i) ∧ { r' with x := r.x, pc := r.pc, wait := r.wait } = r

/-- The instruction of trim core `t` completes with `v` in rd, and nothing else in the module changes. -/
def State.CompletesWith (s s' : State) (t : TrimRef) (rd : Nat) (v : BitVec 64) : Prop :=
  OnlyTrim s s' t.sh t.k ∧ (s.trim t.sh t.k).Completes (s'.trim t.sh t.k) rd v

/-- From `s` to `s'` core `p` has changed as `f` says, the instruction of trim core `t` has completed with `v` in rd, and
nothing else has changed. -/
def State.ChangesCore (s s' : State) (p : Nat) (k : Core) (t : TrimRef) (rd : Nat) (v : BitVec 64) : Prop :=
  ∃ x : State, OnlyCore s x p ∧ x.core p = k ∧ x.CompletesWith s' t rd v

/-- A management core that comes to instruction `i` takes an illegal-instruction exception (R137). -/
def State.IllegalOnManagement (s0 : State) (t : TrimRef) (b : TrimBase) (i : Instr) : Prop :=
  t.sh.val = 16 → ∃ s', exec i s0 = .next s' ∧ OnlyTrim (s0.enter t b) s' t.sh t.k ∧
    s'.trim t.sh t.k = ((s0.enter t b).trim t.sh t.k).trap 2

/-! ### Vector programs -/

/-- The vector program of the core behind `c` is at an instruction of opcode `op` with fields `f`, which passes the checks
of R112, and nothing holds the engine's issue. -/
structure State.VIssues (s : State) (c : CoreRef) (p : Nat) (f : VF) (op : Nat) : Prop where
  phys : s.phys c.sh c.c = some p
  notHeld : s.issueHeld c.sh = false
  kept : (s.core p).tile.discarding = false
  word : ∃ g, (s.core p).vec.prog = some g ∧ f = VF.of ((s.core p).vecWord g.pc) ∧ vecCheck ((s.core p).vecWord g.pc) = true
  opcode : f.op = op

/-- The program has passed one instruction. -/
def Core.passed (k : Core) : Option VecProg := k.vec.prog.map fun g => { g with pc := g.pc + 1 }

/-- Element i of width w of vector register r. -/
def Core.velem (k : Core) (r w i : Nat) : BitVec w := (k.vreg r).extractLsb' (w * i) w

/-- From `s` to `t` the engine of core `p` has passed one instruction that writes the elements of width w of register d
that `new` gives, and sets the flags given; no other element, register, flag or part of the module changes. -/
structure State.VWrites (s t : State) (p d w : Nat) (new : Nat → Option (BitVec w)) (nf oor clip : Bool) : Prop where
  only : OnlyCore s t p
  passed : (t.core p).vec.prog = (s.core p).passed
  elems : ∀ i, i < 2048 / w → (t.core p).velem d w i = (new i).getD ((s.core p).velem d w i)
  regs : ∀ r, r ≠ d → (t.core p).vreg r = (s.core p).vreg r
  setNF : (t.core p).vec.nf = ((s.core p).vec.nf || nf)
  setOOR : (t.core p).vec.oor = ((s.core p).vec.oor || oor)
  setCLIP : (t.core p).vec.clip = ((s.core p).vec.clip || clip)
  rest : (let v := (s.core p).vec
    let v' := { (t.core p).vec with v := v.v, prog := v.prog, nf := v.nf, oor := v.oor, clip := v.clip }
    { t.core p with vec := v' } = s.core p)

/-- As `State.VWrites`, for the bits of mask register d that `new` gives. -/
structure State.MWrites (s t : State) (p d : Nat) (new : Nat → Option Bool) : Prop where
  only : OnlyCore s t p
  passed : (t.core p).vec.prog = (s.core p).passed
  bits : ∀ i, i < 256 → ((t.core p).mreg d).getLsbD i = (new i).getD (((s.core p).mreg d).getLsbD i)
  regs : ∀ r, r ≠ d → (t.core p).mreg r = (s.core p).mreg r
  rest : (let v' := { (t.core p).vec with m := (s.core p).vec.m, prog := (s.core p).vec.prog }
    { t.core p with vec := v' } = s.core p)

/-- The program of core `p`, of shelf `sh`, has ended with this status: its record, its count and its step flags say so
(R109, R110), and an NF stands in the records of the works whose job runs on the shelf (R240). The flags of the record are
those of the end, after `oor`. -/
structure State.VEnds (s t : State) (sh p : Nat) (st : Status) (oor : Bool) : Prop where
  only : OnlyCore { s with work := t.work } t p
  works : t.work = (s.flagWorks sh (recordBits false false false false (s.core p).vec.nf)).work
  ended : ∀ g, (s.core p).vec.prog = some g →
    (let k := s.core p
    let v := k.vec
    let record : BitVec 64 := g.ptag ++ st ++ (0 : BitVec 13) ++ BitVec.ofBool v.clip ++ BitVec.ofBool (v.oor || oor) ++
      BitVec.ofBool v.nf
    let v' : Vec := { v with prog := none, vlast := record, vseq := v.vseq + 1, oor := v.oor || oor }
    let flagged := if v.nf then stepFlagOr k.stepf 8 g.ttag.toNat else k.stepf
    t.core p = { k with vec := v', stepf := flagged })

/-- The fixed tree of an FP32 reduction (R121): lane i after n levels over the lanes `t`. -/
def treeLane (op : Nat → Nat → Nat) (t : Nat → Nat) : Nat → Nat → Nat
  | 0, i => t i
  | n + 1, i => op (treeLane op t n (2 * i)) (treeLane op t n (2 * i + 1))

/-- Every vector instruction as a command: its opcode and its row. -/
def vectorRows (c : CoreRef) : List (Nat × Instr) :=
  [(0x00, Instr.vnop c), (0x01, Instr.vend c), (0x02, Instr.vsetvl c), (0x03, Instr.vsetvlM c), (0x04, Instr.vsum c), (0x05, Instr.vrand c)] ++
  [(0x10, Instr.vld c), (0x11, Instr.vst c), (0x12, Instr.vldx c), (0x13, Instr.vstx c), (0x14, Instr.vsxadd c), (0x15, Instr.vmld c)] ++
  [(0x16, Instr.vmst c), (0x20, Instr.vadd c), (0x21, Instr.vsub c), (0x22, Instr.vmul c), (0x23, Instr.vmin c), (0x24, Instr.vmax c)] ++
  [(0x25, Instr.vminu c), (0x26, Instr.vmaxu c), (0x27, Instr.vand c), (0x28, Instr.vor c), (0x29, Instr.vxor c), (0x2A, Instr.vsll c)] ++
  [(0x2B, Instr.vsrl c), (0x2C, Instr.vsra c), (0x2D, Instr.vsadd c), (0x2E, Instr.vmerge c), (0x2F, Instr.vmv c), (0x30, Instr.vid c)] ++
  [(0x40, Instr.vfadd c), (0x41, Instr.vfsub c), (0x42, Instr.vfmul c), (0x43, Instr.vfma c), (0x44, Instr.vfmin c), (0x45, Instr.vfmax c)] ++
  [(0x46, Instr.vfabs c), (0x47, Instr.vfneg c), (0x48, Instr.vfdiv c), (0x49, Instr.vfsqrt c), (0x4A, Instr.vfexp2 c), (0x4B, Instr.vfexp c)] ++
  [(0x4C, Instr.vflog2 c), (0x4D, Instr.vfrcp c), (0x4E, Instr.vfrsqrt c), (0x4F, Instr.vftanh c), (0x50, Instr.vfsigm c), (0x51, Instr.vcvt c)] ++
  [(0x60, Instr.vcmpEq c), (0x61, Instr.vcmpNe c), (0x62, Instr.vcmpLt c), (0x63, Instr.vcmpLtu c), (0x64, Instr.vcmpLe c), (0x65, Instr.vcmpLeu c)] ++
  [(0x66, Instr.vfcmpEq c), (0x67, Instr.vfcmpLt c), (0x68, Instr.vfcmpLe c), (0x69, Instr.vfcmpUno c), (0x6A, Instr.vmand c), (0x6B, Instr.vmor c)] ++
  [(0x6C, Instr.vmxor c), (0x6D, Instr.vmandn c), (0x6E, Instr.vmset c), (0x70, Instr.vredAdd c), (0x71, Instr.vredMax c), (0x72, Instr.vredMaxu c)] ++
  [(0x73, Instr.vredMin c), (0x74, Instr.vredMinu c), (0x75, Instr.vfredAdd c), (0x76, Instr.vfredMax c), (0x77, Instr.vfredMin c), (0x80, Instr.vscanAdd c)] ++
  [(0x81, Instr.vscanxAdd c), (0x82, Instr.vscanMax c), (0x83, Instr.vscanMaxu c), (0x84, Instr.vfscanAdd c), (0x85, Instr.vfscanxAdd c), (0x86, Instr.vsscanAdd c)] ++
  [(0x87, Instr.vsscanxAdd c), (0x88, Instr.vfsscanAdd c), (0x89, Instr.vsscanMax c), (0x90, Instr.vcompress c), (0x91, Instr.vexpand c), (0x92, Instr.vperm c)] ++
  [(0x93, Instr.vrank c)]

/-! ### Requests of a session, and memory -/

/-- The session's write `q` is for entry `k`, its context is OPEN, no management pause holds it, and it passes every
check of R415. -/
structure State.OdAccepts (s : State) (q : OdReq) (k : Nat) : Prop where
  key : odKeyOf q = k
  joined : (s.ctx q.ctx).st = .open_
  running : s.fw.pause = false
  checked : ∃ r, s.odCheck q.ctx k true q.value = .ok r

/-- From `s` to `t` these bytes have been written to HBM at offset `o`, every granule rewritten whole is good again
(R321), each good granule that the write met has fresh check bytes, those covered in part after a correction that counts
(R319, R320), and nothing else changes. -/
structure State.HbmWrites (s t : State) (o : Nat) (bs : List Byte) : Prop where
  bytes : ∀ a, tabGet 0 t.hbm a = if o ≤ a ∧ a < o + bs.length then bs.getD (a - o) 0 else tabGet 0 s.hbm a
  good : ∀ g, g ∈ t.ecc.bad ↔ g ∈ s.ecc.bad ∧ ¬ (o ≤ 512 * g ∧ 512 * g + 512 ≤ o + bs.length)
  errors : ∀ x, x ∈ t.ecc.errors ↔ x ∈ s.ecc.errors ∧ ¬ (o ≤ 512 * x.1 ∧ 512 * x.1 + 512 ≤ o + bs.length) ∧
    ¬ (512 * x.1 < o + bs.length ∧ o < 512 * x.1 + 512 ∧ x.1 ∉ s.ecc.bad)
  counted : ∀ h, tabGet 0 t.ecc.corrected h = tabGet 0 (s.noteEdges o bs.length).ecc.corrected h
  hits : t.ecc.hits.Perm (s.noteEdges o bs.length).ecc.hits
  rest : (let x := s.ecc
    let e := { t.ecc with bad := x.bad, errors := x.errors, corrected := x.corrected, hits := x.hits }
    { t with hbm := s.hbm, ecc := e } = s)

/-- The segment `q` of a PUT or PUT_SIGNAL of a message of which `missing` bytes are still to come: the first one, where the
checks over the whole range pass, or a later one of an accepted message (R263). The range of the message begins at `pl`. -/
def State.Arrives (s : State) (opc : Nat) (w : Sender) (q : Request) (missing : Nat) (pl : Place) : Prop :=
  s.placeOf w q.addr = .ok pl ∧
    (((s.asmOf q).find? (·.msn = reqKey q) = none ∧ (∃ p, s.putDecision w opc q = .ok p) ∧ missing = q.len) ∨
      ∃ a, (s.asmOf q).find? (·.msn = reqKey q) = some a ∧ a.status = St.ok ∧ a.missing = missing)

/-- The segment `q` of a TALLY_ADD with what its message has come to: accepted, and not moved to a core whose slot is not
LIVE at its point (R80, R85, R263). -/
def State.TallyArrives (s : State) (w : Sender) (q : Request) (a : Assembly) (pl : Place) : Prop :=
  s.placeOf w q.addr = .ok pl ∧ a.status = St.ok ∧ s.tallyMoved pl a q.point = false ∧
    ((s.asmOf q).find? (·.msn = reqKey q) = some a ∨
      ((s.asmOf q).find? (·.msn = reqKey q) = none ∧
        ∃ p, s.tallyDecision w q = .ok p ∧ a = ⟨reqKey q, St.ok, q.len, false, p.core⟩))

/-- The messages that its sender still has on their way, beside that of `q`. -/
def State.otherMessages (s : State) (q : Request) : List Assembly := (s.asmOf q).filter (·.msn ≠ reqKey q)

/-- After a message's last segment, in state `x`: it is answered and counted, and FENCEs that waited for it alone too
(R263, R267, R279). -/
def State.completes (s x : State) (opc : Nat) (q : Request) (a : Answer) : State :=
  (((x.setAsm q (s.otherMessages q)).answer opc q a).countIn q a.status).settleFences q

/-- The bytes that a segment carries. -/
def segBytes (q : Request) : List Byte := q.data.take (q.len - q.off)

/-- After a segment that leaves `left` bytes to come, in state `x`. -/
def State.segmentDone (s x : State) (opc : Nat) (q : Request) (left : Nat) (core : Option Nat) (a : Answer) : State :=
  if left = 0 then s.completes x opc q a
  else
    let y := x.setAsm q (s.otherMessages q ++ [⟨reqKey q, a.status, left, a.sat, core⟩])
    if a.status = 0 then y else y.answer opc q a

/-- An engine of the device may write `n` bytes at this global address, which is HBM offset `o`: the checks of R315 pass
in every page and no uncorrectable granule is covered in part. -/
structure State.MayWrite (s : State) (i : Init) (a : BitVec 64) (n o : Nat) : Prop where
  here : s.localHbm a n = some o
  allowed : ∀ r ∈ pageRanges o n, s.regionCheck i r.1 r.2 true = none
  whole : s.hbmBarrier o n = none

/-! ### Packets of the host port -/

/-- TYPE and body of a packet as it leaves in a UDP payload (R269). -/
def Wire.typ (w : Wire) : Byte := w.bytes.getD 1 0
def Wire.body (w : Wire) : List Byte := w.bytes.drop 24

/-- PSN of a packet as it leaves, most significant byte first (R6, R269). -/
def Wire.psn (w : Wire) : List Byte := (w.bytes.drop 8).take 4

/-- A frame at the host port passes the drops of R268: the port is UP, one VLAN tag at most, no IP extension, an address of
its IP version. -/
def State.Hears (s : State) (f : Frame) : Prop :=
  s.port.port = .up ∧ f.tags < 2 ∧ f.special = false ∧ s.ipOn f.ipv6 = true

/-- The frame brings packet `p` to the device's UDP port, and its header passes R269. -/
def State.Brings (s : State) (f : Frame) (p : Packet) : Prop :=
  s.Hears f ∧ headerOk p = true ∧ ∃ port sum ce bytes, f.content = .udp port sum ce bytes ∧ port.toNat = s.portCfg 4 19284 ∧
    udpOk f.ipv6 sum = true ∧ packetOf f.src ce bytes = some p

/-! ### Directory commands -/

/-- A directory command with the partition that its slot gives it. -/
def State.carried (s : State) (c : DirCmd) : DirCmd :=
  match c.slot with
  | none => c
  | some i => ⟨some i, Fin.ofNat 4 (s.slotPart i), c.block⟩

/-- The state in which a directory command begins: its work is RUNNING; none where the work is not a HELD one that
carries the command, the first of its class and partition, or the arithmetic domain is down (R238). -/
def State.started (s : State) (c : DirCmd) : Option State :=
  match c.slot with
  | none => some s
  | some i =>
    if (s.wk i).st = .held ∧ (s.wk i).kind = 3 ∧ (s.wk i).block = c.block ∧ s.domainDown (s.slotPart i) = false ∧
        s.firstHeld i = true then
      some (s.modWork i fun w => { w with st := .running })
    else none

/-- The state in which it acts on its entry, which is in a cache line by then; none where no line is free, or where the
entry cannot be read (R321). -/
def State.begins (s : State) (c : DirCmd) : Option State :=
  (s.started c).bind fun s => if s.walkFails (dcDidx c) then none else s.takeLine (dcDidx c)

/-- Directory command `c` of operation `op` acts in state `s1` on its entry, which passes every check of R161; no
commit of its adaptation is to be restarted first (R224). -/
structure State.Directs (s : State) (c : DirCmd) (op : Nat) (s1 : State) : Prop where
  opcode : dcOp c = op
  block : dirBlockOk c.block = true
  index : s.didxOk (s.carried c).part (dcDidx c) = true
  begins : s.begins c = some s1
  whole : ∀ a, (s1.entry (dcDidx c)).area = some a →
    s1.training (dcDidx c) = true ∨ (a + 8 ≤ s1.sysBase ∧ s1.recState a ≠ 1 ∧ s1.recState a ≠ 2)
  gen : op = 1 ∨ (s1.entry (dcDidx c)).gen.toNat = dcGen c
  idle : op = 8 ∨ (s1.entry (dcDidx c)).wait = false
  allowed : dirAllowed op (s1.entry (dcDidx c)).st = true

/-- From `s` to `u` entry d becomes `e`, and VALUE of the work that carries command `c` holds the entry's GEN; no other
entry or work changes, nor anything outside the directory. -/
structure State.EntryBecomes (s u : State) (c : DirCmd) (d : Nat) (e : DirEntry) : Prop where
  entry : u.entry d = e
  others : ∀ j, j ≠ d → u.entry j = s.entry j
  works : ∀ i, u.wk i = if c.slot.map (·.val) = some i then { s.wk i with value := e.gen.setWidth 64 } else s.wk i
  rest : (let w := { u.work with slots := s.work.slots }
    { u with dir := s.dir, work := w } = s)

/-- From `s` to `u` every adapter slot of the entry's partition that names entry d, gathers no other, and is not EMPTY is EMPTY
(R168), and nothing else of any core changes; trim cores of its shelves may have seen what ends their wait. -/
structure State.SlotsEmptied (s u : State) (d : Nat) : Prop where
  slots : ∀ sh ∈ s.shelvesOf (s.didxPart d), ∀ q, q < 9 → ∀ k, k < 8 →
    (let a := (s.core (9 * sh + q)).slotA k
    (u.core (9 * sh + q)).slotA k =
      if a.didx = d ∧ a.gth = false ∧ a.st ≠ .empty then { a with st := .empty, buf0 := none, buf1 := none } else a)
  cores : ∀ p, { u.core p with aslot := (s.core p).aslot } = s.core p
  others : ∀ sh, sh ∉ s.shelvesOf (s.didxPart d) → ∀ q, q < 9 → u.core (9 * sh + q) = s.core (9 * sh + q)
  kept : ∀ i ∈ s.woken, i ∈ u.woken
  woken : ∀ i ∈ u.woken, i ∈ s.woken ∨ i / 4 ∈ s.shelvesOf (s.didxPart d)

/-- What PARK makes of an entry: PARKED without an image, with a new digest record where the command gives one. -/
def DirEntry.parkedBy (e : DirEntry) (c : DirCmd) : DirEntry :=
  let e := { e with st := .parked, pub := false, loc := 0 }
  if dcSrc c = 0 then e
  else { e with src := BitVec.ofNat 64 (dcSrc c), len := BitVec.ofNat 64 (dcLen c), digest := BitVec.ofNat 256 (dcDigest c) }

/-- PARK acts on entry d from `s` to `u`: its image's pool space is free, and with a new digest record its serving copy's
too; its slots are EMPTY. -/
structure State.Parks (s u : State) (c : DirCmd) (d : Nat) : Prop where
  entry : s.EntryBecomes { u with cores := s.cores, woken := s.woken } c d ((s.entry d).parkedBy c)
  slots : s.SlotsEmptied u d
  pool : ∀ a, a ∈ u.dir.alloc ↔ a ∈ s.dir.alloc ∧ (a.2.2 ≠ d ∨ (dcSrc c = 0 ∧ a.1 ≠ 4096 * (s.entry d).loc))

/-- FREE acts on entry d from `s` to `u`: it is EMPTY with the next generation, and so are its slots; its cache line and its
pool space are free, and that space holds zeros, as nothing else does that was not zero unless the entry has a state
area. -/
structure State.Frees (s u : State) (c : DirCmd) (d : Nat) : Prop where
  entry : u.entry d = { gen := (s.entry d).gen + 1 }
  others : ∀ j, j ≠ d → u.entry j = s.entry j
  slots : s.SlotsEmptied u d
  pool : ∀ a, a ∈ u.dir.alloc ↔ a ∈ s.dir.alloc ∧ a.2.2 ≠ d
  lines : ∀ l, l ∈ u.dir.lines ↔ l ∈ s.dir.lines ∧ l.didx ≠ d
  zeroed : ∀ a ∈ s.dir.alloc, a.2.2 = d → ∀ x, a.1 ≤ x → x < a.1 + a.2.1 → tabGet 0 u.hbm x = 0
  only : (s.entry d).area = none → ∀ x, (∀ a ∈ s.dir.alloc, a.2.2 = d → ¬ (a.1 ≤ x ∧ x < a.1 + a.2.1)) →
    tabGet 0 u.hbm x = tabGet 0 s.hbm x
  works : ∀ i, u.wk i = if c.slot.map (·.val) = some i then { s.wk i with value := ((s.entry d).gen + 1).setWidth 64 } else s.wk i
  rest : (let w := { u.work with slots := s.work.slots }
    let b := { u.ecc with bad := s.ecc.bad, errors := s.ecc.errors }
    { u with dir := s.dir, work := w, cores := s.cores, woken := s.woken, hbm := s.hbm, ecc := b } = s)

/-- The build of TRAIN_END `b` begins on entry d from `s` to `u` (R162): its slots are EMPTY, and a further command on the
entry ends ADAPTER_BUSY. -/
structure State.Builds (s u : State) (c : DirCmd) (d : Nat) (b : DirCmd) : Prop where
  entry : s.EntryBecomes { u with cores := s.cores, woken := s.woken } c d { s.entry d with wait := true }
  slots : s.SlotsEmptied u d
  builds : (let r := s.dir
    { u.dir with entries := r.entries } = { r with builds := r.builds ++ [⟨d, b⟩] })

/-- HBM bytes from `o` may be written by firmware of partition `p`: every page passes R315, and no uncorrectable granule is
covered in part. -/
def State.FirmwareMay (s : State) (p o n : Nat) : Prop :=
  (∀ r ∈ pageRanges o n, s.regionCheck (Init.firmware p) r.1 r.2 true = none) ∧ s.hbmBarrier o n = none

/-- A copy at `o` and an image at `q` have been written to HBM from `s` to `u`. -/
def State.CopyAndImage (s u : State) (o : Nat) (copy : List Byte) (q : Nat) (img : List Byte) : Prop :=
  (∀ i, i < img.length → tabGet 0 u.hbm (q + i) = img.getD i 0) ∧
  (∀ i, i < copy.length → o + i < q ∨ q + img.length ≤ o + i → tabGet 0 u.hbm (o + i) = copy.getD i 0) ∧
  (∀ x, (x < q ∨ q + img.length ≤ x) → (x < o ∨ o + copy.length ≤ x) → tabGet 0 u.hbm x = tabGet 0 s.hbm x)

/-! ### Churn commands -/

/-- The Churn unit of shelf `sh` is at entry `c` of its ring, and no entry of the ring is dropped. -/
structure State.Churns (s : State) (sh : Fin 16) (c : ChurnCmd) : Prop where
  kept : (s.shelf sh).churnDropped = []
  next : s.ringNext sh = some c

/-- A job of partition `p` may write the `n` bytes at the global address `a`, which are the HBM bytes from `o`. -/
def State.JobDest (s : State) (p : Nat) (a : BitVec 64) (n o : Nat) : Prop :=
  s.localSram a n = none ∧ s.localHbm a n = some o ∧ s.inJob p a n = true ∧
    s.regionCheck (Init.job p false) o n true = none ∧ s.hbmBad o n = false

/-- From `s` to `u` nothing has changed but how often errors were corrected. -/
def State.Counted (s u : State) : Prop :=
  let e := { u.ecc with corrected := s.ecc.corrected, hits := s.ecc.hits }
  { u with ecc := e } = s

/-- Churn may write the HBM bytes from `o` for a job of partition `p`, and read them: every page passes R315, and no granule
of them is uncorrectable. -/
def State.JobMay (s : State) (p o n : Nat) : Prop :=
  (∀ r ∈ pageRanges o n, s.regionCheck (Init.job p false) r.1 r.2 true = none ∧ s.regionCheck (Init.job p false) r.1 r.2 false = none) ∧
    s.hbmBad o n = false

/-- HBM of `u` holds `bs` at `o`. -/
def State.HoldsAt (u : State) (o : Nat) (bs : List Byte) : Prop := ∀ n, n < bs.length → tabGet 0 u.hbm (o + n) = bs.getD n 0

/-- Only HBM bytes within the listed ranges (first offset, length) may differ. -/
def State.HbmKept (s u : State) (l : List (Nat × Nat)) : Prop :=
  ∀ x, (∀ r ∈ l, x < r.1 ∨ r.1 + r.2 ≤ x) → tabGet 0 u.hbm x = tabGet 0 s.hbm x

/-- What no Churn command touches: matrix cores, directory, works, regions, what was sent. -/
def State.ChurnCalm (s u : State) : Prop :=
  u.cores = s.cores ∧ u.dir = s.dir ∧ u.work = s.work ∧ u.regions = s.regions ∧ u.out = s.out

/-- Component `x` of the bank of epoch `b` holds the values of `m`; what a NaN looks like there is free. -/
def State.BankHolds (u : State) (d : Shard) (b x : Nat) (m : Mat) : Prop :=
  ∀ k n v, d.comp x = some k → m.flatten[n]? = some v → f32IsNaN v = false →
    u.hbmNat (d.bank b + k.off + n * k.width) k.width = (if k.width = 2 then bf16Of v else v) % 256 ^ k.width

end Sys2Proof.Machine
end

