-- ==== Sys2Proof/Laws/State.lean ====
section
/-!
SUPPORT. Small lemmas of the named updates of State: what a read sees after a write, and what the write leaves alone.
-/

namespace Sys2Proof.Machine

/-! ### Waits that have been met -/

theorem State.Wakes.refl (s : State) (sh : Nat) : s.Wakes s sh := ⟨fun _ => id, fun _ => .inl⟩

theorem State.Wakes.trans {s t u : State} {sh : Nat} (h : s.Wakes t sh) (g : t.Wakes u sh) : s.Wakes u sh :=
  ⟨fun i m => g.1 i (h.1 i m), fun i m => (g.2 i m).elim (h.2 i) .inr⟩

/-- Noting the waits that a write has met adds trim cores of the shelf only. -/
theorem State.wakes_noteWakes {s u : State} {sh : Nat} (h : u.woken = s.woken) : s.Wakes (u.noteWakes sh) sh := by
  refine ⟨fun i m => List.mem_append_left _ (h ▸ m), fun i m => ?_⟩
  rcases List.mem_append.1 m with m | m
  · exact .inl (h ▸ m)
  · right
    simp only [List.mem_filter, List.mem_map, List.mem_range] at m
    obtain ⟨⟨k, ⟨hk, -⟩, rfl⟩, -⟩ := m
    omega

@[simp] theorem State.core_noteWakes (s : State) (sh p : Nat) : (s.noteWakes sh).core p = s.core p := rfl

@[simp] theorem State.shelf_noteWakes (s : State) (sh i : Nat) : (s.noteWakes sh).shelf i = s.shelf i := rfl

/-! ### Matrix cores -/

theorem State.core_modCore (s : State) (p q : Nat) (f : Core → Core) :
    (s.modCore p f).core q = if q = p then f (s.core p) else s.core q := tabGet_mod _ _ _ _ _

@[simp] theorem State.core_modCore_same (s : State) (p : Nat) (f : Core → Core) :
    (s.modCore p f).core p = f (s.core p) := tabGet_mod_same _ _ _ _

theorem onlyCore_modCore (s : State) (p : Nat) (f : Core → Core) : OnlyCore s (s.modCore p f) p :=
  ⟨fun q h => by simp [State.core_modCore, h], rfl, State.wakes_noteWakes (s := s) (u := { s with cores := _ }) rfl⟩

theorem OnlyCore.refl (s : State) (p : Nat) : OnlyCore s s p := ⟨fun _ _ => rfl, rfl, .refl _ _⟩

theorem OnlyCore.trans {s t u : State} {p : Nat} (h : OnlyCore s t p) (g : OnlyCore t u p) : OnlyCore s u p :=
  ⟨fun q hq => (g.1 q hq).trans (h.1 q hq), by
    have h2 := h.2.1
    have g2 := g.2.1
    rw [← g2] at h2
    exact h2, h.2.2.trans g.2.2⟩

theorem State.onCore_some {s : State} {sh c p : Nat} (h : s.phys sh c = some p) (f : Core → Core) :
    s.onCore sh c f = s.modCore p f := by simp [State.onCore, h]

theorem State.lcore_some {s : State} {sh c p : Nat} (h : s.phys sh c = some p) : s.lcore sh c = s.core p := by
  simp [State.lcore, h]

/-! ### Shelves and trim cores -/

theorem State.shelf_modShelf (s : State) (sh i : Nat) (f : Shelf → Shelf) :
    (s.modShelf sh f).shelf i = if i = sh then f (s.shelf sh) else s.shelf i := tabGet_mod _ _ _ _ _

@[simp] theorem State.shelf_modShelf_same (s : State) (sh : Nat) (f : Shelf → Shelf) :
    (s.modShelf sh f).shelf sh = f (s.shelf sh) := tabGet_mod_same _ _ _ _

theorem onlyShelf_modShelf (s : State) (sh : Nat) (f : Shelf → Shelf) : OnlyShelf s (s.modShelf sh f) sh :=
  ⟨fun i h => by simp [State.shelf_modShelf, h], rfl, State.wakes_noteWakes (s := s) (u := { s with shelves := _ }) rfl⟩

theorem OnlyShelf.refl (s : State) (sh : Nat) : OnlyShelf s s sh := ⟨fun _ _ => rfl, rfl, .refl _ _⟩

theorem OnlyShelf.trans {s t u : State} {sh : Nat} (h : OnlyShelf s t sh) (g : OnlyShelf t u sh) : OnlyShelf s u sh :=
  ⟨fun q hq => (g.1 q hq).trans (h.1 q hq), by
    have h2 := h.2.1
    have g2 := g.2.1
    rw [← g2] at h2
    exact h2, h.2.2.trans g.2.2⟩

theorem State.trim_modTrim (s : State) (sh k j : Nat) (f : Trim → Trim) :
    (s.modTrim sh k f).trim sh j = if j = k then f (s.trim sh k) else s.trim sh j := by
  simp [State.trim, State.modTrim, Shelf.trim, tabGet_mod]

@[simp] theorem State.trim_modTrim_same (s : State) (sh k : Nat) (f : Trim → Trim) :
    (s.modTrim sh k f).trim sh k = f (s.trim sh k) := by simp [State.trim_modTrim]

theorem onlyTrim_modTrim (s : State) (sh k : Nat) (f : Trim → Trim) : OnlyTrim s (s.modTrim sh k f) sh k :=
  ⟨onlyShelf_modShelf .., fun i h => by simp [State.trim_modTrim, h], by simp [State.modTrim]⟩

theorem OnlyTrim.refl (s : State) (sh k : Nat) : OnlyTrim s s sh k := ⟨.refl _ _, fun _ _ => rfl, rfl⟩

/-! ### Tables of values mapped in place -/

theorem tabGet_mapVal {α : Type} (d : α) (g : α → α) (hd : g d = d) (t : Tab α) (i : Nat) :
    tabGet d (t.map fun e => (e.1, g e.2)) i = g (tabGet d t i) := by
  induction t with
  | nil => simp [tabGet, hd]
  | cons e t ih => simp [tabGet]; split <;> simp_all

end Sys2Proof.Machine
end

