-- ==== Sys2Proof/Laws/Tile.lean ====
section
/-!
SUPPORT. What issuing a tile instruction can do (R58, R59), and small lemmas of the tile queue and the arithmetic.
-/

namespace Sys2Proof.Machine

theorem settle_head (u : TileUnit) (w : BitVec 128) (h : u.rej = none) (hq : u.queue.head? = some w)
    (ho : tileOpc w.toNat ≠ 6) : u.settle = u := by
  unfold TileUnit.settle
  cases hc : u.queue with
  | nil => simp [hc] at hq
  | cons x q =>
    simp [hc] at hq; subst hq
    simp [settleQueue, h, ho]
    cases u; simp_all

/-- An instruction that issues acts on the state from which it has been popped, or is held. -/
theorem tileIssue_of {s : State} {c : CoreRef} {p : Nat} {w : BitVec 128} (h : s.Issues c p w)
    (act : State → Nat → Nat → Nat → Option State) (ho : tileOpc w.toNat < 6) :
    tileIssue c (tileOpc w.toNat) act s =
      match act (s.modCore p fun k => { k with tile := (s.core p).tile.pop }) p w.toNat (s.core p).tile.seq with
      | some t => t
      | none => s.modCore p fun k => { k with tile := (s.core p).tile } := by
  have hs := settle_head _ w h.accepted h.head (by omega)
  unfold tileIssue
  simp only [h.phys, h.notHeld, h.kept, hs]
  have hh := h.head
  cases hc : (s.core p).tile.queue with
  | nil => simp [hc] at hh
  | cons x q =>
    simp [hc] at hh; subst hh
    simp [h.fields, h.stateOk, show ¬ 6 < tileOpc x.toNat by omega] <;>
      (generalize act _ p x.toNat _ = r; cases r <;> rfl)

/-- While a rejected program is being discarded, what is not a tile.end leaves the queue (R59). -/
theorem settleQueue_discards (st : Status) (a : List (BitVec 128)) (u : TileUnit) (b : List (BitVec 128))
    (h : (a.all fun x => tileOpc x.toNat != 6) = true) (hr : u.rej = some st) :
    settleQueue (a ++ b) u = settleQueue b { u with tqout := u.tqout + BitVec.ofNat 64 a.length } := by
  induction a generalizing u with
  | nil => simp
  | cons x a ih =>
    simp only [List.all_cons, Bool.and_eq_true, bne_iff_ne, ne_eq] at h
    simp only [List.cons_append, settleQueue, hr, h.1, if_false]
    rw [ih _ h.2 rfl]
    congr 2
    simp [BitVec.add_assoc, BitVec.ofNat_add, BitVec.add_comm]

theorem tabGet_foldl_set {α : Type} [DecidableEq α] (d : α) (cells : List (Nat × α)) (t : Tab α) (a : Nat)
    (h : (cells.map (·.1)).Nodup) :
    (∀ v, (a, v) ∈ cells → tabGet d (cells.foldl (fun t c => tabSet d t c.1 c.2) t) a = v) ∧
    (a ∉ cells.map (·.1) → tabGet d (cells.foldl (fun t c => tabSet d t c.1 c.2) t) a = tabGet d t a) := by
  induction cells generalizing t with
  | nil => simp
  | cons e l ih =>
    simp only [List.map_cons, List.nodup_cons] at h
    obtain ⟨i1, i2⟩ := ih (tabSet d t e.1 e.2) h.2
    refine ⟨fun v hv => ?_, fun hn => ?_⟩
    · simp only [List.mem_cons] at hv
      rcases hv with hv | hv
      · subst hv
        simp only [List.foldl_cons]
        rw [i2 h.1]; simp
      · exact i1 v hv
    · simp only [List.map_cons, List.mem_cons, not_or] at hn
      simp only [List.foldl_cons]
      rw [i2 hn.2, tabGet_set_other _ _ _ _ _ hn.1]

@[simp] theorem addedAt_nil (i : Nat) (w : BitVec 128) : addedAt [] i w = (w, false) := rfl

theorem addedAt_fold (l : List (Nat × Int)) (w : BitVec 128) (b : Bool) :
    l.foldl (fun x e => ((tallyAdd x.1 e.2).1, x.2 || (tallyAdd x.1 e.2).2)) (w, b) =
      let r := l.foldl (fun x e => ((tallyAdd x.1 e.2).1, x.2 || (tallyAdd x.1 e.2).2)) (w, false)
      (r.1, b || r.2) := by
  induction l generalizing w b with
  | nil => simp
  | cons e l ih => simp only [List.foldl_cons]; rw [ih, ih (b := false || _)]; simp [Bool.or_assoc]

theorem addedAt_cons (e : Nat × Int) (l : List (Nat × Int)) (i : Nat) (w : BitVec 128) :
    addedAt (e :: l) i w = if e.1 = i then
        ((addedAt l i (tallyAdd w e.2).1).1, (tallyAdd w e.2).2 || (addedAt l i (tallyAdd w e.2).1).2)
      else addedAt l i w := by
  unfold addedAt
  by_cases h : e.1 = i
  · simp only [h, List.filter_cons, decide_true, if_true, List.foldl_cons]
    rw [addedAt_fold]; simp
  · simp [h]

/-- What adding terms into Tally words can do: each word takes its own terms in their order, and the flag rises where one
of the additions saturates (R35). -/
theorem addTerms_spec (off : Nat) (l : List (Nat × Int)) (t : Tab (BitVec 128)) :
    (∀ i, tabGet 0 (addTerms off t l).1 (off + i) = (addedAt l i (tabGet 0 t (off + i))).1) ∧
    (∀ a, a < off → tabGet 0 (addTerms off t l).1 a = tabGet 0 t a) ∧
    ((addTerms off t l).2 = true ↔ ∃ i, (addedAt l i (tabGet 0 t (off + i))).2 = true) := by
  have gen : ∀ (l : List (Nat × Int)) (t : Tab (BitVec 128)) (b : Bool),
      let r := l.foldl (fun acc e =>
        let (w, b) := tallyAdd (tabGet 0 acc.1 (off + e.1)) e.2
        (tabSet 0 acc.1 (off + e.1) w, acc.2 || b)) (t, b)
      (∀ i, tabGet 0 r.1 (off + i) = (addedAt l i (tabGet 0 t (off + i))).1) ∧
      (∀ a, a < off → tabGet 0 r.1 a = tabGet 0 t a) ∧
      (r.2 = true ↔ b = true ∨ ∃ i, (addedAt l i (tabGet 0 t (off + i))).2 = true) := by
    intro l
    induction l with
    | nil => intro t b; simp
    | cons e l ih =>
      intro t b
      simp only [List.foldl_cons]
      obtain ⟨h1, h2, h3⟩ := ih (tabSet 0 t (off + e.1) (tallyAdd (tabGet 0 t (off + e.1)) e.2).1)
        (b || (tallyAdd (tabGet 0 t (off + e.1)) e.2).2)
      refine ⟨fun i => ?_, fun a ha => ?_, ?_⟩
      · rw [h1, addedAt_cons]
        by_cases h : e.1 = i
        · subst h; simp
        · rw [tabGet_set_other _ _ _ _ _ (by omega)]; simp [h]
      · rw [h2 a ha, tabGet_set_other _ _ _ _ _ (by omega)]
      · rw [h3]
        constructor
        · rintro (h | ⟨i, h⟩)
          · simp only [Bool.or_eq_true] at h
            rcases h with h | h
            · exact .inl h
            · exact .inr ⟨e.1, by rw [addedAt_cons, if_pos rfl, h]; rfl⟩
          · refine .inr ⟨i, ?_⟩
            rw [addedAt_cons]
            by_cases g : e.1 = i
            · subst g
              rw [tabGet_set_same] at h
              rw [if_pos rfl]
              show (_ || _) = true
              rw [h, Bool.or_true]
            · rw [tabGet_set_other _ _ _ _ _ (by omega)] at h
              rw [if_neg g]
              exact h
        · rintro (h | ⟨i, h⟩)
          · simp [h]
          · rw [addedAt_cons] at h
            by_cases g : e.1 = i
            · subst g
              rw [if_pos rfl] at h
              simp only [Bool.or_eq_true] at h
              rcases h with h | h
              · exact .inl (by rw [h, Bool.or_true])
              · exact .inr ⟨e.1, by rw [tabGet_set_same]; exact h⟩
            · rw [if_neg g] at h
              exact .inr ⟨i, by rw [tabGet_set_other _ _ _ _ _ (by omega)]; exact h⟩
  simpa [addTerms] using gen l t false

theorem dot_range (n : Nat) (f g : Nat → Int) :
    dot ((List.range n).map f) ((List.range n).map g) = ∑ j ∈ Finset.range n, f j * g j := by
  have h : ∀ l : List Nat, dot (l.map f) (l.map g) = (l.map fun j => f j * g j).sum := by
    intro l
    induction l with
    | nil => rfl
    | cons a l ih => simp [dot, ih]
  rw [h]
  induction n with
  | zero => rfl
  | succ n ih => simp [List.range_succ, Finset.sum_range_succ, ih]

theorem mem_maskRows (m : BitVec 64) (i : Nat) : i ∈ maskRows m ↔ i < 64 ∧ m.getLsbD i = true := by simp [maskRows]

end Sys2Proof.Machine
end

