-- ==== Sys2Proof/Certificates/Slice0/Obligations.lean ====
section
/-!
DEFINITION. The statements for the provers.
-/

open Sys2Proof Sys2Proof.Machine

/-- A step takes the command at the front of the queue and is that command's effect on the module, whose queue is then
the rest; with no command waiting one nanosecond passes on the timestamp counter and nothing else happens (the model's
choice, log 7). -/
def Obligations.StepRunsTheFrontCommand : Prop :=
  (∀ (s : State) (c : Instr) (rest : List Instr), Sys2Proof.Machine.step { s with pending := c :: rest } = exec c { s with pending := rest }) ∧
  (∀ s : State, s.pending = [] → Sys2Proof.Machine.step s = .next { s with tsc := (s.tsc + 1) % 2 ^ 64 })

/-- R18, R158, R233, R251, R313, R418, R426: Right after a power-on reset no command waits, nothing has been sent,
every work slot is FREE with generation 1, every directory entry is EMPTY, the mode epoch is 0, no region is valid,
every object-dictionary entry holds its default, and the die is held until its start-up. Memory lists nothing (the
model's choice, log 6), in its canonical form. -/
def Obligations.ResetLeaves : Prop :=
  let s := State.reset
  s.pending = [] ∧ s.out = [] ∧ s.ops = [] ∧ s.boot = .held ∧ s.cause = .powerOn ∧ s.mod.rails = true ∧ s.mod.pgood = true ∧
    s.mod.resetN = false ∧ (∀ i, (s.wk i).st = .free ∧ (s.wk i).gen = 1) ∧ (∀ d, (s.entry d).st = .empty) ∧
    s.mode.epoch = 0 ∧ s.mode.st = .stable ∧ (∀ r, (tabGet {} s.regions r).v = false) ∧ (∀ k d, s.odVal k d = d) ∧
    (∀ p, (s.core p).use = .active ∧ (s.core p).tile.queue = []) ∧ Memory.wf s.hbm = true ∧ (∀ a, tabGet 0 s.hbm a = 0)

/-- Every step, whatever command it runs, keeps HBM in its canonical form: addresses strictly rising, and no listed
byte equal to what an unlisted address reads as; so equal contents are equal data. -/
def Obligations.EveryStepKeepsHbmCanonical : Prop :=
  ∀ s t : State, Memory.wf s.hbm = true → Sys2Proof.Machine.step s = .next t → Memory.wf t.hbm = true

/-- No command touches the queue: a step that runs the command at its front leaves exactly the rest, so commands run
first in, first out, each once. -/
def Obligations.CommandsRunInOrder : Prop :=
  ∀ (s t : State) (c : Instr) (rest : List Instr), s.pending = c :: rest → Sys2Proof.Machine.step s = .next t → t.pending = rest

/-- R256: Every command of the table answers a next state, in every state: what the spec rejects it rejects with a
status, and no command stops the machine. -/
def Obligations.NoCommandStops : Prop :=
  ∀ s : State, ∃ t : State, Sys2Proof.Machine.step s = .next t

/-- R35: An addition into a Tally word never wraps: the new word is the exact sum brought into ±(2^127 − 1), and SAT
is set exactly when the sum lies outside that range or the word held −2^127, which counts as −(2^127 − 1). -/
def Obligations.TallyAdditionSaturates : Prop :=
  ∀ (w : BitVec 128) (x : Int),
    let a : Int := if w.toInt = -2 ^ 127 then -(2 ^ 127 - 1) else w.toInt
    (tallyAdd w x).1.toInt = max (-(2 ^ 127 - 1)) (min (2 ^ 127 - 1) (a + x)) ∧
    ((tallyAdd w x).2 = true ↔ w.toInt = -2 ^ 127 ∨ a + x > 2 ^ 127 - 1 ∨ a + x < -(2 ^ 127 - 1))

/-- R235: The status word of a work slot holds STATE in bits 63 to 60, GEN in bits 31 to 0, and reads 0 between. -/
def Obligations.SlotStatusWords : Prop :=
  ∀ (s : State) (i : Nat), i < 16384 →
    let w := s.wk i
    let v := s.hbmNat (s.slotBase + 0x400000 + 8 * i) 8
    (v / 2 ^ 60 = 0 ↔ w.st = .free) ∧ (v / 2 ^ 60 = 1 ↔ w.st = .held) ∧ (v / 2 ^ 60 = 2 ↔ w.st = .running) ∧
      (v / 2 ^ 60 = 3 ↔ w.st = .ending) ∧ v / 2 ^ 60 < 4 ∧ v / 2 ^ 32 % 2 ^ 28 = 0 ∧ v % 2 ^ 32 = w.gen.toNat

/-- R214: What MSGD gives for each element of the matrix, the moment before the master. -/
def Obligations.MsgdUpdatesEachElement : Prop :=
  ∀ i : RuleIn, i.t.rule = 0 → ∃ m w : Mat, i.run = [(1, m), (0, w)] ∧
    ∀ a b, a < i.m0.length → a < i.g.length → a < i.w0.length →
      b < (i.m0.getD a []).length → b < (i.g.getD a []).length → b < (i.w0.getD a []).length →
      let m1 := f32Fma i.t.b1 (i.m0.at a b) (i.g.at a b)
      let u := if i.t.nest then f32Fma i.t.b1 m1 (i.g.at a b) else m1
      m.at a b = m1 ∧ w.at a b = f32Fma (f32Neg i.t.lr) (f32Fma i.t.wd (i.w0.at a b) u) (i.w0.at a b)

/-- R61, R62, R54, R55, R66, R68, R58, R145, R77, R146: A tile.nop, tile.ld, tile.swap or tile.mask at the head of the
queue issues, and this is all it does. A swap with a load in flight is held. What a load reads for each shadow cell it
writes, and the completion that writes it. A tile.end at the head completes once nothing before it is in progress:
TLAST takes its PTAG and OK, and TENDS counts; a core under a discard order, once idle, reports PTAG 0xFFFF_FFFF and
ABORTED. -/
def Obligations.TileInstructionsIssue : Prop :=
  (∀ (s : State) (c : CoreRef) (p : Nat) (w : BitVec 128), s.Issues c p w →
     let k := s.core p
     let u := k.tile.pop
     (tileOpc w.toNat = 0 → ∃ t, exec (.tileNop c) s = .next t ∧ OnlyCore s t p ∧ t.core p = { k with tile := u }) ∧
     (tileOpc w.toNat = 1 → ∃ t, exec (.tileLd c) s = .next t ∧ OnlyCore s t p ∧
       t.core p = { k with tile := { u with loads := k.tile.loads ++ [⟨k.tile.seq, loadCells k.opbuf (LdF.of w.toNat)⟩] } }) ∧
     (tileOpc w.toNat = 2 → k.tile.loads = [] → ∃ t, exec (.tileSwap c) s = .next t ∧ OnlyCore s t p ∧
       (t.core p).stationary = k.shadow ∧
       (∀ i, (t.core p).slotA i = if (k.slotA i).bound then { k.slotA i with cursor := (k.slotA i).cursor + 1 } else k.slotA i) ∧
       { t.core p with stationary := k.stationary, aslot := k.aslot } = { k with tile := u }) ∧
     (tileOpc w.toNat = 2 → k.tile.loads ≠ [] → ∃ t, exec (.tileSwap c) s = .next t ∧ OnlyCore s t p ∧ t.core p = k) ∧
     (tileOpc w.toNat = 5 → ∃ t, exec (.tileMask c) s = .next t ∧ OnlyCore s t p ∧
       (∀ i, (t.core p).mask i = if i = bits w.toNat 95 92 then w.setWidth 64 else k.mask i) ∧
       { t.core p with maskTab := k.maskTab } = { k with tile := u })) ∧
  ((∀ (m : Mem) (f : LdF) (i j : Nat), i < f.n → j < (if f.four && !f.trn then 128 else 64) →
     (if f.trn then 128 * j + (f.row0 + i) else 128 * (f.row0 + i) + j,
       BitVec.ofNat 12 (codeAt m (f.src + i * f.stride) f.code j)) ∈ loadCells m f) ∧
   (∀ (s : State) (c : CoreRef) (p : Nat) (l : Load) (ls : List Load), s.phys c.sh c.c = some p →
     (s.core p).tile.loads = l :: ls → (l.cells.map (·.1)).Nodup →
     ∃ t, exec (.tileLdDone c) s = .next t ∧ OnlyCore s t p ∧ (t.core p).tile = { (s.core p).tile with loads := ls } ∧
       (∀ a v, (a, v) ∈ l.cells → tabGet 0 (t.core p).shadow a = v) ∧
       (∀ a, a ∉ l.cells.map (·.1) → tabGet 0 (t.core p).shadow a = tabGet 0 (s.core p).shadow a) ∧
       { t.core p with shadow := (s.core p).shadow, tile := (s.core p).tile } = s.core p)) ∧
  (∀ (s : State) (c : CoreRef) (p : Nat), s.phys c.sh c.c = some p →
     let u := (s.core p).tile
     (∀ (w : BitVec 128) (q : List (BitVec 128)), s.issueHeld c.sh = false → u.discarding = false → u.rej = none →
       u.queue = w :: q → tileOpc w.toNat = 6 → bits w.toNat 119 32 = 0 → (∀ x, q.head? = some x → tileOpc x.toNat < 6) →
       u.idle = true →
       ∃ t, exec (.tileEnd c) s = .next t ∧ OnlyCore s t p ∧ t.core p = { s.core p with tile := { u with
         queue := q, mid := false, seq := u.seq + 1, tqout := u.tqout + 1, tends := u.tends + 1,
         tlast := BitVec.ofNat 64 (w.toNat % 2 ^ 32 * 2 ^ 32) } }) ∧
     (u.discarding = true → u.idle = true → (s.core p).vec.prog = none →
       ∃ t, exec (.discardIdle c) s = .next t ∧ OnlyCore s t p ∧ t.core p = { s.core p with tile := { u with
         discarding := false, tends := u.tends + 1, tlast := 0xFFFFFFFF01030000 } }))

/-- R59, R58, R67, R73: An instruction at the head that fails a check is rejected: it leaves the queue with what
follows it up to its tile.end, which keeps the status of the first check that failed; nothing else changes, whichever
tile command is due. When a run at the head may not issue yet. After 64 ac with an empty queue it first joins the ramp
controller's waiting cores, and while it waits for its wave there it stays where it is; with a load before its swap,
or an earlier run or a clearing drain of the slot that it clears in flight, it stays where it is. -/
def Obligations.TileRejectsAndWaits : Prop :=
  (∀ (s : State) (c : CoreRef) (p : Nat) (w : BitVec 128) (q : List (BitVec 128)) (st : Status),
     s.phys c.sh c.c = some p → s.issueHeld c.sh = false → (s.core p).tile.discarding = false →
     (s.core p).tile.rej = none → (s.core p).tile.queue = w :: q →
     ((tileCheck w.toNat).orElse fun _ => tileStateCheck (s.core p) w.toNat) = some st → tileOpc w.toNat ≤ 5 →
     ∀ i : Instr, (tileOpc w.toNat, i) ∈ [(0, .tileNop c), (1, .tileLd c), (2, .tileSwap c), (3, .tileRun c false),
         (4, .tallyDrain c), (5, .tileMask c)] →
     ∃ t, exec i s = .next t ∧ OnlyCore s t p ∧ t.core p = { s.core p with tile := (t.core p).tile } ∧
       ((q.all fun x => tileOpc x.toNat != 6) = true →
         (t.core p).tile = { (s.core p).tile with
           queue := [], rej := some st, tqout := (s.core p).tile.tqout + BitVec.ofNat 64 (q.length + 1) }) ∧
       (∀ a e b, q = a ++ e :: b → (a.all fun x => tileOpc x.toNat != 6) = true → tileOpc e.toNat = 6 →
         (∀ x, b.head? = some x → tileOpc x.toNat ≠ 6) →
         (t.core p).tile = { (s.core p).tile with
           queue := b
           mid := false
           seq := (s.core p).tile.seq + 1
           ends := (s.core p).tile.ends ++ [⟨(s.core p).tile.seq, e.setWidth 32, st⟩]
           tqout := (s.core p).tile.tqout + BitVec.ofNat 64 (a.length + 2) })) ∧
  (∀ (s : State) (c : CoreRef) (cold : Bool) (p : Nat) (w : BitVec 128), s.Issues c p w → tileOpc w.toNat = 3 →
     let k := s.core p
     let f := RunF.of w.toNat
     let i := 8 * c.sh.val + c.c.val
     (cold = true → k.tile.granted = false → i ∉ s.power.ramp →
       exec (.tileRun c true) s = .next { s with power := { s.power with ramp := s.power.ramp ++ [i] } }) ∧
     (∀ cold, k.tile.granted = false → i ∈ s.power.ramp → exec (.tileRun c cold) s = .next s) ∧
     (f.mode ≠ 4 → (f.swap = true ∧ k.tile.loads ≠ []) ∨ (f.acc = false ∧ k.tile.clearHeld f.slot = true) →
       ∃ t, exec (.tileRun c false) s = .next t ∧ OnlyCore s t p ∧ t.core p = k))

/-- R30, R31, R32, R52, R55, R69, R173, R194, R195: A base, APPLY, GATHER or GRAD_X run issues. Each enabled row and
position of the run has its exact sum of products, shifted to the run's point, on its way; a clearing run zeroes its
enabled rows at all 64 positions, records its point and sets LIVE alone; its own swap acts first. A GRAD_W run issues:
a clearing one zeroes its rows of the gradient store and records its point; its terms are on their way to the gradient
store, none to a Tally slot. -/
def Obligations.RunsIssue : Prop :=
  (∀ (s : State) (c : CoreRef) (cold : Bool) (p : Nat) (w : BitVec 128), s.Issues c p w → tileOpc w.toNat = 3 →
     let k := s.core p
     let f := RunF.of w.toNat
     ((cold = false ∧ 8 * c.sh.val + c.c.val ∉ s.power.ramp) ∨ k.tile.granted = true) → f.mode ≠ 4 → (f.swap = true → k.tile.loads = []) →
     (f.acc = true ∨ k.tile.clearHeld f.slot = false) →
     let plane := if f.swap then k.shadow else k.stationary
     ∃ t, exec (.tileRun c cold) s = .next t ∧ OnlyCore s t p ∧ ∃ r : Run,
       (t.core p).tile = { k.tile.pop with granted := false, runs := k.tile.runs ++ [r] } ∧
       r.seq = k.tile.seq ∧ r.slot = f.slot ∧ r.rows = k.mask f.mask ∧ r.grad = none ∧ (r.adpt = none ↔ f.mode = 0) ∧
       (∀ ch i, ch < 64 → (k.mask f.mask).getLsbD ch = true → i < f.n →
         (64 * ch + (f.tpos + i),
           (∑ j ∈ Finset.range f.k, (codeInt f.cs ((tabGet 0 plane (128 * ch + j)).toNat % 2 ^ codeWidth f.cs)).1 *
             (codeInt f.ca (codeAt k.opbuf (f.src + i * f.stride) f.ca j)).1) *
               2 ^ (codeGrid f.cs + codeGrid f.ca - f.point).toNat) ∈ r.base) ∧
       (t.core p).stationary = plane ∧
       (∀ ch pos, ch < 64 → pos < 64 → tabGet 0 (t.core p).tally (4096 * f.slot + 64 * ch + pos) =
         if f.acc = false ∧ (k.mask f.mask).getLsbD ch = true then 0 else tabGet 0 k.tally (4096 * f.slot + 64 * ch + pos)) ∧
       (∀ a, a < 4096 * f.slot ∨ 4096 * f.slot + 4096 ≤ a → tabGet 0 (t.core p).tally a = tabGet 0 k.tally a) ∧
       (∀ i, tabGet {} (t.core p).tslot i =
         if i = f.slot ∧ f.acc = false then { point := f.pbits, live := true } else tabGet {} k.tslot i) ∧
       (f.mode ≠ 0 → ((t.core p).slotA f.aslot).bound = true) ∧
       (t.core p).tadds = (if f.acc then k.tadds else k.tadds.filter (· ≠ f.slot)) ∧
       (let u := { t.core p with tile := k.tile, stationary := k.stationary, tally := k.tally }
       { u with tslot := k.tslot, aslot := k.aslot, tadds := k.tadds } = k)) ∧
  (∀ (s : State) (c : CoreRef) (cold : Bool) (p : Nat) (w : BitVec 128), s.Issues c p w → tileOpc w.toNat = 3 →
     let k := s.core p
     let f := RunF.of w.toNat
     ((cold = false ∧ 8 * c.sh.val + c.c.val ∉ s.power.ramp) ∨ k.tile.granted = true) → f.mode = 4 → (f.acc = true ∨ k.tile.runs.all (·.grad.isNone) = true) →
     ∃ t, exec (.tileRun c cold) s = .next t ∧ OnlyCore s t p ∧ ∃ r : Run,
       (t.core p).tile = { k.tile.pop with granted := false, runs := k.tile.runs ++ [r] } ∧
       r.seq = k.tile.seq ∧ r.rows = k.mask f.mask ∧ r.base = [] ∧ r.adpt = none ∧
       r.grad = some (gradTerms k.opbuf f (k.mask f.mask)).1 ∧ r.nfi = (gradTerms k.opbuf f (k.mask f.mask)).2 ∧
       (∀ j q, j < 64 → q < 64 → tabGet 0 (t.core p).grad (64 * j + q) =
         if f.acc = false ∧ (k.mask f.mask).getLsbD j = true then 0 else tabGet 0 k.grad (64 * j + q)) ∧
       (t.core p).gradst = (if f.acc then k.gradst else { point := f.pbits, live := true }) ∧
       { t.core p with tile := k.tile, grad := k.grad, gradst := k.gradst } = k)

/-- R35, R59, R67, R69, R156, R195, R319, R450: The oldest run that may write, and whose adapter part is ready,
completes. Each Tally word it reaches takes the run's exact totals by saturating additions, and then the adapter terms
by others; a GRAD_W run adds into the gradient store instead. SAT rises exactly where one of the additions saturates,
NFI where an input was not finite. An adapter part that ends with a status adds nothing and ends the run's program
with that status. What the run read from HBM is counted where its reads corrected or failed. -/
def Obligations.RunCompletes : Prop :=
  ∀ (s : State) (c : CoreRef) (p : Nat) (r : Run) (pre post : List Run) (a : Except Status (List (Nat × Int))),
    s.phys c.sh c.c = some p → (s.core p).tile.runs = pre ++ r :: post →
    (∀ q ∈ pre, (s.core p).tile.mayWrite q = false ∨ s.adapterPart (s.partOf c.sh) (s.core p) q = none) →
    (s.core p).tile.mayWrite r = true → s.adapterPart (s.partOf c.sh) (s.core p) r = some a →
    let k := s.core p
    let reads := s.runReads (s.partOf c.sh) k r
    let extra : List (Nat × Int) := match a with
      | .ok l => l
      | .error _ => []
    let left : TileUnit := { k.tile with runs := k.tile.runs.filter (·.seq ≠ r.seq) }
    let word (i : Nat) : BitVec 128 := tabGet 0 k.tally (4096 * r.slot + i)
    let base (i : Nat) : BitVec 128 × Bool := addedAt r.base i (word i)
    let both (i : Nat) : BitVec 128 × Bool := addedAt extra i (base i).1
    ∃ t, OnlyCore s t p ∧
      exec (.runComplete c) s = .next (match a with
        | .ok _ => t.noteCorrected reads
        | .error _ => t.noteReads reads) ∧
      (r.grad = none →
        (t.core p).tile = (match a with
          | .ok _ => left
          | .error st => left.failProgram r.seq st) ∧
        (∀ i, tabGet 0 (t.core p).tally (4096 * r.slot + i) = (both i).1) ∧
        (∀ i, i < 4096 * r.slot → tabGet 0 (t.core p).tally i = tabGet 0 k.tally i) ∧
        (∀ i, i ≠ r.slot → tabGet {} (t.core p).tslot i = tabGet {} k.tslot i) ∧
        (let old := tabGet {} k.tslot r.slot
        let new := tabGet {} (t.core p).tslot r.slot
        new = { old with sat := new.sat, nfi := old.nfi || r.nfi } ∧
        (new.sat = true ↔ old.sat = true ∨ ∃ i, (base i).2 = true ∨ (both i).2 = true)) ∧
        { t.core p with tile := k.tile, tally := k.tally, tslot := k.tslot } = k) ∧
      (∀ ts, r.grad = some ts →
        let cell (i : Nat) : BitVec 128 × Bool := addedAt ts i (tabGet 0 k.grad i)
        (t.core p).tile = left ∧ (∀ i, tabGet 0 (t.core p).grad i = (cell i).1) ∧
        (t.core p).gradst = { k.gradst with sat := (t.core p).gradst.sat, nfi := k.gradst.nfi || r.nfi } ∧
        ((t.core p).gradst.sat = true ↔ k.gradst.sat = true ∨ ∃ i, (cell i).2 = true) ∧
        { t.core p with tile := k.tile, grad := k.grad, gradst := k.gradst } = k)

/-- R40, R41, R42, R43, R47, R48, R65, R67, R46, R85, R86, R89: A drain issues: its outputs stand in the order of
positions, then channels, each at its address. A RAW128 output is the word itself; any other is the exact product of
word, point and scales in one rounding, to nearest or with the output's own draw. The slot keeps its point. The oldest
drain completes: its outputs stand in their destination, its flags in STEPF and in the records of the works whose job
runs on the shelf, a DCLR drain has zeroed its rows and cleared the slot's flags, and every conversion but RAW128
counts once in the partition's tables. -/
def Obligations.DrainsIssueAndComplete : Prop :=
  (∀ (s : State) (c : CoreRef) (p : Nat) (w : BitVec 128), s.Issues c p w → tileOpc w.toNat = 4 →
     let k := s.core p
     let f := DrainF.of w.toNat
     let st := tabGet {} k.tslot f.slot
     let point : Int := if st.live then st.point.toInt else 0
     let words := (List.range f.n).flatMap fun i => (maskRows (k.mask f.mask)).map fun ch => (f.tpos + i, ch)
     let value (e : Nat × Nat) := (tallyRead (tabGet 0 k.tally (4096 * f.slot + 64 * e.2 + e.1))).1
     let scaled (e : Nat × Nat) : Q :=
       ((Q.ofInt (value e)).mul (Q.pow2 point)).mul ((f32Scale (tabGet 0 k.scale.rowScale (64 * f.br + e.2))).1.mul
         (f32Scale (tabGet 0 k.scale.tokScale (64 * f.bc + e.1))).1)
     let rounded (n : Nat) (e : Nat × Nat) : Nat :=
       if f.rnd then
         (roundStoch f.fmt (scaled e) (srDraw (Nat.repeat srNext (n + 1) (srStart k.scale.seed.toNat f.tag)))).bits
       else (roundNearest f.fmt (scaled e)).bits
     let width := drainWidth f.fmt
     drainHeld k f = false →
     ∃ t, exec (.tallyDrain c) s = .next t ∧ OnlyCore s t p ∧ ∃ d : Drain,
       (t.core p).tile = { k.tile.pop with drains := k.tile.drains ++ [d] } ∧
       d.seq = k.tile.seq ∧ d.slot = f.slot ∧ d.toSram = (f.dspc == 1) ∧ d.rows = k.mask f.mask ∧ d.dclr = f.dclr ∧
       d.fmt = f.fmt ∧
       d.outs = (words.zipIdx.map fun (e, n) => (f.dst + (e.1 - f.tpos) * 64 * width + e.2 * width,
         if f.fmt = 6 then natLE (unsext 128 (value e)) 16 else natLE (rounded n e) width)) ∧
       (∀ i, i ≠ f.slot → tabGet {} (t.core p).tslot i = tabGet {} k.tslot i) ∧
       (tabGet {} (t.core p).tslot f.slot).point = st.point ∧ (tabGet {} (t.core p).tslot f.slot).live = st.live ∧
       { (t.core p).scale with rowMax := k.scale.rowMax, tokMax := k.scale.tokMax } = k.scale ∧
       { t.core p with tile := k.tile, tslot := k.tslot, scale := k.scale } = k) ∧
  (∀ (s : State) (c : CoreRef) (p : Nat) (d : Drain) (ds : List Drain),
     s.phys c.sh c.c = some p → (s.core p).tile.drains = d :: ds → (s.core p).scale.loads = [] →
     let k := s.core p
     let st := tabGet {} k.tslot d.slot
     let m (b : Mem) := d.outs.foldl (fun m o => memWrite m o.1 o.2) b
     let rose (was now : Bool) : Bool := was || (d.dclr && now)
     ∃ t, exec (.drainComplete c) s = .next t ∧ (∀ q, q ≠ p → t.core q = s.core q) ∧
       (∀ i, i ≠ c.sh.val → t.shelf i = s.shelf i) ∧
       t.shelf c.sh = { s.shelf c.sh with sram := if d.toSram then m (s.sram c.sh) else s.sram c.sh } ∧
       t.work = (s.flagWorks c.sh (recordBits (rose d.sat st.sat) (rose d.nfi st.nfi) (rose d.nfs st.nfs)
         (rose d.dclip st.dclip) false)).work ∧
       s.Wakes t c.sh ∧
       { t with cores := s.cores, shelves := s.shelves, stats := s.stats, work := s.work, woken := s.woken } = s ∧
       (d.fmt = 6 → t.stats = s.stats) ∧
       (d.fmt ≠ 6 → t.stats = (s.postStat true (s.partOf c.sh) (bits d.tag.toNat 31 20) d.fmt d.stat).stats) ∧
       (t.core p).tile = { k.tile with drains := ds } ∧
       (t.core p).opbuf = (if d.toSram then k.opbuf else m k.opbuf) ∧
       (t.core p).stepf = stepFlagOr k.stepf
         (drainFlags (rose d.sat st.sat) (rose d.nfi st.nfi) (rose d.nfs st.nfs))
         (bits d.tag.toNat 31 20) ∧
       (∀ ch pos, ch < 64 → pos < 64 → tabGet 0 (t.core p).tally (4096 * d.slot + 64 * ch + pos) =
         if d.dclr = true ∧ d.rows.getLsbD ch = true then 0 else tabGet 0 k.tally (4096 * d.slot + 64 * ch + pos)) ∧
       (∀ i, tabGet {} (t.core p).tslot i =
         if i = d.slot ∧ d.dclr = true then { point := st.point, live := st.live } else tabGet {} k.tslot i) ∧
       (t.core p).tadds = k.tadds.filter (· ≠ d.slot) ∧
       (let u := { t.core p with tile := k.tile, opbuf := k.opbuf, stepf := k.stepf }
       { u with tally := k.tally, tslot := k.tslot, tadds := k.tadds } = k))

/-- R73, R381, R388, R389, R390: A wave of a ramp controller takes the four waiting cores of lowest logical index that
it serves and that may issue; they stop waiting, and each whose head is a run that passes its checks holds its grant.
Idle-ready is entered only with nothing to do, with the stacks in self-refresh, and left on any event; Park is refused
with work or a change in progress, and else closes the open contexts; light wakes the module, and every group and the
host port train again, but for a port whose module has failed. -/
def Obligations.WavesAndSleep : Prop :=
  (∀ (part : Fin 4) (s : State),
     let wave := rampWave s part
     let served (i : Nat) : Prop := i ∈ s.power.ramp ∧ i < 128 ∧ (s.mode.cur.four = true → i / 32 = part.val) ∧
       s.issueHeld (i / 8) = false
     (wave.length ≤ 4 ∧ wave.Nodup ∧ (∀ i ∈ wave, served i) ∧
       ∀ i, served i → i ∉ wave → wave.length = 4 ∧ ∀ j ∈ wave, j < i) ∧
     ∃ t, exec (.wakeWave part) s = .next t ∧
       t.power = { s.power with ramp := s.power.ramp.filter fun i => !wave.contains i } ∧
       (∀ i ∈ s.woken, i ∈ t.woken) ∧ { t with cores := s.cores, power := s.power, woken := s.woken } = s ∧
       (∀ p, (∀ i ∈ wave, s.phys (i / 8) (i % 8) ≠ some p) → t.core p = s.core p) ∧
       (∀ i ∈ wave, ∀ p, s.phys (i / 8) (i % 8) = some p →
         t.core p = { s.core p with tile := { (s.core p).tile with granted := (s.core p).headIsRun } })) ∧
  ((∀ s : State,
     let still : Prop := (∀ x ∈ s.work.slots, x.2.live = false) ∧ (∀ o ∈ s.ops, o.done = true) ∧
       ∀ sh, sh < 16 → ringTail (s.sram sh) = ringHead (s.sram sh)
     ((s.serving = true ∧ s.power.sleep = .active ∧ still) → exec .idleReadyEntry s = .next { s with
       power := { s.power with sleep := .idleReady }, ecc := { s.ecc with selfRefresh := true } }) ∧
     (¬ (s.serving = true ∧ s.power.sleep = .active ∧ still) → exec .idleReadyEntry s = .next s) ∧
     (s.power.sleep = .idleReady → exec .idleReadyExit s = .next { s with
       power := { s.power with sleep := .active }, ecc := { s.ecc with selfRefresh := false } }) ∧
     (s.power.sleep ≠ .idleReady → exec .idleReadyExit s = .next s) ∧
     (s.power.sleep ≠ .parked → exec .parkedWake s = .next s) ∧
     (s.power.sleep = .parked → ∃ t, exec .parkedWake s = .next t ∧ t.power = { s.power with sleep := .active } ∧
       t.ecc = { s.ecc with selfRefresh := false } ∧ t.port.port = (if s.mod.portBad then .down else .training) ∧ t.port.ctxs = s.port.ctxs ∧
       (∀ g, 1 ≤ g → g ≤ 15 → t.group g = { s.group g with st := .training, phase := 0, attempts := 0 }) ∧
       { t with power := s.power, ecc := s.ecc, port := s.port, fabric := s.fabric } = s)) ∧
   (∀ (s : State) (q : OdReq), s.OdAccepts q 0x305002 → leNat q.value = 1 →
     let answers (u : State) (st : Status) : Prop := exec (.enterParked q) s = .next (u.odAnswer q.ctx q.msn st [])
     let active : Prop := ∃ x ∈ s.work.slots, x.2.live = true
     (active → answers s St.modeWorkActive) ∧
     (¬ active → (s.mode.st ≠ .stable ∨ s.sec.resetting ≠ []) → answers s St.modeBusy) ∧
     (¬ active → s.mode.st = .stable → s.sec.resetting = [] → tabWf {} s.port.ctxs = true → ∃ u, answers u St.ok ∧
       u.power = { s.power with parking := true } ∧ (∀ c, (s.ctx c).st = .open_ → (u.ctx c).st = .draining ∧ (u.ctx c).expert = false) ∧
       (∀ c, (s.ctx c).st ≠ .open_ → u.ctx c = s.ctx c) ∧
       { u with power := s.power, port := { u.port with ctxs := s.port.ctxs }, out := s.out } = s)))

/-- R49, R75, R76, R85, R401, R405, R198: A core retires: with a spare in retention the logical number moves to it,
which then holds the job state (mask table, scale file, seed, STEPF if the old core answers) and nothing else of the
old core; without one the number has no core behind it and a service-ending event counts. The retired core is in its
reset state. Where a combine had reached the core, the owner part ends COMBINE_TARGET_LOST: the work named, or those
whose code runs there. The retired core's reads have not returned within 2 µs: firmware stops waiting for them, and
LOST stands in the step flag word of every job of the partition. -/
def Obligations.CoresRetire : Prop :=
  (∀ (s : State) (c : CoreRef) (answers : Bool) (dst : Fin 12288001) (combine : Option (Fin 16384)) (p : Nat),
     s.phys c.sh c.c = some p → s.test.st = .idle → (s.core p).scale.loads = [] → (s.core p).scale.seedHeld = none →
     let ends (t : State) : State := match combine with
       | some i => t.workFail i St.combineTargetLost
       | none => if s.combining c.sh c.c p then (t.worksOn c.sh).foldl (fun t i => t.workFail i St.combineTargetLost) t else t
     let moved (t : State) (q : Nat) : Prop :=
       (t.shelf c.sh).map = (s.shelf c.sh).map.set c.c q ∧
       (∀ k, t.trim c.sh k = if s.lead c.sh = some c.c.val ∧ k < 4 then { s.trim c.sh k with port := [], coming := [] }
         else s.trim c.sh k) ∧
       (let h := s.shelf c.sh
       { t.shelf c.sh with map := h.map, trims := h.trims, sram := h.sram, awaiting := h.awaiting } = h) ∧
       (∀ i, i ≠ c.sh.val → t.shelf i = s.shelf i) ∧ s.Wakes t c.sh ∧
       { t with cores := s.cores, shelves := s.shelves, test := s.test, woken := s.woken } = s
     (∀ q, s.spareOf c.sh = some q → ∃ t, exec (.retireCore c answers dst combine) s = .next (ends t) ∧ moved t q ∧
       t.phys c.sh c.c = some (9 * c.sh.val + q) ∧
       t.core p = { use := .retired } ∧
       t.core (9 * c.sh.val + q) = { ({} : Core) with
         use := .active, repair := (s.core (9 * c.sh.val + q)).repair, maskTab := (s.core p).maskTab,
         scale := { rowScale := (s.core p).scale.rowScale, tokScale := (s.core p).scale.tokScale,
                    seed := (s.core p).scale.seed },
         stepf := if answers then (s.core p).stepf else 0 } ∧
       (∀ i, i ≠ p → i ≠ 9 * c.sh.val + q → t.core i = s.core i) ∧
       (t.shelf c.sh).awaiting = (if answers then [] else [c.c.val]) ++ (s.shelf c.sh).awaiting ∧
       (∀ a, a < dst.val ∨ dst.val + 32768 ≤ a ∨ answers = false →
         tabGet 0 (t.sram c.sh) a = tabGet 0 (s.sram c.sh) a) ∧
       (answers = true → ∀ j b, j < 8192 → b < 4 → tabGet 0 (t.sram c.sh) (dst.val + 4 * j + b) = BitVec.ofNat 8
         ((if j < 4096 then tabGet 0 (s.core p).scale.rowMax j else tabGet 0 (s.core p).scale.tokMax (j - 4096)).toNat /
           256 ^ b)) ∧
       t.test.repairs = (s.test.repairs ++ [(⟨resultW0 1 c.sh (p % 9) 0 2 0, BitVec.ofNat 64 q⟩ : Result)]).take 4096 ∧
       { t.test with repairs := s.test.repairs } = s.test) ∧
     (s.spareOf c.sh = none → ∃ t, exec (.retireCore c answers dst combine) s = .next (ends t) ∧ moved t 15 ∧
       t.phys c.sh c.c = none ∧ t.core p = { use := .retired } ∧
       (∀ i, i ≠ p → t.core i = s.core i) ∧ t.sram c.sh = s.sram c.sh ∧
       (t.shelf c.sh).awaiting = (s.shelf c.sh).awaiting ∧
       t.test.repairs = (s.test.repairs ++ [(⟨resultW0 1 c.sh (p % 9) 0 2 0, 15⟩ : Result)]).take 4096 ∧
       t.test.ending = s.test.ending + 1 ∧ { t.test with repairs := s.test.repairs, ending := s.test.ending } = s.test)) ∧
  (∀ (s : State) (c : CoreRef), c.c.val ∈ (s.shelf c.sh).awaiting →
     let lost (j : Job) : Job := if j.part = s.partOf c.sh then { j with flags := j.flags ||| 0x100 } else j
     ∃ t, exec (.maximaReadTimeout c) s = .next t ∧
       t.shelf c.sh = { s.shelf c.sh with awaiting := (s.shelf c.sh).awaiting.filter (· ≠ c.c.val) } ∧
       (∀ i, i ≠ c.sh.val → t.shelf i = s.shelf i) ∧
       t.work = { s.work with jobs := s.work.jobs.map lost } ∧
       s.Wakes t c.sh ∧ { t with shelves := s.shelves, work := s.work, woken := s.woken } = s)

/-- R259, R263, R264, R315, R262, R319, R321, R7, R108, R170, R171, R198: A segment of a PUT whose message passes
every check writes its bytes, one by one at their places in HBM, a shelf SRAM, an operand buffer, Tally space (slot
status words take none) or the gather entries (whose reserved bits read as zero), and leaves every other byte as it
was; the message's last segment is answered OK. A message that fails a check writes nothing, and each of its segments
is answered with the status of the first check that failed. A GET that passes its checks is answered with the bytes at
its range, in HBM, a shelf SRAM, a core-local space or Tally space, or with its values of the object dictionary;
nothing else changes, except that a good granule whose error the read corrects is counted. A range with an
uncorrectable granule is logged and answered MEMORY_UNCORRECTABLE. A PUT to VLAUNCH queues its launch word while fewer
than eight launches are queued or running; a PUT to STEPF replaces the step flags, of which the reserved bits stay
zero; a PUT of a fill descriptor whose fields are valid is held by the slot it names. Each is answered OK. -/
def Obligations.PutsAndGets : Prop :=
  (∀ (s : State) (r q : Request) (w : Sender) (missing : Nat), s.sender 1 r = some (w, q) →
     let n := (segBytes q).length
     let done (x : State) : State := s.segmentDone x 1 q (missing - n) none (failure St.ok)
     let wrote (o : Nat) (get : Nat → Byte) (old : Nat → Byte) : Prop :=
       ∀ a, get a = if o + q.off ≤ a ∧ a < o + q.off + n then (segBytes q).getD (a - (o + q.off)) 0 else old a
     (∀ o, s.Arrives 1 w q missing (.hbm o) → s.hbmBarrier (o + q.off) n = none →
       ∃ x : State, exec (.put r) s = .next (done x) ∧ s.HbmWrites x (o + q.off) (segBytes q)) ∧
     (∀ sh o, s.Arrives 1 w q missing (.sram sh o) → ∃ x : State, exec (.put r) s = .next (done x) ∧ OnlyShelf s x sh ∧
       wrote o (tabGet 0 (x.sram sh)) (tabGet 0 (s.sram sh)) ∧ { x.shelf sh with sram := s.sram sh } = s.shelf sh) ∧
     (∀ sh c p o, s.Arrives 1 w q missing (.cl sh c p o) → o + q.off < 0x180000 →
       ∃ x : State, exec (.put r) s = .next (done x) ∧ OnlyCore s x p ∧
       wrote o (tabGet 0 (x.core p).opbuf) (tabGet 0 (s.core p).opbuf) ∧
       { x.core p with opbuf := (s.core p).opbuf } = s.core p) ∧
     (∀ sh c p o, s.Arrives 1 w q missing (.cl sh c p o) → 0x1A0200 ≤ o + q.off → o + q.off + n ≤ 0x1A0400 →
       ∃ x : State, exec (.put r) s = .next (done x) ∧ OnlyCore s x p ∧
       (∀ j, tabGet 0 (x.core p).gather j =
         if o + q.off < 0x1A0200 + 8 * j + 8 ∧ 0x1A0200 + 8 * j < o + q.off + n then
           gatherWritten (BitVec.ofNat 64 (leNat ((List.range 8).map fun b =>
             let a := 0x1A0200 + 8 * j + b
             if o + q.off ≤ a ∧ a < o + q.off + n then (segBytes q).getD (a - (o + q.off)) 0
             else wordByte (tabGet 0 (s.core p).gather j).toNat b)))
         else tabGet 0 (s.core p).gather j) ∧
       { x.core p with gather := (s.core p).gather } = s.core p) ∧
     (∀ p o, s.Arrives 1 w q missing (.tally p o) → ∃ x : State, exec (.put r) s = .next (done x) ∧ OnlyCore s x p ∧
       (∀ a, a < 0x100000 → (x.core p).tallyByte a =
         if o + q.off ≤ a ∧ a < o + q.off + n then (segBytes q).getD (a - (o + q.off)) 0 else (s.core p).tallyByte a) ∧
       (∀ i, 65536 ≤ i → tabGet 0 (x.core p).tally i = tabGet 0 (s.core p).tally i) ∧
       { x.core p with tally := (s.core p).tally } = s.core p) ∧
     (∀ st, (s.asmOf q).find? (·.msn = reqKey q) = none → s.putDecision w 1 q = .error st → st ≠ St.ok →
       exec (.put r) s = .next (s.segmentDone s 1 q (q.len - n) none (failure st))) ∧
     (∀ a, (s.asmOf q).find? (·.msn = reqKey q) = some a → a.status ≠ St.ok →
       exec (.put r) s = .next (s.segmentDone s 1 q (a.missing - n) none (failure a.status)))) ∧
  (∀ (s : State) (r q : Request) (w : Sender) (pl : Place), s.sender 2 r = some (w, q) → lengthOk 2 q.len = true →
     s.place w 2 q.addr q.len = .ok pl →
     let answered (x : State) (a : Answer) : State := (x.answer 2 q a).countIn q a.status
     let gives (l : List Byte) : State := answered s ⟨St.ok, false, l⟩
     (∀ o, pl = .hbm o → s.hbmBad o q.len = false →
       exec (.get r) s = .next (answered (s.noteCorrected [(o, q.len)]) ⟨St.ok, false, s.hbmRead o q.len⟩)) ∧
     (∀ o, pl = .hbm o → s.hbmBad o q.len = true →
       exec (.get r) s = .next (answered (s.noteReads [(o, q.len)]) (failure St.memoryUncorrectable))) ∧
     (∀ sh o, pl = .sram sh o → exec (.get r) s = .next (gives (memRead (s.sram sh) o q.len))) ∧
     (∀ sh c p o, pl = .cl sh c p o →
       exec (.get r) s = .next (gives ((List.range q.len).map fun j => (s.core p).clByte (o + j)))) ∧
     (∀ p o, pl = .tally p o →
       exec (.get r) s = .next (gives ((List.range q.len).map fun j => (s.core p).tallyByte (o + j)))) ∧
     (∀ k, pl = .od k → exec (.get r) s = .next (gives ((List.range (q.len / 16)).flatMap fun j =>
       (s.odCell w.init.secure w.init.part (k + j)).getD [])))) ∧
  (∀ (s : State) (r q : Request) (w : Sender) (sh c p o : Nat), s.sender 1 r = some (w, q) → lengthOk 1 q.len = true →
     s.place w 1 q.addr q.len = .ok (.cl sh c p o) →
     q.off = 0 → q.data.length = q.len → (s.asmOf q).find? (·.msn = reqKey q) = none →
     let finish (x : State) : State := s.completes x 1 q (failure St.ok)
     let k := s.core p
     let word := leNat q.data
     (o = 0x190000 → q.len = 8 → bits word 17 0 ≤ 0x2FFFF → bits word 19 18 = 0 →
       k.vec.queue.length + k.vec.prog.isSome.toNat < 8 → ∃ x : State, exec (.vlaunch r) s = .next (finish x) ∧ OnlyCore s x p ∧
         x.core p = { k with vec := { k.vec with queue := k.vec.queue ++ [BitVec.ofNat 64 word] } }) ∧
     (o = 0x190120 → q.len = 8 → ∃ x : State, exec (.stepfWrite r) s = .next (finish x) ∧ OnlyCore s x p ∧
         x.core p = { k with stepf := BitVec.ofNat 64 word &&& 0x00000000FFF001FF }) ∧
     (∀ i, i < 8 → o = 0x1A0000 + 0x40 * i → q.len = 32 →
       s.fillFieldsOk (s.partOf sh) w.init (BitVec.ofNat 256 word) = true → (k.slotA i).st ≠ .filling →
       (k.slotA i).held = none → ∃ x : State, exec (.fillDescriptor r) s = .next (finish x) ∧ OnlyCore s x p ∧
         (∀ j, (x.core p).slotA j = if j = i then { k.slotA i with held := some (BitVec.ofNat 256 word) } else k.slotA j) ∧
         { x.core p with aslot := k.aslot } = k))

/-- R262, R319, R320, R321, R265, R316, R35, R79, R80, R81, R82, R85: An atomic on a word of HBM or of a shelf SRAM
answers with the word it found and leaves the new one: the sum modulo 2^64, OPND1, or OPND2 if the word equalled
OPND1. In an uncorrectable granule it changes nothing and answers MEMORY_UNCORRECTABLE. A PUT_SIGNAL's segments write
as a PUT's do. Once the message's last byte stands, the signal word, in HBM or a shelf SRAM, has advanced by 1 modulo
2^64 and nothing else has changed; the answer is OK. If a granule of the target ends the write, or the signal word's
granule is uncorrectable, no signal is applied and the answer says so; a message that fails a check writes nothing. A
segment of an accepted TALLY_ADD adds operand word i into target word i by one saturating addition each, and the
message's last segment is answered OK with SAT set exactly where an addition of any of its segments saturated. In a
Tally slot the slot keeps POINT, LIVE and DCLIP and takes SAT and the carried flags; in HBM no flag is kept. A
TALLY_ADD whose length, range or slot (LIVE at its point) fails a check changes nothing and is answered with the
status of the first that fails; so is a later segment that finds another core, with no such slot. -/
def Obligations.AtomicsSignalsAndAdds : Prop :=
  (∀ (s : State) (r q : Request) (w : Sender) (pl : Place) (opc : Nat) (f : BitVec 64 → BitVec 64) (i : Instr),
     (opc, i, f) = (3, .atomicAdd r, (· + q.opnd1)) ∨ (opc, i, f) = (4, .atomicSwap r, fun _ => q.opnd1) ∨
       (opc, i, f) = (5, .atomicCas r, fun v => if v = q.opnd1 then q.opnd2 else v) →
     s.sender opc r = some (w, q) → q.len = 8 → s.place w opc q.addr 8 = .ok pl →
     let answered (x : State) (a : Answer) : State := (x.answer opc q a).countIn q a.status
     (∀ o, pl = .hbm o → s.hbmBad o 8 = false → ∃ x : State,
       exec i s = .next (answered x ⟨St.ok, false, s.hbmRead o 8⟩) ∧
       s.HbmWrites x o (natLE (f (BitVec.ofNat 64 (s.hbmNat o 8))).toNat 8)) ∧
     (∀ o, pl = .hbm o → s.hbmBad o 8 = true →
       exec i s = .next (answered (s.eccEvent o) (failure St.memoryUncorrectable))) ∧
     (∀ sh o, pl = .sram sh o → ∃ x : State,
       exec i s = .next (answered x ⟨St.ok, false, memRead (s.sram sh) o 8⟩) ∧
       memNat (x.sram sh) o 8 = (f (BitVec.ofNat 64 (memNat (s.sram sh) o 8))).toNat ∧ OnlyShelf s x sh ∧
       (∀ a, a < o ∨ o + 8 ≤ a → tabGet 0 (x.sram sh) a = tabGet 0 (s.sram sh) a) ∧
       { x.shelf sh with sram := s.sram sh } = s.shelf sh)) ∧
  (∀ (s : State) (r q : Request) (w : Sender) (missing : Nat), s.sender 7 r = some (w, q) →
     let n := (segBytes q).length
     (∀ st, (s.asmOf q).find? (·.msn = reqKey q) = none → s.putDecision w 7 q = .error st → st ≠ St.ok →
       exec (.putSignal r) s = .next (s.segmentDone s 7 q (q.len - n) none (failure st))) ∧
     (∀ (x : State) (st : Status) (pl ps : Place), s.Arrives 7 w q missing pl →
       s.writePlace w (pl.plus q.off) (segBytes q) = (x, st) → s.placeOf w q.signal = .ok ps →
       (st ≠ St.ok ∨ n < missing → exec (.putSignal r) s = .next (s.segmentDone x 7 q (missing - n) none (failure st))) ∧
       (st = St.ok → missing ≤ n →
         (∀ o, ps = .hbm o → x.hbmBad o 8 = false → ∃ y : State,
           exec (.putSignal r) s = .next (s.completes y 7 q (failure St.ok)) ∧
           x.HbmWrites y o (natLE ((x.hbmNat o 8 + 1) % 2 ^ 64) 8)) ∧
         (∀ o, ps = .hbm o → x.hbmBad o 8 = true →
           exec (.putSignal r) s = .next (s.completes (x.eccEvent o) 7 q (failure St.memoryUncorrectable))) ∧
         (∀ sh o, ps = .sram sh o → ∃ y : State, exec (.putSignal r) s = .next (s.completes y 7 q (failure St.ok)) ∧
           OnlyShelf x y sh ∧ memNat (y.sram sh) o 8 = (memNat (x.sram sh) o 8 + 1) % 2 ^ 64 ∧
           (∀ a, a < o ∨ o + 8 ≤ a → tabGet 0 (y.sram sh) a = tabGet 0 (x.sram sh) a) ∧
           { y.shelf sh with sram := x.sram sh } = x.shelf sh)))) ∧
  (∀ (s : State) (r q : Request) (w : Sender) (a : Assembly), s.sender 6 r = some (w, q) →
     let n := (segBytes q).length
     let word (i : Nat) : BitVec 128 := BitVec.ofNat 128 (leNat (((segBytes q).drop (16 * i)).take 16))
     let operand (i : Nat) : Int := (tallyRead (word i)).1
     let done (x : State) (b : Answer) : State := s.segmentDone x 6 q (a.missing - n) a.core b
     let saturates (old : Nat → BitVec 128) : Prop :=
       ∃ i, i < n / 16 ∧ ((tallyAdd (old i) (operand i)).2 = true ∨ (tallyRead (word i)).2 = true)
     (∀ st, (s.asmOf q).find? (·.msn = reqKey q) = none → s.tallyDecision w q = .error st → st ≠ St.ok →
       exec (.tallyAdd r) s = .next (s.segmentDone s 6 q (q.len - n) none (failure st))) ∧
     (∀ p o, lengthOk 6 q.len = true → s.place w 6 q.addr q.len = .ok (.tally p o) →
       ((tabGet {} (s.core p).tslot (o / 0x10000)).live = false ∨ (tabGet {} (s.core p).tslot (o / 0x10000)).point ≠ q.point) →
       s.tallyDecision w q = .error St.tallyPointMismatch) ∧
     (∀ pl, (s.asmOf q).find? (·.msn = reqKey q) = some a → a.status = St.ok → s.placeOf w q.addr = .ok pl →
       s.tallyMoved pl a q.point = true →
       exec (.tallyAdd r) s = .next (done s ⟨St.tallyPointMismatch, a.sat, []⟩)) ∧
     ((s.asmOf q).find? (·.msn = reqKey q) = some a → a.status ≠ St.ok →
       exec (.tallyAdd r) s = .next (done s ⟨a.status, a.sat, []⟩)) ∧
     (∀ p o, s.TallyArrives w q a (.tally p o) → n % 16 = 0 → (o + q.off) % 16 = 0 →
       let first := (o + q.off) / 16
       let slot := (o + q.off) / 0x10000
       let old := tabGet {} (s.core p).tslot slot
       ∃ (x : State) (sat : Bool), exec (.tallyAdd r) s = .next (done x ⟨St.ok, a.sat || sat, []⟩) ∧ OnlyCore s x p ∧
         (sat = true ↔ saturates fun i => tabGet 0 (s.core p).tally (first + i)) ∧
         (∀ i, i < n / 16 →
           tabGet 0 (x.core p).tally (first + i) = (tallyAdd (tabGet 0 (s.core p).tally (first + i)) (operand i)).1) ∧
         (∀ b, b < first ∨ first + n / 16 ≤ b → tabGet 0 (x.core p).tally b = tabGet 0 (s.core p).tally b) ∧
         (∀ i, tabGet {} (x.core p).tslot i = if i = slot then
           { old with sat := old.sat || sat || q.cfl.getLsbD 2, nfi := old.nfi || q.cfl.getLsbD 1, nfs := old.nfs || q.cfl.getLsbD 0 }
           else tabGet {} (s.core p).tslot i) ∧
         (∀ i, i ∈ (x.core p).tadds ↔ i = slot ∨ i ∈ (s.core p).tadds) ∧
         (let k := s.core p
         { x.core p with tally := k.tally, tslot := k.tslot, tadds := k.tadds } = k)) ∧
     (∀ o, s.TallyArrives w q a (.hbm o) → n % 16 = 0 → o + q.off + n ≤ s.sysBase → (o + q.off) % 16 = 0 →
       s.hbmBad (o + q.off) n = false → ∃ (x : State) (sat : Bool),
       exec (.tallyAdd r) s = .next (done x ⟨St.ok, a.sat || sat, []⟩) ∧
       (sat = true ↔ saturates fun i => BitVec.ofNat 128 (memNat s.hbm (o + q.off + 16 * i) 16)) ∧
       (∀ i, i < n / 16 → BitVec.ofNat 128 (memNat x.hbm (o + q.off + 16 * i) 16) =
         (tallyAdd (BitVec.ofNat 128 (memNat s.hbm (o + q.off + 16 * i) 16)) (operand i)).1) ∧
       (∀ b, b < o + q.off ∨ o + q.off + n ≤ b → tabGet 0 x.hbm b = tabGet 0 s.hbm b) ∧ x.ecc.bad = s.ecc.bad ∧
       { x with hbm := s.hbm, ecc := s.ecc } = s))

/-- R259, R260, R262, R263, R256, R266, R267, R298, R356: A GET or an atomic whose length or whose range fails a check
is answered with the status of the first one that fails, the length before the range, and changes nothing else. A
FENCE of a host or a peer is answered at once where no message of its sender is still arriving, and otherwise waits
with those messages; a peer's claim to the secure world that authentication does not back is refused ACCESS_DENIED. A
FENCE of the device's own, a trim core's or a firmware task's, completes once every earlier operation of its domain
has its response, and then the operations it held are sent. A response completes its operation and is counted in its
context; a reserved code in it never stands. -/
def Obligations.RequestsRefusedAndAnswered : Prop :=
  (∀ (s : State) (r q : Request) (w : Sender) (opc : Nat) (i : Instr) (st : Status),
     (opc, i) ∈ [(2, .get r), (3, .atomicAdd r), (4, .atomicSwap r), (5, .atomicCas r)] →
     s.sender opc r = some (w, q) →
     (lengthOk opc q.len = false →
       exec i s = .next ((s.answer opc q (failure St.rmCmdInvalid)).countIn q St.rmCmdInvalid)) ∧
     (lengthOk opc q.len = true → s.place w opc q.addr q.len = .error st →
       exec i s = .next ((s.answer opc q (failure st)).countIn q st))) ∧
  ((∀ (s : State) (r q : Request) (w : Sender), s.sender 8 r = some (w, q) → (∀ t i, r.origin ≠ .trim t i) →
     (∀ i, r.origin ≠ .firmware i) →
     (w.deny = true → exec (.fence r) s = .next (s.answer 8 q (failure St.accessDenied))) ∧
     (w.deny = false → s.asmOf q = [] → exec (.fence r) s = .next (s.answerFence q)) ∧
     (w.deny = false → s.asmOf q ≠ [] →
       exec (.fence r) s = .next (s.setFences q (s.fencesOf q ++ [(q, (s.asmOf q).map (·.msn))])))) ∧
   (∀ (s : State) (r : Request) (id : Nat) (o : RemOp),
     ((∃ t : TrimRef, r.origin = .trim t id ∧ o.who.sameDomain (.trim t.sh t.k 0) = true) ∨
       (r.origin = .firmware id ∧ o.who.isTrim = false)) →
     s.ops.find? (·.id = id) = some o → o.opc = 8 → o.sent = true → o.done = false →
     ((∀ q ∈ s.ops, q.who.sameDomain o.who = true → q.id < id → q.done = true) →
       exec (.fence r) s = .next ((s.answerOp id (failure St.ok) true).releaseDomain o.who
         ((s.answerOp id (failure St.ok) true).ops.filter fun q => decide (id < q.id)))) ∧
     ((∃ q ∈ s.ops, q.who.sameDomain o.who = true ∧ q.id < id ∧ q.done = false) → exec (.fence r) s = .next s)) ∧
   (∀ (s : State) (op : Nat) (a b : Answer) (o : RemOp) (sh k n : Nat), s.ops.find? (·.id = op) = some o →
     (∀ q ∈ s.ops, q.id = op → q = o) → o.who = .trim sh k n → o.answered = some b → gaSpace o.remote ≠ 15 →
     St.known a.status = true →
     exec (.response op a) s = .next { s with
       ops := s.ops.map fun q => if q.id = op then { q with done := true } else q
       fabric := { s.fabric with ops := s.fabric.ops.filter (·.1 ≠ op) } }) ∧
   (∀ (s : State) (op : Nat) (a : Answer) (o : RemOp), s.ops.find? (·.id = op) = some o → o.who = .firmware →
     o.answered = none → o.sent = true → o.opc ≠ 8 → o.done = false → gaSpace o.remote = 15 →
     ∃ t, exec (.response op a) s = .next t ∧ t.ops = s.ops.filter (·.id ≠ op) ∧
       (t.ctx (hostCtx o.remote)).rqout = (s.ctx (hostCtx o.remote)).rqout + (if a.status = 0 then 1 else 0) ∧
       (t.ctx (hostCtx o.remote)).rqfail = (s.ctx (hostCtx o.remote)).rqfail + (if a.status = 0 then 0 else 1) ∧
       t.free = s.free + (if St.known a.status then 0 else 1) ∧
       { t with ops := s.ops, fabric := s.fabric, port := s.port, free := s.free } = s) ∧
   (∀ (s : State) (a : Answer), St.known (s.known a).status = true ∧ (s.known a).status ≠ St.ok ∨ s.known a = a))

/-- R139, R143, R151, R82, R137, R141, R142, R198, R144, R145, R146: Of a trim core that has come to its instruction,
with the pc, mode and CSRs that its RV64 instructions left: a wait.w whose word meets its condition completes with the
word; any other gates the core, and one whose address no local word has takes an access fault. A gated core goes on
when a write has made its condition hold, whatever the word is by then, when twtmo has passed, or with a trap, to run
the instruction again, at an interrupt. An rm.cmd whose block passes its checks, with fewer than 64 operations
outstanding, issues the operation and completes with 0; with 64 it waits for room; a block that fails a check
completes with its status and sends nothing. When an operation has its response, its counter advances, a failure
stands in its error word, the status being that of the first since the word was last written, a TALLY_ADD's flags go
to the jobs whose code runs on the shelf, returned data stand in LOCAL, and then an rm.cmd that waited for room goes
on. A store writes a counter or an error word. Tp.issue places its instructions behind those in the queue, as many as
the 64 places hold, and says how many; tp.stat reads a word of the core's window; tp.discard orders the discard of the
core's tile queue and vector engine. An operand that fails a check completes with its status and does nothing. On a
management core each is an illegal instruction. -/
def Obligations.TrimCoreInstructions : Prop :=
  (∀ (s : State) (t : TrimRef),
     let me : Nat := 4 * t.sh.val + t.k.val
     (∀ (o : TrimOps) (cond : Nat) (holds : Nat → Nat → Prop) (i : Instr), ∀ s0 : State, s0.Running t → s = s0.enter t o.base →
       (cond, holds, i) = (0, (fun w c => w ≠ c), .waitWNe t o) ∨ (cond, holds, i) = (1, (fun w c => w = c), .waitWEq t o) ∨
         (cond, holds, i) = (2, (fun w c => c ≤ w), .waitWGeu t o) →
       (∀ w, s.localWord t.sh t.k o.rs1.toNat = some w → holds w o.rs2.toNat →
         ∃ s', exec i s0 = .next s' ∧ s.CompletesWith s' t o.rd (BitVec.ofNat 64 w)) ∧
       (∀ w, s.localWord t.sh t.k o.rs1.toNat = some w → ¬holds w o.rs2.toNat → ∃ s', exec i s0 = .next s' ∧
         OnlyTrim { s with woken := s.woken.filter (· ≠ me) } s' t.sh t.k ∧ me ∉ s'.woken ∧
         s'.trim t.sh t.k = { s.trim t.sh t.k with wait := some (.word cond o.rs1.toNat o.rs2 o.rd) }) ∧
       (s.localWord t.sh t.k o.rs1.toNat = none → ∃ s', exec i s0 = .next s' ∧ OnlyTrim s s' t.sh t.k ∧
         s'.trim t.sh t.k = (s.trim t.sh t.k).trap 5)) ∧
     (∀ cond a cmp rd w, (s.trim t.sh t.k).wait = some (.word cond a cmp rd) → s.localWord t.sh t.k a = some w →
       (me ∈ s.woken ∨ waitHolds cond w cmp.toNat = true →
         ∃ s', exec (.waitWake t) s = .next s' ∧ s.CompletesWith s' t rd (BitVec.ofNat 64 w)) ∧
       (me ∉ s.woken → waitHolds cond w cmp.toNat = false → exec (.waitWake t) s = .next s) ∧
       ((s.trim t.sh t.k).twtmo ≠ 0 →
         ∃ s', exec (.waitTimeout t) s = .next s' ∧ s.CompletesWith s' t rd (BitVec.ofNat 64 w)) ∧
       (∀ cause, (s.trim t.sh t.k).machine = false ∨ (s.trim t.sh t.k).mie = true →
         ∃ s', exec (.waitInterrupt t cause) s = .next s' ∧ OnlyTrim s s' t.sh t.k ∧
           s'.trim t.sh t.k = (s.trim t.sh t.k).trap (cause ||| 0x8000000000000000) ∧
           (s'.trim t.sh t.k).mepc = (s.trim t.sh t.k).pc ∧ (s'.trim t.sh t.k).wait = none)) ∧
     (∀ (sh a : Nat) (bs : List Byte) (k cond b : Nat) (cmp : BitVec 64) (rd : Nat), k < 4 →
       (s.trim sh k).wait = some (.word cond b cmp rd) →
       (∃ w, (s.sramWrite sh a bs).localWord sh k b = some w ∧ waitHolds cond w cmp.toNat = true) →
       4 * sh + k ∈ (s.sramWrite sh a bs).woken)) ∧
  (∀ (s : State) (t : TrimRef),
     (∀ (o : TrimOps), ∀ s0 : State, s0.Running t → s = s0.enter t o.base →
       (∀ st, s.rmOp t o.rs1.toNat (bits o.rs2.toNat 3 0) = .error st →
         ∃ s', exec (.rmCmd t o) s0 = .next s' ∧ s.CompletesWith s' t o.rd (st.setWidth 64)) ∧
       (∀ q, s.rmOp t o.rs1.toNat (bits o.rs2.toNat 3 0) = .ok q → s.outstanding t < 64 →
         exec (.rmCmd t o) s0 = .next ((s.issue q).ret t o.rd 0)) ∧
       (∀ q, s.rmOp t o.rs1.toNat (bits o.rs2.toNat 3 0) = .ok q → 64 ≤ s.outstanding t →
         ∃ s', exec (.rmCmd t o) s0 = .next s' ∧ OnlyTrim s s' t.sh t.k ∧
           s'.trim t.sh t.k = { s.trim t.sh t.k with wait := some (.cmd o.rd o.rs1 o.rs2) })) ∧
     (∀ (op i : Nat) (o : RemOp) (a : Answer), s.ops.find? (·.id = op) = some o → o.who = .trim t.sh t.k i →
       o.answered = some a → o.done = true →
       let data := if a.status = 0 then a.data.take (rmLocalLen o.opc o.len) else []
       let r := s.trim t.sh t.k
       let counted : State := s.flagTally t.sh { o with cfl := if a.status = 0 then o.cfl else 0 } a.sat
       ∃ x : State, exec (.rmCompletion op) s = .next (match r.wait with
           | some (.cmd rd rs1 rs2) => x.rmCmd t rd rs1 rs2
           | _ => x) ∧
         x.ops = s.ops.filter (·.id ≠ o.id) ∧
         (let r' := x.trim t.sh t.k
         (∀ j, tabGet 0 r'.counters j = tabGet 0 r.counters j + (if j = i then 1 else 0)) ∧
         (∀ j, tabGet 0 r'.errors j = if j = i ∧ a.status ≠ 0 then
           errorNext (r.failed.getLsbD i) (tabGet 0 r.errors i) a.status else tabGet 0 r.errors j) ∧
         r'.failed = (if a.status = 0 then r.failed else r.failed ||| ((1 : BitVec 16) <<< i)) ∧
         { r' with counters := r.counters, errors := r.errors, failed := r.failed } = r) ∧
         (∀ b, tabGet 0 (x.sram t.sh) b = if t.sh.val < 16 ∧ o.local_ ≤ b ∧ b < o.local_ + data.length then
           data.getD (b - o.local_) 0 else tabGet 0 (s.sram t.sh) b) ∧
         (∀ j, j ≠ t.k.val → x.trim t.sh j = s.trim t.sh j) ∧
         (let h := s.shelf t.sh
         { x.shelf t.sh with trims := h.trims, sram := h.sram } = h) ∧
         (∀ h, h ≠ t.sh.val → x.shelf h = s.shelf h) ∧ s.Wakes x t.sh ∧
         x.work = (if o.opc = 6 ∧ (a.sat = true ∨ a.status = 0) then counted.work else s.work) ∧
         { x with ops := s.ops, shelves := s.shelves, work := s.work, woken := s.woken } =
           (if t.sh.val = 16 ∧ a.status = 0 ∧ a.data ≠ [] then
             (s.hbmStore (s.mgmtData t.k + (o.local_ - 0x50000000)) data).1 else s)) ∧
     (∀ (i : Fin 16) (v : BitVec 64) (err : Bool),
       let r := s.trim t.sh t.k
       ∃ s', exec (.counterStore t err i v) s = .next s' ∧ OnlyTrim s s' t.sh t.k ∧
       (let r' := s'.trim t.sh t.k
       (∀ j, tabGet 0 r'.counters j = if j = i.val ∧ err = false then v else tabGet 0 r.counters j) ∧
       (∀ j, tabGet 0 r'.errors j = if j = i.val ∧ err = true then v else tabGet 0 r.errors j) ∧
       (∀ j, j < 16 → r'.failed.getLsbD j = if j = i.val ∧ err = true then false else r.failed.getLsbD j) ∧
       { r' with counters := r.counters, errors := r.errors, failed := r.failed } = r))) ∧
  (∀ (s : State) (t : TrimRef) (o : TrimOps), ∀ s0 : State, s0.Running t → s = s0.enter t o.base →
     let placed (n : Nat) : List (BitVec 128) :=
       (List.range n).map fun i => BitVec.ofNat 128 (memNat (s.sram t.sh) (o.rs1.toNat + 16 * i) 16)
     (∀ i ∈ [Instr.tpIssue t o, .tpStat t o, .tpDiscard t o], s0.IllegalOnManagement t o.base i) ∧
     (t.sh.val < 16 →
     (∀ st, s.tpCheck t o.rs1.toNat o.rs2.toNat = .error st → ∃ s', exec (.tpIssue t o) s0 = .next s' ∧
       s.CompletesWith s' t o.rd (BitVec.ofNat 64 (st.toNat * 2 ^ 48))) ∧
     (∀ p, s.tpCheck t o.rs1.toNat o.rs2.toNat = .ok p →
       let k := s.core p
       let n := min (bits o.rs2.toNat 6 0) (64 - k.tile.queue.length)
       ∃ s', exec (.tpIssue t o) s0 = .next s' ∧
         s.ChangesCore s' p { k with tile := { k.tile with queue := k.tile.queue ++ placed n } } t o.rd (BitVec.ofNat 64 n)) ∧
     (∃ s', exec (.tpStat t o) s0 = .next s' ∧ s.CompletesWith s' t o.rd (BitVec.ofNat 64
       (if o.rs1.toNat < 8 ∧ o.rs2.toNat < 4 then s.windowWord t.sh o.rs1.toNat (0x100 + 8 * o.rs2.toNat) else 0))) ∧
     (∀ st, s.ownedCore t o.rs1.toNat = .error st →
       ∃ s', exec (.tpDiscard t o) s0 = .next s' ∧ s.CompletesWith s' t o.rd (st.setWidth 64)) ∧
     (∀ p, s.ownedCore t o.rs1.toNat = .ok p →
       let k := (s.core p).discard.endProgram St.aborted
       k.tile.discarding = true ∧ k.tile.queue = [] ∧ k.vec.queue = [] ∧ k.vec.prog = none ∧
       ∃ s', exec (.tpDiscard t o) s0 = .next s' ∧
         (let v := (s.core p).vec
         { s with work := (s.flagWorks t.sh (recordBits false false false false (v.prog.isSome && v.nf))).work
           }.ChangesCore s' p k t o.rd 0))))

/-- R88, R89, R90, R137, R147, R319, R132, R135, R148, R149, R151: A load form moves its values from shelf SRAM or HBM
into the scale file, at once where no drain in flight reads their block, and otherwise gates the core until such
drains are done; a store form moves entries of the maxima file to the core's own shelf SRAM and, with CLR, zeroes
them. An operand that fails a check completes with its status and moves nothing; what the reads of an HBM source
correct, and an uncorrectable granule of it, are counted. On a management core each is an illegal instruction. Sc.seed
sets the seed of a core its trim core owns, at once, or when no stochastic drain is in flight; sum.recv and sum.poll
take the oldest summary, or wait, or say that there is none; sum.flush empties the port and counts it. On a management
core each is an illegal instruction. An exception traps, and one that job code takes discards the cores its trim core
owns and ends the job's works with TRIM_FAULT; an access that the local map has, and a word that the core executes,
raise none. -/
def Obligations.ScaleSeedAndSummaryInstructions : Prop :=
  (∀ (s : State) (t : TrimRef) (o : TrimOps) (tok : Bool), ∀ s0 : State, s0.Running t → s = s0.enter t o.base →
     let word := o.rs2.toNat
     let range := s.hbmRange o.rs1 (4 * scN word)
     let load : Instr := if tok then .loadTokenScales t o else .loadRowScales t o
     let store : Instr := if tok then .storeTokenMaxima t o else .storeRowMaxima t o
     (scForm word = tok.toNat → s0.IllegalOnManagement t o.base load ∧
       (t.sh.val < 16 → ∀ st, s.scCheck t word true = .error st →
         ∃ s', exec load s0 = .next s' ∧ s.CompletesWith s' t o.rd (st.setWidth 64)) ∧
       (t.sh.val < 16 → ∀ p st, s.scCheck t word true = .ok p → s.scSource t o.rs1 (4 * scN word) = .error st →
         ∃ s', s.CompletesWith s' t o.rd (st.setWidth 64) ∧ exec load s0 = .next (s'.noteFail st range)) ∧
       (t.sh.val < 16 → ∀ p bs, s.scCheck t word true = .ok p → s.scSource t o.rs1 (4 * scN word) = .ok bs →
         let k := s.core p
         let held (l : ScaleLoad) : Bool := k.tile.drains.any fun d => l.touches d.br d.bc
         let l : ScaleLoad := ⟨t.k, o.rd, tok, scI word, words32 bs⟩
         let loaded (mine : Bool) (old new : Tab (BitVec 32)) : Prop := ∀ j, tabGet 0 new j =
           if mine = true ∧ scI word ≤ j ∧ j < scI word + (words32 bs).length then (words32 bs).getD (j - scI word) 0
           else tabGet 0 old j
         (∀ e ∈ k.scale.loads, held e = true) →
         (held l = false → ∃ x s' : State, exec load s0 = .next s' ∧ OnlyCore s x p ∧
           loaded tok k.scale.tokScale (x.core p).scale.tokScale ∧ loaded (!tok) k.scale.rowScale (x.core p).scale.rowScale ∧
           { (x.core p).scale with rowScale := k.scale.rowScale, tokScale := k.scale.tokScale } = k.scale ∧
           { x.core p with scale := k.scale } = k ∧ (x.noteCorrected range).CompletesWith s' t o.rd 0) ∧
         (held l = true → ∃ x s' : State, exec load s0 = .next s' ∧ OnlyCore s x p ∧
           x.core p = { k with scale := { k.scale with loads := k.scale.loads ++ [l] } } ∧
           OnlyTrim (x.noteCorrected range) s' t.sh t.k ∧
           s'.trim t.sh t.k = { s.trim t.sh t.k with wait := some .scale }))) ∧
     (scForm word = 2 + tok.toNat → s0.IllegalOnManagement t o.base store ∧
       (t.sh.val < 16 → ∀ st, s.scCheck t word false = .error st →
         ∃ s', exec store s0 = .next s' ∧ s.CompletesWith s' t o.rd (st.setWidth 64)) ∧
       (t.sh.val < 16 → ∀ p, s.scCheck t word false = .ok p →
         (∀ a, s.localSram o.rs1 (4 * scN word) ≠ some (t.sh.val, a)) →
         ∃ s', exec store s0 = .next s' ∧ s.CompletesWith s' t o.rd (St.addressInvalid.setWidth 64)) ∧
       (t.sh.val < 16 → ∀ p a, s.scCheck t word false = .ok p → s.localSram o.rs1 (4 * scN word) = some (t.sh.val, a) →
         let st := s.sramAccess t o.rs1 t.sh a (4 * scN word)
         let k := s.core p
         let file := if tok then k.scale.tokMax else k.scale.rowMax
         let kept (clear : Bool) (old new : Tab (BitVec 32)) : Prop := ∀ j, tabGet 0 new j =
           if clear = true ∧ scI word ≤ j ∧ j < scI word + scN word then 0 else tabGet 0 old j
         (st ≠ St.ok → ∃ s', exec store s0 = .next s' ∧ s.CompletesWith s' t o.rd (st.setWidth 64)) ∧
         (st = St.ok → ∃ x s' : State, exec store s0 = .next s' ∧ OnlyCoreShelf s x p t.sh ∧
           (∀ i b, i < scN word → b < 4 → tabGet 0 (x.sram t.sh) (a + 4 * i + b) =
             BitVec.ofNat 8 ((tabGet 0 file (scI word + i)).toNat / 256 ^ b)) ∧
           (∀ y, y < a ∨ a + 4 * scN word ≤ y → tabGet 0 (x.sram t.sh) y = tabGet 0 (s.sram t.sh) y) ∧
           { x.shelf t.sh with sram := s.sram t.sh } = s.shelf t.sh ∧
           kept (scClr word && tok) k.scale.tokMax (x.core p).scale.tokMax ∧
           kept (scClr word && !tok) k.scale.rowMax (x.core p).scale.rowMax ∧
           { (x.core p).scale with rowMax := k.scale.rowMax, tokMax := k.scale.tokMax } = k.scale ∧
           { x.core p with scale := k.scale } = k ∧ x.CompletesWith s' t o.rd 0)))) ∧
  ((∀ (s : State) (t : TrimRef) (o : TrimOps), ∀ s0 : State, s0.Running t → s = s0.enter t o.base →
     (∀ i ∈ [Instr.scSeed t o, .sumRecv t o, .sumPoll t o, .sumFlush t o], s0.IllegalOnManagement t o.base i) ∧
     (t.sh.val < 16 →
     (∀ st, s.ownedCore t (bits o.rs2.toNat 2 0) = .error st →
       ∃ s', exec (.scSeed t o) s0 = .next s' ∧ s.CompletesWith s' t o.rd (st.setWidth 64)) ∧
     (∀ p, s.ownedCore t (bits o.rs2.toNat 2 0) = .ok p →
       let k := s.core p
       ((s.core p).drawing = false → ∃ s', exec (.scSeed t o) s0 = .next s' ∧
         s.ChangesCore s' p { k with scale := { k.scale with seed := o.rs1 } } t o.rd 0) ∧
       ((s.core p).drawing = true → ∃ x s' : State, exec (.scSeed t o) s0 = .next s' ∧ OnlyCore s x p ∧
         x.core p = { k with scale := { k.scale with seedHeld := some (o.rs1, t.k.val, o.rd.val) } } ∧
         OnlyTrim x s' t.sh t.k ∧ s'.trim t.sh t.k = { s.trim t.sh t.k with wait := some .seed })) ∧
     (∀ w l, (s.trim t.sh t.k).port = w :: l → ∀ i ∈ [Instr.sumRecv t o, .sumPoll t o],
       ∃ s', exec i s0 = .next s' ∧ OnlyTrim s s' t.sh t.k ∧
         ({ s.trim t.sh t.k with port := l } : Trim).Completes (s'.trim t.sh t.k) o.rd w) ∧
     ((s.trim t.sh t.k).port = [] →
       (∃ s', exec (.sumRecv t o) s0 = .next s' ∧ OnlyTrim s s' t.sh t.k ∧
         s'.trim t.sh t.k = { s.trim t.sh t.k with wait := some (.summary o.rd) }) ∧
       (∃ s', exec (.sumPoll t o) s0 = .next s' ∧ s.CompletesWith s' t o.rd 0xF000000000000000)) ∧
     (∃ s', exec (.sumFlush t o) s0 = .next s' ∧ OnlyTrim s s' t.sh t.k ∧
       ({ s.trim t.sh t.k with port := [] } : Trim).Completes (s'.trim t.sh t.k) o.rd
         (BitVec.ofNat 64 (s.trim t.sh t.k).port.length)))) ∧
   (∀ (s : State) (c : CoreRef) (p k rd : Nat) (v : BitVec 64), s.phys c.sh c.c = some p →
     (s.core p).scale.seedHeld = some (v, k, rd) → (s.core p).drawing = false →
     ∃ x s' : State, exec (.seedWriteApply c) s = .next s' ∧ OnlyCore s x p ∧
       x.core p = { s.core p with scale := { (s.core p).scale with seed := v, seedHeld := none } } ∧
       OnlyTrim x s' c.sh k ∧ (s.trim c.sh k).Completes (s'.trim c.sh k) rd 0) ∧
   (∀ (s0 : State) (t : TrimRef) (b : TrimBase) (e : TrimExc), s0.Running t →
     let s := s0.enter t b
     (s.excCause t e = none → exec (.trimException t b e) s0 = .next s0) ∧
     (∀ cause, s.excCause t e = some cause →
       let r := s.trim t.sh t.k
       (r.trap cause).mcause = cause ∧ (r.trap cause).mepc = r.pc ∧ (r.trap cause).machine = true ∧
       ∃ y : State, OnlyTrim s y t.sh t.k ∧ y.trim t.sh t.k = r.trap cause ∧
       (b.machine = true ∨ t.sh.val = 16 → exec (.trimException t b e) s0 = .next y) ∧
       (b.machine = false → t.sh.val < 16 →
         let mine (p : Nat) : Prop := ∃ c : Fin 8, s.owns t.sh t.k c = true ∧ s.phys t.sh c = some p
         ∃ x : State, exec (.trimException t b e) s0 =
             .next ((s.worksOn t.sh).foldl (fun x i => x.workFail i St.trimFault) x) ∧
           (∀ p, mine p → (x.core p).tile.discarding = true ∧ (x.core p).tile.queue = [] ∧ (x.core p).vec.prog = none) ∧
           (∀ p, ¬ mine p → x.core p = s.core p) ∧
           (∀ i, (x.wk i) = { s.wk i with flags := (x.wk i).flags }) ∧
           { x.work with slots := s.work.slots } = s.work ∧ (∀ i ∈ y.woken, i ∈ x.woken) ∧
           { x with cores := y.cores, work := y.work, woken := y.woken } = y))))

/-- R106, R108, R109, R110, R112, R113, R129, R130, R149: A queued program starts with VL 64 and clear flags; vnop,
vsetvl and vsetvl.m do what they say and no more; vend, and any instruction that fails its checks, ends the program
with its record. Vsum on the lead core puts its summary on the way to the named trim core's port, is held while the
port has no room for it, and is rejected on any other core; the oldest summary on its way reaches the port. -/
def Obligations.VectorProgramsAndSummaries : Prop :=
  (∀ (s : State) (c : CoreRef) (p : Nat), s.phys c.sh c.c = some p → s.issueHeld c.sh = false →
     (s.core p).tile.discarding = false →
     (∀ w q, (s.core p).vec.prog = none → (s.core p).vec.queue = w :: q →
       let g : VecProg := ⟨w.extractLsb' 32 32, w.extractLsb' 20 12, (w.extractLsb' 0 18).toNat, s.permuteTrap⟩
       let v : Vec := { (s.core p).vec with queue := q, prog := some g, vl := 64, nf := false, oor := false, clip := false }
       ∃ t, exec (.vectorProgramStart c) s = .next t ∧ OnlyCore s t p ∧ t.core p = { s.core p with vec := v }) ∧
     (∀ f op, s.VIssues c p f op →
       (∀ e ∈ [(0x00, Instr.vnop c, (s.core p).vec.vl), (0x02, .vsetvl c, f.imm),
           (0x03, .vsetvlM c, maskCount ((s.core p).mreg f.vm) (2048 / f.sew))],
         op = e.1 → ∃ t, exec e.2.1 s = .next t ∧ OnlyCore s t p ∧
           (let v : Vec := { (s.core p).vec with prog := (s.core p).passed, vl := e.2.2 }
           t.core p = { s.core p with vec := v })) ∧
       (op = 0x01 → ∃ t, exec (.vend c) s = .next t ∧ s.VEnds t c.sh p St.ok false)) ∧
     (∀ g, (s.core p).vec.prog = some g → vecCheck ((s.core p).vecWord g.pc) = false →
       ∀ e ∈ vectorRows c, (VF.of ((s.core p).vecWord g.pc)).op = e.1 ∨ vform (VF.of ((s.core p).vecWord g.pc)).op = none →
         ∃ t, exec e.2 s = .next t ∧ s.VEnds t c.sh p St.vectorFieldInvalid false)) ∧
  ((∀ (s : State) (c : CoreRef) (p : Nat) (f : VF) (kind : Fin 7) (port : Fin 4), s.VIssues c p f 0x04 →
     f.imm = 16 * port.val + kind.val →
     let k := s.core p
     let n := min k.vec.vl 64
     let active (i : Nat) : Bool := decide (i < n) && (!f.me || (k.mreg f.vm).getLsbD i)
     let lanes := (List.range 64).filter active
     let a (i : Nat) : Nat := (k.velem f.vs1 32 i).toNat
     let set := (List.range n).filter fun i => (k.mreg f.vm).getLsbD i
     let r := s.trim c.sh port
     let word (v : Nat) : BitVec 64 := BitVec.ofNat 4 kind.val ++ 0#4 ++ (k.vec.vseq + 1).setWidth 8 ++ 0#16 ++ BitVec.ofNat 32 v
     (s.lead c.sh = some c.c.val → r.port.length + r.coming.length < 16 →
       ∃ (t : State) (v : Nat), exec (.vsum c) s = .next t ∧ (∀ q, q ≠ p → t.core q = s.core q) ∧
         (let v' : Vec := { k.vec with prog := k.passed }
         t.core p = { k with vec := v' }) ∧
         OnlyTrim { s with cores := t.cores } t c.sh port ∧ t.trim c.sh port = { r with coming := r.coming ++ [word v] } ∧
         (kind.val = 0 → v = if set = [] then 0 else 1) ∧
         (kind.val = 1 → v = if set.length = n then 1 else 0) ∧
         (kind.val = 2 → v = set.length) ∧
         (kind.val = 3 → v = set.headD 0xFFFFFFFF) ∧
         (kind.val = 4 → (∀ i ∈ lanes, sext 32 (a i) ≤ sext 32 v) ∧ (v = 0x80000000 ∨ ∃ i ∈ lanes, v = a i)) ∧
         (kind.val = 5 → (∀ i ∈ lanes, a i ≤ v) ∧ (v = 0 ∨ ∃ i ∈ lanes, v = a i)) ∧
         (kind.val = 6 → (lanes = [] → v = 0xFF800000) ∧
           (lanes ≠ [] → (∀ i ∈ lanes, f32IsNaN (a i) = true) → v = 0x7FC00000) ∧
           ((∃ i ∈ lanes, f32IsNaN (a i) = false) → (∃ i ∈ lanes, f32IsNaN (a i) = false ∧ v = a i) ∧
             ∀ i ∈ lanes, f32IsNaN (a i) = false → f32Ord (a i) ≤ f32Ord v))) ∧
     (s.lead c.sh = some c.c.val → 16 ≤ r.port.length + r.coming.length → exec (.vsum c) s = .next s) ∧
     (s.lead c.sh ≠ some c.c.val → ∃ t, exec (.vsum c) s = .next t ∧ s.VEnds t c.sh p St.summaryNotLead false)) ∧
   (∀ (s : State) (t : TrimRef) (w : BitVec 64) (l : List (BitVec 64)), (s.trim t.sh t.k).coming = w :: l →
     ∃ s', exec (.summaryDeliver t) s = .next s' ∧ OnlyTrim s s' t.sh t.k ∧
       (let r := s.trim t.sh t.k
       s'.trim t.sh t.k = { r with coming := l, port := r.port ++ [w] })))

/-- R112, R113, R114, R115: The element-wise integer instructions write the active lanes below VLE, from sources read
before, and nothing else; only vsadd saturates. Comparisons write the active bits of their destination mask, mask
logic and vmset every bit below VLE; no other bit, register or flag changes. A NaN operand compares false except in
vfcmp.uno. -/
def Obligations.VectorIntegersAndMasks : Prop :=
  (∀ (s : State) (c : CoreRef) (p : Nat) (f : VF) (op : Nat), s.VIssues c p f op →
     let k := s.core p
     let w := f.sew
     let n := min k.vec.vl (2048 / w)
     let active (i : Nat) : Bool := decide (i < n) && (!f.me || (k.mreg f.vm).getLsbD i)
     let a (i : Nat) : BitVec w := k.velem f.vs1 w i
     let b (i : Nat) : BitVec w := if f.sx then BitVec.ofNat w f.imm else k.velem f.vs2 w i
     let clamp (x : Int) : BitVec w := BitVec.ofInt w (max (-(2 ^ (w - 1))) (min (2 ^ (w - 1) - 1) x))
     ∀ e ∈ [(0x20, Instr.vadd c, fun i => a i + b i), (0x21, .vsub c, fun i => a i - b i), (0x22, .vmul c, fun i => a i * b i),
         (0x23, .vmin c, fun i => if (a i).toInt ≤ (b i).toInt then a i else b i),
         (0x24, .vmax c, fun i => if (a i).toInt ≤ (b i).toInt then b i else a i),
         (0x25, .vminu c, fun i => if a i ≤ b i then a i else b i), (0x26, .vmaxu c, fun i => if a i ≤ b i then b i else a i),
         (0x27, .vand c, fun i => a i &&& b i), (0x28, .vor c, fun i => a i ||| b i), (0x29, .vxor c, fun i => a i ^^^ b i),
         (0x2A, .vsll c, fun i => a i <<< ((b i).toNat % w)), (0x2B, .vsrl c, fun i => a i >>> ((b i).toNat % w)),
         (0x2C, .vsra c, fun i => (a i).sshiftRight ((b i).toNat % w)),
         (0x2D, .vsadd c, fun i => clamp ((a i).toInt + (b i).toInt)),
         (0x2E, .vmerge c, fun i => if (k.mreg f.vm).getLsbD i then a i else b i), (0x2F, .vmv c, fun i => b i),
         (0x30, .vid c, fun i => BitVec.ofNat w i)],
       op = e.1 → ∃ t, exec e.2.1 s = .next t ∧
         s.VWrites t p f.vd w (fun i => if active i then some (e.2.2 i) else none) false false false) ∧
  (∀ (s : State) (c : CoreRef) (p : Nat) (f : VF) (op : Nat), s.VIssues c p f op →
     let k := s.core p
     let w := f.sew
     let n := min k.vec.vl (2048 / w)
     let active (i : Nat) : Bool := decide (i < n) && (!f.me || (k.mreg f.vm).getLsbD i)
     let a (i : Nat) : BitVec w := k.velem f.vs1 w i
     let b (i : Nat) : BitVec w := if f.sx then BitVec.ofNat w f.imm else k.velem f.vs2 w i
     let nan (x : BitVec w) : Bool := f32IsNaN x.toNat
     let m (i : Nat) : Bool := (k.mreg f.vs1).getLsbD i
     let m2 (i : Nat) : Bool := (k.mreg f.vs2).getLsbD i
     (∀ e ∈ [(0x60, Instr.vcmpEq c, fun i => decide (a i = b i)), (0x61, .vcmpNe c, fun i => decide (a i ≠ b i)),
         (0x62, .vcmpLt c, fun i => decide ((a i).toInt < (b i).toInt)), (0x63, .vcmpLtu c, fun i => decide (a i < b i)),
         (0x64, .vcmpLe c, fun i => decide ((a i).toInt ≤ (b i).toInt)), (0x65, .vcmpLeu c, fun i => decide (a i ≤ b i)),
         (0x66, .vfcmpEq c, fun i => !nan (a i) && !nan (b i) && f32Eq (a i).toNat (b i).toNat),
         (0x67, .vfcmpLt c, fun i => !nan (a i) && !nan (b i) && f32Lt (a i).toNat (b i).toNat),
         (0x68, .vfcmpLe c, fun i => !nan (a i) && !nan (b i) && (f32Lt (a i).toNat (b i).toNat || f32Eq (a i).toNat (b i).toNat)),
         (0x69, .vfcmpUno c, fun i => nan (a i) || nan (b i))],
       op = e.1 → ∃ t, exec e.2.1 s = .next t ∧ s.MWrites t p f.vd (fun i => if active i then some (e.2.2 i) else none)) ∧
     (∀ e ∈ [(0x6A, Instr.vmand c, fun i => m i && m2 i), (0x6B, .vmor c, fun i => m i || m2 i),
         (0x6C, .vmxor c, fun i => m i != m2 i), (0x6D, .vmandn c, fun i => m i && !m2 i),
         (0x6E, .vmset c, fun _ => decide (f.imm % 2 = 1))],
       op = e.1 → ∃ t, exec e.2.1 s = .next t ∧ s.MWrites t p f.vd (fun i => if i < n then some (e.2.2 i) else none)))

/-- R112, R113, R114, R117, R118: The element-wise FP32 instructions and the conversions write the active lanes below
VLE and nothing else; a NaN or infinite result sets NF, a conversion that clips sets CLIP. -/
def Obligations.VectorFloatLanes : Prop :=
  ∀ (s : State) (c : CoreRef) (p : Nat) (f : VF) (op : Nat), s.VIssues c p f op →
    let k := s.core p
    let active (i : Nat) : Bool := decide (i < min k.vec.vl 64) && (!f.me || (k.mreg f.vm).getLsbD i)
    let a (i : Nat) : Nat := (k.velem f.vs1 32 i).toNat
    let b (i : Nat) : Nat := if f.sx then f.imm else (k.velem f.vs2 32 i).toNat
    let d (i : Nat) : Nat := (k.velem f.vd 32 i).toNat
    let src := f.imm / 16
    let dst := f.imm % 16
    let x (i : Nat) : Nat := (k.velem f.vs1 (cvtWidth src) i).toNat
    (∀ e ∈ [(0x40, Instr.vfadd c, fun i => f32Add (a i) (b i)), (0x41, .vfsub c, fun i => f32Sub (a i) (b i)),
        (0x42, .vfmul c, fun i => f32Mul (a i) (b i)), (0x43, .vfma c, fun i => f32Fma (a i) (b i) (d i)),
        (0x44, .vfmin c, fun i => f32MinNum (a i) (b i)), (0x45, .vfmax c, fun i => f32MaxNum (a i) (b i)),
        (0x46, .vfabs c, fun i => a i % 2 ^ 31), (0x47, .vfneg c, fun i => (a i + 2 ^ 31) % 2 ^ 32),
        (0x48, .vfdiv c, fun i => f32Div (a i) (b i)), (0x49, .vfsqrt c, fun i => f32Sqrt (a i)),
        (0x4A, .vfexp2 c, fun i => f32Exp2 (a i)), (0x4B, .vfexp c, fun i => f32Exp (a i)),
        (0x4C, .vflog2 c, fun i => f32Log2 (a i)), (0x4D, .vfrcp c, fun i => f32Rcp (a i)),
        (0x4E, .vfrsqrt c, fun i => f32Rsqrt (a i)), (0x4F, .vftanh c, fun i => f32Tanh (a i)),
        (0x50, .vfsigm c, fun i => f32Sigm (a i))],
      op = e.1 → ∃ t, exec e.2.1 s = .next t ∧
        s.VWrites t p f.vd 32 (fun i => if active i then some (BitVec.ofNat 32 (e.2.2 i)) else none)
          ((List.range 64).any fun i => active i && f32NonFinite (e.2.2 i)) false false) ∧
    (op = 0x51 → src = 0 → ∃ t, exec (.vcvt c) s = .next t ∧
      s.VWrites t p f.vd (cvtWidth dst) (fun i => if active i then some (BitVec.ofNat _ (cvtFrom32 dst (x i)).1) else none)
        ((List.range 64).any fun i => active i && (cvtFrom32 dst (x i)).2.2) false
        ((List.range 64).any fun i => active i && (cvtFrom32 dst (x i)).2.1)) ∧
    (op = 0x51 → src ≠ 0 → ∃ t, exec (.vcvt c) s = .next t ∧
      s.VWrites t p f.vd 32 (fun i => if active i then some (BitVec.ofNat 32 (cvtTo32 src (x i)).1) else none)
        ((List.range 64).any fun i => active i && (cvtTo32 src (x i)).2) false false)

/-- R114, R120, R121, R122, R119, R123, R124, R125: A reduction writes element 0 alone, by the fixed tree in FP32; a
scan writes each active lane with what the active lanes before it in its segment combine to, itself included in the
inclusive forms. Compress, expand, permute with its flag and its trap, rank, and draws from the seed register, of
which an inactive lane below VLE consumes one. vrand is held while a seed write is (R148). -/
def Obligations.VectorReductionsScansAndMoves : Prop :=
  (∀ (s : State) (c : CoreRef) (p : Nat) (f : VF) (op : Nat), s.VIssues c p f op →
     let k := s.core p
     let w := f.sew
     let n := min k.vec.vl (2048 / w)
     let active (i : Nat) : Bool := decide (i < n) && (!f.me || (k.mreg f.vm).getLsbD i)
     let a (i : Nat) : BitVec w := k.velem f.vs1 w i
     let x (i : Nat) : Nat := (k.velem f.vs1 32 i).toNat
     let lanes := (List.range 256).filter active
     let lo : BitVec w := BitVec.ofInt w (-(2 ^ (w - 1)))
     let hi : BitVec w := BitVec.ofInt w (2 ^ (w - 1) - 1)
     let max (y z : BitVec w) : BitVec w := if y.toInt < z.toInt then z else y
     let maxu (y z : BitVec w) : BitVec w := if y < z then z else y
     let min (y z : BitVec w) : BitVec w := if z.toInt < y.toInt then z else y
     let minu (y z : BitVec w) : BitVec w := if z < y then z else y
     let start (i : Nat) : Bool := decide (i = 0) || (k.mreg f.imm).getLsbD i
     let before (seg excl : Bool) (i : Nat) : List Nat := lanes.filter fun j =>
       (decide (j < i) || (!excl && decide (j = i))) && !(seg && (List.range 256).any fun b => start b && decide (j < b ∧ b ≤ i))
     let sum (l : List Nat) : Nat := match l.map x with
       | [] => 0
       | y :: ys => ys.foldl f32Add y
     (∀ e ∈ [(0x70, Instr.vredAdd c, fun y z => y + z, 0#w), (0x71, .vredMax c, max, lo), (0x72, .vredMaxu c, maxu, 0#w),
         (0x73, .vredMin c, min, hi), (0x74, .vredMinu c, minu, BitVec.allOnes w)],
       op = e.1 → ∃ t, exec e.2.1 s = .next t ∧
         s.VWrites t p f.vd w (fun i => if i = 0 then some ((lanes.map a).foldl e.2.2.1 e.2.2.2) else none) false false false) ∧
     (∀ e ∈ [(0x75, Instr.vfredAdd c, f32Add, 0x80000000, 0), (0x76, .vfredMax c, f32MaxNum, 0xFF800000, 0xFF800000),
         (0x77, .vfredMin c, f32MinNum, 0x7F800000, 0x7F800000)],
       op = e.1 →
         let r := if lanes = [] then e.2.2.2.2 else treeLane e.2.2.1 (fun i => if active i then x i else e.2.2.2.1) 6 0
         ∃ t, exec e.2.1 s = .next t ∧
           s.VWrites t p f.vd 32 (fun i => if i = 0 then some (BitVec.ofNat 32 r) else none) (f32NonFinite r) false false) ∧
     (∀ e ∈ [(0x80, Instr.vscanAdd c, fun y z => y + z, 0#w, false, false), (0x81, .vscanxAdd c, fun y z => y + z, 0#w, false, true),
         (0x82, .vscanMax c, max, lo, false, false), (0x83, .vscanMaxu c, maxu, 0#w, false, false),
         (0x86, .vsscanAdd c, fun y z => y + z, 0#w, true, false), (0x87, .vsscanxAdd c, fun y z => y + z, 0#w, true, true),
         (0x89, .vsscanMax c, max, lo, true, false)],
       op = e.1 → ∃ t, exec e.2.1 s = .next t ∧
         s.VWrites t p f.vd w (fun i => if active i then
           some (((before e.2.2.2.2.1 e.2.2.2.2.2 i).map a).foldl e.2.2.1 e.2.2.2.1) else none) false false false) ∧
     (∀ e ∈ [(0x84, Instr.vfscanAdd c, false, false), (0x85, .vfscanxAdd c, false, true), (0x88, .vfsscanAdd c, true, false)],
       op = e.1 → ∃ t, exec e.2.1 s = .next t ∧
         s.VWrites t p f.vd 32 (fun i => if active i then some (BitVec.ofNat 32 (sum (before e.2.2.1 e.2.2.2 i))) else none)
           ((List.range 64).any fun i => active i && f32NonFinite (sum (before e.2.2.1 e.2.2.2 i))) false false)) ∧
  (∀ (s : State) (c : CoreRef) (p : Nat) (f : VF) (op : Nat), s.VIssues c p f op →
     let k := s.core p
     let w := f.sew
     let n := min k.vec.vl (2048 / w)
     let active (i : Nat) : Bool := decide (i < n) && (!f.me || (k.mreg f.vm).getLsbD i)
     let a (i : Nat) : BitVec w := k.velem f.vs1 w i
     let idx (i : Nat) : Nat := (k.velem f.vs2 w i).toNat
     let chosen := (List.range n).filter fun i => (k.mreg f.vm).getLsbD i
     let out : Bool := (List.range n).any fun i => active i && decide (n ≤ idx i)
     let trap : Bool := (k.vec.prog.map (·.trap)).getD false
     (op = 0x90 → ∃ t, exec (.vcompress c) s = .next t ∧
       s.VWrites t p f.vd w (fun i => (chosen[i]?).map a) false false false) ∧
     (op = 0x91 → ∃ t, exec (.vexpand c) s = .next t ∧
       s.VWrites t p f.vd w (fun i => if i ∈ chosen then some (a (chosen.filter (· < i)).length) else none) false false false) ∧
     (op = 0x92 → (out && trap) = false → ∃ t, exec (.vperm c) s = .next t ∧
       s.VWrites t p f.vd w (fun i => if active i then some (if idx i < n then a (idx i) else 0) else none) false out false) ∧
     (op = 0x92 → (out && trap) = true → ∃ t, exec (.vperm c) s = .next t ∧ s.VEnds t c.sh p St.permuteOutOfRange true) ∧
     (op = 0x93 → ∃ t, exec (.vrank c) s = .next t ∧
       s.VWrites t p f.vd w (fun i => if active i then
         some (BitVec.ofNat w ((List.range i).filter fun j => active j && decide (a j = a i)).length) else none)
         false false false) ∧
     (op = 0x05 → k.scale.seedHeld = none → ∃ t, exec (.vrand c) s = .next t ∧
       s.VWrites t p f.vd 32 (fun i => if active i then
         some (BitVec.ofNat 32 (srDraw (Nat.repeat srNext (i + 1) (srStart k.scale.seed.toNat f.imm)))) else none)
         false false false) ∧
     (op = 0x05 → k.scale.seedHeld ≠ none → exec (.vrand c) s = .next s))

/-- R127, R128: The vector memory instructions move the elements of the active lanes at their addresses and no other
byte; lanes of one address add together or leave the highest; one bad address moves nothing and ends the program. -/
def Obligations.VectorMemory : Prop :=
  ∀ (s : State) (c : CoreRef) (p : Nat) (f : VF) (op : Nat), s.VIssues c p f op →
    let k := s.core p
    let w := f.sew
    let n := min k.vec.vl (2048 / w)
    let active (i : Nat) : Bool := decide (i < n) && (!f.me || (k.mreg f.vm).getLsbD i)
    let lanes := (List.range 256).filter active
    let indexed : Bool := decide (op = 0x12 ∨ op = 0x13 ∨ op = 0x14)
    let at_ (i : Nat) : Nat := f.imm + (if indexed then (k.velem f.vs2 w i).toNat else w / 8 * i)
    let fits : Bool := (indexed || decide (f.imm % (w / 8) = 0)) &&
      lanes.all fun i => decide (at_ i % (w / 8) = 0 ∧ at_ i + w / 8 ≤ 0x180000)
    let fits32 : Bool := decide (f.imm % 32 = 0 ∧ f.imm + 32 ≤ 0x180000)
    /- the byte of address x is byte b of lane i's element -/
    let hits (x i b : Nat) : Prop := b < w / 8 ∧ x = at_ i + b
    let passes (t : State) : Prop := OnlyCore s t p ∧ (t.core p).vec = { k.vec with prog := k.passed } ∧
      { t.core p with opbuf := k.opbuf, vec := k.vec } = k
    let byte (t : State) (x : Nat) : Byte := tabGet 0 (t.core p).opbuf x
    (∀ e ∈ [(0x10, Instr.vld c), (0x12, .vldx c)], op = e.1 → fits = true → ∃ t, exec e.2 s = .next t ∧
      s.VWrites t p f.vd w (fun i => if active i then some (BitVec.ofNat w (memNat k.opbuf (at_ i) (w / 8))) else none)
        false false false) ∧
    (∀ e ∈ [(0x11, Instr.vst c), (0x13, .vstx c)], op = e.1 → fits = true → ∃ t, exec e.2 s = .next t ∧ passes t ∧
      (∀ i ∈ lanes, (∀ j ∈ lanes, i < j → at_ j ≠ at_ i) → ∀ b x, hits x i b →
        byte t x = (k.velem f.vs1 w i >>> (8 * b)).setWidth 8) ∧
      (∀ x, (∀ i ∈ lanes, ∀ b, ¬ hits x i b) → byte t x = tabGet 0 k.opbuf x)) ∧
    (op = 0x14 → fits = true → ∃ t, exec (.vsxadd c) s = .next t ∧ passes t ∧
      (∀ i ∈ lanes, BitVec.ofNat 32 (memNat (t.core p).opbuf (at_ i) 4) =
        (lanes.filter fun j => at_ j = at_ i).foldl (fun y j => y + k.velem f.vs1 32 j)
          (BitVec.ofNat 32 (memNat k.opbuf (at_ i) 4))) ∧
      (∀ x, (∀ i ∈ lanes, ∀ b, ¬ hits x i b) → byte t x = tabGet 0 k.opbuf x)) ∧
    (op = 0x15 → fits32 = true → ∃ t, exec (.vmld c) s = .next t ∧
      s.MWrites t p f.vd fun i => some (bit (memNat k.opbuf (f.imm + i / 8) 1) (i % 8))) ∧
    (op = 0x16 → fits32 = true → ∃ t, exec (.vmst c) s = .next t ∧ passes t ∧
      ∀ x, byte t x = if f.imm ≤ x ∧ x < f.imm + 32 then (k.mreg f.vs1 >>> (8 * (x - f.imm))).setWidth 8
        else tabGet 0 k.opbuf x) ∧
    (∀ e ∈ [(0x10, Instr.vld c), (0x11, .vst c), (0x12, .vldx c), (0x13, .vstx c), (0x14, .vsxadd c)],
      op = e.1 → fits = false → ∃ t, exec e.2 s = .next t ∧ s.VEnds t c.sh p St.addressInvalid false) ∧
    (∀ e ∈ [(0x15, Instr.vmld c), (0x16, .vmst c)],
      op = e.1 → fits32 = false → ∃ t, exec e.2 s = .next t ∧ s.VEnds t c.sh p St.addressInvalid false)

/-- R98, R102, R103: A snapshot command copies the selected entries of its partition, with CLR in the same step, and
reads BUSY; refused while BUSY, for an empty tag range or an address outside the partition's HBM. Its completion
writes header and body and reads DONE. -/
def Obligations.Snapshots : Prop :=
  (∀ (s : State) (q : OdReq), s.OdAccepts q 0x802001 →
    let p := s.odPart q.ctx
    let v := leNat q.value
    let first := v % 4096
    let last := v / 4096 % 4096
    let body := s.snapBody p v
    let a := BitVec.ofNat 64 (s.odVal (0x802002 + 2 ^ 24 * p) 0)
    let answers (u : State) (st : Status) : Prop := exec (.snapshotCommand q) s = .next (u.odAnswer q.ctx q.msn st [])
    let cleared (sel : Bool) (per tag f : Nat) : Bool := bit v 27 && sel && decide (first ≤ tag ∧ tag ≤ last ∧ f < per)
    ((s.snapshot p).st = .busy → answers s St.odBusy) ∧
    let refuses (st : Status) : Prop := ∃ u, answers u st ∧
      u.snapshot p = { s.snapshot p with st := .failed } ∧ (∀ r, r ≠ p → u.snapshot r = s.snapshot r) ∧
      (let t := { u.stats with snap := s.stats.snap }
      { u with stats := t } = s)
    ((s.snapshot p).st ≠ .busy → last < first → refuses St.odValueInvalid) ∧
    ((s.snapshot p).st ≠ .busy → first ≤ last → s.localHbm a (64 + body.length) = none → refuses St.addressInvalid) ∧
    ((s.snapshot p).st ≠ .busy → first ≤ last → ∀ o, s.localHbm a (64 + body.length) = some o →
      (s.sysBase < o + 64 + body.length ∨ s.offsetPart o ≠ some p → refuses St.addressInvalid) ∧
      (∀ st, o + 64 + body.length ≤ s.sysBase → s.offsetPart o = some p →
        s.regionCheck (Init.firmware p) o (64 + body.length) true = some st →
        refuses (if st = St.accessDenied then St.addressInvalid else st))) ∧
    ((s.snapshot p).st ≠ .busy → first ≤ last → ∀ o, s.localHbm a (64 + body.length) = some o →
      o + 64 + body.length ≤ s.sysBase → s.offsetPart o = some p →
      s.regionCheck (Init.firmware p) o (64 + body.length) true = none →
      ∃ u, answers u St.ok ∧
        u.snapshot p = ⟨.busy, BitVec.ofNat 32 v, a, s.tsc, (s.ctx q.ctx).secure, body⟩ ∧
        (∀ r, r ≠ p → u.snapshot r = s.snapshot r) ∧
        (∀ r tag, tag < 4096 → tabGet {} u.stats.drainMon (4096 * r + tag) =
          if r = p ∧ cleared (bit v 24) 1 tag 0 = true then {} else tabGet {} s.stats.drainMon (4096 * r + tag)) ∧
        (∀ r tag, tag < 4096 → tabGet {} u.stats.emitMon (4096 * r + tag) =
          if r = p ∧ cleared (bit v 25) 1 tag 0 = true then {} else tabGet {} s.stats.emitMon (4096 * r + tag)) ∧
        (∀ r tag f, tag < 4096 → f < 16 → tabGet {} u.stats.skim (16 * (4096 * r + tag) + f) =
          if r = p ∧ cleared (bit v 26) 16 tag f = true then {} else tabGet {} s.stats.skim (16 * (4096 * r + tag) + f)) ∧
        { u with stats := s.stats } = s)) ∧
  (∀ (s : State) (p : Fin 4) (o : Nat), (s.snapshot p).st = .busy →
    let q := s.snapshot p
    let bs := natLE (coarseTime q.secure q.started) 8 ++ natLE (coarseTime q.secure s.tsc) 8 ++ natLE q.cmd.toNat 8 ++
      natLE 0 40 ++ q.body
    s.MayWrite (Init.firmware p) q.addr bs.length o →
    ∃ t, exec (.snapshotDone p) s = .next t ∧ t.snapshot p = { q with st := .done, body := [] } ∧
      (∀ r, r ≠ p.val → t.snapshot r = s.snapshot r) ∧
      (let u := { t.stats with snap := s.stats.snap }
      s.HbmWrites { t with stats := u } o bs))

/-- R158, R160, R161, R162, R163, R164, R166, R167, R168: CREATE, LOAD, PIN, UNPIN and REVOKE change the state of
their entry alone, and the work that carries the command ends with OK. A command that waits, builds or loads on a
revoked entry ends ADAPTER_REVOKED, and so does a work that waits on its load. PARK, TRAIN_END and FREE wait for their
entry's references, TRAIN_END only where an image is published: with TMO 0 they end ADAPTER_BUSY, otherwise they wait,
until the count reaches 0 or TMO expires. Then PARK frees the image, FREE the entry, whose next generation it leaves,
and TRAIN_END begins its build. A command whose block is not valid, as a PARK with a digest record in part is not,
ends ADAPTER_CMD_INVALID. -/
def Obligations.DirectoryCommands : Prop :=
  (∀ (s : State) (c : DirCmd) (op : Nat) (s1 : State), s.Directs c op s1 →
     let d := dcDidx c
     let e := s1.entry d
     let n := c.block.toNat
     let tenant : BitVec 24 := BitVec.ofNat 24 (dcTenant c)
     let fresh : DirEntry := { st := if dcSrc c = 0 then .training else .parked, owner := (s.carried c).part.val, tenant := tenant,
                               gen := e.gen, lmask := BitVec.ofNat 64 (n / 2 ^ 64), ranks := BitVec.ofNat 24 (n / 2 ^ 168),
                               acode := bits n 167 164, bcode := bits n 163 160, src := BitVec.ofNat 64 (n / 2 ^ 192),
                               len := BitVec.ofNat 64 (n / 2 ^ 256), digest := BitVec.ofNat 256 (n / 2 ^ 320) }
     let ends (i : Instr) (e' : DirEntry) : Prop := ∃ u : State, exec i s = .next (u.endCmd (s.carried c) St.ok) ∧
       s1.EntryBecomes u c d e' ∧ { u.dir with entries := s1.dir.entries } = s1.dir
     (op = 1 → ends (.create c) fresh) ∧
     (op = 2 → ∃ u : State, exec (.load c) s = .next u ∧ s1.EntryBecomes u c d { e with st := .loading } ∧
       (let r := s1.dir
       { u.dir with entries := r.entries } = { r with loads := r.loads ++ [⟨d, some (s.carried c)⟩] })) ∧
     (op = 4 → s1.pinned d < (if s.mode.cur.four then 2048 else 8192) → ends (.pin c) { e with st := .pinned }) ∧
     (op = 4 → (if s.mode.cur.four then 2048 else 8192) ≤ s1.pinned d → ∃ u : State,
       exec (.pin c) s = .next (u.endCmd (s.carried c) St.adapterPinLimit) ∧ s1.EntryBecomes u c d e ∧
       { u.dir with entries := s1.dir.entries } = s1.dir) ∧
     (op = 5 → ends (.unpin c) { e with st := .resident }) ∧
     (op = 8 → ∃ u : State, s1.EntryBecomes u (s.carried c) d { e with st := .revoked, wait := false } ∧
       (let r := s1.dir
       { u.dir with entries := r.entries } = { r with
         waits := r.waits.filter (fun w => w.didx ≠ d), builds := r.builds.filter (fun w => w.didx ≠ d)
         loads := r.loads.filter fun l => l.didx ≠ d }) ∧
       (let waiters := if e.st = .loading then (s1.noteGen (s.carried c) d).loadWaiters d else []
       let cmds := ((s1.dir.waits ++ s1.dir.builds).filter (fun w => w.didx = d)).map (fun w => w.cmd) ++
         (s1.dir.loads.filter fun l => l.didx = d).filterMap fun l => l.cmd
       let failed := waiters.foldl (fun x i => x.workFail i St.adapterRevoked) u
       exec (.revoke c) s = .next
         ((cmds.foldl (fun x b => x.doneCmd b d St.adapterRevoked) failed).doneCmd (s.carried c) d St.ok)))) ∧
  ((∀ (s : State) (c : DirCmd) (op : Nat) (s1 : State), s.Directs c op s1 →
     let d := dcDidx c
     let c' := s.carried c
     let e := s1.entry d
     (∀ i ∈ [(3, Instr.park c), (7, .trainEnd c), (10, .free c)], op = i.1 → s1.waitOver c d = false →
       (dcTmo c = 0 → ∃ u : State, exec i.2 s = .next (u.endCmd c' St.adapterBusy) ∧ s1.EntryBecomes u c d e ∧
         { u.dir with entries := s1.dir.entries } = s1.dir) ∧
       (dcTmo c ≠ 0 → ∃ u : State, exec i.2 s = .next u ∧ s1.EntryBecomes u c d { e with wait := true } ∧
         (let r := s1.dir
         { u.dir with entries := r.entries } = { r with waits := r.waits ++ [⟨d, c'⟩] }))) ∧
     (s1.waitOver c d = true ↔ e.refcnt = 0 ∨ (op = 7 ∧ e.pub = false)) ∧
     (op = 3 → e.refcnt = 0 → ∃ u : State, exec (.park c) s = .next (u.endCmd c' St.ok) ∧ s1.Parks u c d) ∧
     (op = 7 → e.refcnt = 0 ∨ e.pub = false → ∃ u : State, exec (.trainEnd c) s = .next u ∧ s1.Builds u c d c') ∧
     (op = 10 → e.refcnt = 0 → ∃ u : State, exec (.free c) s = .next (u.endCmd c' St.ok) ∧ s1.Frees u c d)) ∧
   (∀ (s : State) (d : Nat) (w : DirWait), s.dir.waits.find? (fun x => x.didx = d) = some w →
     let woken (v : State) : Prop := s.EntryBecomes v { w.cmd with slot := none } d { s.entry d with wait := false } ∧
       (let r := s.dir
       { v.dir with entries := r.entries } = { r with waits := r.waits.filter fun x => x.didx ≠ d })
     (∃ v u : State, woken v ∧ exec (.commandTmoExpiry d) s = .next (u.endCmd w.cmd St.adapterBusy) ∧
       v.EntryBecomes u w.cmd d (v.entry d) ∧ u.dir.waits = v.dir.waits) ∧
     (s.waitOver w.cmd d = false → exec (.refcntZero d) s = .next s) ∧
     (s.waitOver w.cmd d = true → dcOp w.cmd = 3 → ∃ v u : State, woken v ∧
       exec (.refcntZero d) s = .next (u.endCmd w.cmd St.ok) ∧ v.Parks u w.cmd d) ∧
     (s.waitOver w.cmd d = true → dcOp w.cmd = 7 → ∃ v u : State, woken v ∧
       exec (.refcntZero d) s = .next u ∧ v.Builds u { w.cmd with slot := none } d w.cmd) ∧
     (s.waitOver w.cmd d = true → dcOp w.cmd = 10 → ∃ v u : State, woken v ∧
       exec (.refcntZero d) s = .next (u.endCmd w.cmd St.ok) ∧ v.Frees u w.cmd d)) ∧
   (∀ (s s1 : State) (c : DirCmd), s.started c = some s1 →
     ∀ i ∈ [(1, Instr.create c), (2, .load c), (3, .park c), (4, .pin c), (5, .unpin c), (6, .trainBegin c), (7, .trainEnd c),
       (8, .revoke c), (9, .revokeTenant c), (10, .free c)], dcOp c = i.1 →
       (dirBlockOk c.block = false → exec i.2 s = .next (s1.endCmd (s.carried c) St.adapterCmdInvalid)) ∧
       (i.1 = 3 → ¬ ((dcSrc c = 0 ↔ dcLen c = 0) ∧ (dcLen c = 0 ↔ dcDigest c = 0)) → dirBlockOk c.block = false) ∧
       (dirBlockOk c.block = true → i.1 ≠ 9 → s.didxOk (s.carried c).part (dcDidx c) = false →
         exec i.2 s = .next (s1.endCmd (s.carried c) St.adapterIndexInvalid))))

/-- R162, R183, R184, R228: TRAIN_BEGIN locks every base region of the partition's list and moves the entry to
TRAINING, or does neither. The build of a TRAIN_END publishes the image of the last committed epoch, or fails with the
entry as it was. -/
def Obligations.DirectoryTraining : Prop :=
  (∀ (s : State) (c : DirCmd) (s1 : State), s.Directs c 6 s1 →
    let d := dcDidx c
    let c' := s.carried c
    let e := s1.entry d
    let p := s1.didxPart d
    let base := s1.baseList p
    let lockable : Prop := base ≠ [] ∧ ∀ i ∈ base, 16 ≤ i ∧ (tabGet {} s1.regions i).v = true ∧ (tabGet {} s1.regions i).owner = p
    (lockable → ∃ u : State, exec (.trainBegin c) s = .next (u.endCmd c' St.ok) ∧
      s1.EntryBecomes { u with regions := s1.regions } c d { e with st := .training } ∧
      { u.dir with entries := s1.dir.entries } = s1.dir ∧
      ∀ i, tabGet {} u.regions i = if i ∈ base then { tabGet {} s1.regions i with baseRo := true } else tabGet {} s1.regions i) ∧
    (¬ lockable → ∃ u : State, exec (.trainBegin c) s = .next (u.endCmd c' St.adapterBaseUnlocked) ∧
      s1.EntryBecomes u c d e ∧ { u.dir with entries := s1.dir.entries } = s1.dir)) ∧
  (∀ (s : State) (d : Nat) (b : DirWait) (fetched : Answer), s.dir.builds.find? (fun x => x.didx = d) = some b →
    let c := b.cmd
    let e := { s.entry d with wait := false }
    let p := s.didxPart d
    let s1 := s.dropBuild d
    let fails (st : Status) : Prop := ∃ u : State, exec (.loadComplete d fetched) s = .next (u.endCmd c st) ∧
      u.entry d = e ∧ (∀ j, j ≠ d → u.entry j = s.entry j) ∧ u.hbm = s.hbm ∧ u.dir.alloc = s.dir.alloc ∧
      ∀ x, x ∈ u.dir.builds ↔ x ∈ s.dir.builds ∧ x.didx ≠ d
    (e.area = none → fails St.shardHeaderInvalid) ∧
    ∀ a, e.area = some a → s1.training d = true ∨ (s1.recState a ≠ 1 ∧ s1.recState a ≠ 2 ∧ s1.recSound a = true) →
      let ep := s1.committedEpoch a
      (∀ st, s1.serveAll p e ep (s1.shardTable a) = .error st → fails st) ∧
      ∀ parts, s1.serveAll p e ep (s1.shardTable a) = .ok parts →
        let s2 := parts.foldl (fun s x => s.postStat false p 0xFFF (codeSkim x.2.1) x.2.2.stat) s1
        let copy := parts.flatMap fun x => x.1
        (∀ st, s2.trainEndBuild p d copy = .error st → fails st) ∧
        ∀ o q img cl fl, s2.trainEndBuild p d copy = .ok (o, q, img, cl, fl) → s.FirmwareMay p o copy.length →
          s.FirmwareMay p q img.length →
          ∃ u : State, exec (.loadComplete d fetched) s = .next (u.endCmd c St.ok) ∧
            u.entry d = { e with
              st := .resident, pub := true, epoch := BitVec.ofNat 32 ep, loc := q / 4096
              digest := BitVec.ofNat 256 (leNat (sha256 copy)), src := s.hbmAddr p o, len := BitVec.ofNat 64 copy.length } ∧
            (∀ j, j ≠ d → u.entry j = s.entry j) ∧ s.CopyAndImage u o copy q img ∧
            (∀ x, x ∈ u.dir.builds ↔ x ∈ s.dir.builds ∧ x.didx ≠ d) ∧
            (∀ x, x ∈ u.dir.alloc ↔ (x ∈ s.dir.alloc ∧ x.2.2 ≠ d) ∨ x = (o, copy.length, d) ∨ x = (q, img.length, d)) ∧
            (∀ i, { u.wk i with value := (s.wk i).value } = s.wk i) ∧
            (let w := { u.work with slots := s.work.slots }
            { u with dir := s.dir, hbm := s.hbm, ecc := s.ecc, stats := s.stats, work := w } = s))

/-- R163, R164, R167, R159, R321: A load finishes: the serving copy and the image stand in the pool and the entry is
RESIDENT; or the entry is PARKED again. The command that started it ends with the load's status; works that waited on
it wait no more, or end with that status. REVOKE_TENANT revokes every entry of the tenant in the partition's range and
no other, and the work that carries it ends with OK. The oldest command, reference or fill that waits for a cache line
in a partition goes on once its entry can have one, and not before; where the walker meets an uncorrectable granule in
its entry, it ends MEMORY_UNCORRECTABLE. A line is taken only from an entry that is neither referenced nor PINNED. -/
def Obligations.LoadsRevocationsAndCacheLines : Prop :=
  (∀ (s : State) (d : Nat) (fetched : Answer) (cmd : Option DirCmd), (s.entry d).st = .loading →
     s.dir.builds.find? (fun x => x.didx = d) = none → s.dir.loads.filter (fun l => l.didx = d) = [⟨d, cmd⟩] →
     let e := s.entry d
     let p := s.didxPart d
     let answers (u : State) (st : Status) : Prop := exec (.loadComplete d fetched) s = .next (match cmd with
       | some c => u.doneCmd c d st
       | none => u)
     let unloads (u : State) : Prop := (∀ l, l ∈ u.dir.loads ↔ l ∈ s.dir.loads ∧ l.didx ≠ d) ∧ (∀ j, j ≠ d → u.entry j = s.entry j)
     (∀ copy o img q cl fl, s.loadBuild p e fetched = .ok (copy, o, img, q, cl, fl) → s.FirmwareMay p o copy.length →
       s.FirmwareMay p q img.length → ∃ u : State, answers u St.ok ∧ unloads u ∧
       u.entry d = { e with st := .resident, pub := true, loc := q / 4096 } ∧
       (∀ x, x ∈ u.dir.alloc ↔ x ∈ s.dir.alloc ∨ x = (q, img.length, d)) ∧ s.CopyAndImage u o copy q img ∧
       (∀ i, u.wk i = if i ∈ s.loadWaiters d then { s.wk i with waitLoad := false } else s.wk i) ∧
       { u.work with slots := s.work.slots } = s.work ∧
       { u with dir := s.dir, hbm := s.hbm, ecc := s.ecc, work := s.work, stats := s.stats } = s) ∧
     (∀ st, s.loadBuild p e fetched = .error st → ∃ u : State,
       answers ((s.loadWaiters d).foldl (fun x i => x.workFail i st) u) st ∧ unloads u ∧ u.entry d = { e with st := .parked } ∧
       u.dir.alloc = s.dir.alloc ∧ { u with dir := s.dir, ecc := s.ecc, out := s.out } = s ∧
       (st ≠ St.memoryUncorrectable → st ≠ St.adapterFetchFailed → u.out = s.out ∧ u.ecc.bad = s.ecc.bad))) ∧
  (∀ (s : State) (c : DirCmd) (s1 : State), dcOp c = 9 → dirBlockOk c.block = true → s.started c = some s1 →
     let p := (s.carried c).part
     let hit (j : Nat) : Prop := ∃ x ∈ s1.dir.entries, x.1 = j ∧ x.2.st.revocable = true ∧ x.2.tenant.toNat = dcTenant c ∧
       s1.inRange p j = true
     (∀ w ∈ s1.dir.waits ++ s1.dir.builds, ¬ hit w.didx) → (∀ l ∈ s1.dir.loads, ¬ hit l.didx) →
     (∀ j, hit j → (s1.entry j).st = .loading → s1.loadWaiters j = []) →
     ∃ u : State, exec (.revokeTenant c) s = .next (u.endCmd (s.carried c) St.ok) ∧
       (∀ j, hit j → u.entry j = { s1.entry j with st := .revoked, wait := false }) ∧ (∀ j, ¬ hit j → u.entry j = s1.entry j) ∧
       (let r := { u.dir with entries := s1.dir.entries }
       { u with dir := r } = s1)) ∧
  ((∀ (s : State) (part : Fin 4) (w : LineWait),
     s.dir.lineWaits.find? (fun x => s.lineWaitPart x = part.val) = some w →
     let held (k i : Nat) : Option (BitVec 256) := ((s.lcore (k / 8) (k % 8)).slotA i).held
     let d : Nat := match w with
       | .ref i => daDidx (s.wk i).da
       | .cmd c => dcDidx c
       | .fill k i => ((held k i).map fdDidx).getD 0
     let rest : List LineWait := s.dir.lineWaits.erase w
     let run := exec (.cacheLineAvailable part) s
     let gone : State := { s with dir := { s.dir with lineWaits := rest } }
     (∀ k i, w = .fill k i → held k i = none → run = .next gone) ∧
     ((∀ k i, w = .fill k i → held k i ≠ none) → s.walkFails d = false → s.takeLine d = none → run = .next s) ∧
     (s.walkFails d = true → ∃ u : State, { u with ecc := s.ecc, out := s.out } = gone ∧ u.ecc.losses.length = s.ecc.losses.length + 1 ∧
       (∀ i, w = .ref i → run = .next (u.workFail i St.memoryUncorrectable)) ∧
       (∀ c, w = .cmd c → run = .next (u.endCmd c St.memoryUncorrectable))) ∧
     (∀ s', s.walkFails d = false → s.takeLine d = some s' →
       (∀ i, w = .ref i → (s'.entry d).gen.toNat = daGen (s'.wk i).da → (s'.entry d).published = true →
         ∃ u, run = .next u ∧ u.dir.lineWaits = rest ∧
           u.entry d = { s'.entry d with refcnt := (s'.entry d).refcnt + 1 } ∧ u.wk i = { s'.wk i with ref := some d } ∧
           (∀ j, j ≠ d → u.entry j = s'.entry j) ∧ (∀ j, j ≠ i → u.wk j = s'.wk j) ∧
           (let v := { u.work with slots := s.work.slots, batches := s.work.batches }
           { u with dir := s'.dir, work := v } = s')) ∧
       (∀ c, w = .cmd c → dcOp c = 5 → (s'.entry d).st = .pinned → (s'.entry d).gen.toNat = dcGen c →
         (s'.entry d).wait = false → (s'.entry d).area = none →
         ∃ u : State, run = .next (u.endCmd c St.ok) ∧ u.dir.lineWaits = rest ∧
           s'.EntryBecomes u c d { s'.entry d with st := .resident }) ∧
       (∀ k i q f, w = .fill k i → s.phys (k / 8) (k % 8) = some q → ((s.core q).slotA i).held = some f →
         ∃ u, run = .next u ∧ u.dir.lineWaits = rest ∧ ((u.core q).slotA i).st = .filling ∧
           ((u.core q).slotA i).held = none ∧ ((u.core q).slotA i).desc = f ∧ (∀ j, j ≠ q → u.core j = s.core j)))) ∧
   (∀ (s s' : State) (i : Nat), s.takeLine i = some s' → s.dir.lines.find? (fun l => l.didx = i) = none →
     (∃ n, s'.dir.lines.head? = some ⟨n, i, s.dir.clock⟩ ∧ (s.linesFor i).1 ≤ n ∧ n < (s.linesFor i).1 + (s.linesFor i).2) ∧
     (∀ l ∈ s.dir.lines, l ∉ s'.dir.lines →
       ∃ v ∈ s.dir.lines, v.num = l.num ∧ (s.entry v.didx).refcnt = 0 ∧ (s.entry v.didx).st ≠ .pinned)))

/-- R159, R171, R172, R173: A held fill starts once no issued run that names the slot is incomplete and its entry is
in a line: FILLING, with the outcome of the checks of R171; its copy ends READY with header, exponents, B codes and
chunk CH0, or FAULT; then the fill engine brings the next chunk into the free A buffer, or the slot is in FAULT. -/
def Obligations.FillsRun : Prop :=
  ∀ (s : State) (c : CoreRef) (k : Fin 8) (p : Nat), s.phys c.sh c.c = some p →
    let a := (s.core p).slotA k
    let part := s.partOf c.sh
    let slotOnly (x t : State) (b : AdptSlot) : Prop := OnlyCore x t p ∧ (t.core p).slotA k = b ∧
      (∀ i, i ≠ k.val → (t.core p).slotA i = (s.core p).slotA i) ∧ { t.core p with aslot := (s.core p).aslot } = s.core p
    let byte (b : AdptSlot) (x : Nat) : Byte := tabGet 0 b.bytes x
    let r := rankOf a.rank
    let dIn := leNat (s.hbmRead a.record 4)
    let dOut := leNat (s.hbmRead (a.record + 4) 4)
    /- places of the exponents and B codes of the output block in the record (R155), and of a chunk -/
    let eb := a.record + 16 + (dIn + 127) / 128 * 128 * r + 64 * fdOblk a.desc
    let bc := a.record + 16 + (dIn + 127) / 128 * 128 * r + (dOut + 63) / 64 * 64 + 64 * fdOblk a.desc * r
    let rows := a.rows
    let chunkAt (n : Nat) : Nat := a.record + 16 + n * rows * r
    let get := s.hbmGet (Init.job part false)
    let reads := [(eb, 64), (bc, 64 * r), (chunkAt a.ch0, rows * r)]
    let header (b : AdptSlot) : Prop := (∀ i, i < 16 → byte b i = (a.desc >>> (8 * i)).setWidth 8) ∧
      (byte b 16).toNat = a.rank % 256 ∧ (byte b 17).toNat = a.acode % 256 ∧ (byte b 18).toNat = a.bcode % 256 ∧
      (byte b 20).toNat + 256 * (byte b 21).toNat = a.nch % 65536
    /- the slot takes descriptor d, and the fill will end with fault f unless its copy meets one -/
    let fills (x : State) (d : BitVec 256) (f : Status) : Prop := ∃ t b, exec (.fillStart c k) s = .next t ∧ slotOnly x t b ∧
      b.st = .filling ∧ b.held = none ∧ b.desc = d ∧ b.gth = fdGth d ∧ b.didx = fdDidx d ∧ b.gen.toNat = fdGen d ∧
      b.cursor = (d.toNat / 2 ^ 80) % 2 ^ 16 ∧ b.bound = false ∧ b.fault = f ∧ b.bytes = a.bytes ∧
      (∀ m, fdGth d = false → f = 0 → x.fillCheck part (fdDidx d) (fdGen d) d b.cursor b.rows = .ok m →
        b.rank = m.rank ∧ b.acode = m.acode ∧ b.bcode = m.bcode ∧ b.record = m.off ∧ b.nch = (m.dIn + b.rows - 1) / b.rows)
    (a.held = none → exec (.fillStart c k) s = .next s) ∧
    (∀ d, a.held = some d → 0 < (s.core p).runsNaming k → exec (.fillStart c k) s = .next s) ∧
    (∀ d, a.held = some d → (s.core p).runsNaming k = 0 →
      let check (x : State) := x.fillCheck part (fdDidx d) (fdGen d) d ((d.toNat / 2 ^ 80) % 2 ^ 16) (if bit (fdW1 d) 7 then 128 else 64)
      let recReads (x : State) := x.recReads (x.fillImage d (fdDidx d)) (fdLayer d) (fdGroup d)
      (fdGth d = true → fills s d 0) ∧
      (fdGth d = false → s.didxOk part (fdDidx d) = false → fills s d St.adapterIndexInvalid) ∧
      (fdGth d = false → s.didxOk part (fdDidx d) = true → s.walkFails (fdDidx d) = true →
        ∃ x : State, { x with ecc := s.ecc, out := s.out } = s ∧ fills x d St.memoryUncorrectable) ∧
      (fdGth d = false → s.didxOk part (fdDidx d) = true → s.walkFails (fdDidx d) = false →
        (s.takeLine (fdDidx d) = none → exec (.fillStart c k) s = .next
          (let w : LineWait := .fill (8 * c.sh.val + c.c.val) k
          let l := s.dir.lineWaits
          { s with dir := { s.dir with lineWaits := if l.contains w then l else l ++ [w] } })) ∧
        ∀ x, s.takeLine (fdDidx d) = some x →
          (∀ m, check x = .ok m → fills (x.noteCorrected (recReads x)) d 0) ∧
          (∀ st, check x = .error st → fills (if st = St.memoryUncorrectable then x.noteReads (recReads x) else x) d st))) ∧
    (a.st ≠ .filling → ∃ t, exec (.fillCopyDone c k) s = .next t ∧ slotOnly s t a) ∧
    (a.st = .filling → a.fault ≠ 0 → ∃ t, exec (.fillCopyDone c k) s = .next t ∧ slotOnly s t { a with st := .fault }) ∧
    (a.st = .filling → a.fault = 0 → a.gth = true → ∃ t b, exec (.fillCopyDone c k) s = .next t ∧ slotOnly s t b ∧
      { b with bytes := a.bytes } = { a with st := .ready } ∧ header b ∧ ∀ i, 22 ≤ i → byte b i = 0) ∧
    (a.st = .filling → a.fault = 0 → a.gth = false →
      (∀ ebs bcs ck, get eb 64 = .ok ebs → get bc (64 * r) = .ok bcs → get (chunkAt a.ch0) (rows * r) = .ok ck → r ≤ 64 →
        rows * r ≤ 0x2000 → ∃ t b, exec (.fillCopyDone c k) s = .next t ∧ slotOnly (s.noteCorrected reads) t b ∧
        { b with bytes := a.bytes, buf0 := a.buf0, buf1 := a.buf1 } = { a with st := .ready } ∧ b.buf0 = some a.ch0 ∧ header b ∧
        (∀ i, i < 64 → byte b (0x40 + i) = ebs.getD i 0) ∧ (∀ i, i < 64 * r → byte b (0x80 + i) = bcs.getD i 0) ∧
        (∀ i, i < rows * r → byte b (0x1080 + i) = ck.getD i 0) ∧ (∀ i, 0x5080 ≤ i → byte b i = 0)) ∧
      (∀ st, (get eb 64 = .error st ∨ ((∃ l, get eb 64 = .ok l) ∧ (get bc (64 * r) = .error st ∨
          ((∃ l, get bc (64 * r) = .ok l) ∧ get (chunkAt a.ch0) (rows * r) = .error st)))) →
        ∃ t, exec (.fillCopyDone c k) s = .next t ∧
          slotOnly (s.noteFail st reads) t { a with st := .fault, fault := st })) ∧
    ((s.core p).nextChunk k = none → exec (.chunkFetchDone c k) s = .next s) ∧
    (∀ n, (s.core p).nextChunk k = some n →
      (∀ ck, get (chunkAt n) (rows * r) = .ok ck → rows * r ≤ 0x2000 →
        ∃ t b, exec (.chunkFetchDone c k) s = .next t ∧ slotOnly (s.noteCorrected [(chunkAt n, rows * r)]) t b ∧ b.holds n = true ∧
          { b with bytes := a.bytes, buf0 := a.buf0, buf1 := a.buf1 } = a ∧
          (∀ i, i < rows * r → byte b (a.bufOf n + i) = ck.getD i 0) ∧
          (∀ x, x < a.bufOf n ∨ a.bufOf n + 0x2000 ≤ x → byte b x = byte a x)) ∧
      (∀ st, get (chunkAt n) (rows * r) = .error st → ∃ t, exec (.chunkFetchDone c k) s = .next t ∧
        slotOnly (s.noteFail st [(chunkAt n, rows * r)]) t { a with st := .fault, fault := st }))

/-- R231, R233, R237, R238, R242, R246, R165, R175, R239: A sweep of the scanner runs while the device serves, and its
start slot advances. What it does with a slot that holds bytes: it accepts a FREE one whose VALID is the expected
generation; a wrong generation or an undeliverable record only empties VALID; an ABORT word of a live work's
generation ends the work. At the end of the batch window the gathered requests of each partition, at most 4,096 of
them, are one batch in the order of their acceptance, or each is one where OD 2070.02 is 0. They are handed to
shelves, one without an adaptation as it is, one that names an adaptation in use with a reference on it, which its
sort record names by its cache line. -/
def Obligations.WorkIsAccepted : Prop :=
  ((∀ s : State, (s.serving = false → exec .scannerSweep s = .next s) ∧
     (s.serving = true → s.placedSlots = [] → ∃ t, exec .scannerSweep s = .next t ∧
       t.work.sweepFrom = (s.work.sweepFrom + 1) % 16384 ∧
       (let w := { t.work with sweepFrom := s.work.sweepFrom }
       { t with work := w } = s))) ∧
   ∀ (s : State) (i : Nat), s.serving = true → s.placedSlots = [i] →
     let w := s.wk i
     let d := BitVec.ofNat 2048 (leNat (s.hbmRead (s.slotOff i) 256))
     let valid := s.hbmNat (s.slotOff i + 0xF8) 8 % 2 ^ 32
     let abort := s.hbmNat (s.slotOff i + 0xF0) 8 % 2 ^ 32
     let n : Work := { gen := w.gen, desc := d, tacc := s.tsc, seq := s.work.accepted }
     let due : Prop := w.st = .free ∧ valid ≠ 0 ∧ s.mode.st = .stable ∧ s.sec.resetting.contains (s.slotPart i) = false
     let deliverable := s.deliverable (s.slotPart i) n.ctx (n.at 0x18 63 0) (n.at 0x20 63 0)
     let sweeps (t : State) : Prop := exec .scannerSweep s = .next t ∧ t.work.sweepFrom = (s.work.sweepFrom + 1) % 16384 ∧
       ∀ j, j ≠ i → t.wk j = s.wk j
     /- VALID reads 0 where the slot's granule can be written -/
     let emptied (t : State) : Prop := s.FirmwareMay (s.slotPart i) (s.slotOff i + 0xF8) 8 →
       ∀ x, x < 8 → tabGet 0 t.hbm (s.slotOff i + 0xF8 + x) = 0
     (due → valid = w.gen.toNat → deliverable = true → s.acceptCheck i n = none → n.group = 0 → ∃ t, sweeps t ∧
       t.wk i = { n with st := .held, gathering := n.kind == 1 } ∧ t.work.accepted = s.work.accepted + 1 ∧
       { t with work := s.work } = s) ∧
     (due → valid = w.gen.toNat → deliverable = true → ∀ st, s.acceptCheck i n = some st → ∃ t, sweeps t ∧
       (t.wk i).st = .ending ∧ (t.wk i).status = st ∧ (t.wk i).gen = w.gen ∧ (t.wk i).desc = d ∧ t.hbm = s.hbm) ∧
     (due → valid = w.gen.toNat → deliverable = false → ∃ t, sweeps t ∧ t.wk i = { gen := nextGen w.gen } ∧ emptied t ∧
       t.work.undeliverable = s.work.undeliverable + 1) ∧
     (due → valid ≠ w.gen.toNat → ∃ t, sweeps t ∧ t.wk i = w ∧ emptied t ∧
       (deliverable = false → t.work.undeliverable = s.work.undeliverable + 1) ∧
       (deliverable = true → ∃ r, .record i n.ctx (BitVec.ofNat 64 (n.at 0x18 63 0)) (BitVec.ofNat 64 (n.at 0x20 63 0)) r ∈ t.out ∧
         r.toNat % 65536 = 0x0102 ∧ r.toNat / 2 ^ 32 % 2 ^ 32 = valid ∧ r.toNat / 2 ^ 256 % 2 ^ 64 = w.gen.toNat)) ∧
     (w.live = true → abort = w.gen.toNat → w.group = 0 → s.lastPrepared i = false → ∃ t, exec .scannerSweep s = .next t ∧
       t.work.sweepFrom = (s.work.sweepFrom + 1) % 16384 ∧ (∀ j, j ≠ i → { t.wk j with flags := (s.wk j).flags } = s.wk j) ∧
       (t.wk i).st = .ending ∧ (t.wk i).status = St.aborted) ∧
     (¬ due → (w.live = false ∨ abort ≠ w.gen.toNat) → ∃ t, sweeps t ∧ t.wk i = w ∧ { t with work := s.work } = s)) ∧
  (∀ (s : State),
     let l := (s.work.slots.filter fun e => e.2.st = .held && e.2.gathering).map (·.1)
     let handed (w : Work) : Work := { w with gathering := false, handed := true }
     (l.length ≤ 4096 → (∀ i ∈ l, s.slotPart i < 4) → (∀ i ∈ l, daAv (s.wk i).da = false) →
       ∃ t, exec .batchWindowExpiry s = .next t ∧
       (∀ i ∈ l, t.wk i = handed (s.wk i)) ∧ (∀ i, i ∉ l → t.wk i = s.wk i) ∧
       (s.odVal 0x207002 20 = 0 → ∀ i ∈ l, { part := s.slotPart i, reqs := [i] } ∈ t.work.batches) ∧
       (s.odVal 0x207002 20 ≠ 0 → ∀ p, p < 4 → (∃ i ∈ l, s.slotPart i = p) →
         ∃ b ∈ t.work.batches, b.part = p ∧ (∀ i, i ∈ b.reqs ↔ i ∈ l ∧ s.slotPart i = p) ∧
           b.reqs.Pairwise fun i j => (s.wk i).seq ≤ (s.wk j).seq) ∧
       { t.work with slots := s.work.slots, batches := s.work.batches } = s.work ∧ { t with work := s.work } = s) ∧
     (∀ i, l = [i] → s.slotPart i < 4 → let d := daDidx (s.wk i).da
       let x := (s.addBatches [{ part := s.slotPart i, reqs := [i] }]).modWork i handed
       let fails (u : State) (st : Status) : Prop := exec .batchWindowExpiry s = .next (u.workFail i st)
       daAv (s.wk i).da = true →
       (s.didxOk (s.slotPart i) d = false → fails x St.adapterIndexInvalid) ∧
       (s.didxOk (s.slotPart i) d = true → s.walkFails d = true → fails (x.noteWalk d) St.memoryUncorrectable) ∧
       (s.didxOk (s.slotPart i) d = true → s.walkFails d = false → x.takeLine d = none →
         exec .batchWindowExpiry s = .next { x with dir := { x.dir with lineWaits := x.dir.lineWaits ++ [.ref i] } }) ∧
       ∀ s', s.didxOk (s.slotPart i) d = true → s.walkFails d = false → x.takeLine d = some s' →
         let e := s'.entry d
         let takes (w : Work) (e' : DirEntry) (loads : List LoadRec) : Prop := ∃ t, exec .batchWindowExpiry s = .next t ∧
           t.wk i = w ∧ t.entry d = { e' with refcnt := e.refcnt + 1 } ∧ t.dir.loads = loads ∧
           ∃ b ∈ t.work.batches, b.reqs = [i] ∧ ∀ n, s'.lineOf d = some n → b.records = [BitVec.ofNat 32 (n % 16384 * 4096)]
         let w' := { handed (s.wk i) with ref := some d }
         (e.gen.toNat ≠ daGen (s.wk i).da → fails s' St.adapterStale) ∧
         (e.gen.toNat = daGen (s.wk i).da →
           (e.published = true → takes w' e s'.dir.loads) ∧
           (e.st = .parked → takes { w' with waitLoad := true } { e with st := .loading } (s'.dir.loads ++ [⟨d, none⟩])) ∧
           (e.st = .loading → takes { w' with waitLoad := true } e s'.dir.loads) ∧
           (e.st = .empty → fails s' St.adapterNotFound) ∧ (e.st = .revoked → fails s' St.adapterRevoked) ∧
           (e.st = .training → e.pub = false → fails s' St.adapterNotReady))))

/-- R233, R240, R241, R249, R167, R246, R247, R414: An ending work stays until its outputs are written; then the slot
is FREE with the next generation, VALID reads 0, and its record, if deliverable, goes out as one PUT_SIGNAL. A part
under abort abandons its copy and ends ABORTED. A running request of a revoked adaptation ends at its token boundary
with ADAPTER_REVOKED; an abort by the object dictionary ends a live ungrouped work whose generation it names with
ABORTED, and one that names no live work changes nothing; either returns the work's reference. -/
def Obligations.WorkEndsAndStops : Prop :=
  (∀ (s : State) (slot : Fin 16384),
     let i := slot.val
     let w := s.wk i
     let caddr := w.at 0x18 63 0
     let saddr := w.at 0x20 63 0
     let deliverable := s.deliverable (s.slotPart i) w.ctx caddr saddr
     let ripe : Prop := w.st = .ending ∧ s.ops.all (fun o => o.who ≠ .output i) = true ∧ s.domainDown (s.slotPart i) = false
     (w.aborting = false → ripe → ∃ t, exec (.workEnd slot) s = .next t ∧ t.wk i = { gen := nextGen w.gen } ∧
       (∀ j, j ≠ i → t.wk j = s.wk j) ∧
       (∀ x, x < s.slotOff i + 0xF8 ∨ s.slotOff i + 0x100 ≤ x → tabGet 0 t.hbm x = tabGet 0 s.hbm x) ∧
       (s.FirmwareMay (s.slotPart i) (s.slotOff i + 0xF8) 8 →
         ∀ x, s.slotOff i + 0xF8 ≤ x → x < s.slotOff i + 0x100 → tabGet 0 t.hbm x = 0) ∧
       (deliverable = false → t.work.undeliverable = s.work.undeliverable + 1) ∧
       (deliverable = true → t.work.undeliverable = s.work.undeliverable ∧
         ∃ r : BitVec 512, .record i w.ctx (BitVec.ofNat 64 caddr) (BitVec.ofNat 64 saddr) r ∈ t.out ∧
           r.toNat % 2 ^ 16 = w.status.toNat ∧ r.toNat / 2 ^ 32 % 2 ^ 32 = w.gen.toNat ∧ r.toNat / 2 ^ 96 % 2 ^ 32 = i ∧
           r.toNat / 2 ^ 128 % 2 ^ 64 = w.group.toNat ∧ r.toNat / 2 ^ 224 % 2 ^ 32 = w.tokens % 2 ^ 32 ∧
           r.toNat / 2 ^ 256 % 2 ^ 64 = w.value.toNat)) ∧
     (w.aborting = true → w.live = true → exec (.workEnd slot) s = exec (.workEnd slot) (s.stopEnd i St.aborted) ∧
       (let w' := (s.stopEnd i St.aborted).wk i
       w'.st = .ending ∧ w'.status = St.aborted ∧ w'.aborting = false)) ∧
     (w.aborting = false → ¬ ripe → exec (.workEnd slot) s = .next s)) ∧
  ((∀ (s : State) (slot : Fin 16384) (d : Nat), (s.wk slot).ref = some d →
     let i := slot.val
     let w := s.wk i
     let due : Prop := w.st = .running ∧ w.kind = 1 ∧ (s.entry d).st = .revoked
     (¬ due → exec (.tokenBoundary slot) s = .next s) ∧
     (due → w.group = 0 → ∃ t, exec (.tokenBoundary slot) s = .next t ∧ (t.wk i).st = .ending ∧
       (t.wk i).status = (if w.aborting then St.aborted else St.adapterRevoked) ∧ (t.wk i).ref = none ∧ (t.wk i).tokens = w.tokens ∧
       (t.entry d).refcnt = (s.entry d).refcnt - 1)) ∧
   (∀ (s : State) (slot : Fin 16384), (s.wk slot).ref = none → exec (.tokenBoundary slot) s = .next s) ∧
   (∀ (s : State) (q : OdReq), s.OdAccepts q 0x207003 →
     let v := leNat q.value
     let i := v / 2 ^ 32
     let w := s.wk i
     let answers (u : State) (st : Status) : Prop := exec (.abortWork q) s = .next (u.odAnswer q.ctx q.msn st [])
     let own : Prop := (s.ctx q.ctx).secure = true ∨ s.mode.cur.four = false ∨ s.slotPart i = (s.ctx q.ctx).part
     (2 ^ 46 ≤ v → answers s St.odValueInvalid) ∧
     (v < 2 ^ 46 → ¬ own → answers s St.odAccessDenied) ∧
     (v < 2 ^ 46 → own → (w.live = false ∨ w.gen.toNat ≠ v % 2 ^ 32 ∨ s.lastPrepared i = true) → answers s St.ok) ∧
     (v < 2 ^ 46 → own → w.live = true → w.gen.toNat = v % 2 ^ 32 → s.lastPrepared i = false → w.group = 0 →
       ∃ u, answers u St.ok ∧ (u.wk i).st = .ending ∧ (u.wk i).status = St.aborted ∧ (u.wk i).ref = none ∧
         (u.wk i).staged = [] ∧ (u.wk i).tend = s.tsc ∧ (∀ j, j ≠ i → { u.wk j with flags := (s.wk j).flags } = s.wk j) ∧
         (∀ sh c p, w.kind = 1 → w.st = .running → w.handed = true → s.aloneOnShelf i = true → sh = w.shelf → c < 8 →
           s.phys sh c = some p → (u.core p).tile.queue = [] ∧ (u.core p).tile.discarding = true ∧
             (u.core p).vec.queue = [] ∧ (u.core p).vec.prog = none))))

/-- R175, R238, R239, R243, R256: A SERVE work that waits for nothing, the first of its class and partition, starts on
a shelf of its partition, whose sorter has put its batch in order; an ungrouped one commits each unit by itself: its
outputs are on their way to OUT, or the unit, without outputs, is delivered; its last unit ends it with OK; an error
of its program ends it with that status. -/
def Obligations.ServeWorkRuns : Prop :=
  ∀ (s : State) (slot : Fin 16384), (s.wk slot).kind = 1 →
    let i := slot.val
    let w := s.wk i
    let p := s.slotPart i
    (∀ sh : Fin 16,
      let due : Prop := w.st = .held ∧ w.handed = true ∧ s.refWaits i = false ∧ sh.val ∈ s.shelvesOf p ∧ s.mayStart p = true ∧
        s.firstHeld i = true
      (¬ due → exec (.serveWork slot (.start sh)) s = .next s) ∧
      (due → ∃ t, exec (.serveWork slot (.start sh)) s = .next t ∧ t.wk i = { w with st := .running, shelf := sh.val } ∧
        (∀ j, j ≠ i → t.wk j = s.wk j) ∧ t.shelf sh = { s.shelf sh with serving := true } ∧
        (∀ q, q ≠ sh.val → t.shelf q = s.shelf q) ∧ s.Wakes t sh.val ∧
        (∀ b ∈ s.work.batches, i ∈ b.reqs → ∃ b' ∈ t.work.batches, b'.reqs = b.reqs ∧ b'.order.Perm b.records ∧
          b'.order.Pairwise (fun x y => recKey x ≤ recKey y) ∧ sh.val ∈ b'.shelves) ∧
        { t.work with slots := s.work.slots, batches := s.work.batches } = s.work ∧
        { t with work := s.work, shelves := s.shelves, woken := s.woken } = s)) ∧
    (∀ outs fl last, w.st = .running → w.ready = false → w.copying = false → w.stopped = false → w.last = false → w.group = 0 →
      (w.outsFit outs = false → w.aborting = false →
        exec (.serveWork slot (.unit outs fl last)) s = .next (s.stopEnd i St.addressInvalid)) ∧
      (w.outsFit outs = true → s.ops.all (fun o => o.who ≠ .output i) = true →
        (outs ≠ [] → ∃ t, exec (.serveWork slot (.unit outs fl last)) s = .next t ∧
          t.wk i = { w with flags := w.flags ||| fl, staged := [], last := last, copying := true, copiedHeld := false } ∧
          (t.ops.filter fun o => o.who = .output i).map (fun o => (o.opc, o.remote, o.data)) =
            outs.map fun o => (1, hostAddr w.ctx (w.body 0x18 + o.1), o.2)) ∧
        (outs = [] → last = false → ∃ t, exec (.serveWork slot (.unit outs fl last)) s = .next t ∧
          t.wk i = { w with flags := w.flags ||| fl, staged := [], unit := w.unit + 1, tokens := w.tokens + 1, copiedHeld := false }) ∧
        (outs = [] → last = true → ∃ t, exec (.serveWork slot (.unit outs fl last)) s = .next t ∧
          (t.wk i).st = .ending ∧ (t.wk i).status = St.ok ∧ (t.wk i).tokens = w.tokens + 1 ∧
          (t.wk i).value = BitVec.ofNat 64 w.bytes ∧ (t.wk i).tend = s.tsc))) ∧
    (∀ st, w.st = .running → w.stopped = false → w.group = 0 → w.aborting = false →
      (St.known st = true → st ≠ 0 → ∃ t, exec (.serveWork slot (.fail st)) s = .next t ∧
        (t.wk i).st = .ending ∧ (t.wk i).status = st ∧ (t.wk i).staged = [] ∧
        (∀ j, j ≠ i → { t.wk j with flags := (s.wk j).flags } = s.wk j)) ∧
      (St.known st = false → exec (.serveWork slot (.fail st)) s = .next s))

/-- R242, R243, R244, R245, R246, R256, R257, R248, R249: What the leader of a group does with its table: a first
registration opens an entry, or is refused; a READY or a COPIED is recorded and, once every part has said so, COMMIT
goes to each other device of the group, or the next unit begins, or the group ends; a FAIL, a disagreement on NPART or
a missing part fails the group, whose parts here end GROUP_PART_FAILED. What the parts of a group do on this device:
COMMIT sends their staged outputs; END and DISCARD end them with OK or GROUP_PART_FAILED and the units delivered so
far; ABORT ends them ABORTED, one that copies a unit with its COMMIT after the copy, one that has written PREPARED for
its last step not at all; a part without a decision in time has the group's parts here end GROUP_PART_FAILED with
GROUP_LEADER_LOST. No other work changes, but for flags of works whose programs stop. -/
def Obligations.GroupsRun : Prop :=
  (∀ (s : State) (h : BitVec 64) (part : Fin 64),
     let sent (g : Group) (msgt : Nat) (args : List Nat) (t : State) : Prop := ∀ d, d ∈ s.devicesOf g → s.reachable d = true →
       .control d msgt args ∈ t.out
     let ended (t : State) (st : Status) : Prop := t.grp h = none ∧
       ∀ i, h ≠ 0 → (s.wk i).live = true → (s.wk i).group = h → (t.wk i).st = .ending ∧ (t.wk i).status = st
     let failed (pstat : Status) (fpart : Nat) (t : State) : Prop := ended t St.groupPartFailed ∧
       ∀ i, h ≠ 0 → (s.wk i).live = true → (s.wk i).group = h → (t.wk i).fpart = fpart ∧ (t.wk i).pstat = pstat
     (∀ (dev : Fin 8) (npart : Nat), ghLeader h = s.mod.pos.val → s.grp h = none → s.groupRoom h = true → 2 ≤ npart →
       ∃ t, exec (.groupRegister dev h part npart) s = .next t ∧ t.grp h = some { handle := h, npart := npart, parts := [⟨part, dev⟩] } ∧
         { t with work := s.work } = s ∧ { t.work with groups := s.work.groups } = s.work ∧
         ∀ k, k ≠ h → t.grp k = s.grp k) ∧
     (∀ (dev : Fin 8) (npart : Nat), ghLeader h = s.mod.pos.val → s.grp h = none → s.groupRoom h = false → dev ≠ s.mod.pos →
       ∃ t, exec (.groupRegister dev h part npart) s = .next t ∧ t.work = s.work ∧
         (s.reachable dev = true → .control dev 0x14 [h.toNat, 0xFF, St.groupTableFull.toNat, 0] ∈ t.out)) ∧
     (∀ (dev : Fin 8) (npart : Nat), ghLeader h ≠ s.mod.pos.val → exec (.groupRegister dev h part npart) s = .next s) ∧
     (∀ (dev : Fin 8) (npart : Nat) (g : Group), ghLeader h = s.mod.pos.val → s.grp h = some g → g.aborting = false →
       (g.npart ≠ npart → ∃ t, exec (.groupRegister dev h part npart) s = .next t ∧ failed St.groupMismatch 0xFF t) ∧
       (g.parts.any (fun r => r.part = part.val) = true →
         ∃ t, exec (.groupRegister dev h part g.npart) s = .next t ∧ failed St.groupPartDuplicate part.val t)) ∧
     (∀ (g : Group) (unit : Nat) (last : Bool), s.grp h = some g → g.committed = false →
       let ready := (64 * unit + part.val) :: g.ready
       let ends := if last then part.val :: g.lastBy else g.lastBy
       ((g.parts.length ≠ g.npart ∨ g.parts.all (fun r => ready.contains (64 * g.unit + r.part)) = false) →
         ∃ t, exec (.groupReady h part unit last) s = .next t ∧ t.grp h = some { g with ready := ready, lastBy := ends } ∧
           { t with work := s.work } = s ∧ { t.work with groups := s.work.groups } = s.work) ∧
       (g.parts.length = g.npart → g.parts.all (fun r => ready.contains (64 * g.unit + r.part)) = true → s.partsHere h = [] →
         g.parts.all (fun r => g.copied.contains (64 * g.unit + r.part)) = false →
         ∃ t, exec (.groupReady h part unit last) s = .next t ∧
           t.grp h = some { g with ready := ready, lastBy := ends, committed := true } ∧ sent g 0x13 [h.toNat, g.unit] t)) ∧
     (∀ (g : Group) (unit : Nat), s.grp h = some g → g.committed = true →
       let copied := (64 * unit + part.val) :: g.copied
       let whole := g.parts.all fun r => copied.contains (64 * g.unit + r.part)
       let lasts := g.parts.all fun r => g.lastBy.contains r.part
       (whole = false → ∃ t, exec (.groupCopied h part unit) s = .next t ∧ t.grp h = some { g with copied := copied } ∧
         { t with work := s.work } = s ∧ { t.work with groups := s.work.groups } = s.work) ∧
       (whole = true → g.aborting = true → ∃ t, exec (.groupCopied h part unit) s = .next t ∧ ended t St.aborted) ∧
       (whole = true → g.aborting = false → lasts = true → ∃ t, exec (.groupCopied h part unit) s = .next t ∧ ended t St.ok ∧
         sent g 0x16 [h.toNat, g.tokens + 1] t) ∧
       (whole = true → g.aborting = false → lasts = false →
         g.parts.all (fun r => g.ready.contains (64 * (g.unit + 1) + r.part)) = false →
         ∃ t, exec (.groupCopied h part unit) s = .next t ∧ t.grp h = some { g with
           unit := g.unit + 1, tokens := g.tokens + 1, committed := false, copied := []
           ready := g.ready.filter fun r => 64 * (g.unit + 1) ≤ r })) ∧
     (∀ (g : Group) (st : Status), s.grp h = some g → g.aborting = false → St.known st = true →
       let fpart := if st = St.groupLeaderLost then 0xFF else part.val
       ∃ t, exec (.groupFail h part st) s = .next t ∧ failed st fpart t ∧ sent g 0x14 [h.toNat, fpart, st.toNat, g.tokens] t) ∧
     (∀ st : Status, s.grp h = none ∨ St.known st = false → exec (.groupFail h part st) s = .next s) ∧
     (∀ g : Group, s.grp h = some g → g.aborting = false → g.parts.length < g.npart → ∃ t,
       exec (.groupAssemblyTimeout h) s = .next t ∧ failed St.groupAssemblyTimeout 0xFF t ∧
       sent g 0x14 [h.toNat, 0xFF, 0x0108, g.tokens] t) ∧
     (∀ g : Group, s.grp h = some g → g.npart ≤ g.parts.length → exec (.groupAssemblyTimeout h) s = .next s)) ∧
  (∀ (s : State) (h : BitVec 64) (n : Nat), h ≠ 0 →
     let mine (i : Nat) : Prop := (s.wk i).live = true ∧ (s.wk i).group = h
     let others (t : State) : Prop := ∀ j, j ∉ s.partsHere h → { t.wk j with flags := (s.wk j).flags } = s.wk j
     let ended (t : State) (st : Status) : Prop := others t ∧ ∀ i, mine i → (t.wk i).st = .ending ∧ (t.wk i).status = st ∧
       ((s.wk i).kind = 1 → (t.wk i).tokens = n)
     let aborts (t : State) (tokens : Nat → Nat) : Prop := others t ∧ ∀ i, mine i →
       (s.lastPrepared i = true → (t.wk i).alone = true ∧ (t.wk i).st = (s.wk i).st) ∧
       (s.lastPrepared i = false → (s.wk i).copying = true → (t.wk i).aborting = true ∧ (t.wk i).st = (s.wk i).st) ∧
       (s.lastPrepared i = false → (s.wk i).copying = false → (t.wk i).st = .ending ∧ (t.wk i).status = St.aborted ∧
         ((s.wk i).kind = 1 → (t.wk i).tokens = tokens (s.wk i).tokens))
     (∀ i, s.partsHere h = [i] → (s.wk i).kind = 1 → (s.wk i).unit = n → (s.wk i).ready = true → (s.wk i).stopped = false →
       (s.wk i).live = true → (s.wk i).staged ≠ [] → ∃ t, exec (.groupCommit h n) s = .next t ∧ others t ∧
         t.wk i = { s.wk i with ready := false, copying := true, copiedHeld := false, staged := [] }) ∧
     ((∀ i ∈ s.partsHere h, (s.wk i).unit ≠ n) → exec (.groupCommit h n) s = .next s) ∧
     (∃ t, exec (.groupEnd h n) s = .next t ∧ ended t St.ok) ∧
     (∀ fpart pstat, (St.known pstat = true → ∃ t, exec (.groupDiscard h fpart pstat n) s = .next t ∧
         ended t St.groupPartFailed ∧ ∀ i, mine i → (t.wk i).fpart = fpart ∧ (t.wk i).pstat = pstat) ∧
       (St.known pstat = false → exec (.groupDiscard h fpart pstat n) s = .next s)) ∧
     (ghLeader h ≠ s.mod.pos.val → ∃ t, exec (.groupAbort h n) s = .next t ∧ aborts t (max n)) ∧
     (∀ g : Group, ghLeader h = s.mod.pos.val → s.grp h = some g → ∃ t, exec (.groupAbort h n) s = .next t ∧
       aborts t (fun _ => g.tokens) ∧ t.grp h = (if g.committed then some { g with aborting := true } else none) ∧
       ∀ d, d ∈ s.devicesOf g → s.reachable d = true → .control d 0x17 [h.toNat, g.tokens] ∈ t.out) ∧
     (∀ slot : Fin 16384, mine slot →
       let due : Prop := (s.wk slot).alone = false ∧ (s.wk slot).copiedHeld = true
       (¬ due → exec (.groupDecisionTimeout slot) s = .next s) ∧
       (due → (∀ g, s.grp h = some g → ghLeader h = s.mod.pos.val → g.aborting = false) →
         ∃ t, exec (.groupDecisionTimeout slot) s = .next t ∧ others t ∧ ∀ i, mine i → (t.wk i).st = .ending ∧
           (t.wk i).status = St.groupPartFailed ∧ (t.wk i).fpart = 0xFF ∧ (t.wk i).pstat = St.groupLeaderLost)) ∧
     (∀ q : OdReq, s.OdAccepts q 0x207004 → leNat q.value = h.toNat →
       let own : Prop := (s.ctx q.ctx).secure = true ∨ s.mode.cur.four = false ∨ ghPart h = (s.ctx q.ctx).part
       let answers (u : State) (st : Status) : Prop := exec (.abortGroup q) s = .next (u.odAnswer q.ctx q.msn st [])
       (own → ghLeader h = s.mod.pos.val → ∃ u, exec (.groupAbort h n) s = .next u ∧ answers u St.ok) ∧
       (own → ghLeader h ≠ s.mod.pos.val → answers s St.ok) ∧ (¬ own → answers s St.odAccessDenied)))

/-- R98, R250, R251, R252, R253, R311, R328, R372, R254: A mode command is refused with its status, or starts a change
and abandons a digest round; each unit at its boundary sets its bit; the last one commits a device change: every item
takes its staged value at one epoch, and a change of layout remaps the user area and zeroes the statistics; a bit
still clear at 1 ms rolls it back with the epoch unchanged. The messages of a BOARD change. A follower begins at
PREPARE, reports READY with its last bit, commits at COMMIT and rolls back at ROLLBACK; D0 commits once READY has come
from every device and rolls back at a FAIL or at its limit; a device without a decision asks each reachable peer,
follows one that has committed, and otherwise rolls back. The change's number is the model's (log 84). -/
def Obligations.ModesChange : Prop :=
  ((∀ (s : State) (q : OdReq) (board : Bool), s.OdAccepts q 0x200003 → leNat q.value % 4 = (if board then 2 else 1) →
     let command : Instr := if board then .modeCommandBoard q else .modeCommandDevice q
     let answers (u : State) (st : Status) : Prop := exec command s = .next (u.odAnswer q.ctx q.msn st [])
     let m := s.mode
     let refused (st : Status) : Prop := answers { s with mode := { m with result := st } } st
     let busy : Prop := m.st ≠ .stable ∨ s.sec.resetting ≠ [] ∨ s.fw.ust ∈ [UState.switching, .rollout, .reverting]
     let active : Prop := m.staged.four ≠ m.cur.four ∧ ∃ x ∈ s.work.slots, x.2.live = true
     (busy → refused St.modeBusy) ∧
     (¬ busy → board = true → s.mod.pos.val ≠ 0 → refused St.modeNotLeader) ∧
     (¬ busy → (board = false ∨ s.mod.pos.val = 0) → active → refused St.modeWorkActive) ∧
     (¬ busy → (board = false ∨ s.mod.pos.val = 0) → ¬ active → (6 < m.staged.drainFmt.toNat ∨ 2 < m.staged.profile) →
       refused St.odValueInvalid) ∧
     (¬ busy → (board = false ∨ s.mod.pos.val = 0) → ¬ active → m.staged.drainFmt.toNat ≤ 6 → m.staged.profile ≤ 2 →
       let n := if board then m.change + 1 else m.change
       ∃ u, answers u St.ok ∧ u.mode = { m with st := .transitioning, applied := 0, pend := m.staged, board := board, ready := []
                                                waiting := false, committed := false, asked := [], change := n } ∧
         u.replica.round = false ∧ (board = false → { u with mode := m, replica := s.replica } = s) ∧
         (board = true → ∀ p ∈ s.boardPeers, s.reachable p = true → .control p 0x20 [n.toNat] ∈ u.out))) ∧
   (∀ (s : State) (q : OdReq), s.OdAccepts q 0x200003 → leNat q.value % 4 = 0 ∨ leNat q.value % 4 = 3 →
     exec (.modeCommandDevice q) s =
       .next (State.odAnswer { s with mode := { s.mode with result := St.odValueInvalid } } q.ctx q.msn St.odValueInvalid [])) ∧
   (∀ (s : State) (u : Fin 24), s.mode.st = .transitioning → s.mode.waiting = false → (u.val < 16 → s.shelfIdle u = true) →
     let m := s.mode
     let applied := m.applied ||| BitVec.ofNat 24 (2 ^ u.val)
     (applied ≠ 0xFFFFFF → exec (.unitQuiesced u) s = .next { s with mode := { m with applied := applied } }) ∧
     (applied = 0xFFFFFF → m.board = false → ∃ t, exec (.unitQuiesced u) s = .next t ∧ t.mode.cur = m.pend ∧
       t.mode.epoch = m.epoch + 1 ∧ t.mode.result = St.ok ∧ t.mode.applied = applied ∧ t.mode.staged = m.staged ∧
       (m.pend.four = m.cur.four → t.mode.st = .stable ∧ t.port = s.port ∧ t.ops = s.ops ∧ t.hbm = s.hbm ∧ t.stats = s.stats) ∧
       (m.pend.four ≠ m.cur.four → t.mode.st = .scrubbing ∧ (∀ p, p ∈ t.mode.scrub ↔ if m.pend.four then p < 4 else p = 0) ∧
         (∀ c, c < 16384 → t.ctx c = {}) ∧ t.stats = {} ∧
         (tabWf 0 s.hbm = true → ∀ a, tabGet 0 t.hbm (if a < s.sysBase then s.remapOffset m.cur.four m.pend.four a else a) =
           tabGet 0 s.hbm a)) ∧
       (∀ i, i < 4 → let top := [15, 10].getD m.pend.profile 5
         t.island i = if (s.island i).step ≤ top then s.island i else
           { s.island i with step := top, clk := min (s.island i).clk top, mV := t.power.curve.getD top 0, slew := none }) ∧
       t.cores = s.cores ∧ t.shelves = s.shelves ∧ t.work = s.work ∧ t.dir = s.dir)) ∧
   (∀ (s : State) (u : Fin 24), u.val < 16 → s.shelfIdle u = false → exec (.unitQuiesced u) s = .next s) ∧
   (∀ s : State, s.mode.st = .transitioning → s.mode.applied ≠ 0xFFFFFF → s.mode.board = false →
     let m := s.mode
     exec .modeTimeout s = .next { s with mode := { m with st := .stable, pend := m.cur, result := St.modeRolledBack, waiting := false, asked := [] } })) ∧
  (∀ (s : State) (from_ : Fin 8),
     let m := s.mode
     let back : Mode := { m with st := .stable, pend := m.cur, result := St.modeRolledBack, waiting := false, asked := [] }
     let d0 : Prop := s.mod.pos.val = 0
     let changing : Prop := m.board = true ∧ m.st = .transitioning
     let commits (i : Instr) : Prop := ∃ t, exec i s = .next t ∧ t.mode.cur = m.pend ∧ t.mode.epoch = m.epoch + 1 ∧
       t.mode.result = St.ok ∧ t.mode.waiting = false ∧ t.mode.committed = true ∧
       t.mode.st = (if m.pend.four = m.cur.four then .stable else .scrubbing)
     let rollsBack (i : Instr) : Prop := exec i s = .next { s with mode := back }
     let tells (i : Instr) (p msgt : Nat) (args : List Nat) (m' : Mode) : Prop := ∃ t, exec i s = .next t ∧ t.mode = m' ∧
       (s.reachable p = true → .control p msgt args ∈ t.out)
     (∀ n : BitVec 32,
       (d0 → exec .modePrepare s = .next s) ∧
       (¬ d0 → ∀ st, s.modeRefused false = some st → tells .modePrepare 0 0x22 [s.mod.pos.val] { m with result := st }) ∧
       (¬ d0 → s.modeRefused false = none → ∃ t, exec .modePrepare s = .next t ∧ t.mode = { m with
         st := .transitioning, applied := 0, pend := m.staged, board := true, ready := [], waiting := false, committed := false
         asked := [], change := m.change + 1 } ∧ t.replica.round = false ∧ { t with mode := m, replica := s.replica } = s) ∧
       tells (.modeQuery ⟨from_, n⟩) from_ 0x26 [s.mod.pos.val, if m.committed ∧ m.change = n then 1 else 0] m) ∧
     (∀ u : Fin 24, changing → ¬ d0 → m.waiting = false → (u.val < 16 → s.shelfIdle u = true) →
       m.applied ||| BitVec.ofNat 24 (2 ^ u.val) = 0xFFFFFF →
       tells (.unitQuiesced u) 0 0x21 [s.mod.pos.val] { m with applied := 0xFFFFFF, waiting := true }) ∧
     (changing → d0 → m.applied = 0xFFFFFF → (∀ p ∈ s.boardPeers, p = from_.val ∨ p ∈ m.ready) → commits (.modeReady from_)) ∧
     (changing → d0 → (m.applied ≠ 0xFFFFFF ∨ ∃ p ∈ s.boardPeers, p ≠ from_.val ∧ p ∉ m.ready) →
       exec (.modeReady from_) s = .next { s with mode := { m with ready := from_.val :: m.ready } }) ∧
     (changing → d0 → from_.val ≠ 0 → ∀ p ∈ s.boardPeers, tells (.modeFail from_) p 0x24 [] back) ∧
     (changing → d0 → ∀ p ∈ s.boardPeers, tells .boardReadyTimeout p 0x24 [] back) ∧
     (changing → d0 → m.applied ≠ 0xFFFFFF → ∀ p ∈ s.boardPeers, tells .modeTimeout p 0x24 [] back) ∧
     (changing → ¬ d0 → m.applied ≠ 0xFFFFFF → tells .modeTimeout 0 0x22 [s.mod.pos.val] back) ∧
     (m.board = true → m.waiting = true → commits .modeCommit) ∧
     (changing → ¬ d0 → rollsBack .modeRollback) ∧
     (m.board = true → m.waiting = true → from_.val ∈ m.asked → commits (.modeAnswer from_ true)) ∧
     (m.waiting = true → m.asked = [from_.val] → rollsBack (.modeAnswer from_ false)) ∧
     (m.waiting = true → from_.val ∈ m.asked → (∃ p ∈ m.asked, p ≠ from_.val) → exec (.modeAnswer from_ false) s =
       .next { s with mode := { m with asked := m.asked.filter (· ≠ from_.val) } }) ∧
     (m.waiting = true → (∀ p, p < 8 → s.reachable p = false) → rollsBack .modeDecisionTimeout) ∧
     (m.waiting = true → ∀ p, p < 8 → s.reachable p = true →
       tells .modeDecisionTimeout p 0x25 [s.mod.pos.val, m.change.toNat] { m with asked := (List.range 8).filter s.reachable }))

/-- R233, R253, R275, R358, R359, R328, R355, R416: The scrub of a partition after a layout change leaves its user
area, its slots, its contexts, its directory range and its cores in their reset state, with their repair maps
reapplied, and the last scrub returns STATE to STABLE. An accepted partition reset makes the partition RESETTING, ends
each of its works PARTITION_RESET, marks its BUSY quotes, ends its expert sessions, and abandons a digest round; it is
refused while a mode changes or while it is already resetting. -/
def Obligations.ScrubsAndPartitionResets : Prop :=
  (∀ (s : State) (part : Fin 4), s.mode.st = .scrubbing → part.val ∈ s.mode.scrub →
     let p := part.val
     let four := s.mode.cur.four
     let inPart (i per : Nat) : Prop := four = true → i / per = p
     (four = false → p = 0) →
     ∃ t, exec (.scrubComplete part) s = .next t ∧ t.mode.scrub = s.mode.scrub.filter (· ≠ p) ∧
       t.mode.st = (if t.mode.scrub = [] then .stable else .scrubbing) ∧ t.mode.epoch = s.mode.epoch ∧ t.mode.cur = s.mode.cur ∧
       (∀ a, (s.userArea p).1 ≤ a → a < (s.userArea p).1 + (s.userArea p).2 → tabGet 0 t.hbm a = 0) ∧
       (∀ i, i < 16384 → inPart i 4096 → t.wk i = {} ∧ ∀ b, b < 256 → tabGet 0 t.hbm (s.slotOff i + b) = 0) ∧
       (∀ i, i < 16384 → ¬ inPart i 4096 → t.wk i = s.wk i) ∧
       (∀ c, c < 16384 → t.ctx c = if four = false ∨ c / 4096 = p then {} else s.ctx c) ∧
       (∀ d, d < 524288 → t.entry d = if four = false ∨ d / 131072 = p then {} else s.entry d) ∧
       (∀ sh, sh < 16 → inPart sh 4 → (t.shelf sh).sram = [] ∧ (t.shelf sh).churnBuf = [] ∧ (t.shelf sh).churnFlags = 0 ∧
         ∀ q, q < 9 → let use := (s.core (9 * sh + q)).use
           t.core (9 * sh + q) = { use := use, repair := if use = .retired then [] else s.repairMap (9 * sh + q) }) ∧
       (∀ sh, sh < 16 → ¬ inPart sh 4 → t.shelf sh = s.shelf sh ∧ ∀ q, q < 9 → t.core (9 * sh + q) = s.core (9 * sh + q))) ∧
  (∀ (s : State) (q : OdReq), s.OdAccepts q 0x403001 → tabWf {} s.port.ctxs = true →
     let p := leNat q.value
     let answers (u : State) (st : Status) : Prop := exec (.partitionReset q) s = .next (u.odAnswer q.ctx q.msn st [])
     let exists_ : Prop := if s.mode.cur.four then p < 4 else p = 0
     (¬ exists_ → answers s St.odValueInvalid) ∧
     (exists_ → (s.mode.st ≠ .stable ∨ p ∈ s.sec.resetting) → answers s St.modeBusy) ∧
     (exists_ → s.mode.st = .stable → p ∉ s.sec.resetting → ∃ u, answers u St.ok ∧
       u.sec = { s.sec with resetting := s.sec.resetting ++ [p] } ∧ u.mode = s.mode ∧ u.hbm = s.hbm ∧
       (∀ i, (s.wk i).live = true → s.slotPart i = p → (u.wk i).st = .ending ∧ (u.wk i).status = 0x0702) ∧
       (∀ i, s.slotPart i ≠ p → ((s.wk i).group = 0 ∨ ∀ j, s.slotPart j = p → (s.wk j).group ≠ (s.wk i).group) →
         { u.wk i with flags := (s.wk i).flags } = s.wk i) ∧
       (4 * s.mod.pos.val + p ∈ s.members → u.replica.round = false) ∧
       (∀ c, u.ctx c = { s.ctx c with
         quoteReset := (s.ctx c).quoteReset || decide ((s.ctx c).quote = .busy ∧ (s.ctx c).quoteReq.toNat / 2 ^ 256 = 0x10 + p)
         expert := (s.ctx c).expert && decide ((s.ctx c).part ≠ p) })))

/-- R274, R275, R276, R277, R278, R280, R346, R21, R286, R287, R288, R358: An OPEN that passes every check opens a
free context of its partition with the values in force, and ACCEPT goes out as control packet 0; one that fails a
check is refused with its status; a secure one is refused during the lockout or for its AUTH, which counts, and
redraws the nonce. A repeated OPEN is a duplicate. A context drains from CLOSE until its operations are complete or 10
ms have passed, when what is left fails with CONTEXT_INVALID, and then closes with CLOSED; one of a resetting
partition closes without exchange; a keepalive answers the device's own or is answered; the port's state follows its
link, without changing a context, and stays DOWN after a lane fault. -/
def Obligations.ContextsOpenAndClose : Prop :=
  (∀ (s : State) (p : Packet),
     let due : Prop := s.port.port = .up ∧ p.typ = 1 ∧ p.flags &&& 0x8F = 0x80 ∧ p.rsv = 0 ∧ 64 ≤ p.body.length
     let b := p.body
     let secure : Bool := extField b 27 1 = 1
     let fresh := s.openRepeat p
     let check := s.openCheck p.src p.sctx b
     let refuses (t : State) (st : Status) : Prop := t.port = s.port ∧ ∃ w : Wire, t.out = s.out ++ [.refuse p.sctx st w] ∧
       w.dst = p.src ∧ w.typ = 3 ∧ w.body = be st.toNat 2
     let nonce (t : State) : Prop := t.sec.nonce = BitVec.ofNat 64 (Config.drbg s.free) ∧ t.free = s.free + 1
     let opens (t : State) (c : Nat) : Prop :=
       let x := t.ctx c
       x.st = .open_ ∧ x.part = extField b 36 1 ∧ x.secure = secure ∧ x.hctx = p.sctx ∧ x.host = p.src ∧
         x.hbase = BitVec.ofNat 64 (extField b 40 8) ∧ x.hlen = BitVec.ofNat 64 (extField b 48 8) ∧
         x.mtu = min (extField b 38 2) (s.portCfg 5 1500) ∧ x.rto = s.odVal 0xA02002 64 ∧ x.retry = s.odVal 0xA02003 12 ∧
         x.keep = s.odVal 0xA02004 10000 ∧ x.rate = s.odVal 0xA02001 400 * 1000000000 ∧
         x.rqin = 0 ∧ x.rqout = 0 ∧ x.rqfail = 0 ∧ x.retx = 0 ∧ x.ce = (if p.ce then 1 else 0) ∧ x.drop = 0 ∧ x.expert = false ∧
         x.ctl.rx = 1 ∧ x.ctl.tx = 1 ∧ x.bulk.rx = 0 ∧ x.bulk.tx = 0 ∧ x.bulk.unacked = [] ∧
         (∀ k, k ≠ c → t.ctx k = s.ctx k) ∧
         ∃ w : Wire, .packet c true w ∈ t.out ∧ w.dst = p.src ∧ w.typ = 2 ∧ w.psn = [0, 0, 0, 0] ∧
           w.body = acceptBody x.mtu c (coarseTime secure s.tsc)
     (¬ due → exec (.open_ p) s = .next s) ∧
     (due →
       (∀ c, fresh = some c → ∃ t, exec (.open_ p) s = .next t ∧ t.out = s.out ∧
         t.ctx c = { s.ctx c with ctl := { (s.ctx c).ctl with due := (s.ctx c).ctl.due + 1 } } ∧
         ∀ k, k ≠ c → t.ctx k = s.ctx k) ∧
       (∀ st, fresh = none → check = .error st → ∃ t, exec (.open_ p) s = .next t ∧ refuses t st ∧
         (secure = false → { t with out := s.out } = s) ∧ (secure = true → nonce t ∧ t.sec.refusals = s.sec.refusals)) ∧
       (∀ c, fresh = none → check = .ok c → secure = false → ∃ t, exec (.open_ p) s = .next t ∧ opens t c ∧ t.sec = s.sec) ∧
       (∀ c, fresh = none → check = .ok c → secure = true → s.sec.lockout = true → ∃ t, exec (.open_ p) s = .next t ∧
         refuses t St.accessDenied ∧ nonce t ∧ t.sec.refusals = s.sec.refusals) ∧
       (∀ c, fresh = none → check = .ok c → secure = true → s.sec.lockout = false → s.authOk p.sctx b = false →
         ∃ t, exec (.open_ p) s = .next t ∧ refuses t St.accessDenied ∧ nonce t ∧
           t.sec.refusals = (s.sec.refusals.filter fun x => decide (s.tsc < x + 1000000000)) ++ [s.tsc] ∧
           t.sec.lockout = decide (8 ≤ t.sec.refusals.length)) ∧
       (∀ c, fresh = none → check = .ok c → secure = true → s.sec.lockout = false → s.authOk p.sctx b = true →
         ∃ t, exec (.open_ p) s = .next t ∧ opens t c ∧ nonce t ∧ t.sec.refusals = s.sec.refusals))) ∧
  (∀ (s : State) (c : Fin 16384),
     let x := s.ctx c
     let only (t : State) (y : Ctx) : Prop := t.ctx c = y ∧ (∀ k, k ≠ c.val → t.ctx k = s.ctx k)
     let alone (t : State) : Prop :=
       let p := { t.port with ctxs := s.port.ctxs }
       { t with port := p, out := s.out } = s
     let room : Prop := x.ctl.unacked.length < 1024
     let sends (t : State) (typ : Byte) : Prop := ∃ w : Wire, t.out = s.out ++ [.packet c true w] ∧ w.dst = x.host ∧ w.typ = typ ∧
       w.psn = be x.ctl.tx.toNat 4
     let shut (t : State) : Prop := t.ctx c =
         { x with st := .closed, ctl := {}, bulk := {}, asm := [], fences := [], kaOut := false, rqfail := (t.ctx c).rqfail } ∧
       (∀ k, k ≠ c.val → t.ctx k = s.ctx k) ∧ (s.power.parking = false → sends t 5)
     let resetting := s.sec.resetting.contains (s.ctxPart c)
     (x.st = .open_ → ∃ t, exec (.close c true) s = .next t ∧ only t { x with st := .draining, expert := false } ∧
       t.out = s.out ∧ alone t) ∧
     (x.st = .open_ → room → ∃ t, exec (.close c false) s = .next t ∧ (t.ctx c).st = .draining ∧ (t.ctx c).expert = false ∧
       sends t 4 ∧ alone t) ∧
     (x.st ≠ .open_ → ∀ h, exec (.close c h) s = .next s) ∧
     (x.st = .draining → s.drained c = true → ∃ t, exec (.closed c) s = .next t ∧ shut t ∧ (s.power.parking = false → alone t)) ∧
     ((x.st ≠ .draining ∨ s.drained c = false) → exec (.closed c) s = .next s) ∧
     (resetting = false → x.st = .draining → ∃ t, exec (.drainTimeout c) s = .next t ∧ shut t ∧
       ∀ o ∈ s.ops, gaSpace o.remote = 15 → hostCtx o.remote = c → o.answered = none → o.opc ≠ 8 →
         { o with answered := some (failure St.contextInvalid), done := true } ∈ t.ops) ∧
     (resetting = false → x.st ≠ .draining → exec (.drainTimeout c) s = .next s) ∧
     (resetting = true → ∃ t, exec (.drainTimeout c) s = .next t ∧ only t {} ∧ t.out = s.out ∧
       ∀ o, o ∈ t.ops ↔ o ∈ s.ops ∧ ¬ (gaSpace o.remote = 15 ∧ hostCtx o.remote = c)) ∧
     (x.joined = false → exec (.keepalive c) s = .next s) ∧
     (x.joined = true → x.kaOut = true → ∃ t, exec (.keepalive c) s = .next t ∧ only t { x with kaOut := false } ∧ t.out = s.out ∧ alone t) ∧
     (x.joined = true → x.kaOut = false → room → ∃ t, exec (.keepalive c) s = .next t ∧ sends t 0x30 ∧ alone t) ∧
     (x.st = .open_ → room → ∃ t, exec (.keepaliveTimer c) s = .next t ∧ (t.ctx c).kaOut = true ∧ sends t 0x30 ∧ alone t) ∧
     (x.st ≠ .open_ → exec (.keepaliveTimer c) s = .next s) ∧
     (∀ e : PortEvent,
       let still : Prop := s.boot = .held ∨ s.boot = .dead ∨ s.power.sleep = .parked ∨ s.mod.portBad = true
       let moves (q : PortState) (bad : Bool) : Prop := ∃ t, exec (.portStateChange e) s = .next t ∧ t.port.port = q ∧
         t.port.ctxs = s.port.ctxs ∧ t.port.refused = s.port.refused ∧ t.mod.portBad = bad ∧
         (e = .training → t.port.cfg = s.trainedCfg) ∧
         (let m := { t.mod with portBad := s.mod.portBad }
         { t with port := s.port, mod := m } = s)
       (e = .laneFault → moves .down true) ∧
       (e ≠ .laneFault → still → exec (.portStateChange e) s = .next s) ∧
       (¬ still → (e = .down → moves .down s.mod.portBad) ∧ (e = .training → moves .training s.mod.portBad) ∧
         (e = .up → moves .up s.mod.portBad))))

/-- R280, R281, R282, R283, R284, R268, R269, R270, R275, R279: A cumulative acknowledgement lets its packets go and
starts the timer again, a packet that three selective acknowledgements passed over goes out again; an acknowledgement
falls due; an expiry resends what is unacknowledged with a doubled timer and half the rate, or fails the context at
its retry limit; CNP cuts the rate once in 50 µs, a quiet interval raises it. A frame is dropped while the port is not
UP or where R268 drops it; one for a context that is not joined is refused at most once in a millisecond; a packet
behind the window is counted and acknowledged again; one that is due moves the window and has its effect, and is
acknowledged where it asks for it; a CE mark has a CNP go back. -/
def Obligations.HostPackets : Prop :=
  (∀ (s : State) (c : Fin 16384) (q : Bool),
     let x := s.ctx c
     let u := x.queue q
     let only (t : State) (y : Ctx) : Prop := t.ctx c = y ∧ (∀ k, k ≠ c.val → t.ctx k = s.ctx k) ∧
       (let p := { t.port with ctxs := s.port.ctxs }
       { t with port := p, out := s.out } = s)
     let base := u.tx - BitVec.ofNat 32 u.unacked.length
     let due := u.unacked.filter fun e => !e.got
     (x.joined = false → ∀ ack sack, ∀ i ∈ [Instr.ack c q ack sack, .ackTimer c q, .retransmitTimeout c q, .cnp c, .rateTick c],
       exec i s = .next s) ∧
     (x.joined = true →
       (∀ ack, (∀ e ∈ u.unacked, e.sacked < 3) → u.backlog = [] →
         let k := (ack - base).toNat
         let n := if k ≤ u.unacked.length then k else 0
         ∃ t, exec (.ack c q ack []) s = .next t ∧ t.out = s.out ∧
           only t (x.modQueue q fun u => { u with unacked := u.unacked.drop n, timer := if 0 < n then x.rto else u.timer })) ∧
       (∀ ack sack i j e f, (ack - base).toNat ≤ i → (ack - base).toNat ≤ u.unacked.length → u.unacked[i]? = some e →
         u.unacked[j]? = some f → i < j → e.got = false → 2 ≤ e.sacked → inSack e.pkt.psn sack = false → inSack f.pkt.psn sack = true →
         ∃ t, exec (.ack c q ack sack) s = .next t ∧ .packet c q (s.wire c q u.rx e.pkt) ∈ t.out) ∧
       (0 < u.due → ∃ t, exec (.ackTimer c q) s = .next t ∧ only t (x.modQueue q fun u => { u with due := 0 }) ∧
         ∃ w : Wire, t.out = s.out ++ [.packet c q w] ∧ w.dst = x.host ∧ w.typ = 0x20 ∧ w.body = u.ackBody ∧
           (w.bytes.drop 12).take 4 = be u.rx.toNat 4) ∧
       (u.due = 0 → exec (.ackTimer c q) s = .next s) ∧
       (due = [] → exec (.retransmitTimeout c q) s = .next s) ∧
       (due ≠ [] → (∀ e ∈ due, e.expiries + 1 < x.retry) → ∃ t, exec (.retransmitTimeout c q) s = .next t ∧
         only t { x.modQueue q (fun u => { u with
             unacked := u.unacked.map fun e => if e.got then e else { e with expiries := e.expiries + 1, sacked := 0 }
             timer := min 8000 (2 * u.timer) }) with
           rate := max 1000000000 (x.rate / 2), cutSeen := true, retx := x.retx + BitVec.ofNat 64 due.length } ∧
         t.out = s.out ++ due.map fun e => .packet c q (s.wire c q u.rx e.pkt)) ∧
       ((∃ e ∈ due, x.retry ≤ e.expiries + 1) → ∃ t, exec (.retransmitTimeout c q) s = .next t ∧ (t.ctx c).st = .failed ∧
         (t.ctx c).expert = false ∧ (∀ k, k ≠ c.val → t.ctx k = s.ctx k) ∧
         ∀ o ∈ s.ops, gaSpace o.remote = 15 → hostCtx o.remote = c → o.answered = none → o.opc ≠ 8 →
           { o with answered := some (failure St.remoteTimeout), done := true } ∈ t.ops) ∧
       (∃ t, exec (.cnp c) s = .next t ∧ t.out = s.out ∧
         only t (if x.cnpSeen then x else { x with rate := max 1000000000 (x.rate * 7 / 8), cnpSeen := true })) ∧
       (∃ t, exec (.rateTick c) s = .next t ∧ t.out = s.out ∧
         only t { x with
           rate := if x.cnpSeen || x.cutSeen then x.rate else min 1600000000000 (x.rate + 16000000000)
           cnpSeen := false, cutSeen := false, ctl := { x.ctl with cnpSent := false }
           bulk := { x.bulk with cnpSent := false } }))) ∧
  ((∀ (s : State) (f : Frame),
     let run := exec (.packetReceive f) s
     (¬ s.Hears f → run = .next s) ∧
     (s.Hears f →
       (f.content = .other → run = .next s) ∧
       (∀ k, f.content = .query k → run = .next (s.emit (.netReply k f.src))) ∧
       (∀ port sum ce bytes, f.content = .udp port sum ce bytes →
         (port.toNat ≠ s.portCfg 4 19284 ∨ udpOk f.ipv6 sum = false → run = .next s) ∧
         (port.toNat = s.portCfg 4 19284 → udpOk f.ipv6 sum = true →
           /- a packet with a short or bad header is dropped and counted in the context that it names -/
           let counts (n : Nat) : Prop := ∃ t, run = .next t ∧ (∀ k, k ≠ n → t.ctx k = s.ctx k) ∧
             t.ctx n = { s.ctx n with drop := (s.ctx n).drop + 1 } ∧ t.out = s.out
           (bytes.length < 6 → run = .next s) ∧
           (6 ≤ bytes.length → bytes.length < 24 → beNat ((bytes.drop 4).take 2) < 16384 → counts (beNat ((bytes.drop 4).take 2))) ∧
           ∀ p, packetOf f.src ce bytes = some p → headerOk p = false → p.dctx.toNat < 16384 → counts p.dctx.toNat)))) ∧
   (∀ (s : State) (f : Frame) (p : Packet), s.Brings f p →
     let run := exec (.packetReceive f) s
     let c := p.dctx.toNat
     let x := s.ctx c
     let q := p.flags.getLsbD 7
     let u := x.queue q
     let base := u.tx - BitVec.ofNat 32 u.unacked.length
     let quiet : Prop := p.ce = false ∧ p.ackpsn = base ∧ u.backlog = [] ∧ (∀ e ∈ u.unacked, e.sacked < 3)
     let numbered : Prop := p.typ ≠ 0x20 ∧ p.typ ≠ 0x21 ∧ p.typ ≠ 1
     let asks : Bool := p.flags.getLsbD 6
     (p.typ = 1 → run = exec (.open_ p) s) ∧
     (p.typ ≠ 1 → typeOk p = false → run = .next s) ∧
     (p.typ ≠ 1 → typeOk p = true → (c < 16384 → x.joined = false) →
       let due : Prop := tabGet 0 s.port.refused c = 0 ∨ tabGet 0 s.port.refused c + 999999 ≤ s.tsc
       ∃ t, run = .next t ∧ (c < 16384 → t.ctx c = { x with drop := x.drop + 1 }) ∧ (∀ k, k ≠ c → t.ctx k = s.ctx k) ∧
         (due → (∃ w : Wire, t.out = s.out ++ [.refuse p.sctx St.contextInvalid w] ∧ w.dst = p.src) ∧
           tabGet 0 t.port.refused c = s.tsc + 1) ∧
         (¬ due → t.out = s.out ∧ t.port.refused = s.port.refused)) ∧
     (typeOk p = true → ∀ h : c < 16384, x.joined = true →
       (p.ce = false → p.typ = 0x20 → run = exec (.ack ⟨c, h⟩ q p.ackpsn (packetSack p)) s) ∧
       (quiet → p.typ = 0x21 → ∃ t, run = .next t ∧ t.out = s.out ∧
         t.ctx c = (if x.cnpSeen then x else { x with rate := max 1000000000 (x.rate * 7 / 8), cnpSeen := true })) ∧
       (p.ce = true → p.typ = 0x20 → ∃ t, run = .next t ∧ (t.ctx c).ce = x.ce + 1 ∧
         (u.cnpSent = false → ∃ w : Wire, .packet c q w ∈ t.out ∧ w.dst = x.host ∧ w.typ = 0x21)) ∧
       (quiet → numbered → asks = false → u.due < 15 →
         (2 ^ 31 ≤ (p.psn - u.rx).toNat ∨ p.psn.toNat ∈ u.marks ∧ (p.psn - u.rx).toNat < 1024 → ∃ t,
           run = .next t ∧ t.out = s.out ∧
           t.ctx c = { x.modQueue q (fun u => { u with due := u.due + 1 }) with drop := x.drop + 1 }) ∧
         (1024 ≤ (p.psn - u.rx).toNat → (p.psn - u.rx).toNat < 2 ^ 31 → ∃ t,
           run = .next t ∧ t.out = s.out ∧ t.ctx c = { x with drop := x.drop + 1 })) ∧
       (quiet → numbered → p.psn = u.rx → u.marks = [] → s.odFull p = false → ∃ v : State,
         v.ctx c = x.modQueue q (fun u => { u with rx := u.rx + 1, due := u.due + 1 }) ∧ (∀ k, k ≠ c → v.ctx k = s.ctx k) ∧
         (let y := { v.port with ctxs := s.port.ctxs }
         { v with port := y } = s) ∧ run =
           .next (((v.packetEffect p ⟨c, h⟩).lateFences ⟨c, h⟩ q).ackIfDue ⟨c, h⟩ q asks)))))

/-- R21, R291, R292, R299, R301, R303, R304, R305, R306, R307, R308: Training brings a group up on eight or seven
lanes, or leaves it in the state that names what was wrong; a timeout tries again or fails it; a lost lane leaves
seven, more than that moves its traffic to the spare lane or loses the peer; the peer's LINK_STATE has lanes retired
here too; a fault of an engine takes down what it carries; restore and retrain train it again; an operation without an
answer fails. -/
def Obligations.LinksTrainAndFail : Prop :=
  ∀ (s : State) (g : Fin 16),
    let l := s.group g
    let n := g.val
    let down (k : Nat) : GState := if k < 8 ∧ (s.group (8 + k)).st.up = true then .spared else .failed
    let becomesAt (k : Nat) (i : Instr) (l' : LaneGroup) : Prop := ∃ t, exec i s = .next t ∧ t.group k = l' ∧
      ∀ j, j ≠ k → j + 8 ≠ k → t.group j = s.group j
    let becomes := becomesAt n
    /- a group that carried traffic fails -/
    let lost (k : Nat) (l : LaneGroup) : LaneGroup :=
      { l with st := down k, failovers := if down k = .spared then l.failovers + 1 else l.failovers }
    let trains (i : Instr) : Prop := becomes i { l with st := .training, lanes := 0, phase := 0, attempts := 0 }
    let without (l : LaneGroup) (i : Nat) : LaneGroup :=
      { l with lanes := l.lanes &&& ~~~ BitVec.ofNat 8 (2 ^ i), retirements := l.retirements + 1 }
    let limit := s.odVal 0x903003 0x38D1B717
    let worse (r : BitVec 32) : Prop := limit < r.toNat ∧ r.toNat ≤ 0x7F800000
    (∀ x : Training,
      let run := exec (.groupTraining g x) s
      let lanes := s.goodLanes x.ratios &&& x.theirs
      let c := ((List.range 8).filter fun i => lanes.getLsbD i).length
      let p := Nat.xor s.mod.pos.val (n % 8)
      let good : Prop := if n < 8 then 7 ≤ c else lanes.getLsbD 0 = true
      let ready : Prop := s.linksAlive = true ∧ (l.st = .training ∨ l.st = .dark) ∧ s.mod.engineBad.contains (engineOf n) = false
      let whole : Prop := x.phase.val = 7 ∨ (5 ≤ x.phase.val ∧ ¬ good)
      let ends (st : GState) (ls ver : BitVec 8) : Prop := becomes (.groupTraining g x)
        { l with st := st, lanes := ls, ver := ver, caps := 0, phase := if st.up then 7 else 0, attempts := 0 }
      (∀ i, i < 8 → ((s.goodLanes x.ratios).getLsbD i = true ↔ ∃ r, x.ratios[i]? = some r ∧ ¬ worse r)) ∧
      (n = 0 ∨ ¬ ready → run = .next s) ∧
      (n ≠ 0 → ready → ¬ whole → becomes (.groupTraining g x) { l with st := .training, phase := x.phase }) ∧
      (n ≠ 0 → n ≠ 8 → ready → l.phase < 6 → 6 ≤ x.phase.val → good → ∃ t w, run = .next t ∧ .ident n w ∈ t.out ∧
        w.position = s.mod.pos.val ∧ w.vmajHi = 1 ∧ w.vmajLo = 1 ∧ w.vmin = 0 ∧ w.caps = 0 ∧ w.ownerDigest = s.ownerDigest) ∧
      (n = 8 → ready → whole → let ok := !s.test.loopBad && (s.goodLanes x.ratios).getLsbD 0
        becomes (.groupTraining g x) { l with st := if ok then .up8 else .failed, lanes := if ok then 1 else 0 }) ∧
      (n ≠ 0 → n ≠ 8 → ready → whole →
        (¬ good → ends (down n) 0 0) ∧
        (good → x.ident.position.val ≠ p → ends .miswired 0 0) ∧
        (good → x.ident.position.val = p → (x.ident.vmajHi < 1 ∨ 1 < x.ident.vmajLo) → ends .version 0 0) ∧
        (good → x.ident.position.val = p → 1 ≤ x.ident.vmajHi → x.ident.vmajLo ≤ 1 → (x.ident.certOk && x.ident.sigOk) = false →
          ends .authFailed 0 0) ∧
        (good → x.ident.position.val = p → 1 ≤ x.ident.vmajHi → x.ident.vmajLo ≤ 1 → (x.ident.certOk && x.ident.sigOk) = true →
          (n < 8 → ends (if c = 8 then .up8 else .up7) lanes 0x10) ∧ (8 < n → ends .up8 1 0x10) ∧
          ∃ t, run = .next t ∧ (t.peer p).auth = s.peerTrusted x.ident ∧ (s.reachable p = false → (t.peer p).rx = 0)))) ∧
    (n ≠ 0 → l.st = .training → becomes (.trainingPhaseTimeout g false) { l with st := .dark, lanes := 0, phase := 0, attempts := 0 }) ∧
    (n ≠ 0 → l.st = .training → l.attempts < 2 →
      becomes (.trainingPhaseTimeout g true) { l with attempts := l.attempts + 1, phase := 0 }) ∧
    (n ≠ 0 → l.st = .training → 2 ≤ l.attempts →
      becomes (.trainingPhaseTimeout g true) { l with st := down n, attempts := 0, phase := 0 }) ∧
    (n = 0 ∨ l.st ≠ .training → ∀ b, exec (.trainingPhaseTimeout g b) s = .next s) ∧
    (n ≠ 0 → l.st = .failed ∨ l.st = .spared → s.odVal 0x903004 10000 ≠ 0 → s.linksAlive = true → trains (.groupRestoreTimer g)) ∧
    ((s.odVal 0x903004 10000 = 0 ∨ n = 0 ∨ (l.st ≠ .failed ∧ l.st ≠ .spared)) → exec (.groupRestoreTimer g) s = .next s) ∧
    (∀ q : OdReq, s.OdAccepts q 0x903005 →
      let answers (u : State) (st : Status) : Prop := exec (.retrainGroup q) s = .next (u.odAnswer q.ctx q.msn st [])
      let again (k : Nat) : LaneGroup := { s.group k with st := .training, lanes := 0, phase := 0, attempts := 0 }
      (leNat q.value = n → 0 < n → n < 8 →
        ((l.st.up && !(s.group (8 + n)).st.up) = true → answers s St.odBusy) ∧
        ((l.st.up && !(s.group (8 + n)).st.up) = false → ∃ u : State, answers u St.ok ∧ u.group n = again n ∧
          ∀ k, k ≠ n → u.group k = s.group k)) ∧
      (leNat q.value = 0 →
        ((∃ k, k < 8 ∧ (s.group k).st = .spared) → answers s St.odBusy) ∧
        ((∀ k, k < 8 → (s.group k).st ≠ .spared) → ∃ u : State, answers u St.ok ∧
          ∀ k, k < 16 → u.group k = if k < 8 then s.group k else again k))) ∧
    (∀ lane : Fin 8,
      (l.st.up = false ∨ l.lanes.getLsbD lane = false → exec (.laneLockLoss g lane) s = .next s) ∧
      (l.lanes.getLsbD lane = true →
        (l.st = .up8 → n < 8 → becomes (.laneLockLoss g lane) { without l lane with st := .up7 }) ∧
        (l.st = .up7 ∨ (l.st = .up8 ∧ 8 ≤ n) → becomes (.laneLockLoss g lane) (lost n (without l lane))))) ∧
    (∀ ratios : List (BitVec 32), (∀ r ∈ ratios.take 8, ¬ worse r) → exec (.laneErrorWindow g ratios) s = .next s) ∧
    (∀ (ratios : List (BitVec 32)) (i : Nat) (r : BitVec 32), i < 8 → ratios[i]? = some r → worse r → l.lanes.getLsbD i = true →
      (∀ j x, j < 8 → j ≠ i → ratios[j]? = some x → ¬ worse x) →
      (l.st = .up8 → n < 8 → becomes (.laneErrorWindow g ratios) { without l i with st := .up7 }) ∧
      (l.st = .up7 ∨ (l.st = .up8 ∧ 8 ≤ n) → becomes (.laneErrorWindow g ratios) (lost n (without l i)))) ∧
    (l.st.up = true → becomes (.clockChannelLoss ⟨g, .channel⟩) (lost n l)) ∧
    (l.st.up = false → exec (.clockChannelLoss ⟨g, .channel⟩) s = .next s) ∧
    (l.st ≠ .dark → n ≠ 0 → n ≠ 8 → trains (.clockChannelLoss ⟨g, .peerReset⟩)) ∧
    (∃ t, exec (.clockChannelLoss ⟨g, .engine⟩) s = .next t ∧ engineOf n ∈ t.mod.engineBad ∧
      ∀ k, k < 16 → k ≠ 0 → engineOf k = engineOf n → (s.group k).st ≠ .dark →
        (t.group k).st = if engineOf n = 1 then down k else .failed) ∧
    (∀ op, (∀ x ∈ s.fabric.ops, x.1 ≠ op) → exec (.fabricOpTimeout op) s = .next s) ∧
    (∀ o ∈ s.ops, ∀ x ∈ s.fabric.ops, x.1 = o.id → o.answered = none → ∃ t, exec (.fabricOpTimeout o.id) s = .next t ∧
      { o with answered := some (failure St.remoteTimeout), done := true } ∈ t.ops ∧ ∀ y ∈ t.fabric.ops, y.1 ≠ o.id) ∧
    (∀ (peer : Fin 8) (words : List (BitVec 32)),
      let k := s.groupTo peer
      let w := (words.getD k 0).toNat
      let st := w / 2 ^ 28
      let x := s.group k
      (s.reachable peer = false → exec (.linkState peer words) s = .next s) ∧
      (s.reachable peer = true → st ≠ 3 → st ≠ 4 → st ≠ 5 → ∃ t, exec (.linkState peer words) s = .next t ∧
        t.peer peer = { s.peer peer with links := words } ∧ (∀ k, k ≠ peer.val → t.peer k = s.peer k) ∧
        (let f := { t.fabric with peers := s.fabric.peers }
        { t with fabric := f } = s)) ∧
      (s.reachable peer = true → st = 4 ∨ st = 5 → x.st.up = true → becomesAt k (.linkState peer words) (lost k x)) ∧
      (∀ i, i < 8 → s.reachable peer = true → st = 3 → x.st = .up8 → (∀ j, j < 8 → (bit w (8 + j) = false ↔ j = i)) →
        x.lanes.getLsbD i = true → becomesAt k (.linkState peer words) { without x i with st := .up7 }))

/-- R293, R294, R295, R296, R300, R305, R302, R383, R384, R385: Bytes from an unreachable peer are nothing; a flit
with a bad CRC is counted and answered by a NAK; a good one frees the flits it acknowledges, returns its credits and,
when its SEQ is due, is delivered and acknowledged with its credit; a repeated one changes nothing more and one out of
order asks for a replay; a NAK has what is unacknowledged sent again, or fails the path after too many replays. A
POWER_CREDIT of a reachable peer is kept; without a current one from every present peer the shift does not stay above
zero; the shift rises by at most 1/400 of the base cap in a round, never above the claim limit, and is zero where
credits are off; each round tells every peer. In partition mode nothing of this happens. -/
def Obligations.FlitsAndPowerCredits : Prop :=
  (∀ (s : State) (peer : Fin 8) (bytes : List Byte),
     let p := peer.val
     let x := s.peer p
     let run := exec (.flitReceive peer bytes) s
     let answered (t : State) (nak : Bool) (c : Option (Nat × Nat)) (rx : BitVec 12) : Prop :=
       t.out = s.out ++ [.flit p (flitBytes 3 0 x.seq rx nak c (List.replicate 492 0))]
     (s.reachable p = false → run = .next s) ∧
     (s.reachable p = true → bytes.length ≠ 504 ∨ leNat (bytes.drop 500) ≠ (crc32 (bytes.take 500)).toNat → ∃ t, run = .next t ∧
       answered t true none x.rx ∧ t.peer p = x ∧
       t.group (s.pathTo p) = { s.group (s.pathTo p) with crcFails := (s.group (s.pathTo p)).crcFails + 1 }) ∧
     (∀ f, s.reachable p = true → flitOf bytes = some f → x.out = [] → x.ctlq = [] →
       let back (key : Nat) (n : BitVec 8) : Int :=
         let m := tabGet 0 (creditsFull s.mode.cur.four) key
         let v := tabGet 0 x.credits key + n.toNat
         if m = 0 then v else min m v
       let d := (f.seq - x.rx).toNat
       let k := (f.ackseq - (x.seq - BitVec.ofNat 12 x.replay.length)).toNat
       let freed := if k ≤ x.replay.length then k else 0
       let stuck := if 0 < freed then 0 else x.stuck
       let took (t : State) : Prop := (t.peer p).replay = x.replay.drop freed ∧ (t.peer p).seq = x.seq ∧
         tabGet 0 (t.peer p).credits (vcKey 2 0) = back (vcKey 2 0) f.cr2 ∧ (t.peer p).held = x.held.drop f.cr2.toNat ∧
         tabGet 0 (t.peer p).credits (vcKey 1 f.crp) = back (vcKey 1 f.crp) f.cr1 ∧
         tabGet 0 (t.peer p).credits (vcKey 0 f.crp) = back (vcKey 0 f.crp) f.cr0
       (f.nak = false →
         (f.vc.val = 3 ∨ 2048 ≤ d → ∃ t, run = .next t ∧ took t ∧ t.out = s.out ∧ (t.peer p).rx = x.rx) ∧
         (f.vc.val ≠ 3 → d ≠ 0 → d < 2048 → ∃ t, run = .next t ∧ took t ∧ answered t true none x.rx ∧ (t.peer p).rx = x.rx) ∧
         (f.vc.val ≠ 3 → d = 0 → tabGet [] x.stream (vcKey f.vc f.part) = [] →
           ((∀ b ∈ f.payload, b = 0) → ∃ t, run = .next t ∧ took t ∧
             answered t false (some (f.vc.val, f.part.val)) (x.rx + 1) ∧ (t.peer p).rx = x.rx + 1) ∧
           /- one whole segment, then zeros -/
           (∀ h data z, f.payload = h ++ data ++ List.replicate z 0 → h.length = 64 → h.head? ≠ some 0 →
             data.length = bits (headWord h 2) 31 16 → ∃ v : State, took v ∧ (v.peer p).rx = x.rx + 1 ∧ v.out = s.out ∧
               (∀ j, j ≠ p → v.peer j = s.peer j) ∧
               (let f := { v.fabric with peers := s.fabric.peers }
               { v with fabric := f } = s) ∧
               run = .next ((v.deliver peer h data).idleFlit p false (some (f.vc.val, f.part.val)))))) ∧
       (f.nak = true → f.vc.val = 3 → freed < x.replay.length →
         (stuck < s.odVal 0x903002 16 → ∃ t, run = .next t ∧ took t ∧ (t.peer p).stuck = stuck + 1 ∧
           t.out = s.out ++ (x.replay.drop freed).map fun e => .flit p (flitBytes e.2.1 e.2.2.1 e.1 x.rx false none e.2.2.2)) ∧
         (s.odVal 0x903002 16 ≤ stuck → ∃ t, run = .next t ∧ (t.group (s.pathTo p)).st = s.failedState (s.pathTo p))))) ∧
  (∀ (s : State),
     let w := s.power
     let four := s.mode.cur.four
     (∀ (peer : Fin 8) (c : Credit), s.reachable peer = false → exec (.powerCredit peer c) s = .next s) ∧
     (∀ (peer : Fin 8) (c : Credit), four = false → s.reachable peer = true → ∃ t, exec (.powerCredit peer c) s = .next t ∧
       t.peer peer = { s.peer peer with credit := some c, stale := false } ∧ (∀ k, k ≠ peer.val → t.peer k = s.peer k) ∧
       (let f := { t.fabric with peers := s.fabric.peers }
       { t with fabric := f } = s)) ∧
     (∀ peer : Fin 8, four = false → ∃ t, exec (.powerCreditStale peer) s = .next t ∧
       t.peer peer = { s.peer peer with stale := true } ∧ (∀ k, k ≠ peer.val → t.peer k = s.peer k) ∧
       t.power = { w with shiftmW := min w.shiftmW 0, fresh := false } ∧
       (let f := { t.fabric with peers := s.fabric.peers }
       { t with fabric := f, power := w } = s)) ∧
     (∀ b n, s.linksAlive = false → exec (.powerRound b n) s = .next s) ∧
     (∀ b n, four = false → s.linksAlive = true →
       let l := s.presentCredits
       let current : Prop := ∀ e ∈ l, e.2 ≠ none
       let on : Prop := s.odVal 0x303201 1 = 1
       let msgs := l.filterMap fun e => e.2.map fun c => (e.1, c)
       let limit := (shiftTarget s.mod.pos.val s.basecap b.toNat n.toNat msgs).2
       ∃ t, exec (.powerRound b n) s = .next t ∧ t.power.round = w.round + 1 ∧ (t.power.fresh = true ↔ current) ∧
         (¬ on → t.power.shiftmW = 0) ∧
         (on → ¬ current → t.power.shiftmW = min w.shiftmW 0) ∧
         (on → current → w.fresh = false → t.power.shiftmW = w.shiftmW) ∧
         (on → current → w.fresh = true → t.power.shiftmW ≤ w.shiftmW + s.basecap / 400 ∧
           (0 < t.power.shiftmW → t.power.shiftmW ≤ limit)) ∧
         { t.power with round := w.round, fresh := w.fresh, shiftmW := w.shiftmW } = w ∧
         ∀ p, p < 8 → s.reachable p = true → ∃ args, .control p 0x30 args ∈ t.out ∧ args.length = 3 ∧
           args.getD 0 0 = w.round.toNat * 2 ^ 32 + (if s.odVal 0x303201 1 = 1 then b.toNat else 0) ∧ args.getD 2 0 = n.toNat) ∧
     (four = true → (∀ peer c, exec (.powerCredit peer c) s = .next s) ∧ (∀ peer, exec (.powerCreditStale peer) s = .next s) ∧
       ∀ b n, exec (.powerRound b n) s = .next s))

/-- R319, R321, R322, R323, R324, R313, R314, R316, R360: A granule in which one burst alone returns something wrong
is corrected where the burst is flagged or the error stands in its data; any other is uncorrectable. Patrol reads the
next granule of its stack, in turn: a corrected one counts for its stack and with its rows, and is written back unless
a write has reached it since; an uncorrectable one is logged. A row with 4 corrected granules within 24 h, or with an
uncorrectable one, moves to a spare row that no remap uses, and is recorded, up to 64 of a stack. That an error of
another kind is always detected, and that a burst returns nothing wrong after one wrong bit, is the model's reading of
R317 and R319 (log 77). A region-table entry that host software writes takes its fields for every later check where
R314 allows it; else the write is refused. A scrubbed region reads as invalid until its bytes are zero. -/
def Obligations.PatrolRemapsAndRegions : Prop :=
  ((∀ (s : State) (e : GranuleError),
     let wrong := e.bursts.filter fun b => 2 ≤ b.bits.length
     let u := s.granuleFault e
     let good : Prop := wrong.length = 1 ∧ ∀ b ∈ wrong, b.found = true ∨ ∀ i ∈ b.bits, i.val < 256
     let pcs := wrong.map fun b => 16 * ((s.stackOf (512 * e.granule)).2 / 512 % 2) + b.burst.val
     let noted := tabSet ([], 0) s.ecc.errors e.granule (pcs, e.row)
     (s.hbmCap ≤ 512 * e.granule ∨ wrong = [] → u = s) ∧
     (512 * e.granule < s.hbmCap → good → u = { s with ecc := { s.ecc with
       errors := if e.granule ∈ s.ecc.bad then s.ecc.errors else noted } }) ∧
     (512 * e.granule < s.hbmCap → wrong ≠ [] → ¬ good → u = { s with ecc := { s.ecc with
       errors := noted, bad := if e.granule ∈ s.ecc.bad then s.ecc.bad else s.ecc.bad ++ [e.granule] } })) ∧
   (∀ (s0 : State) (h : Fin 12) (arisen : List GranuleError) (since : Bool),
     let s := arisen.foldl State.granuleFault s0
     let n := tabGet 0 s.ecc.patrol h
     let o := s.granuleIn s.mode.cur.four h n
     let g := o / 512
     let e := { s.ecc with patrol := tabSet 0 s.ecc.patrol h ((n + 1) % s.stackGranules) }
     let k := (s.stackOf (512 * g)).1
     let rows := (tabGet ([], 0) s.ecc.errors g).1.map fun pc => (pc, (tabGet ([], 0) s.ecc.errors g).2)
     (n < s.stackGranules → (s.stackOf o).1 = h) ∧
     (g ∈ s.ecc.bad → ∃ t, exec (.patrolRead h arisen since) s0 = .next t ∧
       (∀ i, tabGet 0 t.ecc.uncorrectable i = tabGet 0 s.ecc.uncorrectable i + if i = (s.stackOf o).1 then 1 else 0) ∧
       (∀ r, r ∈ t.ecc.lostRows ↔ r ∈ s.ecc.lostRows ∨ r ∈ rows.map fun x => ((s.stackOf o).1, x)) ∧
       t.ecc = { e with uncorrectable := t.ecc.uncorrectable, lostRows := t.ecc.lostRows, losses := e.losses ++ [(s.tsc, (s.stackOf o).1)] } ∧
       t.out = s.out ++ [.log (s.offsetPart o) .uncorrectable [(s.stackOf o).1, (s.stackOf o).2, o]] ∧
       { t with ecc := s.ecc, out := s.out } = s) ∧
     (g ∉ s.ecc.bad → (∀ x ∈ s.ecc.errors, x.1 ≠ g) → exec (.patrolRead h arisen since) s0 = .next { s with ecc := e }) ∧
     (g ∉ s.ecc.bad → (∃ x ∈ s.ecc.errors, x.1 = g) → ∃ t, exec (.patrolRead h arisen since) s0 = .next t ∧
       (∀ i, tabGet 0 t.ecc.corrected i = tabGet 0 s.ecc.corrected i + if i = k then 1 else 0) ∧
       t.ecc = { e with
         corrected := t.ecc.corrected, hits := e.hits ++ rows.map fun x => (s.tsc, k, x)
         errors := if since then e.errors else e.errors.filter fun x => x.1 ≠ g } ∧
       { t with ecc := s.ecc } = s)) ∧
   (∀ (s : State) (h : Fin 12) (pc : Fin 32) (row : Nat),
     let due : Prop := (∀ spare, (h.val, pc.val, row, spare) ∉ s.ecc.remaps) ∧
       (4 ≤ (s.ecc.hits.filter fun x => decide (s.tsc < x.1 + 86400000000000) && x.2 == (h.val, pc.val, row)).length ∨
         (h.val, pc.val, row) ∈ s.ecc.lostRows)
     let used := (s.ecc.remaps.filter fun x => x.1 = h.val).length
     (¬ due → exec (.rowRemap h pc row) s = .next s) ∧
     (due → 64 ≤ used → exec (.rowRemap h pc row) s = .next { s with
       ecc := { s.ecc with alarm := tabSet 0 s.ecc.alarm h 1 }, out := s.out ++ [.log none .repairAlarm [h.val]] }) ∧
     (due → used < 64 → ∃ spare, (∀ x ∈ s.ecc.remaps, x.1 = h.val → x.2.1 = pc.val → x.2.2.2 ≠ spare) ∧ spare < 65 ∧
       exec (.rowRemap h pc row) s = .next { s with
         ecc := { s.ecc with remaps := s.ecc.remaps ++ [(h.val, pc.val, row, spare)]
                             lostRows := s.ecc.lostRows.filter fun x => x ≠ (h.val, pc.val, row) }
         test := { s.test with repairs := (s.test.repairs ++ [(⟨resultW0 7 h 0 0 1 0, BitVec.ofNat 64 (pc.val * 2 ^ 32 + spare)⟩ : Result)]).take 4096 }
         out := s.out ++ [.log none .remap [h.val, pc.val, row, spare]] }))) ∧
  ((∀ (s : State) (q : OdReq), s.OdAccepts q 0x402002 →
     let n := leNat q.value
     let k := (s.ctx q.ctx).regSel.toNat
     let p := if s.mode.cur.four then (k - 16) / 60 else 0
     let new : Region := ⟨bit n 63, bit n 62, bits n 61 60, bit n 59, bit n 58, bits n 127 96, bits n 95 64⟩
     let base := 0x200000 * new.base
     let size := 0x200000 * new.npg
     let inside : Prop := if s.mode.cur.four then p * s.quarter ≤ base ∧ base + size ≤ (p + 1) * s.quarter else base + size ≤ s.sysBase
     let apart : Prop := ∀ x ∈ s.regions, x.1 ≠ k → (x.2.v = true ∨ x.1 ∈ s.sec.scrubs) →
       base + size ≤ 0x200000 * x.2.base ∨ 0x200000 * (x.2.base + x.2.npg) ≤ base
     let allowed : Prop := 16 ≤ k ∧ new.baseRo = false ∧ (tabGet {} s.regions k).baseRo = false ∧ new.owner = p ∧
       (new.v = true → 1 ≤ new.npg ∧ inside ∧ apart)
     let answers (u : State) (st : Status) : Prop := exec (.regionEntry q) s = .next (u.odAnswer q.ctx q.msn st [])
     (k ∈ s.sec.scrubs → answers s St.odBusy) ∧
     (k ∉ s.sec.scrubs → ¬ allowed → answers s St.odValueInvalid) ∧
     (k ∉ s.sec.scrubs → allowed → ∃ u, answers u St.ok ∧ { u with regions := s.regions } = s ∧
       ∀ j, tabGet {} u.regions j = if j = k then new else tabGet {} s.regions j)) ∧
   (∀ (s : State) (q : OdReq), s.OdAccepts q 0x403003 →
     let k := leNat q.value
     let r := tabGet {} s.regions k
     let answers (u : State) (st : Status) : Prop := exec (.regionScrub q) s = .next (u.odAnswer q.ctx q.msn st [])
     (k ∈ s.sec.scrubs → answers s St.odBusy) ∧
     (k ∉ s.sec.scrubs → r.baseRo = true → r.v = true → 16 ≤ k → answers s St.regionReadOnly) ∧
     (k ∉ s.sec.scrubs → (k < 16 ∨ r.v = false) → answers s St.odValueInvalid) ∧
     (k ∉ s.sec.scrubs → 16 ≤ k → r.v = true → r.baseRo = false → ∃ u, answers u St.ok ∧
       u.sec = { s.sec with scrubs := s.sec.scrubs ++ [k] } ∧ { u with regions := s.regions, sec := s.sec } = s ∧
       ∀ j, tabGet {} u.regions j = if j = k then { r with v := false } else tabGet {} s.regions j)) ∧
   (∀ (s : State) (k : Fin 256), k.val ∈ s.sec.scrubs →
     let r := tabGet {} s.regions k
     let base := 0x200000 * r.base
     let n := 0x200000 * r.npg
     r.npg ≠ 0 → ∃ t, exec (.regionScrubDone k) s = .next t ∧
       (∀ a, tabGet 0 t.hbm a = if base ≤ a ∧ a < base + n then 0 else tabGet 0 s.hbm a) ∧
       (∀ g, g ∈ t.ecc.bad ↔ g ∈ s.ecc.bad ∧ ¬ (base ≤ 512 * g ∧ 512 * g < base + n)) ∧
       (∀ x, x ∈ t.ecc.errors ↔ x ∈ s.ecc.errors ∧ ¬ (base ≤ 512 * x.1 ∧ 512 * x.1 < base + n)) ∧
       (∀ j, tabGet {} t.regions j = if j = k.val then { r with v := true } else tabGet {} s.regions j) ∧
       t.sec = { s.sec with scrubs := s.sec.scrubs.filter fun i => i ≠ k.val } ∧ { t.ecc with bad := s.ecc.bad, errors := s.ecc.errors } = s.ecc ∧
       { t with hbm := s.hbm, regions := s.regions, ecc := s.ecc, sec := s.sec } = s))

/-- R327, R328, R329, R330: At the check interval each member of this device sends the digest of each of its shards,
with its ECC record, to the coordinator; a reset, a mode change or a member out of reach abandons the round. The
payload's words are the model's (log 38). At the coordinator, once a digest of a shard has come from every member:
where a strict majority agrees, every member that differs is quarantined; else the one with the worse ECC record, of
equal ones the higher number. Outputs of a pair that differ start a round. A quarantined member of this device
refetches the shard, writes it, and sends its new digest; one whose digest matches, or which holds the golden copy, is
restored. The orders are the model's messages (log 38). -/
def Obligations.Replicas : Prop :=
  (∀ (s : State),
     let own := s.members.filter fun m => memberDev m == s.mod.pos.val
     let quiet : Prop := s.mode.st = .stable ∧ (∀ m ∈ own, memberPart m ∉ s.sec.resetting) ∧
       ∀ m ∈ s.members, memberDev m ≠ s.mod.pos.val → s.reachable (memberDev m) = true
     (own = [] ∨ ¬ quiet → exec .replicaCheck s = .next { s with
       replica := { s.replica with round := false, cause := none, fresh := [], compared := [], differ := false } }) ∧
     (own ≠ [] → quiet → ∀ c, s.coordinator = some c → memberDev c ≠ s.mod.pos.val →
       ∃ t, exec .replicaCheck s = .next t ∧ { t with replica := s.replica, out := s.out, fabric := s.fabric } = s ∧
         t.replica.round = true ∧ t.replica.quarantined = s.replica.quarantined ∧ t.replica.refetch = s.replica.refetch ∧
         ∀ m ∈ own, ∀ k, k < s.shardCount (memberPart m) →
           let d := s.shardDigest (memberPart m) k
           (k < 2 ^ 16 → (2 ^ 16 * m + k, d, s.tsc) ∈ t.replica.table) ∧
           Emit.control (memberDev c) 0x38 [0, m, k, d.toNat % 2 ^ 64, d.toNat / 2 ^ 64 % 2 ^ 64, d.toNat / 2 ^ 128 % 2 ^ 64,
             d.toNat / 2 ^ 192 % 2 ^ 64, s.eccRecord (memberPart m)] ∈ t.out) ∧
     (∀ p k, (∀ x ∈ s.shardPieces p k, s.hbmBad x.1 x.2 = false) → s.shardDigest p k =
       BitVec.ofNat 256 (leNat (sha256 ((s.shardPieces p k).flatMap fun x => s.hbmRead x.1 x.2)))) ∧
     (∀ (m : Fin 32) (k : Nat) (d : BitVec 256) (e c : Nat), s.coordinator = some c → memberDev c ≠ s.mod.pos.val →
       memberDev m = s.mod.pos.val → exec (.digest .start m k ⟨d, e⟩) s = exec .replicaCheck s) ∧
     ∃ t, exec .replicaCheck s = .next t ∧ { t with replica := s.replica, out := s.out, fabric := s.fabric, test := s.test } = s) ∧
  ((∀ (s : State) (m : Fin 32) (k : Nat) (new : BitVec 256) (ecc : Nat) (known : Nat → BitVec 256 × Nat),
     (∃ c, s.coordinator = some c ∧ memberDev c = s.mod.pos.val) → m.val ∈ s.members → memberDev m ≠ s.mod.pos.val →
     (∀ x ∈ s.members, (x, k) ∉ s.replica.refetch) → (∀ x ∈ s.members, x ≠ m.val → s.digestAt x k = some (known x)) →
     known m = (new, ecc) →
     let count (d : BitVec 256) : Nat := (s.members.filter fun x => (known x).1 == d).length
     let worst (w : Nat) : Prop := w ∈ s.members ∧ ∀ x ∈ s.members, x ≠ w →
       (known x).2 < (known w).2 ∨ (known x).2 = (known w).2 ∧ x < w
     let all : Prop := ∀ x ∈ s.members, x ≠ m.val → (x, k) ∈ s.replica.fresh
     (s.roundLost = true → exec (.digest .round m k ⟨new, ecc⟩) s = .next s.abandonRound) ∧
     (s.roundLost = false → ∃ t, exec (.digest .round m k ⟨new, ecc⟩) s = .next t ∧
       { t with replica := s.replica, out := s.out, fabric := s.fabric } = s ∧ t.digestAt m k = some (new, ecc) ∧
       (¬ all → t.replica.quarantined = s.replica.quarantined) ∧
       (all → (∀ x ∈ s.members, (known x).1 = new) → t.replica.quarantined = s.replica.quarantined) ∧
       (all → ∀ d, s.members.length < 2 * count d → ∀ x, x ∈ t.replica.quarantined ↔
         x ∈ s.replica.quarantined ∨ (x ∈ s.members ∧ (known x).1 ≠ d)) ∧
       (all → (∀ d, 2 * count d ≤ s.members.length) → ∀ w, worst w → ∀ x, x ∈ t.replica.quarantined ↔
         x ∈ s.replica.quarantined ∨ x = w))) ∧
   (∀ (s : State) (m : Fin 32) (k : Nat) (new : BitVec 256) (ecc : Nat),
     (∃ c, s.coordinator = some c ∧ memberDev c = s.mod.pos.val) → m.val ∈ s.members → memberDev m ≠ s.mod.pos.val →
     (∀ x, (x, k) ∈ s.replica.refetch → x ∈ s.replica.quarantined) →
     ((m.val, k) ∈ s.replica.refetch → ∃ t, exec (.digest .refetched m k ⟨new, ecc⟩) s = .next t ∧
       (m.val, k) ∉ t.replica.refetch ∧
       (m.val ∈ t.replica.quarantined ↔ m.val ∈ s.replica.quarantined ∧ ∃ j, (m.val, j) ∈ t.replica.refetch) ∧
       (∀ x, x ≠ m.val → (x ∈ t.replica.quarantined ↔ x ∈ s.replica.quarantined ∨
         (x ∈ s.members ∧ ∃ e, s.digestAt x k = some e ∧ e.1 ≠ new)))) ∧
     (∃ t, exec (.digest .restore m k ⟨new, ecc⟩) s = .next t ∧ m.val ∉ t.replica.quarantined ∧ ∀ j, (m.val, j) ∉ t.replica.refetch) ∧
     ∀ utag slot gen, let x : OutDigest := ⟨utag, m, slot, gen, k, new⟩
       let pair := s.replica.pairs.find? fun e => e.utag == utag && e.unit == k && e.member != m.val
       let kept := s.replica.pairs.filter fun e => !(e.utag == utag && e.unit == k)
       (pair = none → exec (.digest (.output utag slot gen) m k ⟨new, ecc⟩) s = .next { s with
         replica := { s.replica with pairs := kept ++ [x] } }) ∧
       (∀ e, pair = some e → e.digest = new → exec (.digest (.output utag slot gen) m k ⟨new, ecc⟩) s = .next { s with
         replica := { s.replica with pairs := s.replica.pairs.filter fun y => y ≠ e } }) ∧
       (∀ e, pair = some e → e.digest ≠ new → ∃ t, exec (.digest (.output utag slot gen) m k ⟨new, ecc⟩) s = .next t ∧
         ∀ y ∈ s.members, memberDev y ≠ s.mod.pos.val → s.reachable (memberDev y) = true →
           Emit.control (memberDev y) 0x38 [4, 4 * memberDev y, 0] ∈ t.out)) ∧
   (∀ (s : State) (m : Fin 32) (k : Nat) (new : BitVec 256) (ecc c : Nat),
     s.coordinator = some c → memberDev c ≠ s.mod.pos.val → m.val ∈ s.members → memberDev m = s.mod.pos.val →
     ((m.val, k) ∉ s.replica.refetch → ∃ t, exec (.digest .quarantine m k ⟨new, ecc⟩) s = .next t ∧ m.val ∈ t.replica.quarantined ∧
       (m.val, k) ∈ t.replica.refetch ∧ { t with replica := s.replica, out := s.out } = s) ∧
     ((m.val, k) ∈ s.replica.refetch → exec (.digest .quarantine m k ⟨new, ecc⟩) s = .next s) ∧
     ((m.val, k) ∈ s.replica.refetch → ∃ t, exec (.digest .restore m k ⟨new, ecc⟩) s = .next t ∧ (m.val, k) ∉ t.replica.refetch ∧
       (m.val ∈ t.replica.quarantined ↔ m.val ∈ s.replica.quarantined ∧ ∃ j, (m.val, j) ∈ t.replica.refetch) ∧
       { t with replica := s.replica, out := s.out, test := s.test } = s)) ∧
   (∀ (s : State) (m : Fin 32) (k : Nat) (ans : Answer), (m.val, k) ∈ s.replica.refetch → memberDev m = s.mod.pos.val →
     let p := memberPart m
     let n := ((s.shardPieces p k).map Prod.snd).sum
     let src := BitVec.ofNat 64 (s.odVal 0x705003 0 + 0x4000000 * k)
     let failed : Prop := ∃ t, exec (.replicaRefetchDone m k ans) s = .next t ∧
       t.replica = { s.replica with events := s.replica.events + 1 } ∧ { t with replica := s.replica, out := s.out } = s
     (gaSpace src = 15 → failed) ∧
     (gaDev src ≠ s.mod.pos.val → (ans.status ≠ 0 ∨ ans.data.length ≠ n) → failed) ∧
     (gaSpace src ≠ 15 → gaDev src ≠ s.mod.pos.val → ans.status = 0 → ans.data.length = n →
       (∀ o q l st, s.shardPieces p k = (o, q) :: l → s.regionCheck (Init.firmware p) o q true = some st → failed) ∧
       (∀ o c, s.shardPieces p k = [(o, n)] → o + n ≤ s.sysBase →
         s.regionCheck (Init.firmware p) o n true = none → s.hbmBarrier o n = none → s.coordinator = some c →
         memberDev c ≠ s.mod.pos.val → s.reachable (memberDev c) = true →
         let d := leNat (sha256 ans.data)
         ∃ t, exec (.replicaRefetchDone m k ans) s = .next t ∧
           s.HbmWrites { t with replica := s.replica, out := s.out, fabric := s.fabric } o ans.data ∧
           t.replica.quarantined = s.replica.quarantined ∧ t.replica.refetch = s.replica.refetch ∧
           Emit.control (memberDev c) 0x38 [1, m, k, d % 2 ^ 64, d / 2 ^ 64 % 2 ^ 64, d / 2 ^ 128 % 2 ^ 64, d / 2 ^ 192 % 2 ^ 64,
             t.eccRecord p] ∈ t.out))))

/-- R343, R344, R345, R346, R347, R350, R395, R351, R352, R353, R354, R355: A point of P-256 claims an UNCLAIMED
device once; a release by its value ends every work, zeroes user memory, contexts and slots, erases the key and resets
the device; Saggar draws nonces and ends lockouts, and zeroes every secret before it grants scan; security versions
are fused up to the running images', within 32 steps. A quote request of an allowed scope is BUSY, and then its 448
bytes stand with the fields of R352, signed: in the form of R355 where the partition of its scope is being reset; the
working registers that signed it are zeroed. -/
def Obligations.OwnershipVersionsAndQuotes : Prop :=
  ((∀ (s : State) (q : OdReq),
     let v := leNat q.value
     let answers (u : State) (st : Status) : Prop := exec (.ownerKeyClaim q) s = .next (u.odAnswer q.ctx q.msn st [])
     (odKeyOf q = 0x102002 → (s.ctx q.ctx).st = .open_ → s.fw.pause = false → s.sec.claimed = true → answers s St.odAccessDenied) ∧
     (s.OdAccepts q 0x102002 → pointOk (natLE v 65) = false → answers s St.odValueInvalid) ∧
     (s.OdAccepts q 0x102002 → pointOk (natLE v 65) = true →
       let k := hmac (hmac (natLE (Config.fuse 0x101001) 8) (bigBytes (Config.ecdh 0 (v % 2 ^ 520)) 32)) (asciiBytes "T8-OWNER-1" ++ [1])
       answers { s with sec := { s.sec with
         claimed := true, ownerKey := BitVec.ofNat 520 v, kown := BitVec.ofNat 256 (leNat k)
         keys := { drbg := s.sec.keys.drbg } } } St.ok)) ∧
   (∀ (s : State) (q : OdReq), s.OdAccepts q 0x400101 →
     (leNat q.value ≠ 0x52454C53 → exec (.ownerRelease q) s = .next (s.odAnswer q.ctx q.msn St.odValueInvalid [])) ∧
     (leNat q.value = 0x52454C53 → ∃ t, exec (.ownerRelease q) s = .next t ∧ t.boot = .starting ∧ t.cause = .ownerRelease ∧
       t.sec.claimed = false ∧ t.sec.ownerKey = 0 ∧ t.sec.kown = 0 ∧ t.sec.keys = {} ∧ (∀ a, a < s.sysBase → tabGet 0 t.hbm a = 0) ∧
       (∀ c, t.ctx c = {}) ∧ (∀ i, t.wk i = {}) ∧ (∀ i, i < 16384 → ∀ b, b < 256 → tabGet 0 t.hbm (s.slotOff i + b) = 0) ∧
       (∀ d, d < 524288 → t.entry d = {}) ∧ t.odStore = s.odStore ∧ t.fw.fused = s.fw.fused ∧ t.test.downtime = s.test.downtime)) ∧
   (∀ s : State,
     exec .nonceRefresh s = .next { s with free := s.free + 1, sec := { s.sec with
       nonce := BitVec.ofNat 64 (Config.drbg s.free), keys := { s.sec.keys with drbg := BitVec.ofNat 256 (Config.freeNat s.free) } } } ∧
     exec .secureOpenLockoutEnd s = .next { s with sec := { s.sec with lockout := false, refusals := [] } } ∧
     ∀ blk inst unit, ∃ n, exec (.scanGrantRequest blk inst unit) s = .next { s with
       free := s.free + 1, sec := { s.sec with
         grant := some (blk.val, inst.val, unit.val), cleared := n, kown := 0, keys := {} } }) ∧
   (∀ (s : State) (q : OdReq), s.OdAccepts q 0x401002 →
     let answers (u : State) (st : Status) : Prop := exec (.securityVersionCommit q) s = .next (u.odAnswer q.ctx q.msn st [])
     let up (n : Nat) (i : Image) : Nat := min 31 (max (s.fw.fused.getD n 0) i.svn)
     let r := s.fw.running
     ((s.fw.ust ≠ .idle ∧ s.fw.ust ≠ .failed) → answers s St.modeBusy) ∧
     ((s.fw.ust = .idle ∨ s.fw.ust = .failed) → leNat q.value = 1 →
       answers { s with fw := { s.fw with fused := [up 0 r.sgf, up 1 r.mgf, up 2 r.trf] } } St.ok))) ∧
  ((∀ (s : State) (q : OdReq), s.OdAccepts q 0x103001 →
     let x := s.ctx q.ctx
     let v := leNat q.value
     let scope := v / 2 ^ 256
     let answers (u : State) (st : Status) : Prop := exec (.quoteRequest q) s = .next (u.odAnswer q.ctx q.msn st [])
     let ofPart : Prop := s.mode.cur.four = true ∧ 0x10 ≤ scope ∧ scope ≤ 0x13
     (scope ≠ 0 → ¬ ofPart → answers s St.odValueInvalid) ∧
     (ofPart → x.secure = false → scope ≠ 0x10 + x.part → answers s St.odAccessDenied) ∧
     (scope = 0 ∨ ofPart ∧ (x.secure = true ∨ scope = 0x10 + x.part) → ∃ u, answers u St.ok ∧
       u.ctx q.ctx = { x with quote := .busy, quoteReq := BitVec.ofNat 264 v, quoteBytes := []
                              quoteReset := decide (scope ≠ 0) && s.sec.resetting.contains (scope - 0x10) } ∧
       (∀ c, c ≠ q.ctx.val → u.ctx c = s.ctx c) ∧ u.sec = { s.sec with keys := u.sec.keys } ∧
       { u with port := { u.port with ctxs := s.port.ctxs }, sec := s.sec, free := s.free } = s)) ∧
   (∀ (s : State) (c : Fin 16384), (s.ctx c).quote ≠ .busy → exec (.quoteCapture c) s = .next s) ∧
   (∀ (s : State) (c : Fin 16384), (s.ctx c).quote = .busy → s.fw.fused.length = 3 →
     let x := s.ctx c
     let f := s.fw
     let scope := x.quoteReq.toNat / 2 ^ 256
     let resetting : Bool := x.quoteReset || (decide (0x10 ≤ scope ∧ scope ≤ 0x13) && s.sec.resetting.contains (scope - 0x10))
     let status : Status := if resetting then 0x0902 else if f.pend.isSome then 0x0901 else 0
     let measure (i : Image) : Nat := i.measure.toNat
     ∃ t bs, exec (.quoteCapture c) s = .next t ∧ t.ctx c = { x with quote := .done, quoteBytes := bs } ∧
       (∀ d, d ≠ c.val → t.ctx d = s.ctx d) ∧ t.sec = { s.sec with keys := { drbg := s.sec.keys.drbg } } ∧
       { t with port := { t.port with ctxs := s.port.ctxs }, sec := s.sec } = s ∧ bs.length = 448 ∧
       (let field (o n : Nat) : Nat := leNat ((bs.drop o).take n)
       field 0 8 = 0x01C0000154515554 ∧ field 8 2 = status.toNat ∧ field 0xA 1 = scope ∧ field 0xB 1 = s.mode.cur.four.toNat ∧
       field 0xC 4 = s.mode.epoch.toNat ∧ field 0x10 32 = x.quoteReq.toNat % 2 ^ 256 ∧ field 0x38 2 = 0x00B0 ∧
       field 0x40 8 = s.tsc / 1000000 % 2 ^ 64 ∧ field 0x48 8 = 0 ∧
       (resetting = true → field 0x50 208 = 0) ∧
       (resetting = false → field 0x50 32 = measure f.running.sgf ∧ field 0x70 32 = measure f.running.mgf ∧
         field 0x90 32 = measure f.running.trf ∧ field 0xF0 32 = (f.pend.elim 0 measure) ∧
         field 0xB0 32 = leNat (sha256 (natLE s.sec.ownerKey.toNat 65 ++ [BitVec.ofNat 8 s.mode.cur.four.toNat] ++
           f.fused.flatMap fun n => natLE n 4)) ∧
         field 0x110 12 = f.running.sgf.version.toNat + 2 ^ 32 * f.running.mgf.version.toNat + 2 ^ 64 * f.running.trf.version.toNat ∧
         field 0x11C 1 = (f.pend.elim 0 Image.kind) % 256 ∧ field 0x11D 1 = f.runB.toNat ∧ field 0x11E 2 = f.trfsh.toNat) ∧
       bs.drop 0x180 = bigBytes (Config.ecdsaSign (bigNat (sha256 (bs.take 0x180)))) 64)))

/-- R367, R370, R371, R373, R374, R375, R380, R379, R381: What an estimation period makes of an island's step: never
above the ceilings; down where an average exceeds its cap or a current its limit, clock first; up by one, its slew
first, only with both averages 2 % below and no lowering for 100 µs; deferred while a response is in force. A finished
slew switches the clock up, unless a response defers the switch; a droop runs the island's clock eight steps lower, a
warning at step 0 with issue held; the deferred change is carried out once the response has cleared. -/
def Obligations.IslandSteps : Prop :=
  (∀ (s : State) (acts : List Activity) (hbm : Nat),
     let act (i : Nat) : Activity := acts.getD i ⟨0, 0, 0, 0, 0, 0, 0, 0, 0⟩
     let own (i : Nat) : Nat := islandPower (s.island i).mV (act i) 1 1
     let links := ((List.range 16).filter fun g => (s.group g).st.up).length
     let total := sharedPower hbm 0 links + (own 0 + own 1 + own 2 + own 3)
     let four := s.mode.cur.four
     let hist (i : Nat) : List Nat := (if four then own i :: (s.island i).hist else total :: s.power.hist).take 4000000
     let shift : Int := s.power.shiftmW * 1000
     let cap1 (i : Nat) : Int := if four then (s.odVal (0x303101 + i) 340 : Int) * 1000000 else (s.odVal 0x303001 1600 : Int) * 1000000 + shift
     let cap8 (i : Nat) : Int := if four then (s.odVal (0x303101 + i) 340 : Int) * 1000000 else (s.odVal 0x303002 1500 : Int) * 1000000 + shift
     let aboveCap (i : Nat) : Prop := cap1 i < average (hist i) 500000 ∨ cap8 i < average (hist i) 4000000
     let room (i : Nat) : Prop := 100 * (average (hist i) 500000 : Int) ≤ 98 * cap1 i ∧ 100 * (average (hist i) 4000000 : Int) ≤ 98 * cap8 i ∧
       50 ≤ (s.island i).sinceLower + 1 ∧ (s.island i).hold ≤ 1
     let current (i : Nat) : Nat := own i / max 1 (s.island i).mV
     let limit := 1000 * s.odVal 0x303003 2000
     let aboveLimit (i : Nat) : Prop := limit / 4 < current i ∨ (four = false ∧ limit < current 0 + current 1 + current 2 + current 3)
     let top := min ([15, 10].getD s.mode.cur.profile 5) s.power.ceiling
     let free (i : Nat) : Prop := s.response i = false ∧ (s.island i).deferred = none
     (s.serving = false ∨ s.power.sleep ≠ .active → exec (.estimationPeriod acts hbm) s = .next s) ∧
     (s.serving = true → s.power.sleep = .active → ∃ t, exec (.estimationPeriod acts hbm) s = .next t ∧
       { t with power := { t.power with islands := s.power.islands, hist := s.power.hist } } = s ∧
       t.power.hist = (total :: s.power.hist).take 4000000 ∧
       ∀ i, i < 4 →
         let d := s.island i
         let e := t.island i
         e.hist = (own i :: d.hist).take 4000000 ∧ e.droop = d.droop ∧ e.warn = d.warn ∧ e.down = d.down ∧
         (aboveLimit i → e.hold = 5) ∧
         (free i → e.step ≤ top ∧ e.step ≤ d.step + 1 ∧ e.deferred = none ∧
           (aboveCap i ∨ aboveLimit i → e.step ≤ d.step - 1) ∧
           (e.step < d.step → e.clk = min d.clk e.step ∧ e.mV = s.stepmV e.step ∧ e.slew = none ∧ e.sinceLower = 0) ∧
           (d.step < e.step → room i ∧ ¬ aboveLimit i ∧ d.slew = none ∧ e.slew = some e.step ∧ e.clk = d.clk ∧ e.mV = d.mV) ∧
           (four = true → room i → ¬ aboveLimit i → d.step + 1 ≤ top → d.slew = none → e.step = d.step + 1) ∧
           (e.step = d.step → e.clk = d.clk ∧ e.mV = d.mV ∧ e.slew = d.slew)) ∧
         (¬ free i → e.step = d.step ∧ e.clk = d.clk ∧ e.mV = d.mV ∧ e.slew = d.slew ∧
           ∀ x, d.deferred = some x → ∃ y, e.deferred = some y ∧ y ≤ x))) ∧
  (∀ (s : State) (i : Fin 4),
     let d := s.island i
     let only (t : State) : Prop := (∀ j, j ≠ i.val → t.island j = s.island j) ∧
       { t with power := { t.power with islands := s.power.islands } } = s
     (d.slew = none → exec (.slewDone i) s = .next s) ∧
     (∀ k, d.slew = some k → ∃ t, exec (.slewDone i) s = .next t ∧ only t ∧
       t.island i = if s.response i then { d with slew := none, mV := s.stepmV k, deferred := some (d.deferred.elim k fun x => min x k) }
         else { d with slew := none, mV := s.stepmV k, clk := k }) ∧
     (∃ t, exec (.droopDetect i) s = .next t ∧ only t ∧ t.island i = { d with droop := true } ∧
       (d.warn = false → (t.island i).clockNow = d.clk - 8)) ∧
     (∃ t, exec (.droopClear i) s = .next t ∧ only t ∧ t.island i = { d with droop := false } ∧
       (d.warn = false → (t.island i).clockNow = d.clk)) ∧
     (∃ t, exec (.supplyWarning i) s = .next t ∧ only t ∧ t.island i = { d with warn := true } ∧ (t.island i).clockNow = 0 ∧
       ∀ sh, islandOf sh = i.val → t.issueHeld sh = true) ∧
     (d.warn = false → exec (.supplyRecovery i) s = .next s) ∧
     (d.warn = true → ∃ t, exec (.supplyRecovery i) s = .next t ∧ (∀ j, j ≠ i.val → t.island j = s.island j) ∧
       t.island i = { d with warn := false } ∧ t.power.warnings = s.power.warnings + 1 ∧
       { t with power := { t.power with islands := s.power.islands, warnings := s.power.warnings } } = s) ∧
     (s.response i = true → exec (.deferredStep i) s = .next s) ∧
     (s.response i = false → ∃ t, exec (.deferredStep i) s = .next t ∧
       { t with power := { t.power with islands := s.power.islands } } = s ∧
       ∀ j, t.island j =
         let e := s.island j
         let carried (k : Nat) : Island :=
           if k = e.step then { e with deferred := none, clk := k }
           else if k < e.step then { e with deferred := none, step := k, clk := min e.clk k, mV := s.stepmV k, slew := none, sinceLower := 0 }
           else { e with deferred := none, step := k, slew := some k }
         if (if s.mode.cur.four then j = i.val else j < 4) then e.deferred.elim e carried else e))

/-- R184, R249, R376, R377, R382, R404: The throttle moves the ceiling by one step each 2 s; at the junction limit
every work ends THERMAL_TRIP and every shelf loses its contents; a rail below the reset level takes down its island,
or all in whole-device mode, and ends running work POWER_FAULT, and directory commands that wait ABORTED; no
reference, WAIT or load of the partition's entries stays; records wait for the restart, which reapplies the repair
maps. -/
def Obligations.ThermalAndSupply : Prop :=
  ∀ (s : State),
    let lost (t : State) (sh : Nat) : Prop := (t.shelf sh).sram = [] ∧ (t.shelf sh).churnBuf = [] ∧ (t.shelf sh).churnFlags = 0 ∧
      ∀ q, q < 9 → t.core (9 * sh + q) = { use := (s.core (9 * sh + q)).use }
    let mapped (t : State) (sh : Nat) : Prop := ∀ q, q < 9 → let k := s.core (9 * sh + q)
      t.core (9 * sh + q) = if k.use = .retired then k else { k with repair := s.repairMap (9 * sh + q) }
    let walked (t : State) (p : Nat) : Prop := ∀ d, s.inRange p d = true → t.entry d = { s.entry d with
      refcnt := 0, refMem := 0, wait := false, st := if (s.entry d).st = .loading then .parked else (s.entry d).st }
    (∀ temp : Int,
      let top := if 97 < temp then s.power.ceiling - 1 else if temp < 92 then min 15 (s.power.ceiling + 1) else s.power.ceiling
      exec (.thermalTick temp) s = .next { s with power := { s.power with ceiling := top } }) ∧
    ((s.power.trip = true ∨ s.serving = false) → exec .junctionLimit s = .next s) ∧
    (s.power.trip = false → s.serving = true → s.test.st = .idle → ∃ t, exec .junctionLimit s = .next t ∧ t.power.trip = true ∧
      (∀ i, (s.wk i).live = true → s.slotPart i < 4 → (t.wk i).st = .ending ∧ (t.wk i).status = St.thermalTrip) ∧
      (∀ sh, sh < 16 → lost t sh ∧ t.issueHeld sh = true) ∧ t.hbm = s.hbm ∧ t.port = s.port ∧
      ∀ p ∈ s.parts, walked t p) ∧
    (s.power.trip = false → exec .thermalRestart s = .next s) ∧
    (s.power.trip = true → ∃ t, exec .thermalRestart s = .next t ∧ t.power.trip = false ∧
      (∀ i, i < 4 → t.island i = { hist := (s.island i).hist }) ∧ (∀ sh, sh < 16 → mapped t sh) ∧
      (tabWf {} s.work.slots = true → ∀ i, (s.wk i).st = .ending → s.slotPart i < 4 → (t.wk i).st = .free ∧ (t.wk i).gen = nextGen (s.wk i).gen)) ∧
    (∀ i : Fin 4,
      let four := s.mode.cur.four
      let p := if four then i.val else 0
      let mine (sh : Nat) : Prop := four = true → sh / 4 = p
      ((s.island i).down = true ∨ s.serving = false → exec (.supplyReset i) s = .next s) ∧
      ((s.island i).down = false → s.serving = true → s.test.st = .idle →
        (∀ k, s.slotPart k = p → (s.wk k).group = 0 ∨ ghLeader (s.wk k).group ≠ s.mod.pos.val) →
        ∃ t, exec (.supplyReset i) s = .next t ∧ t.power.resets = s.power.resets + 1 ∧
        (∀ j, (s.wk j).st = .running → s.slotPart j = p → (s.wk j).kind ≠ 3 → (s.wk j).group = 0 →
          (t.wk j).st = .ending ∧ (t.wk j).status = St.powerFault) ∧
        (∀ j, (s.wk j).st = .running → s.slotPart j = p → (s.wk j).kind ≠ 3 → (s.wk j).group ≠ 0 → (t.wk j).st = .ending ∧
          (t.wk j).status = St.groupPartFailed ∧ (t.wk j).fpart = (s.wk j).part ∧ (t.wk j).pstat = St.powerFault) ∧
        (∀ j, (s.wk j).st = .running → (s.wk j).kind = 3 → (∃ c ∈ s.waitingCmds p, c.slot.map (·.val) = some j) →
          (t.wk j).st = .ending ∧ (t.wk j).status = St.aborted) ∧
        (∀ j, (s.wk j).st = .held → (∀ c ∈ s.waitingCmds p, c.slot.map (·.val) ≠ some j) → let w := s.wk j
          t.wk j = if w.kind = 1 ∧ w.handed = true ∧ s.slotPart j = p then
            { w with ref := none, waitLoad := false, handed := false, gathering := true } else w) ∧ walked t p ∧
        (∀ sh, sh < 16 → mine sh → lost t sh ∧ t.issueHeld sh = true) ∧
        (∀ sh, sh < 16 → ¬ mine sh → (∀ k, s.slotPart k = p → (s.wk k).st ≠ .running ∨ (s.wk k).kind = 3) →
          t.shelf sh = s.shelf sh ∧ ∀ q, q < 9 → t.core (9 * sh + q) = s.core (9 * sh + q)) ∧
        (∀ j, j < 4 → t.island j = if four = true ∧ j ≠ p then s.island j else
          { hist := (s.island j).hist, down := true, downAt := s.tsc }) ∧ t.hbm = s.hbm) ∧
      ((s.island i).down = false → exec (.arithmeticDomainRestore i) s = .next s) ∧
      ((s.island i).down = true → ∃ t, exec (.arithmeticDomainRestore i) s = .next t ∧
        (∀ j, j < 4 → t.island j = if four = true ∧ j ≠ p then s.island j else { hist := (s.island j).hist }) ∧
        (∀ sh, sh < 16 → mine sh → mapped t sh) ∧
        (s.test.ending = 0 → s.boot ≠ .degraded →
          t.test.downtime = s.test.downtime + (s.tsc - (s.island i).downAt) / 1000 * (if four then 32 else 128)) ∧
        (tabWf {} s.work.slots = true → ∀ j, (s.wk j).st = .ending → s.slotPart j = p → (t.wk j).st = .free ∧ (t.wk j).gen = nextGen (s.wk j).gen)))

/-- R75, R394, R395, R398, R399, R403: The in-service test of the core next in turn. At a boundary of a core that
holds a number, the spare takes it with the job state; the core, fenced and wiped, gives its number back after a test
that finds nothing, or retires on a finding without a repair; before the boundary the test waits in handover. -/
def Obligations.InServiceTests : Prop :=
  ∀ (s : State) (found : List TestFinding) (retest : Bool) (dst : Fin 12288001),
    let due : Prop := s.odVal 0x703001 1 ≠ 0 ∧ s.serving = true ∧ (s.test.st = .idle ∨ s.test.st = .handover)
    let run : Instr := .inServiceTest found retest dst
    (¬ due → exec run s = .next s) ∧
    (due → s.nextTest = none → exec run s = .next { s with test := { s.test with st := .idle } }) ∧
    (∀ i sh q, due → s.nextTest = some i → sh = i / 9 → s.spareOf sh = some q →
      let entry (p test : Nat) : Result := ⟨resultW0 1 sh p test 0 0, 0⟩
      (i % 9 = 8 → (∀ f ∈ found, f = .pass) → (found.any fun f => s.recurs (9 * sh + q) f) = false →
        ∃ t, exec run s = .next t ∧ (∀ j, j ≠ 9 * sh + q → t.core j = s.core j) ∧ t.shelves = s.shelves ∧
          t.core (9 * sh + q) = { use := .retention, repair := s.repairMap (9 * sh + q) } ∧
          t.test = { s.test with st := .idle, next := 9 * sh + 9, serviceResults := (entry q 2 :: entry q 1 :: s.test.serviceResults).take 256 }) ∧
      (∀ c p, i % 9 = c → c < 8 → s.phys sh c = some (9 * sh + p) → p < 9 →
        (s.testBoundary sh c = false → exec run s = .next { s with test := { s.test with st := .handover, shelf := sh, logical := c, phys := p } }) ∧
        (s.testBoundary sh c = true → (s.core (9 * sh + p)).scale.loads = [] → (s.core (9 * sh + p)).scale.seedHeld = none →
          let k := s.core (9 * sh + p)
          let moved (t : State) : Prop := t.phys sh c = some (9 * sh + q) ∧
            t.core (9 * sh + q) = { ({} : Core) with
              use := .active, repair := (s.core (9 * sh + q)).repair, maskTab := k.maskTab, stepf := k.stepf
              scale := { rowScale := k.scale.rowScale, tokScale := k.scale.tokScale, seed := k.scale.seed } } ∧
            (∀ j, j ≠ 9 * sh + p → j ≠ 9 * sh + q → t.core j = s.core j) ∧ (∀ j, j ≠ sh → t.shelf j = s.shelf j) ∧
            (∀ a, a < dst.val ∨ dst.val + 32768 ≤ a → tabGet 0 (t.sram sh) a = tabGet 0 (s.sram sh) a) ∧
            { t with cores := s.cores, shelves := s.shelves, woken := s.woken, free := s.free, sec := s.sec, test := s.test } = s
          ((∀ f ∈ found, f = .pass) → (found.any fun f => s.recurs (9 * sh + p) f) = false →
            ∃ t, exec run s = .next t ∧ moved t ∧ t.core (9 * sh + p) = { use := .fenced, repair := s.repairMap (9 * sh + p) } ∧
              t.test = { s.test with st := .returning, shelf := sh, logical := c, phys := p, next := 9 * sh + c + 1
                                     serviceResults := (entry p 2 :: entry p 1 :: s.test.serviceResults).take 256 }) ∧
          (TestFinding.logic ∈ found → ∃ t, exec run s = .next t ∧ moved t ∧ t.core (9 * sh + p) = { use := .retired } ∧
            t.test.st = .idle ∧ t.test.next = 9 * sh + c + 1 ∧
            t.test.repairs = (s.test.repairs ++ [(⟨resultW0 1 sh p 0 2 0, BitVec.ofNat 64 q⟩ : Result)]).take 4096)))) ∧
    (let x := s.test
     let sh := x.shelf
     let c := x.logical
     (x.st ≠ .returning → exec (.inServiceHandback dst) s = .next s) ∧
     (∀ q, x.st = .returning → s.phys sh c = some (9 * sh + q) → q < 9 → x.phys < 9 → x.phys ≠ q → s.testBoundary sh c = true →
       let k := s.core (9 * sh + q)
       k.scale.loads = [] → k.scale.seedHeld = none →
       ∃ t, exec (.inServiceHandback dst) s = .next t ∧ t.phys sh c = some (9 * sh + x.phys) ∧
         t.core (9 * sh + x.phys) = { ({} : Core) with
           use := .active, repair := (s.core (9 * sh + x.phys)).repair, maskTab := k.maskTab, stepf := k.stepf
           scale := { rowScale := k.scale.rowScale, tokScale := k.scale.tokScale, seed := k.scale.seed } } ∧
         t.core (9 * sh + q) = { use := .retention, repair := k.repair } ∧ t.test = { x with st := .idle } ∧
         (∀ j, j ≠ 9 * sh + x.phys → j ≠ 9 * sh + q → t.core j = s.core j)))

/-- R321, R402, R404, R426, R430: A fault in a firmware window or in management data is rewritten whole, its time
counted as downtime; a shelf reset ends the shelf's works with its status and leaves its cores, SRAM, trim cores and
Churn unit in their reset state, the repair maps reapplied, with nothing of HBM or of another shelf touched, and rolls
back a mode change in progress; a management core, which has no shelf, restarts. -/
def Obligations.FirmwareFaultsAndShelfResets : Prop :=
  ∀ (s : State),
    let afresh (t : State) (sh : Nat) : Prop := (t.shelf sh).sram = [] ∧ (t.shelf sh).churnBuf = [] ∧ (t.shelf sh).churnFlags = 0 ∧
      (∀ k, k < 4 → t.trim sh k = { off := (s.trim sh k).off }) ∧
      ∀ q, q < 9 → let use := (s.core (9 * sh + q)).use
        t.core (9 * sh + q) = { use := use, repair := if use = .retired then [] else s.repairMap (9 * sh + q) }
    let ended (t : State) (sh : Nat) (st : Status) : Prop := (∀ i ∈ s.worksOn sh, (s.wk i).live = true → (s.wk i).group = 0 → (s.wk i).aborting = false →
      (t.wk i).st = .ending ∧ (t.wk i).status = st)
    let ungrouped (sh : Nat) : Prop := ∀ i ∈ s.worksOn sh, (s.wk i).group = 0 ∧ (s.wk i).kind = 1 ∧ (s.wk i).shelf = sh
    let reset (t : State) (sh : Nat) (st : Status) : Prop := afresh t sh ∧ ended t sh st ∧ t.hbm = s.hbm ∧
      (∀ j, j ≠ sh → (t.shelf j).sram = (s.shelf j).sram ∧ ∀ q, q < 9 → t.core (9 * j + q) = s.core (9 * j + q)) ∧
      (s.mode.st = .transitioning → s.mode.waiting = false →
        t.mode = { s.mode with st := .stable, pend := s.mode.cur, result := St.modeRolledBack, waiting := false, asked := [] })
    let good (t : State) (g : Nat) : Prop := (∀ x, x ∈ t.ecc.bad ↔ x ∈ s.ecc.bad ∧ x ≠ g) ∧
      (∀ x, x ∈ t.ecc.errors ↔ x ∈ s.ecc.errors ∧ x.1 ≠ g) ∧ { t.ecc with bad := s.ecc.bad, errors := s.ecc.errors } = s.ecc
    let restarted (t : State) (k us g : Nat) : Prop := good t g ∧ t.trim 16 k = { off := (s.trim 16 k).off } ∧
      (∀ j, j ≠ k → t.trim 16 j = s.trim 16 j) ∧ (∀ j, j ≠ 16 → t.shelf j = s.shelf j) ∧
      (∀ o, o ∈ t.ops ↔ o ∈ s.ops ∧ ∀ n, o.who ≠ .trim 16 k n) ∧
      (s.test.ending = 0 → s.boot ≠ .degraded → t.test.downtime = s.test.downtime + us * 128) ∧
      { t with shelves := s.shelves, ops := s.ops, fabric := s.fabric, woken := s.woken, ecc := s.ecc, test := s.test, out := s.out } = s
    s.test.st = .idle →
    (∀ (sh : Fin 16) (st : Status), ungrouped sh → ∃ t, exec (.shelfReset none sh st) s = .next t ∧ reset t sh st) ∧
    (∀ (q : OdReq) (sh : Fin 16) (st : Status), s.OdAccepts q 0x209002 →
      let v := leNat q.value
      let answers (u : State) (x : Status) : Prop := exec (.shelfReset (some q) sh st) s = .next (u.odAnswer q.ctx q.msn x [])
      (s.mode.cur.four = true → v / 4 ≠ (s.ctx q.ctx).part → answers s St.odValueInvalid) ∧
      ((s.mode.cur.four = true → v / 4 = (s.ctx q.ctx).part) → ungrouped v → ∃ u, answers u St.ok ∧ reset u v St.aborted)) ∧
    (∀ (r : TrimRef) (o : Fin 0x10000000) (us : Nat),
      let g := (s.sysBase + o.val) / 512
      (g ∉ s.ecc.bad → exec (.trimFetchFault r o us) s = .next s) ∧
      (g ∈ s.ecc.bad → r.sh.val = 16 → ∃ t, exec (.trimFetchFault r o us) s = .next t ∧ restarted t r.k us g) ∧
      (g ∈ s.ecc.bad → r.sh.val < 16 → ungrouped r.sh → ∃ t, exec (.trimFetchFault r o us) s = .next t ∧ reset t r.sh St.memoryUncorrectable ∧ good t g)) ∧
    (∀ (core : Fin 2) (o : Fin 0x1000000) (us : Nat),
      let g := (s.sysBase + 0x10000000 + 0x1000000 * core.val + o.val) / 512
      (g ∉ s.ecc.bad → exec (.managementDataFault core o us) s = .next s) ∧
      (g ∈ s.ecc.bad → ∃ t, exec (.managementDataFault core o us) s = .next t ∧ restarted t core us g))

/-- R250, R285, R375, R409, R415, R417, R418, R420: A write that passes the checks gives its entry the value, which
reads back and, of a persistent entry, stands in the firmware store; a mode item is staged, and refused while a mode
changes; a core owner changes only with an empty queue; caps stay within the device's; a core retires by 7011.01 as
one that answers its reads, with its maxima at a place left free (the model's choice, log 81). A refused write changes
nothing but its answer; during a management pause up to 256 wait. -/
def Obligations.DictionaryWrites : Prop :=
  (∀ (s : State) (q : OdReq), odKeyOf q ∉ odOwn → (s.ctx q.ctx).st = .open_ →
    let held (l : List (OdReq × Bool)) : State := { s with fw := { s.fw with heldReqs := l } }
    (s.fw.pause = true → exec (.odWrite q) s =
      .next (held (if s.fw.heldReqs.length < 256 then s.fw.heldReqs ++ [(q, true)] else s.fw.heldReqs))) ∧
    (s.fw.pause = false → ∀ st, s.odCheck q.ctx (odKeyOf q) true q.value = .error st →
      exec (.odWrite q) s = .next (s.odAnswer q.ctx q.msn st []))) ∧
  (∀ (s : State) (q : OdReq) (k : Nat), k ∉ odOwn → s.OdAccepts q k →
    let v := leNat q.value
    let c := q.ctx.val
    let index := k / 256
    let sub := k % 256
    let answers (u : State) (st : Status) : Prop := exec (.odWrite q) s = .next (u.odAnswer q.ctx q.msn st [])
    let stores : Prop := ∃ u r, answers u St.ok ∧ odRow index sub = some r ∧
      tabGet 0 u.od (s.odKey c r k) = v + 1 ∧ (∀ j, j ≠ s.odKey c r k → tabGet 0 u.od j = tabGet 0 s.od j) ∧
      (∀ j, tabGet 0 u.odStore j = if odPersistent k = true ∧ j = k then v + 1 else tabGet 0 s.odStore j) ∧
      (u.odDynamic c k = none → q.value.length = r.typ.size → u.odBytes c r k = q.value) ∧
      { u with od := s.od, odStore := s.odStore } = s
    let staged (m : ModeItems) : Prop := (s.mode.st = .stable → answers { s with mode := { s.mode with staged := m } } St.ok) ∧
      (s.mode.st ≠ .stable → answers s St.odBusy)
    let caps (p : Nat) : Nat := if k = 0x303101 + p then v else s.odVal (0x303101 + p) 340
    let fits : Prop := 140 + (caps 0 + caps 1 + caps 2 + caps 3) ≤ if k = 0x303002 then v else s.odVal 0x303002 1500
    (index ∉ [0x2010, 0x2011, 0x3010, 0x2060, 0x3020, 0x3030, 0x3031, 0x3060, 0x4020, 0x4040, 0x5010, 0x5011, 0x5030, 0x5031, 0x7011, 0x7020,
      0xA030] → stores) ∧
    (index = 0x2010 → staged { s.mode.staged with four := v != 0 }) ∧
    (index = 0x2011 → staged { s.mode.staged with drainFmt := BitVec.ofNat 8 v }) ∧
    (index = 0x3010 → staged { s.mode.staged with profile := v }) ∧
    (index = 0x2060 →
      let changed (i : Nat) : Prop := i < 8 ∧ v / 4 ^ i % 4 ≠ (s.shelf (sub - 1)).owner.toNat / 4 ^ i % 4
      ((∃ i, changed i ∧ (s.lcore (sub - 1) i).tile.queue ≠ []) → answers s St.odBusy) ∧
      ((∀ i, changed i → (s.lcore (sub - 1) i).tile.queue = []) → ∃ u, answers u St.ok ∧ OnlyShelf s u (sub - 1) ∧
        u.shelf (sub - 1) = { s.shelf (sub - 1) with owner := BitVec.ofNat 16 v })) ∧
    (index = 0x3030 → k ≠ 0x303002 → stores) ∧
    ((index = 0x3031 ∨ k = 0x303002) → (fits → stores) ∧ (¬ fits → answers s St.odValueInvalid)) ∧
    (index = 0x3020 → (v ∈ [4, 8, 16, 32] → stores) ∧ (v ∉ [4, 8, 16, 32] → answers s St.odValueInvalid)) ∧
    (index = 0x3060 →
      let volts (i : Nat) : Nat := v / 2 ^ (16 * i) % 2 ^ 16
      let fine : Prop := (∀ i, i < 16 → 600 + 10 * i ≤ volts i ∧ volts i ≤ 800) ∧ ∀ i, i < 15 → volts i ≤ volts (i + 1)
      (fine → stores) ∧ (¬ fine → answers s St.odValueInvalid)) ∧
    ((index = 0x5030 ∨ index = 0x5031) → s.baseLocked (odIndexPart k) = true → answers s St.odAccessDenied) ∧
    (index = 0x5031 → s.baseLocked (odIndexPart k) = false → stores) ∧
    (index = 0x5030 → s.baseLocked (odIndexPart k) = false → (v % 32 = 0 → stores) ∧ (v % 32 ≠ 0 → answers s St.odValueInvalid)) ∧
    (index = 0x7011 → (s.phys (v / 8) (v % 8) = none → answers s St.odValueInvalid) ∧
      (s.phys (v / 8) (v % 8) ≠ none → ∃ u dst, dst < 12288001 ∧ answers u St.ok ∧
        u = State.retireInService { s with free := s.free + 1 } (v / 8) (v % 8) true dst none)))

/-- R275, R346, R347, R416, R420, R426, R427: A session becomes expert where its world allows it and no other session
of the isolation unit is; it is basic again on a write of BASIC or after the timeout. A device reset by its value
closes every context, empties the slots and keeps HBM, the persistent entries and the epoch, but for user memory that
a layout change had still to scrub (log 84); no other value resets. -/
def Obligations.SessionsAndDeviceReset : Prop :=
  (∀ (s : State) (q : OdReq), s.OdAccepts q 0x104001 →
    let v := leNat q.value
    let x := s.ctx q.ctx
    let answers (u : State) (st : Status) : Prop := exec (.sessionLevel q) s = .next (u.odAnswer q.ctx q.msn st [])
    let becomes (b : Bool) : Prop := ∃ u, answers u St.ok ∧ u.ctx q.ctx = { x with expert := b } ∧
      (∀ c, c ≠ q.ctx.val → u.ctx c = s.ctx c) ∧ { u with port := { u.port with ctxs := s.port.ctxs } } = s
    let barred : Prop := x.secure = false ∧ s.odVal 0x405001 0 = 0
    let taken : Prop := ∃ e ∈ s.port.ctxs, e.1 ≠ q.ctx.val ∧ e.2.expert = true ∧ e.2.secure = x.secure ∧
      (x.secure = true ∨ s.mode.cur.four = false ∨ e.1 / 4096 = q.ctx.val / 4096)
    (v = 0 → becomes false) ∧ (v = 1 → barred → answers s St.odAccessDenied) ∧
    (v = 1 → ¬ barred → taken → answers s St.odBusy) ∧ (v = 1 → ¬ barred → ¬ taken → becomes true)) ∧
  (∀ (s : State) (c : Fin 16384), ∃ t, exec (.expertSessionTimeout c) s = .next t ∧ t.ctx c = { s.ctx c with expert := false } ∧
    (∀ d, d ≠ c.val → t.ctx d = s.ctx d) ∧ { t with port := { t.port with ctxs := s.port.ctxs } } = s) ∧
  (∀ (s : State) (q : OdReq), s.OdAccepts q 0x209001 →
    (leNat q.value ≠ 0x52535444 → exec (.deviceReset q) s = .next (s.odAnswer q.ctx q.msn St.odValueInvalid [])) ∧
    (leNat q.value = 0x52535444 → ∃ t, exec (.deviceReset q) s = .next t ∧ t.boot = .starting ∧ t.cause = .deviceCommand ∧
      (∀ c, t.ctx c = {}) ∧ (∀ i, t.wk i = {}) ∧ t.ops = [] ∧ t.mode.epoch = s.mode.epoch ∧ t.odStore = s.odStore ∧
      (∀ a, tabGet 0 t.hbm a = if (s.slotBase ≤ a ∧ a < s.slotBase + 0x420000) ∨
        (∃ p ∈ s.mode.scrub, (s.userArea p).1 ≤ a ∧ a < (s.userArea p).1 + (s.userArea p).2) then 0 else tabGet 0 s.hbm a) ∧
      (tabWf {} s.dir.entries = true → ∀ d, t.entry d =
        let e := s.entry d
        { e with refcnt := 0, refMem := 0, wait := false, st := if e.st = .loading then .parked else e.st }) ∧
      (∀ k, odHeld k = true → tabGet 0 t.od k = tabGet 0 s.od k) ∧ t.sec.claimed = s.sec.claimed ∧ t.fw.fused = s.fw.fused ∧
      t.test.repairs = s.test.repairs ∧ t.test.downtime = s.test.downtime ∧ t.mod = s.mod))

/-- R348, R349, R350, R354, R423, R424, R425: A staged image that verifies is PENDING in the inactive bank, beside
copies of the running others; ACTIVATE restarts the management cores, begins a rollout or resets the device by its
KIND; each shelf switches at a boundary in its turn, and the last one completes the update; ABANDON, a failed check
and a failed start leave the running images as they are. -/
def Obligations.FirmwareUpdates : Prop :=
  (∀ (s : State) (q : OdReq), s.OdAccepts q 0x404002 →
    let f := s.fw
    let v := leNat q.value
    let kind := v % 256
    let o := gaOff (BitVec.ofNat 64 (s.odVal 0x404001 0))
    let busy : Prop := (f.ust ≠ .idle ∧ f.ust ≠ .failed) ∨ s.mode.st ≠ .stable
    let answers (i : Instr) (u : State) (st : Status) : Prop := exec i s = .next (u.odAnswer q.ctx q.msn st [])
    (v / 256 = 1 → (kind = 0 ∨ 3 < kind) → answers (.updateStage q) s St.odValueInvalid) ∧
    (v / 256 = 1 → 1 ≤ kind → kind ≤ 3 → busy → answers (.updateStage q) s St.modeBusy) ∧
    (v / 256 = 1 → 1 ≤ kind → kind ≤ 3 → ¬ busy → s.hbmNat (o + 6) 1 ≠ kind → answers (.updateStage q) s St.odValueInvalid) ∧
    (v / 256 = 1 → 1 ≤ kind → kind ≤ 3 → ¬ busy → s.hbmNat (o + 6) 1 = kind → answers (.updateStage q)
      { s with fw := { f with ust := .verifying, stage := some (kind, BitVec.ofNat 64 (s.odVal 0x404001 0)) } } St.ok) ∧
    (v = 0x300 → f.ust ≠ .pending → answers (.updateAbandon q) s St.modeBusy) ∧
    (v = 0x300 → f.ust = .pending → ∃ u, answers (.updateAbandon q) u St.ok ∧ u.fw.ust = .idle ∧ u.fw.pend = none ∧
      u.fw.running = f.running ∧ u.fw.activeB = f.activeB ∧ (if f.activeB then u.fw.bankA else u.fw.bankB).valid = false ∧
      (if f.activeB then u.fw.bankB else u.fw.bankA) = (if f.activeB then f.bankB else f.bankA)) ∧
    (v = 0x200 → (f.ust ≠ .pending ∨ f.pend = none) → answers (.updateActivate q) s St.modeBusy) ∧
    (v = 0x200 → f.ust = .pending → ∀ i, f.pend = some i →
      (i.kind = 2 → answers (.updateActivate q) { s with fw := { f with ust := .switching, pause := true, pauseAt := s.tsc } } St.ok) ∧
      (i.kind = 3 → answers (.updateActivate q) { s with fw := { f with ust := .rollout, trfsh := 0 } } St.ok) ∧
      (i.kind = 1 → ∃ u, answers (.updateActivate q) u St.ok ∧ u.boot = .starting ∧ u.cause = .firmwareActivate ∧
        u.fw.activeB = !f.activeB ∧ u.fw.ust = .idle))) ∧
  (∀ s : State,
    let f := s.fw
    let inactive (t : State) : Bank := if f.activeB then t.fw.bankA else t.fw.bankB
    ((f.ust ≠ .verifying ∨ f.stage = none) → exec .updateVerifyDone s = .next s) ∧
    (∀ kind a, f.ust = .verifying → f.stage = some (kind, a) →
      let img := s.imageAt (gaOff a)
      (s.imageValid (gaOff a) kind = true → ∃ t, exec .updateVerifyDone s = .next t ∧ t.fw.ust = .pending ∧ t.fw.pend = some img ∧
        (inactive t).valid = true ∧ (inactive t).sgf = (if img.kind = 1 then img else f.running.sgf) ∧
        (inactive t).mgf = (if img.kind = 2 then img else f.running.mgf) ∧
        (img.kind = 3 → (inactive t).trf = img) ∧ (img.kind = 1 ∨ img.kind = 2 → (inactive t).trf = f.running.trf) ∧
        t.fw.running = f.running ∧ t.fw.activeB = f.activeB ∧ { t with fw := f } = s) ∧
      (s.imageValid (gaOff a) kind = false → ∃ t, exec .updateVerifyDone s = .next t ∧
        t.fw = { f with ust := .failed, result := St.signatureInvalid, stage := none } ∧
        { t with fw := f, ecc := s.ecc, out := s.out } = s)) ∧
    (∀ (r : TrimRef) (st : Status), f.ust = .rollout → s.trfShelf = some r.sh.val → f.trfsh ≠ 0 →
      ∃ t, exec (.trfStartFailure r st) s = .next t ∧ t.fw = { f with ust := .reverting, result := st } ∧
        t.trim r.sh r.k = { off := (s.trim r.sh r.k).off } ∧ ∀ k, k ≠ r.k.val → t.trim r.sh k = s.trim r.sh k) ∧
    (∀ sh, s.trfShelf = some sh → (s.partOf sh ∈ s.sec.resetting ∨ s.shelfBoundary sh = false) → exec .trfShelfSwitch s = .next s) ∧
    (∀ sh, s.trfShelf = some sh → s.partOf sh ∉ s.sec.resetting → s.shelfBoundary sh = true →
      let after : BitVec 16 := if f.ust = .rollout then f.trfsh ||| (1 : BitVec 16) <<< sh else f.trfsh &&& ~~~((1 : BitVec 16) <<< sh)
      ∃ t, exec .trfShelfSwitch s = .next t ∧ (∀ k, k < 4 → t.trim sh k = { off := (s.trim sh k).off }) ∧
        (f.ust = .rollout → after ≠ 0xFFFF → t.fw = { f with trfsh := after }) ∧
        (∀ i, f.ust = .rollout → after = 0xFFFF → f.pend = some i → t.fw = { f with
          running := { f.running with trf := i }, activeB := !f.activeB, ust := .idle, result := St.ok, pend := none, trfsh := 0 }) ∧
        (f.ust = .reverting → after ≠ 0 → t.fw = { f with trfsh := after }) ∧
        (f.ust = .reverting → after = 0 → t.fw = { f with trfsh := 0, ust := .failed, pend := none })) ∧
    (f.pause = false → exec .managementRestartDone s = .next s) ∧
    (∀ i, f.pause = true → f.ust = .switching → f.pend = some i → f.heldReqs = [] → ∃ t, exec .managementRestartDone s = .next t ∧
      t.fw = { f with pause := false, running := { f.running with mgf := i }, activeB := !f.activeB, ust := .idle, result := St.ok,
                      pend := none, trfsh := 0 }))

/-- R426, R438, R439, R440, R441, R442, R443, R435, R436: Power applied brings up VDD_AON, latches the straps and,
with PWR_EN high, the rails; PWR_EN low, under-voltage, over-voltage or a rail fault takes the rails down, and with
them every die state and all of HBM, but not the firmware store, the repair record, the downtime or the owner key. A
cartridge's release is refused while the other does not supply; else it releases, goes off, and may be withdrawn; a
new one warms up and supplies. ALERT_N is low whenever a cartridge does not supply, or while the leak sensor is wet;
every event is logged. -/
def Obligations.PowerCartridgesAndLeaks : Prop :=
  (∀ (s : State),
     let m := s.mod
     let starts (t : State) : Prop := { t with mod := m } = s
     let lost (t : State) : Prop := t.boot = .held ∧ t.cause = .powerOn ∧ t.hbm = [] ∧ t.regions = [] ∧ t.dir = {} ∧ t.work = {} ∧ t.port = {} ∧
       t.fabric = {} ∧ t.ops = [] ∧ t.stats = {} ∧ t.power = {} ∧ t.od = [] ∧ t.mode = {} ∧ t.odStore = s.odStore ∧
       t.sec.claimed = s.sec.claimed ∧ t.sec.ownerKey = s.sec.ownerKey ∧ t.fw.bankA = s.fw.bankA ∧ t.fw.bankB = s.fw.bankB ∧
       t.fw.activeB = s.fw.activeB ∧ t.fw.fused = s.fw.fused ∧ t.test.repairs = s.test.repairs ∧ t.test.downtime = s.test.downtime ∧
       (tabWf {} s.cores = true → ∀ p, t.core p = { use := if (s.core p).use = .retired then .retired else .active }) ∧
       t.ecc.bad = [] ∧ t.ecc.errors = [] ∧ t.sec.kown = 0 ∧ t.sec.keys = {} ∧
       (tabWf {} s.shelves = true → s.test.st = .idle → ∀ sh, (t.shelf sh).sram = [] ∧ (t.shelf sh).map = (s.shelf sh).map)
     let downAs (i : Instr) (after : Module) : Prop := ∃ t, exec i s = .next t ∧ lost t ∧ t.mod = after ∧ t.out = s.out
     let off := { m with rails := false, pgood := false, cold := true }
     (∀ straps : Fin 8, m.input = true → exec (.inputPowerApplied straps) s = .next s) ∧
     (∀ straps : Fin 8, m.input = false → ∃ t, exec (.inputPowerApplied straps) s = .next t ∧ starts t ∧ t.mod = { m with
       input := true, aon := true, pos := straps, rails := m.rails || m.pwrEn, pgood := m.pgood || (m.pwrEn && !m.rails) }) ∧
     (∃ t, exec .pwrEnRise s = .next t ∧ starts t ∧ t.mod = { m with
       pwrEn := true, rails := m.rails || m.aon, pgood := m.pgood || (m.aon && !m.rails) }) ∧
     (m.rails = true → downAs .pwrEnFall { off with pwrEn := false } ∧ downAs .inputOvervoltage off ∧
       downAs .inputUndervoltage { off with input := false, aon := false, railFault := false }) ∧
     (m.rails = false → exec .pwrEnFall s = .next { s with mod := { m with pwrEn := false } } ∧ exec .inputOvervoltage s = .next s ∧
       exec .inputUndervoltage s = .next { s with mod := { m with input := false, aon := false, railFault := false } }) ∧
     (∀ rail : Fin 6, m.rails = false → exec (.railFault rail) s = .next s) ∧
     (∀ rail : Fin 6, m.rails = true → ∃ t, exec (.railFault rail) s = .next t ∧ lost t ∧ t.mod = { off with railFault := true } ∧
       t.alertLow = true ∧ t.out = s.out ++ [.log none .module [0x441, rail.val]])) ∧
  (∀ (s : State) (bay : Bool),
     let was := s.cart bay
     let other := s.cart (!bay)
     let becomes (i : Instr) (c : Cart) : Prop := ∃ t n, exec i s = .next t ∧ t.cart bay = c ∧ t.cart (!bay) = other ∧
       t.out = s.out ++ [.log none .module [n, bay.toNat]] ∧ (c ≠ .supplying → t.alertLow = true) ∧
       (let m := { t.mod with cart0 := s.mod.cart0, cart1 := s.mod.cart1, refused := s.mod.refused }
        { t with mod := m, out := s.out } = s)
     (was ∈ [Cart.absent, .releasing, .off] → exec (.cartridgeRelease bay) s = .next s) ∧
     (was ∉ [Cart.absent, .releasing, .off] → other ≠ .supplying → ∃ t, exec (.cartridgeRelease bay) s = .next t ∧
       t.mod = { s.mod with refused := some bay } ∧ t.indicator bay = .flashingAmber ∧ t.cart bay = was ∧
       { t with mod := s.mod, out := s.out } = s) ∧
     (was ∉ [Cart.absent, .releasing, .off] → other = .supplying → becomes (.cartridgeRelease bay) .releasing) ∧
     (was = .releasing → becomes (.cartridgeOff bay) .off) ∧ (was ≠ .releasing → exec (.cartridgeOff bay) s = .next s) ∧
     (was ≠ .absent → becomes (.cartridgePull bay) .absent) ∧ (was = .absent → exec (.cartridgePull bay) s = .next s) ∧
     (was = .absent → becomes (.cartridgeLatch bay) .warming) ∧ (was ≠ .absent → exec (.cartridgeLatch bay) s = .next s) ∧
     (was = .warming → becomes (.cartridgeWarmupDone bay) .supplying) ∧ (was ≠ .warming → exec (.cartridgeWarmupDone bay) s = .next s) ∧
     (was ≠ .absent → becomes (.cartridgeFault bay) .faulted) ∧ (was = .absent → exec (.cartridgeFault bay) s = .next s) ∧
     (s.mod.refused ≠ some bay → s.indicator bay = match was with
       | .supplying => .green
       | .warming => .flashingGreen
       | .releasing => .amber
       | .faulted => .amber
       | .off => .off
       | .absent => .off) ∧
     (∃ t, exec .leakSensorWet s = .next t ∧ t.mod = { s.mod with wet := true } ∧ t.alertLow = true ∧
       t.out = s.out ++ [.log none .module [0x43D, 0]] ∧ { t with mod := s.mod, out := s.out } = s) ∧
     exec .leakSensorDry s = .next { s with mod := { s.mod with wet := false } })

/-- R21, R343, R349, R393, R418, R420, R426, R427, R428, R429: RESET_N low resets the die, and a start-up runs once it
deasserts: the bank that verifies runs, region-table entries 0 to 7 stand, the stored entries are loaded, cores take
their places with their repair maps, K_own is derived, and links train, but for a host port whose module has failed.
The start-up ends as its findings say. -/
def Obligations.ResetAndStartUp : Prop :=
  ∀ (s : State),
    let m := s.mod
    let bank (b : Bool) : Bank := if b then s.fw.bankB else s.fw.bankA
    let fit (b : Bank) : Prop := b.valid = true ∧ b.sgf.valid = true ∧ b.mgf.valid = true ∧ b.trf.valid = true ∧
      s.fw.fused.getD 0 0 ≤ b.sgf.svn ∧ s.fw.fused.getD 1 0 ≤ b.mgf.svn ∧ s.fw.fused.getD 2 0 ≤ b.trf.svn
    let begins : Prop := (s.boot = .held ∧ m.pgood = true ∧ m.rails = true) ∨ (s.boot = .starting ∧ m.resetN = true)
    let stored (k d : Nat) : Nat := if tabGet 0 s.odStore k = 0 then d else tabGet 0 s.odStore k - 1
    ((m.pgood = false ∨ s.boot = .held) → exec .resetNAssert s = .next { s with mod := { m with resetN := false } }) ∧
    (m.pgood = true → s.boot ≠ .held → ∃ t, exec .resetNAssert s = .next t ∧ t.mod = { m with resetN := false } ∧ t.boot = .held ∧
      t.cause = .resetPin ∧ t.port = {} ∧ t.work = {} ∧ t.ops = [] ∧ t.odStore = s.odStore ∧ t.sec.ownerKey = s.sec.ownerKey ∧
      (m.cold = false → t.mode.epoch = s.mode.epoch ∧
        ∀ a, tabGet 0 t.hbm a = if (s.slotBase ≤ a ∧ a < s.slotBase + 0x420000) ∨
          (∃ p ∈ s.mode.scrub, (s.userArea p).1 ≤ a ∧ a < (s.userArea p).1 + (s.userArea p).2) then 0 else tabGet 0 s.hbm a)) ∧
    (∀ r, ¬ begins → exec (.startup r) s = .next s) ∧
    (∀ r, begins → ¬ fit s.fw.bankA → ¬ fit s.fw.bankB → ∃ t, exec (.startup r) s = .next t ∧ t.boot = .dead ∧ t.port.port = .down) ∧
    (∀ (r : StartReport) (b : Bool), begins → fit (bank b) → (b = s.fw.activeB ∨ ¬ fit (bank !b)) → r.faults = [] →
      r.storeOk = true → r.recordOk = true →
      ∃ t, exec (.startup r) s = .next t ∧ t.fw.runB = b ∧ t.fw.running = bank b ∧ t.mod.cold = false ∧ t.mod.resetN = true ∧
        (t.boot = .ready ∨ t.boot = .degraded) ∧
        ((s.test.ending = 0 ∧ (s.mod.cold = true ∨ s.test.startResults.any Result.ending = false) ∧
          ∀ sh, sh < 16 → 15 ∉ (s.shelf sh).map ∧ ∀ k, k < 4 → (s.trim sh k).off = false) → t.boot = .ready) ∧
        (0 < s.test.ending → t.boot = .degraded) ∧
        (∀ e, tabGet {} t.regions e = if e < 8 then tabGet {} s.fixedRegions e else tabGet {} s.regions e) ∧
        t.mode.cur.four = (stored 0x201001 0 != 0) ∧ t.mode.cur.profile = stored 0x301001 0 ∧ t.mode.staged = t.mode.cur ∧
        t.mode.epoch = s.mode.epoch ∧ t.hbm = s.hbm ∧ t.port.port = (if m.portBad then .down else .training) ∧
        t.sec.kown = (if s.sec.claimed then ownerKown s.sec.ownerKey else 0) ∧
        (∀ g, 1 ≤ g → g ≤ 15 → (t.group g).st = .training) ∧
        (∀ sh q, sh < 16 → q < 9 → (t.core (9 * sh + q)).use =
          if (s.core (9 * sh + q)).use = .retired then .retired else if q ∈ (s.shelf sh).map then .active else .retention) ∧
        (∀ sh q, sh < 16 → q < 9 → (s.core (9 * sh + q)).use ≠ .retired → (t.core (9 * sh + q)).repair = s.repairMap (9 * sh + q)) ∧
        (m.cold = true → t.ecc.remaps = s.ecc.remaps.filter fun e => r.noSpare.contains (e.1, e.2.1, e.2.2.1))) ∧
    (∀ (r : StartReport) (b : Bool) (h : Fin 12), begins → fit (bank b) → (b = s.fw.activeB ∨ ¬ fit (bank !b)) → r.faults = [.stack h] →
      ∃ t, exec (.startup r) s = .next t ∧ t.boot = .failed)

/-- R183, R186, R201, R202, R237, R238: A held TRAIN work starts only on an entry in TRAINING of its own partition,
with every listed base region under BASE_RO; any other ends with the status of the check, and none of it runs. Serving
takes a shelf from a job once its tile programs have run: the registers of its cores and of its Churn unit are saved
and the flags gathered; they return when serving has left. -/
def Obligations.TrainingJobsStartAndYield : Prop :=
  (∀ (s : State) (slot : Fin 16384),
    let i := slot.val
    let w := s.wk i
    let p := s.slotPart i
    let d := daDidx w.da
    let area : BitVec 64 := BitVec.ofNat 64 (w.body 8)
    let base := s.baseList p
    let alone : Prop := w.group = 0 ∧ w.aborting = false
    let due : Prop := w.kind = 2 ∧ w.st = .held ∧ w.stopped = false ∧ s.mayStart p = true ∧ s.firstHeld i = true
    let own : Prop := s.didxOk p d = true ∧ (s.entry d).st = .training ∧ (s.entry d).owner = p
    let locked : Prop := base ≠ [] ∧ ∀ r ∈ base, (tabGet {} s.regions r).v = true ∧ (tabGet {} s.regions r).baseRo = true
    let placed : Prop := gaSpace area = 0 ∧ s.inJob p area 64 = true
    let ends (st : Status) : Prop := ∃ t, exec (.trainWork slot) s = .next t ∧ (t.wk i).st = .ending ∧ (t.wk i).status = st ∧
      ∀ j, j ≠ i → t.wk j = s.wk j
    (¬ due → exec (.trainWork slot) s = .next s) ∧
    (due → alone → ¬ own → ends St.adapterStateInvalid) ∧
    (due → alone → own → ¬ locked → ends St.adapterBaseUnlocked) ∧
    (due → alone → own → locked → ¬ placed → ends St.addressInvalid) ∧
    (∀ st, due → alone → own → locked → placed → s.engineRead (Init.firmware p) area 64 = .error st → ends st) ∧
    (∀ bs, due → own → locked → placed → s.engineRead (Init.firmware p) area 64 = .ok bs → ∃ (t : State) (j : Job), exec (.trainWork slot) s = .next t ∧ t.wk i = { w with st := .running } ∧
      (∀ k, k ≠ i → t.wk k = s.wk k) ∧ t.entry d = { s.entry d with area := some (gaOff area) } ∧
      (∀ k, k ≠ d → t.entry k = s.entry k) ∧ t.work.jobs = s.work.jobs ++ [j] ∧ j.slot = i ∧ j.didx = d ∧ j.part = p ∧
      j.area = area ∧ j.committed = 0 ∧ j.begun = false ∧ j.commit = none ∧ j.flags = 0 ∧
      (s.recState (gaOff area) = 1 ∨ s.recState (gaOff area) = 2 → j.restart = true) ∧
      (j.sketched = true ↔ w.body 0x38 % 2 = 0) ∧
      (let r := t.work
       let e := t.dir
       { t with work := { r with slots := s.work.slots, jobs := s.work.jobs }, dir := { e with entries := s.dir.entries } } = s))) ∧
  (∀ (s : State) (sh : Fin 16),
    let saves (j : Job) : Bool := (s.shelvesOf j.part).contains sh.val && j.saved.all fun e => e.1 / 8 ≠ sh.val
    let held (j : Job) : Bool := j.saved.any fun e => e.1 / 8 = sh.val
    let quiet : Prop := ∀ c, c < 8 → (s.lcore sh c).quiet = true
    let churn := (s.shelf sh).churnFlags
    let others (t : State) : Prop := ∀ q, q ≠ sh.val → t.shelf q = s.shelf q
    let rest (t : State) : Prop := let r := t.work
      { t with shelves := s.shelves, cores := s.cores, woken := s.woken, work := { r with jobs := s.work.jobs } } = s
    ((∀ j ∈ s.work.jobs, saves j = false) ∨ ¬ quiet → ∃ t, exec (.servingPreempt sh) s = .next t ∧
      OnlyShelf s t sh ∧ t.shelf sh = { s.shelf sh with serving := true }) ∧
    ((∃ j ∈ s.work.jobs, saves j = true) → quiet → ∃ (t : State), exec (.servingPreempt sh) s = .next t ∧ others t ∧ rest t ∧
      t.shelf sh = { s.shelf sh with serving := true, churnFlags := 0 } ∧
      (∀ q, t.core q = if ((List.range 8).any fun c => s.phys sh c == some q) = true then { s.core q with stepf := 0 } else s.core q) ∧
      ∀ j, s.work.jobs.filter (fun x => x.slot = j.slot) = [j] → saves j = true → ∃ j' : Job,
        t.jobOf j.slot = some j' ∧ j'.preempted = true ∧
        (∀ c, c < 8 → j'.saved.lookup (8 * sh.val + c) = some (s.lcore sh c).saveJob) ∧
        (∀ n, n / 8 ≠ sh.val → j'.saved.lookup n = j.saved.lookup n) ∧
        (∀ n, tabGet 0 j'.savedChurn n = if n = sh.val then churn else tabGet 0 j.savedChurn n) ∧
        j'.flags = stepFlagMerge j.flags (((List.range 8).map fun c => (s.lcore sh c).stepf).foldl stepFlagMerge churn) ∧
        { j' with saved := j.saved, savedChurn := j.savedChurn, preempted := j.preempted, flags := j.flags } = j) ∧
    ((∃ i ∈ s.worksOn sh, (s.wk i).kind = 1) → exec (.trainingResume sh) s = .next s) ∧
    ((∀ i ∈ s.worksOn sh, (s.wk i).kind ≠ 1) → s.work.jobs.find? held = none → ∃ t, exec (.trainingResume sh) s = .next t ∧
      OnlyShelf s t sh ∧ t.shelf sh = { s.shelf sh with serving := false }) ∧
    ((∀ i ∈ s.worksOn sh, (s.wk i).kind ≠ 1) → ∀ j0, s.work.jobs.find? held = some j0 → ∃ t, exec (.trainingResume sh) s = .next t ∧
      others t ∧ rest t ∧
      t.shelf sh = { s.shelf sh with serving := false, churnFlags := stepFlagMerge churn (tabGet 0 j0.savedChurn sh) } ∧
      (∀ j, s.work.jobs.filter (fun x => x.slot = j.slot) = [j] → held j = true → ∃ j' : Job, t.jobOf j.slot = some j' ∧
        j'.saved = j.saved.filter (fun e => e.1 / 8 ≠ sh.val) ∧ (j'.preempted = true ↔ j'.saved ≠ []) ∧
        (∀ n, tabGet 0 j'.savedChurn n = if n = sh.val then 0 else tabGet 0 j.savedChurn n) ∧
        { j' with saved := j.saved, savedChurn := j.savedChurn, preempted := j.preempted } = j) ∧
      ∀ c v p, (8 * sh.val + c, v) ∈ j0.saved → (∀ v', (8 * sh.val + c, v') ∈ j0.saved → v' = v) → c < 8 → s.phys sh c = some p →
        (∀ c', c' < 8 → s.phys sh c' = some p → c' = c) → t.core p = (s.core p).restoreJob v))

/-- R187, R188, R189, R193, R203, R97, R104, R198, R199, R200, R204: A step starts with its gradient areas zero, ω
from the previous step's maxima, and an emitter descriptor for each matrix in the rings, as far as they have room; a
too long sequence ends the work; once every matrix has completed, both images are built. At a micro-step's end the
flags of the job's cores and Churn units join its word; each channel's scale follows its maxima, read with CLR, and
1/σ is loaded; the tags' counters restart; a micro-step that ends without a flag counts, and one that ends with a flag
discards the step, by the policy. Each sequence is cut into chunks of 4,096 tokens, the backward pass in reverse;
sequences are placed longest first, each on the least loaded shelves, one that exceeds the split ratio times the mean
load divided across the least power of two of them that no longer does, or across the most there are (the model's
choice, log 82). -/
def Obligations.TrainingStepsRun : Prop :=
  (∀ (s : State) (slot : Fin 16384) (j : Job), s.jobOf slot = some j →
     let i := slot.val
     let total := (s.shardTable (gaOff j.area)).length
     let alone : Prop := (s.wk i).live = true ∧ (s.wk i).group = 0 ∧ (s.wk i).aborting = false
     let fails (c : Instr) (st : Status) : Prop := ∃ t, exec c s = .next t ∧ (t.wk i).st = .ending ∧ (t.wk i).status = st ∧
       t.jobOf i = none
     let shelves := s.shelvesOf j.part
     let ringsOk : Prop := ∀ sh ∈ shelves, ringHead (s.sram sh) ≤ ringTail (s.sram sh) ∧
       ringTail (s.sram sh) ≤ ringHead (s.sram sh) + 32 ∧ ringTail (s.sram sh) < 2 ^ 63
     let placedFrom (t : State) (j' : Job) (from_ n : Nat) : Prop := from_ ≤ n ∧
       (let total' := (t.shardTable (gaOff j.area)).length
        n ≤ max from_ total' ∧ (n < total' → t.ringRoom (shelves.getD (n % shelves.length) 0) = false)) ∧
       (∀ k, from_ ≤ k → k < n → let sh := shelves.getD (k % shelves.length) 0
         ∃ e, ringHead (t.sram sh) ≤ e ∧ e < ringTail (t.sram sh) ∧ ringTail (s.sram sh) ≤ e ∧
           let x := ChurnCmd.of (memNat (t.sram sh) (ringSlot e) 128)
           x.opc = 1 ∧ x.part = j.part ∧ x.body = t.emitBody j' k ∧ x.clean = true) ∧
       (∀ q, t.core q = s.core q) ∧ (∀ k, t.wk k = s.wk k) ∧ t.dir = s.dir ∧ t.out = s.out
     /- R187, R188, R203 -/
     (∀ garea copies batches,
       let c := Instr.stepStart slot garea copies batches
       let runs : Prop := j.restart = false ∧ j.sketched = true ∧ j.commit = none ∧ (s.wk i).live = true
       let long : Prop := ∃ l ∈ batches, ∃ q ∈ l, 10485760 < q.tokens
       let plan := placeSeqs shelves (s.odF32 0x604004 0x40000000) (batches.getD 0 [])
       (s.stepPlacesOk j garea copies batches = true → ∀ r ∈ garea, s.inJob j.part (s.hbmAddr j.part r.1) r.2 = true ∧
         ∀ x ∈ s.dir.alloc, x.2.2 = j.didx → r.1 + r.2 ≤ x.1 ∨ x.1 + x.2.1 ≤ r.1) ∧
       (¬ runs → exec c s = .next s) ∧
       (runs → j.begun = false → long → alone → fails c St.sequenceTooLong) ∧
       (runs → j.begun = false → ¬ long → s.stepPlacesOk j garea copies batches = false → exec c s = .next s) ∧
       (runs → j.begun = false → ¬ long → s.stepPlacesOk j garea copies batches = true → ringsOk → j.part < 4 →
         (∀ r ∈ garea, s.FirmwareMay j.part r.1 r.2) → ∃ (t : State) (n : Nat) (j' : Job),
         exec c s = .next t ∧ t.jobOf i = some j' ∧
         j' = { j with begun := true, micro := 0, image := 0, timage := 0, garea := garea, copies := copies, emitted := n
                       omega := nextOmegas j.omega j.rankMax, rankMax := [], batches := batches, arrivals := [], plan := plan } ∧
         (∀ x, tabGet 0 t.hbm x = if ∃ r ∈ garea, r.1 ≤ x ∧ x < r.1 + r.2 then 0 else tabGet 0 s.hbm x) ∧ placedFrom t j' 0 n) ∧
       (runs → j.begun = true → ringsOk → j.part < 4 → ∃ (t : State) (n : Nat) (j' : Job), exec c s = .next t ∧
         t.jobOf i = some j' ∧ j' = { j with emitted := n, plan := s.planOf j } ∧ t.hbm = s.hbm ∧ placedFrom t j' j.emitted n)) ∧
     /- R193 -/
     (∀ (omega : Tab Int) (m : Tab (BitVec 32)) (col : Nat), tabWf 0 m = true →
       let v := tabGet 0 m col
       let w := tabGet 0 omega col
       tabGet 0 (nextOmegas omega m) col = if v = 0 then w else omegaOf v w w) ∧
     /- R188, R189 -/
     (∀ image timage,
       let c := Instr.trainingImageBuild slot image timage
       let runs : Prop := j.begun = true ∧ j.image = 0 ∧ j.emitted = total ∧ s.emitsOut j = false ∧
         s.imageIn j.part (s.hbmAddr j.part image) = true ∧ s.imageIn j.part (s.hbmAddr j.part timage) = true
       let sts := j.copies.map fun p => s.doneStatus j.part p.done
       let trecs (l : List CopyPair) := s.buildPairs j.part (fun b sr c => buildTrec b sr c.rank c.a c.b) l
       let bad (st : Status) : Prop := s.jobPairs j (total / 2) = .error st ∨ ∃ l, s.jobPairs j (total / 2) = .ok l ∧
         (s.buildImage j.part l = .error st ∨ ∃ x, s.buildImage j.part l = .ok x ∧ trecs l = .error st)
       (¬ runs → exec c s = .next s) ∧
       (∀ st, runs → alone → sts.find? (· ≠ 0) = some st → fails c st) ∧
       (∀ st, runs → alone → sts.find? (· ≠ 0) = none → bad st → fails c st) ∧
       (∀ l bytes cl fl tl, runs → sts.find? (· ≠ 0) = none → s.jobPairs j (total / 2) = .ok l →
         s.buildImage j.part l = .ok (bytes, cl, fl) → trecs l = .ok tl →
         let tb := imageBytes (tl.map fun e => (e.1.layer, e.1.group, e.2.1))
         let free : Prop := s.onImage j.didx image bytes.length = false ∧ s.onImage j.didx timage tb.length = false
         (¬ free → exec c s = .next (s.noteCorrected (s.stepReads j))) ∧
         (free → s.FirmwareMay j.part image bytes.length → s.FirmwareMay j.part timage tb.length →
           ∃ (t : State) (j' : Job), exec c s = .next t ∧ t.jobOf i = some j' ∧ j'.image = image ∧ j'.timage = timage ∧
           { j' with image := 0, timage := 0, kappa := j.kappa } = { j with image := 0, timage := 0 } ∧
           s.CopyAndImage t image bytes timage tb ∧
           (∀ q, t.core q = s.core q) ∧ (∀ k, t.wk k = s.wk k) ∧ t.dir = s.dir ∧ t.out = s.out)))) ∧
  (∀ (s : State) (slot : Fin 16384) (j : Job), s.jobOf slot = some j → ∀ (tags : List (BitVec 12)) (chans : List GradChan)
       (cols : List RankCol) (arrived : List (Fin 16)),
     let i := slot.val
     let c := Instr.microStepEnd slot tags ⟨chans, cols, arrived⟩
     let m := s.odVal 0x604001 1
     let alone : Prop := (s.wk i).live = true ∧ (s.wk i).group = 0 ∧ (s.wk i).aborting = false
     let shelves := s.shelvesOf j.part
     let places := chans.flatMap (·.drained) ++ cols.flatMap fun c => c.first ++ c.drained
     let named (r : CoreRef) : Prop := (∃ k x, .file r k x ∈ places) ∨ ∃ g ∈ chans, ∃ x, (r, x) ∈ g.loads
     let runs : Prop := j.begun = true ∧ j.image ≠ 0 ∧ j.commit = none ∧ j.micro < m ∧ j.preempted = false ∧
       (∀ sh ∈ shelves, (s.shelf sh).serving = false) ∧ ∀ r, named r → (s.lcore r.sh r.c).quiet = true
     let cores := shelves.flatMap fun sh => (List.range 8).map fun c => (s.lcore sh c).stepf
     let flags := (shelves.map fun sh => (s.shelf sh).churnFlags).foldl stepFlagMerge (cores.foldl stepFlagMerge j.flags)
     let lost : Bool := decide (flags.toNat % 512 = 0x100)
     let n := if lost then j.flagged else j.flagged + 1
     let action := if lost then 3 else if s.odVal 0x604003 8 ≤ n then 2 else s.odVal 0x604002 0
     let distinct : Prop := tags.Nodup ∧ (chans.map (·.key)).Nodup ∧ (cols.map (·.key)).Nodup
     let cleared (k : Bool) (q x : Nat) : Prop := ∃ (r : CoreRef) (y : Fin 4096), .file r k y ∈ places ∧ s.phys r.sh r.c = some q ∧ y.val = x
     let changed (t : State) : Prop := t.hbm = s.hbm ∧
       (∀ q, let k := s.core q
         let k' := t.core q
         let u := k'.scale
         { k' with stepf := 0, scale := { u with rowScale := k.scale.rowScale, rowMax := k.scale.rowMax, tokMax := k.scale.tokMax } } =
           { k with stepf := 0 } ∧
         k'.stepf = (if (shelves.any fun sh => (List.range 8).any fun c => s.phys sh c == some q) = true then 0 else k.stepf) ∧
         (∀ x, (cleared false q x → tabGet 0 u.rowMax x = 0) ∧ (¬ cleared false q x → tabGet 0 u.rowMax x = tabGet 0 k.scale.rowMax x)) ∧
         (∀ x, (cleared true q x → tabGet 0 u.tokMax x = 0) ∧ (¬ cleared true q x → tabGet 0 u.tokMax x = tabGet 0 k.scale.tokMax x)) ∧
         ∀ x, (∀ g ∈ chans, ∀ l ∈ g.loads, ¬ (s.phys l.1.sh l.1.c = some q ∧ l.2.val = x)) →
           tabGet 0 u.rowScale x = tabGet 0 k.scale.rowScale x) ∧
       (∀ sh, t.shelf sh = if sh ∈ shelves then { s.shelf sh with churnFlags := 0 } else s.shelf sh) ∧
       (∀ g : BitVec 12, g ∈ tags ∨ (∃ p ∈ j.copies, p.tag = g) → let key := 4096 * j.part + g.toNat
         tabGet {} t.stats.drainMon key = {} ∧ tabGet {} t.stats.emitMon key = {} ∧ ∀ f, f < 16 → tabGet {} t.stats.skim (16 * key + f) = {})
     let revoked : Prop := (s.entry j.didx).st = .revoked
     (¬ runs → exec c s = .next s) ∧
     (runs → revoked → alone → ∃ t, exec c s = .next t ∧ (t.wk i).st = .ending ∧ (t.wk i).status = St.adapterRevoked ∧
       t.jobOf i = none) ∧
     (runs → ¬ revoked → flags.toNat % 512 = 0 → distinct → ∃ (t : State) (j' : Job), exec c s = .next t ∧ t.jobOf i = some j' ∧
       j'.micro = j.micro + 1 ∧ j'.flags = flags ∧ (∀ g ∈ tags, tabGet 0 j'.margins g.toNat = (s.steerTag j g.toNat).1) ∧
       (∀ g, (∀ x ∈ tags, x.toNat ≠ g) → tabGet 0 j'.margins g = tabGet 0 j.margins g) ∧
       (∀ x, x ∉ chans.map (·.key) → tabGet 0 j'.sigma x = tabGet 0 j.sigma x) ∧
       (∀ g ∈ chans, let e := gradScale (s.maxOf g.drained) (tabGet 0 j'.margins (g.key / 65536)) (tabGet 0 j.sigma g.key)
         tabGet 0 j'.sigma g.key = e ∧ ∀ l ∈ g.loads, ∀ q, s.phys l.1.sh l.1.c = some q →
           (∀ g' ∈ chans, ∀ l' ∈ g'.loads, s.phys l'.1.sh l'.1.c = some q → l'.2 = l.2 → g' = g) →
           tabGet 0 (t.core q).scale.rowScale l.2 = BitVec.ofNat 32 (f32Enc (Q.pow2 (-e)) false)) ∧
       (∀ x ∈ cols, tabGet 0 j'.rankMax x.key = f32Max (tabGet 0 j.rankMax x.key) (s.maxOf x.drained) ∧
         tabGet 0 j'.omega x.key = if j.step = 0 ∧ j.micro = 0 then omegaOf (s.maxOf x.first) 0 (tabGet 0 j.omega x.key)
           else tabGet 0 j.omega x.key) ∧
       j'.arrivals = j.arrivals ++ [arrived.map (·.val)] ∧
       j'.plan = placeSeqs shelves (s.odF32 0x604004 0x40000000) (j.batches.getD (j.micro + 1) []) ∧
       { j' with micro := j.micro, flags := j.flags, margins := j.margins, sigma := j.sigma, mse8 := j.mse8, gradTags := j.gradTags
                 omega := j.omega, rankMax := j.rankMax, arrivals := j.arrivals, plan := j.plan } = j ∧
       changed t ∧ t.wk i = s.wk i) ∧
     (runs → ¬ revoked → flags.toNat % 512 ≠ 0 → ∃ t, exec c s = .next t ∧ (action ≠ 2 → changed t) ∧
       .log (some j.part) .flaggedStep [j.step, j.micro + 1, flags.toNat, action] ∈ t.out ∧
       (action ≠ 2 → ∃ j', t.jobOf i = some j' ∧ j'.begun = false ∧ j'.micro = 0 ∧ j'.flags = 0 ∧ j'.image = 0 ∧ j'.garea = [] ∧
         j'.flagged = n ∧ j'.rerun = decide (action = 1 ∨ action = 3) ∧ j'.committed = j.committed ∧ j'.step = j.step ∧
         j'.rankMax = [] ∧ j'.plan = [] ∧ (lost = true → ∀ g, tabGet 0 j'.margins g = tabGet 0 j.margins g) ∧
         j'.commit = none ∧ t.wk i = { s.wk i with flags := (s.wk i).flags ||| recordFlags flags }) ∧
       (action = 2 → alone → (t.wk i).st = .ending ∧ (t.wk i).status = St.trainStopped ∧ t.jobOf i = none))) ∧
  ((∀ n : Nat, let l := chunkTokens n
     l.sum = n ∧ l.length = (n + 4095) / 4096 ∧ (∀ k, k + 1 < l.length → l[k]? = some 4096) ∧ ∀ x ∈ l, 0 < x ∧ x ≤ 4096) ∧
   (∀ q : SeqPlan, q.forward = List.range q.chunks.length ∧ q.backward = q.forward.reverse) ∧
   (∀ (shelves : List Nat) (ratio : Q) (batch : List SeqIn), shelves.Nodup → (shelves.length = 16 ∨ shelves.length = 4) →
     let plan := placeSeqs shelves ratio batch
     let total := (batch.map fun q => (chunkTokens q.tokens).length).sum
     let limit := ratio.mul ⟨total, shelves.length⟩
     let load (n h : Nat) : Nat := ((plan.take n).map fun q => if h ∈ q.shelves then 16 * q.chunks.length / q.shelves.length else 0).sum
     (plan.map (·.seq)).Perm (List.range batch.length) ∧
     (∀ q ∈ plan, ∀ e, batch[q.seq]? = some e → q.chunks = chunkTokens e.tokens ∧ q.kv = (e.kvOff, e.kvLen)) ∧
     plan.Pairwise (fun a b => b.chunks.length < a.chunks.length ∨ (b.chunks.length = a.chunks.length ∧ a.seq < b.seq)) ∧
     ∀ n q, plan[n]? = some q →
       q.shelves.Nodup ∧ (∀ h ∈ q.shelves, h ∈ shelves) ∧
       (∀ h ∈ q.shelves, ∀ h' ∈ shelves, h' ∉ q.shelves → load n h < load n h' ∨ (load n h = load n h' ∧ h < h')) ∧
       ∃ k, q.shelves.length = 2 ^ k ∧ ((Q.mk q.chunks.length (2 ^ k)).le limit = true ∨ shelves.length < 2 ^ (k + 1)) ∧
         ∀ m, m < k → (Q.mk q.chunks.length (2 ^ m)).le limit = false))

/-- R199, R222, R223: A commit opens the record for the next epoch and has every shard updated; once every command of
a phase has completed it goes on: to PREPARED and the flips of the epoch words, or back to COMMITTED at the old epoch
with a flagged step or with the end of the work; after the flips the record is COMMITTED at the new epoch. A write
that R315 refuses ends the work with its status. -/
def Obligations.TrainingCommits : Prop :=
  ∀ (s : State) (slot : Fin 16384) (j : Job) (recs : List (BitVec 64)) (flagAt doneAt : BitVec 64), s.jobOf slot = some j →
    j.slot = slot.val → gaOff j.area + 0x30 ≤ s.sysBase →
    let i := slot.val
    let a := gaOff j.area
    let w := s.wk i
    let shards := s.shardTable a
    let c := Instr.stepCommit slot recs flagAt doneAt
    let shelves := s.shelvesOf j.part
    let flags := (shelves.map fun sh => (s.shelf sh).churnFlags).foldl stepFlagMerge j.flags
    let word (t : State) (st kind epoch : Nat) : Prop := t.hbmNat a 8 = st * 2 ^ 60 + kind * 2 ^ 56 + epoch
    let gathered (t : State) : Prop := ∀ sh ∈ shelves, (t.shelf sh).churnFlags = 0
    let only (t : State) (n : Nat) : Prop := ∀ x, (x < a ∨ a + n ≤ x) → tabGet 0 t.hbm x = tabGet 0 s.hbm x
    let may : Prop := ∀ off ∈ [0, 8, 0x10], s.regionCheck (Init.firmware j.part) (a + off) 8 true = none ∧ s.hbmBarrier (a + off) 8 = none
    let alone : Prop := w.group = 0 ∧ w.aborting = false
    let ends (t : State) (st : Status) : Prop := (t.wk i).st = .ending ∧ (t.wk i).status = st ∧ t.jobOf i = none
    let back (e : Commit) : Nat := (e.target.toNat + 2 ^ 32 - 1) % 2 ^ 32
    let ringsOk : Prop := ∀ sh ∈ shelves, ringHead (s.sram sh) ≤ ringTail (s.sram sh) ∧
      ringTail (s.sram sh) ≤ ringHead (s.sram sh) + 32 ∧ ringTail (s.sram sh) < 2 ^ 63
    /- the phase's commands 0 to placed − 1 stand in the rings, command k in that of shelf k mod the shelf count; no room for more -/
    let commands (t : State) (j' : Job) (e : Commit) : Prop := ringsOk → j.part < 4 →
      (∀ k, k < e.placed → let sh := shelves.getD (k % shelves.length) 0
        ∃ n, ringTail (s.sram sh) ≤ n ∧ n < ringTail (t.sram sh) ∧
          ChurnCmd.of (memNat (t.sram sh) (ringSlot n) 128) = commitCmd j' e t k) ∧
      (e.placed < commitTotal t j' e → t.ringRoom (shelves.getD (e.placed % shelves.length) 0) = false)
    let runs : Prop := j.restart = false ∧ w.live = true
    let opens : Prop := j.sketched = false ∨ (j.begun = true ∧ j.micro = s.odVal 0x604001 1)
    (¬ runs → exec c s = .next s) ∧
    (runs → j.commit = none → ¬ opens → exec c s = .next s) ∧
    /- steps 1 to 3: the flag word lies in HBM, apart from the record -/
    (runs → j.commit = none → opens → alone → s.inJob j.part flagAt 8 = false →
      ∃ t, exec c s = .next t ∧ ends t St.addressInvalid ∧ t.hbm = s.hbm) ∧
    (∀ o st, runs → j.commit = none → opens → alone → s.JobDest j.part flagAt 8 o →
      s.regionCheck (Init.firmware j.part) a 8 true = some st → ∃ t, exec c s = .next t ∧ ends t st) ∧
    (runs → j.commit = none → opens → may → ∀ o, s.JobDest j.part flagAt 8 o → (o + 8 ≤ a ∨ a + 0x30 ≤ o) →
      ∃ (t : State) (j' : Job) (e : Commit), exec c s = .next t ∧ t.jobOf i = some j' ∧ j'.commit = some e ∧ e.phase = 0 ∧
        e.kind = (if j.sketched = true then 0 else 2) ∧ e.target.toNat = (s.recEpoch a + 1) % 2 ^ 32 ∧
        e.recs = recs ∧ e.flagAt = flagAt ∧ e.doneAt = doneAt ∧ j'.flags = flags ∧
        { j' with commit := none, flags := j.flags } = j ∧
        commands t j' e ∧ word t 1 e.kind e.target.toNat ∧ t.hbmNat o 8 = flags.toNat ∧ gathered t ∧
        (∀ x, (x < a ∨ a + 8 ≤ x) → (x < o ∨ o + 8 ≤ x) → tabGet 0 t.hbm x = tabGet 0 s.hbm x) ∧
        (∀ q, t.core q = s.core q) ∧ t.wk i = w) ∧
    /- steps 4 to 7 -/
    (runs → ∀ e st, j.commit = some e → e.placed = commitTotal s j e → s.commitStatus j e = some st → e.kind < 16 →
      (e.phase ≠ 1 → st = St.ok → flags.toNat % 512 = 0 → may → ∃ t j' n, exec c s = .next t ∧ t.jobOf i = some j' ∧
        j'.commit = some { e with phase := 1, placed := n } ∧ commands t j' { e with phase := 1, placed := n } ∧ n ≤ shards.length ∧ word t 2 e.kind e.target.toNat ∧
        t.recStept a = (s.recStepc a + if e.kind = 0 then 1 else 0) % 2 ^ 64 ∧ t.recStepc a = s.recStepc a ∧
        gathered t ∧ only t 0x18 ∧ t.wk i = w) ∧
      ((e.phase ≠ 1 ∧ (st = St.stepFlagged ∨ (st = St.ok ∧ flags.toNat % 512 ≠ 0))) → may → ∃ t, exec c s = .next t ∧
        word t 0 0 (back e) ∧ only t 8 ∧ (∃ l, .log (some j.part) .flaggedStep l ∈ t.out) ∧
        ((s.entry j.didx).st = .revoked → alone → ends t St.adapterRevoked ∨ ends t St.trainStopped) ∧
        ∀ j', t.jobOf i = some j' → j'.commit = none ∧ j'.begun = false ∧ j'.committed = j.committed ∧ j'.step = j.step) ∧
      (e.phase ≠ 1 → st ≠ St.ok → st ≠ St.stepFlagged → may → ∃ t, exec c s = .next t ∧ word t 0 0 (back e) ∧ only t 8 ∧
        (alone → ends t st)) ∧
      (e.phase = 1 → st ≠ St.ok → alone → ∃ t, exec c s = .next t ∧ ends t st ∧ t.hbm = s.hbm) ∧
      (e.phase = 1 → st = St.ok → may → ∃ t, exec c s = .next t ∧ word t 0 e.kind e.target.toNat ∧ t.recStepc a = s.recStept a ∧ only t 0x10 ∧
        ((s.entry j.didx).st = .revoked → alone → ends t St.adapterRevoked) ∧
        ((s.entry j.didx).st ≠ .revoked → (e.kind ≠ 0 ∨ j.committed + 1 ≠ w.body 0x20 / 2 ^ 32) → t.wk i = w ∧ ∃ j',
          t.jobOf i = some j' ∧ j'.commit = none ∧ (if e.kind = 0 then
            j'.committed = j.committed + 1 ∧ j'.step = j.step + 1 ∧ j'.flagged = 0 ∧ j'.begun = false ∧ j'.micro = 0 ∧ j'.flags = 0 ∧
              j'.image = 0 ∧ j'.rankMax = j.rankMax ∧ j'.omega = j.omega
          else { j' with commit := none, sketched := true } = { j with commit := none, sketched := true } ∧ j'.sketched = true)) ∧
        ((s.entry j.didx).st ≠ .revoked → e.kind = 0 → j.committed + 1 = w.body 0x20 / 2 ^ 32 → w.group = 0 → w.kind = 2 →
          w.stopped = false → w.staged = [] → s.ops.all (fun x => x.who ≠ .output i) = true →
          (t.wk i).st = .ending ∧ (t.wk i).status = St.ok ∧ (t.wk i).tokens = j.committed + 1 ∧
            (s.areaOf i = some a → (t.wk i).value.toNat = e.target.toNat))))

/-- R222, R224: The restart of an interrupted commit record, by its table. -/
def Obligations.CommitRecordsRestart : Prop :=
  ∀ (s : State) (d a : Nat), (s.entry d).area = some a → a + 0x30 ≤ s.sysBase → (∀ j ∈ s.work.jobs, j.didx = d → j.commit = none) →
    let c := Instr.commitRestart d
    let l := s.shardTable a
    let state := s.recState a
    let e := if state = 1 ∨ state = 2 then (s.recEpoch a + 2 ^ 32 - 1) % 2 ^ 32 else s.recEpoch a
    let sound : Prop := ∀ q ∈ l, s.shardEpoch q = e ∨ s.shardEpoch q = (e + 1) % 2 ^ 32
    let epochAt (q : Nat) : Nat := gaOff (BitVec.ofNat 64 q) + 0x80
    /- shards are 4 KiB aligned and lie below the system area, and their epoch words are no part of the record -/
    let apart : Prop := ∀ q ∈ l, q % 4096 = 0 ∧ epochAt q + 8 ≤ s.sysBase ∧ (epochAt q + 8 ≤ a ∨ a + 0x18 ≤ epochAt q)
    let mayAt (x : Nat) : Prop := s.regionCheck (Init.firmware (s.didxPart d)) x 8 true = none ∧ s.hbmBarrier x 8 = none
    let may : Prop := mayAt a ∧ mayAt (a + 8) ∧ ∀ q ∈ l, mayAt (epochAt q)
    let jobs : Prop := ∀ j ∈ s.work.jobs, j.didx = d → (s.wk j.slot).group = 0 ∧ (s.wk j.slot).aborting = false
    let ends (t : State) (st : Status) : Prop := ∀ j ∈ s.work.jobs, j.didx = d → (s.wk j.slot).live = true →
      (t.wk j.slot).st = .ending ∧ (t.wk j.slot).status = st
    let started (t : State) : Prop := ∀ i j, t.jobOf i = some j → j.didx = d → j.restart = false
    (¬ sound → jobs → ∃ t, exec c s = .next t ∧ t.hbm = s.hbm ∧ ends t St.shardEpochMismatch) ∧
    (∀ st, sound → jobs → state = 1 → (∀ q ∈ l, s.shardEpoch q = e) → s.regionCheck (Init.firmware (s.didxPart d)) a 8 true = some st →
      st ≠ 0 → ∃ t, exec c s = .next t ∧ t.hbm = s.hbm ∧ ends t st) ∧
    (sound → state ≠ 1 → state ≠ 2 → ∃ t, exec c s = .next t ∧ started t ∧ { t with work := s.work } = s ∧
      ∀ i, t.wk i = s.wk i) ∧
    (sound → apart → may → state = 1 → ∃ t, exec c s = .next t ∧ started t ∧ (∀ q ∈ l, t.shardEpoch q = e) ∧ t.hbmNat a 8 = e ∧
      (∀ x, (x < a ∨ a + 8 ≤ x) → (∀ q ∈ l, x < epochAt q ∨ epochAt q + 8 ≤ x) → tabGet 0 t.hbm x = tabGet 0 s.hbm x) ∧
      ((∀ q ∈ l, s.shardEpoch q = e) → t.out = s.out) ∧
      ((∃ q ∈ l, s.shardEpoch q = (e + 1) % 2 ^ 32) → ∃ r, t.out = s.out ++ [.log (some (s.didxPart d)) .flaggedStep r])) ∧
    (sound → apart → may → state = 2 → ∃ t, exec c s = .next t ∧ started t ∧ (∀ q ∈ l, t.shardEpoch q = s.recEpoch a) ∧
      t.hbmNat a 8 = s.recKind a * 2 ^ 56 + s.recEpoch a ∧ t.recStepc a = s.recStept a ∧ t.recStept a = s.recStept a ∧ t.out = s.out ∧
      (∀ x, (x < a ∨ a + 16 ≤ x) → (∀ q ∈ l, x < epochAt q ∨ epochAt q + 8 ≤ x) → tabGet 0 t.hbm x = tabGet 0 s.hbm x))

/-- R7, R198, R208, R209, R210, R221: A Churn unit runs the next entry of its ring where the row's opcode is the
entry's: it rejects an entry with an unknown opcode, a field outside its range or an address outside the job's
partition, writing nothing but the completion word; it ends each entry with the completion word, then HEAD. SETEPOCH
writes an epoch word that holds the expected epoch, and STEPF_RD and STEPF_WR move the step flag register, whose
reserved bits stay zero. -/
def Obligations.ChurnRings : Prop :=
  (∀ (s : State) (sh : Fin 16) (codes : List (BitVec 12)) (bf16 moved : Bool), (s.shelf sh).churnDropped = [] →
    ∀ p ∈ [(1, Instr.emit sh), (2, .update sh), (3, .setepoch sh), (4, .sketch sh codes bf16), (5, .export_ sh moved), (6, .import_ sh),
        (7, .stepfRd sh), (8, .stepfWr sh), (9, .serve sh)],
      (s.ringNext sh = none → exec p.2 s = .next s) ∧
      ∀ c, s.ringNext sh = some c →
        (1 ≤ c.opc ∧ c.opc ≤ 9 ∧ c.opc ≠ p.1 → exec p.2 s = .next s) ∧
        (c.opc = 0 ∨ 9 < c.opc ∨ (c.opc = p.1 ∧ c.fieldsOk = false) →
          exec p.2 s = .next (s.churnDone sh c St.churnCmdInvalid 0)) ∧
        (s.inJob c.part c.doneAt 8 = false → s.addrsOk c = false) ∧
        (c.opc = p.1 → c.fieldsOk = true → s.addrsOk c = false → exec p.2 s = .next (s.churnDone sh c St.addressInvalid 0))) ∧
  (∀ (s : State) (sh : Fin 16) (c : ChurnCmd) (st : Status) (v o : Nat), s.JobDest c.part c.doneAt 8 o →
    let t := s.churnDone sh c st v
    t.hbmNat o 8 = min v (2 ^ 48 - 1) * 65536 + st.toNat ∧ s.HbmKept t [(o, 8)] ∧
      ringHead (t.sram sh) = (ringHead (s.sram sh) + 1) % 2 ^ 64 ∧
      (∀ x, x < 0xBE1008 ∨ 0xBE1010 ≤ x → tabGet 0 (t.sram sh) x = tabGet 0 (s.sram sh) x) ∧
      (∀ q, q ≠ sh.val → t.shelf q = s.shelf q) ∧ { t.shelf sh with sram := s.sram sh } = s.shelf sh ∧ s.ChurnCalm t ∧
      t.stats = s.stats) ∧
  (∀ (s : State) (sh : Fin 16) (c : ChurnCmd), s.Churns sh c → c.fieldsOk = true → s.addrsOk c = true →
    (c.opc = 3 → ∀ d, s.jobShard c.part c.arg0 = .ok d →
      (d.epoch ≠ c.arg1.toNat → ∃ u : State, exec (.setepoch sh) s = .next (u.churnDone sh c St.shardEpochMismatch 0) ∧ s.Counted u) ∧
      (d.epoch = c.arg1.toNat → s.JobDest c.part (BitVec.ofNat 64 (c.arg0.toNat + 0x80)) 8 (d.off + 0x80) → ∃ u : State,
        exec (.setepoch sh) s = .next (u.churnDone sh c St.ok 0) ∧ u.hbmNat (d.off + 0x80) 8 = c.arg2.toNat ∧
        s.HbmKept u [(d.off + 0x80, 8)] ∧ u.shelves = s.shelves ∧ u.stats = s.stats ∧ s.ChurnCalm u)) ∧
    (c.opc = 3 → ∀ st, s.jobShard c.part c.arg0 = .error st → ∃ u : State, exec (.setepoch sh) s = .next (u.churnDone sh c st 0) ∧
      u.hbm = s.hbm ∧ u.shelves = s.shelves ∧ s.ChurnCalm { u with out := s.out }) ∧
    (c.opc = 7 → ∀ o, s.JobDest c.part c.arg0 8 o → ∃ u : State, exec (.stepfRd sh) s = .next (u.churnDone sh c St.ok 0) ∧
      u.hbmNat o 8 = (s.shelf sh).churnFlags.toNat ∧ s.HbmKept u [(o, 8)] ∧ u.shelves = s.shelves ∧ s.ChurnCalm u) ∧
    (c.opc = 8 → ∃ u : State, exec (.stepfWr sh) s = .next (u.churnDone sh c St.ok 0) ∧ OnlyShelf s u sh ∧
      (u.shelf sh).churnFlags.toNat = c.arg0.toNat % 2 ^ 9 + c.arg0.toNat / 2 ^ 20 % 2 ^ 12 * 2 ^ 20 ∧
      { u.shelf sh with churnFlags := (s.shelf sh).churnFlags } = s.shelf sh))

/-- R93, R94, R95, R211, R212, R213, R214, R217, R219, R221, R223, R225: EMIT writes codes and scales of a matrix and
counts what it clips and flushes; UPDATE with a flag in the step flag word writes nothing and ends STEP_FLAGGED, and
otherwise writes what its rule gives into the bank of the target epoch, once a core that it borrows for Gram matrices
is free of serving; SKETCH writes both banks of a pair, of the rank that the entry has. The live banks and the epoch
words stay. -/
def Obligations.ChurnMatrices : Prop :=
  ∀ (s : State) (sh : Fin 16) (c : ChurnCmd), s.Churns sh c → c.fieldsOk = true → s.addrsOk c = true →
    let p := c.part
    let shadow (d : Shard) : Nat × Nat := (d.bank (d.epoch + 1), hPlen d.h)
    let ends (i : Instr) (u : State) (st : Status) (v : Nat) : Prop := exec i s = .next (u.churnDone sh c st v)
    let fails (i : Instr) (st : Status) : Prop := ∃ u, ends i u st 0 ∧ s.Counted u
    let field (off hi lo : Nat) : Nat := hdrAt c.body.toNat off hi lo
    let addr (off : Nat) : BitVec 64 := BitVec.ofNat 64 (field off 63 0)
    let cols := field 0x18 63 32
    let rows := field 0x18 31 0
    let smode := field 0x20 6 5
    let byCol : Bool := field 0x20 4 4 == 1
    let code := field 0x20 3 0
    let nch := if byCol then cols else rows
    let descOk : Prop := field 0 5 0 = 0 ∧ field 8 5 0 = 0 ∧ field 0x10 1 0 = 0 ∧ 1 ≤ cols ∧ cols ≤ 1048576 ∧ 1 ≤ rows ∧
      rows ≤ 1048576 ∧ field 0x20 63 20 = 0 ∧ field 0x20 7 7 = 0 ∧ smode ≠ 3 ∧ code ≤ 7 ∧ (smode = 2 ∨ field 0x28 63 0 = 0) ∧
      field 0x38 63 0 = 0
    let fits : Prop := s.inJob p (addr 8) (rows * ((codeBytes code cols + 63) / 64 * 64)) = true ∧ s.inJob p (addr 0x10) (4 * nch) = true
    (c.opc = 1 → ¬ descOk → fails (.emit sh) St.emitDescInvalid) ∧
    (c.opc = 1 → descOk → ¬ fits → fails (.emit sh) St.addressInvalid) ∧
    (c.opc = 1 → descOk → fits → ∀ src sin oc os, s.churnRead p (addr 0) (4 * rows * cols) = .ok src →
      (if smode = 2 then s.churnRead p (addr 0x28) (4 * nch) else .ok []) = .ok sin →
      let m := chunks cols (rows + 1) ((words32 src).map (·.toNat))
      let e := emitMatrix code smode byCol cols m ((words32 sin).getD · 0) s.free
      let codes := e.codes.flatMap (emitRow code)
      let scales := e.scales.flatMap fun v => natLE v.toNat 4
      s.JobDest p (addr 8) codes.length oc → s.JobDest p (addr 0x10) scales.length os →
      (oc + codes.length ≤ os ∨ os + scales.length ≤ oc) →
      ∃ u : State, ends (.emit sh) u St.ok (e.stat.clip + e.stat.flush) ∧ u.HoldsAt oc codes ∧ u.HoldsAt os scales ∧
        s.HbmKept u [(oc, codes.length), (os, scales.length)] ∧
        u.stats = (s.postStat false p (field 0x20 19 8) (codeSkim code) e.stat).stats ∧
        (u.shelf sh).churnFlags = (if e.nfe then stepFlagOr (s.shelf sh).churnFlags 0x10 (field 0x20 19 8) else (s.shelf sh).churnFlags) ∧
        (∀ q, q ≠ sh.val → u.shelf q = s.shelf q) ∧ u.sram sh = s.sram sh ∧ s.ChurnCalm u) ∧
    (c.opc = 2 → ∀ fb, s.churnRead p c.arg2 8 = .ok fb →
      (leNat fb % 512 ≠ 0 → fails (.update sh) St.stepFlagged) ∧
      (leNat fb % 512 = 0 → ∀ d rb, s.jobShard p c.arg0 = .ok d → s.churnRead p c.arg1 64 = .ok rb →
        let t := TensorRec.of (leNat rb)
        (t.ok = false → fails (.update sh) St.churnCmdInvalid) ∧
        (t.ok = true → (t.rule ≠ hRule d.h ∨ t.mfmt ≠ hMfmt d.h) → fails (.update sh) St.shardHeaderInvalid) ∧
        (t.ok = true → t.rule = hRule d.h → t.mfmt = hMfmt d.h → c.arg3.toNat ≠ (d.epoch + 1) % 2 ^ 32 →
          fails (.update sh) St.shardEpochMismatch) ∧
        let waits : Prop := ((s.shelf sh).serving = true ∨ ∀ k, k < 8 → s.phys sh k = none) ∧ 2 ≤ hRule d.h ∧
          s.shardBorrow c.arg0 < if hRole d.h = 0 then hRtot d.h else hCtot d.h
        (∀ i big, t.ok = true → t.rule = hRule d.h → t.mfmt = hMfmt d.h → c.arg3.toNat = (d.epoch + 1) % 2 ^ 32 →
          s.updateIn p d t c.arg0 = .ok (i, big) → s.hbmBad (shadow d).1 (shadow d).2 = false →
          (∀ x ∈ i.run, ∀ k, d.comp x.1 = some k → s.JobMay p ((shadow d).1 + k.off) (x.2.flatten.length * k.width)) →
          ((i.run.map (·.1)).Nodup) → (∀ x ∈ i.run, ∀ k, d.comp x.1 = some k → x.2.flatten.length ≤ k.rows * k.cols) →
          (waits → exec (.update sh) s = .next s) ∧ (¬ waits → ∃ u : State, ends (.update sh) u St.ok 0 ∧ (∀ x ∈ i.run, u.BankHolds d (d.epoch + 1) x.1 x.2) ∧
            s.HbmKept u [shadow d] ∧ (big = true → (u.shelf sh).churnFlags = stepFlagOr (s.shelf sh).churnFlags 8 t.ttag) ∧
            (∀ q, q ≠ sh.val → u.shelf q = s.shelf q) ∧ u.sram sh = s.sram sh ∧ u.stats = s.stats ∧ s.ChurnCalm u)))) ∧
    (c.opc = 4 → ∀ (codes : List (BitVec 12)) (bf16 : Bool) a b rb, s.jobShard p c.arg0 = .ok a → s.jobShard p c.arg1 = .ok b →
      s.churnRead p c.arg2 32 = .ok rb →
      let base := BaseRec.of (leNat rb)
      let r := s.sketchRank a c.arg0
      let pair : Prop := hRole a.h = 0 ∧ hRole b.h = 1 ∧ hLayer a.h = hLayer b.h ∧ hGroup a.h = hGroup b.h ∧ hCtot a.h = r ∧ hRtot b.h = r ∧
        hRtot a.h = base.dIn ∧ hCtot b.h = base.dOut
      let w := if bf16 then 2 else 4
      (∀ e, s.shardEntry c.arg0 = some e → r = rankOf (e.rankCode (hGroup a.h))) ∧
      (base.ok = false → fails (.sketch sh codes bf16) St.adapterBaseScaleInvalid) ∧
      (base.ok = true → ¬ pair → fails (.sketch sh codes bf16) St.shardHeaderInvalid) ∧
      (∀ srow mb, base.ok = true → pair → s.baseScales p base = .ok srow → s.churnRead p c.arg3 (w * base.dIn * base.dOut) = .ok mb →
        let master := (chunks w (mb.length + 1) mb).map fun l => if bf16 then leNat l * 65536 else leNat l
        let x := sketch (residual base srow master (codes.map (·.toNat))) base.dOut base.dIn r (s.shardSeed c.arg0) (hLayer a.h) (hGroup a.h)
        s.hbmBad (shadow a).1 (shadow a).2 = false → s.hbmBad (shadow b).1 (shadow b).2 = false →
        (∀ k ∈ hComps a.h, s.JobMay p ((shadow a).1 + k.off) (k.rows * k.cols * k.width)) →
        (∀ k ∈ hComps b.h, s.JobMay p ((shadow b).1 + k.off) (k.rows * k.cols * k.width)) →
        (a.off + a.size ≤ b.off ∨ b.off + b.size ≤ a.off) → x.1.flatten.length ≤ base.dIn * r → x.2.flatten.length ≤ r * base.dOut →
        ∃ u : State, ends (.sketch sh codes bf16) u St.ok 0 ∧ u.BankHolds a (a.epoch + 1) 0 x.1 ∧ u.BankHolds b (b.epoch + 1) 0 x.2 ∧
          (∀ k ∈ hComps a.h, k.comp ≠ 0 → u.BankHolds a (a.epoch + 1) k.comp (freshComp k)) ∧
          (∀ k ∈ hComps b.h, k.comp ≠ 0 → u.BankHolds b (b.epoch + 1) k.comp (freshComp k)) ∧
          s.HbmKept u [shadow a, shadow b] ∧ u.shelves = s.shelves ∧ u.stats = s.stats ∧ s.ChurnCalm u))

/-- R221, R226, R227, R228, R229: EXPORT writes one component as export shards, in clear or wrapped for the tenant's
key, and answers their number; IMPORT writes the rows and columns that an accepted export shard holds into the bank of
the target epoch, and nothing where its checks fail; SERVE writes the serving copy of the committed matrix. -/
def Obligations.ChurnShards : Prop :=
  ∀ (s : State) (sh : Fin 16) (c : ChurnCmd), s.Churns sh c → c.fieldsOk = true → s.addrsOk c = true →
    let p := c.part
    let ends (i : Instr) (u : State) (st : Status) (v : Nat) : Prop := exec i s = .next (u.churnDone sh c st v)
    let fails (i : Instr) (st : Status) : Prop := ∃ u, ends i u st 0 ∧ s.Counted u
    (c.opc = 5 → ∀ (moved : Bool) d k kb, s.jobShard p c.arg0 = .ok d → d.comp c.arg3.toNat = some k →
      (if c.arg2 = 0 then .ok [] else s.churnRead p c.arg2 65) = .ok kb →
      let key : Option Nat := if c.arg2 = 0 then none else some (bigNat kb)
      (c.arg2 ≠ 0 → pointOk kb = false → fails (.export_ sh moved) St.exportKeyInvalid) ∧
      (c.arg2 = 0 ∨ pointOk kb = true →
        (moved = true → fails (.export_ sh moved) St.shardEpochMismatch) ∧
        (∀ l o, moved = false → s.exportShards p d k key = .ok l → s.JobDest p c.arg1 l.flatten.length o → ∃ u : State,
          ends (.export_ sh moved) u St.ok l.length ∧ u.HoldsAt o l.flatten ∧ s.HbmKept u [(o, l.flatten.length)] ∧
          u.shelves = s.shelves ∧ u.stats = s.stats ∧ s.ChurnCalm u))) ∧
    (c.opc = 5 → ∀ (moved : Bool) d, s.jobShard p c.arg0 = .ok d → d.comp c.arg3.toNat = none → c.arg2 = 0 →
      fails (.export_ sh moved) St.churnCmdInvalid) ∧
    /- a clear component that one export shard holds: header, digest and the live bank's bytes -/
    (∀ d k, 0 < k.rows → 0 < k.cols → 0 < k.width → k.rows * k.cols * k.width ≤ 0x4000000 →
      ∀ payload, s.hbmGet (Init.job p false) (d.live + k.off) (k.rows * k.cols * k.width) = .ok payload →
      ∃ f : HdrF, s.exportShards p d k none = .ok [f.bytes payload ++ payload] ∧ f.adid = hAdid d.h ∧ f.layer = hLayer d.h ∧
        f.group = hGroup d.h ∧ f.role = hRole d.h ∧ f.comp = k.comp ∧ f.code = (if k.width = 2 then 9 else 8) ∧ f.wrap = false ∧
        f.epoch = d.epoch ∧ f.rtot = k.rows ∧ f.ctot = k.cols ∧ f.row0 = 0 ∧ f.nrows = k.rows ∧
        f.plen = k.rows * k.cols * k.width ∧ f.rule = hRule d.h ∧ f.mfmt = hMfmt d.h) ∧
    (c.opc = 6 → ∀ hb d, s.churnRead p c.arg0 128 = .ok hb → s.jobShard p c.arg1 = .ok d →
      (hdrOk (leNat hb) = false ∨ hWrap (leNat hb) = true → fails (.import_ sh) St.shardHeaderInvalid) ∧
      (hdrOk (leNat hb) = true → hWrap (leNat hb) = false → ∀ bs, s.churnRead p c.arg0 (128 + hPlen (leNat hb)) = .ok bs →
        (∀ st, importCheck bs d = .error st → fails (.import_ sh) st) ∧
        (∀ k, importCheck bs d = .ok k → c.arg3.toNat ≠ (d.epoch + 1) % 2 ^ 32 → fails (.import_ sh) St.shardEpochMismatch) ∧
        (∀ k, importCheck bs d = .ok k → c.arg3.toNat = (d.epoch + 1) % 2 ^ 32 →
          s.JobMay p (d.bank (d.epoch + 1) + k.off) (k.rows * k.cols * k.width) →
          let h := leNat (bs.take 128)
          let v := importVals h (bs.drop 128)
          let at_ := d.bank (d.epoch + 1) + k.off
          ∃ u : State, ends (.import_ sh) u St.ok 0 ∧ s.HbmKept u [(at_, k.rows * k.cols * k.width)] ∧
            (∀ i j, i < k.rows → j < k.cols → u.hbmNat (at_ + (i * k.cols + j) * k.width) k.width =
              if hRow0 h ≤ i ∧ i < hRow0 h + hNrows h ∧ hCol0 h ≤ j ∧ j < hCol0 h + hNcols h then
                importPat k.width (v.getD ((i - hRow0 h) * hNcols h + (j - hCol0 h)) 0) % 256 ^ k.width
              else s.hbmNat (at_ + (i * k.cols + j) * k.width) k.width) ∧
            u.shelves = s.shelves ∧ u.stats = s.stats ∧ s.ChurnCalm u))) ∧
    (∀ bs d, hdrOk (leNat (bs.take 128)) = true → hWrap (leNat (bs.take 128)) = false →
      (sha256 (bs.take 64 ++ bs.drop 128) ≠ hDigest (leNat (bs.take 128)) → importCheck bs d = .error St.shardDigestMismatch) ∧
      (sha256 (bs.take 64 ++ bs.drop 128) = hDigest (leNat (bs.take 128)) →
        (hAdid (leNat (bs.take 128)) ≠ hAdid d.h ∨ hLayer (leNat (bs.take 128)) ≠ hLayer d.h ∨
          hGroup (leNat (bs.take 128)) ≠ hGroup d.h ∨ hRole (leNat (bs.take 128)) ≠ hRole d.h) →
        importCheck bs d = .error St.shardHeaderInvalid)) ∧
    (c.opc = 9 → ∀ d bs e o, s.jobShard p c.arg0 = .ok d → s.serveShard (Init.job p false) d (s.serveCode d c.arg0) = .ok (bs, e) →
      s.JobDest p c.arg1 bs.length o → ∃ u : State, ends (.serve sh) u St.ok 0 ∧ u.HoldsAt o bs ∧ s.HbmKept u [(o, bs.length)] ∧
        u.stats = (s.postStat false p 0xFFF (codeSkim (s.serveCode d c.arg0)) e.stat).stats ∧ u.shelves = s.shelves ∧ s.ChurnCalm u)

/-- R221, R222, R224, R226, R229, R237, R315: An EXPORT work writes the export shards of its components to DST, one
behind the other, as its one commit unit; an IMPORT work copies every shard's live bank to the bank of the next epoch,
imports into it, and moves every shard and the record to that epoch, with KIND 1. Where one of these ends in a status,
the record goes back to the committed epoch and the work ends with that status. Only the first held work of its class
and partition starts. -/
def Obligations.ControlWorks : Prop :=
  ∀ (s : State) (slot : Fin 16384),
    let i := slot.val
    let w := s.wk i
    let p := s.slotPart i
    let d := daDidx w.da
    let area : BitVec 64 := BitVec.ofNat 64 (w.body 8)
    let a := gaOff area
    let l := s.shardTable a
    let idle : Prop := w.st = .held ∧ w.stopped = false ∧ s.domainDown p = false ∧ s.inCommit i = false ∧ s.firstHeld i = true
    let alone : Prop := w.group = 0 ∧ w.aborting = false
    let settled : Prop := s.recState a ≠ 1 ∧ s.recState a ≠ 2 ∧ s.recSound a = true
    let ends (c : Instr) (st : Status) : Prop := ∃ t : State, exec c s = .next t ∧ (t.wk i).st = .ending ∧ (t.wk i).status = st ∧
      t.hbm = s.hbm ∧ ∀ k, k ≠ i → t.wk k = s.wk k
    let placed : Prop := s.didxOk p d = true ∧ gaSpace area = 0 ∧ s.inJob p area 64 = true
    let readable : Prop := ∃ bs, s.engineRead (Init.firmware p) area 64 = .ok bs
    let refused (c : Instr) : Prop :=
      (s.didxOk p d = false → ends c St.adapterIndexInvalid) ∧
      (s.didxOk p d = true → (gaSpace area ≠ 0 ∨ s.inJob p area 64 = false) → ends c St.addressInvalid) ∧
      (∀ st, placed → s.engineRead (Init.firmware p) area 64 = .error st → ends c st) ∧
      (placed → readable → s.recSound a = false → ends c St.shardEpochMismatch)
    let exports : Prop := w.kind = 4 ∧ w.ready = false ∧ w.copying = false ∧ idle
    let imports : Prop := w.kind = 5 ∧ idle
    (¬ exports → exec (.exportWork slot) s = .next s) ∧ (¬ imports → exec (.importWork slot) s = .next s) ∧
    (exports → alone → refused (.exportWork slot)) ∧ (imports → alone → refused (.importWork slot)) ∧
    (exports → placed → readable → settled → alone →
      let keyRead : Except Status (List Byte) := if w.body 0x20 = 0 then .ok [] else s.churnRead p (BitVec.ofNat 64 (w.body 0x20)) 65
      (∀ st, keyRead = .error st → ends (.exportWork slot) st) ∧
      ∀ kb, keyRead = .ok kb →
      let key : Option Nat := if w.body 0x20 = 0 then none else some (bigNat kb)
      (w.body 0x20 ≠ 0 → pointOk kb = false → ends (.exportWork slot) St.exportKeyInvalid) ∧
      (∀ st, w.body 0x20 = 0 ∨ pointOk kb = true → s.exportAll p (w.body 0x28 % 256) key l = .error st → ends (.exportWork slot) st) ∧
      (w.body 0x20 = 0 ∨ pointOk kb = true → ∀ s' shards, s.exportAll p (w.body 0x28 % 256) key l = .ok (s', shards) →
        let outs := stageAll 0 shards
        (w.outsFit outs = false → ends (.exportWork slot) St.addressInvalid) ∧
        (w.outsFit outs = true → shards ≠ [] → s.ops.all (fun o => o.who ≠ .output i) = true → ∃ t : State,
          exec (.exportWork slot) s = .next t ∧
          t.wk i = { w with st := .running, staged := [], last := true, copying := true, copiedHeld := false } ∧
          (t.ops.filter fun o => o.who = .output i).map (fun o => (o.opc, o.remote, o.data)) =
            outs.map (fun o => (1, hostAddr w.ctx (w.body 0x10 + o.1), o.2)) ∧
          t.hbm = s.hbm ∧ ∀ k, k ≠ i → t.wk k = s.wk k) ∧
        (w.outsFit outs = true → shards = [] → s.ops.all (fun o => o.who ≠ .output i) = true → ends (.exportWork slot) St.ok))) ∧
    (imports → placed → readable → settled →
      let e := s.recEpoch a
      let t1 := (e + 1) % 2 ^ 32
      let mayAt (u : State) (x : Nat) : Prop := u.regionCheck (Init.firmware p) x 8 true = none ∧ u.hbmBarrier x 8 = none
      let s0 := s.modEntry d fun x => { x with area := some a }
      let opened := s0.putRec p a 1 1 t1
      let copied := opened.1.copyBanks p t1 l
      let imported := copied.1.importFrom p t1 l (w.body 0x18 % 65536) (w.body 0x10)
      let l2 := imported.1.shardTable a
      let table := gaOff (BitVec.ofNat 64 (imported.1.hbmNat (a + 0x28) 8))
      let epochAt (q : Nat) : Nat := gaOff (BitVec.ofNat 64 q) + 0x80
      /- shards are 4 KiB aligned and lie below the system area; neither their epoch words nor SHTAB meets the record's first words -/
      let apart : Prop := (table + 8192 ≤ a ∨ a + 0x18 ≤ table) ∧
        ∀ q ∈ l2, q % 4096 = 0 ∧ epochAt q + 8 ≤ s.sysBase ∧ (epochAt q + 8 ≤ a ∨ a + 0x18 ≤ epochAt q)
      let fails (st : Status) (u : State) : Prop := mayAt u a → ∃ t : State, exec (.importWork slot) s = .next t ∧
        t.hbmNat a 8 = e ∧ u.HbmKept t [(a, 8)] ∧ (alone → (t.wk i).st = .ending ∧ (t.wk i).status = st)
      (∀ st, s.regionCheck (Init.firmware p) a 8 true = some st → st ≠ 0 → alone → ends (.importWork slot) st) ∧
      (opened.2 = 0 → copied.2 ≠ 0 → fails copied.2 copied.1) ∧
      (opened.2 = 0 → copied.2 = 0 → imported.2 ≠ 0 → fails imported.2 imported.1) ∧
      (opened.2 = 0 → copied.2 = 0 → imported.2 = 0 → apart →
        (mayAt imported.1 a ∧ mayAt imported.1 (a + 0x10) ∧ ∀ q ∈ l2, mayAt imported.1 (epochAt q)) →
        ∃ t : State, exec (.importWork slot) s = .next t ∧
        t.hbmNat a 8 = 2 ^ 56 + t1 ∧ t.recStepc a = imported.1.recStepc a ∧ t.recStept a = imported.1.recStepc a ∧
        (∀ q ∈ l2, imported.1.shardEpoch q = e → t.shardEpoch q = t1) ∧
        imported.1.HbmKept t ((a, 0x18) :: l2.map fun q => (epochAt q, 8)) ∧
        (t.entry d).area = some a ∧ (t.wk i).st = .ending ∧ (t.wk i).status = St.ok ∧ (t.wk i).value.toNat = t1))
end

