-- ==== Sys2Proof/Laws/Frame.lean ====
section
/-!
SUPPORT. Frames: which fields of State an operation can change at all, and that it keeps the queue and the canonical
form of HBM. The lemmas of the operations themselves stand in the Frames files.
-/

namespace Sys2Proof.Machine

/-- The fields of State, the queue apart. -/
inductive Field where
  | free | part | tsc | cores | shelves | woken | ops | nextOp | hbm | regions | ecc | stats | replica | dir | work | mode | port
  | fabric | power | fw | sec | test | boot | cause | mod | od | odStore | out
deriving DecidableEq, Repr

/-- A field holds the same in both states. -/
def Field.Same (s t : State) : Field → Prop
  | .free => t.free = s.free
  | .part => t.part = s.part
  | .tsc => t.tsc = s.tsc
  | .cores => t.cores = s.cores
  | .shelves => t.shelves = s.shelves
  | .woken => t.woken = s.woken
  | .ops => t.ops = s.ops
  | .nextOp => t.nextOp = s.nextOp
  | .hbm => t.hbm = s.hbm
  | .regions => t.regions = s.regions
  | .ecc => t.ecc = s.ecc
  | .stats => t.stats = s.stats
  | .replica => t.replica = s.replica
  | .dir => t.dir = s.dir
  | .work => t.work = s.work
  | .mode => t.mode = s.mode
  | .port => t.port = s.port
  | .fabric => t.fabric = s.fabric
  | .power => t.power = s.power
  | .fw => t.fw = s.fw
  | .sec => t.sec = s.sec
  | .test => t.test = s.test
  | .boot => t.boot = s.boot
  | .cause => t.cause = s.cause
  | .mod => t.mod = s.mod
  | .od => t.od = s.od
  | .odStore => t.odStore = s.odStore
  | .out => t.out = s.out

/-- From s to t the queue is the same, HBM keeps its canonical form, and no field outside the list has changed. -/
structure Frame (l : List Field) (s t : State) : Prop where
  pending : t.pending = s.pending
  canon : Memory.wf s.hbm = true → Memory.wf t.hbm = true
  same : ∀ f, f ∉ l → f.Same s t

theorem Field.Same.refl (s : State) (f : Field) : f.Same s s := by cases f <;> rfl

theorem Field.Same.trans {s t u : State} {f : Field} (h : f.Same s t) (g : f.Same t u) : f.Same s u := by
  cases f <;> exact Eq.trans g h

theorem Frame.refl (l : List Field) (s : State) : Frame l s s := ⟨rfl, id, fun f _ => .refl s f⟩

theorem Frame.trans {l : List Field} {s t u : State} (h : Frame l s t) (g : Frame l t u) : Frame l s u :=
  ⟨g.pending.trans h.pending, g.canon ∘ h.canon, fun f n => (h.same f n).trans (g.same f n)⟩

theorem Frame.mono {l m : List Field} {s t : State} (h : Frame l s t) (k : ∀ f ∈ l, f ∈ m) : Frame m s t :=
  ⟨h.pending, h.canon, fun f n => h.same f fun i => n (k f i)⟩

/-- A step more, whose own fields are among the list's. -/
theorem Frame.step {l m : List Field} {s t u : State} (g : Frame m t u) (h : Frame l s t)
    (k : m.all (l.contains ·) = true := by rfl) : Frame l s u :=
  h.trans (g.mono fun f i => by simpa using List.all_eq_true.1 k f i)

theorem Frame.foldl {α : Type} {l : List Field} {s e : State} {f : State → α → State} {xs : List α} (h : Frame l s e)
    (g : ∀ t x, Frame l t (f t x)) : Frame l s (xs.foldl f e) := by
  induction xs generalizing e with
  | nil => exact h
  | cons x xs ih => exact ih (h.trans (g e x))

theorem Frame.foldl_fst {α β : Type} {l : List Field} {s : State} {e : State × β} {f : State × β → α → State × β}
    {xs : List α} (h : Frame l s e.1) (g : ∀ p x, Frame l p.1 (f p x).1) : Frame l s (xs.foldl f e).1 := by
  induction xs generalizing e with
  | nil => exact h
  | cons x xs ih => exact ih (h.trans (g e x))

/-- A state given field by field (a record update), whose changed fields are among the list's. -/
theorem Frame.upd {l : List Field} {s e : State} {v0 : List Instr} {v1 : Nat} {v2 : Part} {v3 : Nat} {v4 : Tab Core} {v5 : Tab Shelf} {v28 : List Nat} {v6 : List RemOp} {v7 : Nat}
    {v8 : Mem} {v9 : Tab Region} {v10 : Ecc} {v11 : Stats} {v12 : Replica} {v13 : Directory} {v14 : WorkUnit} {v15 :
    Mode} {v16 : HostPort} {v17 : Fabric} {v18 : Power} {v19 : Firmware} {v20 : Security} {v21 : SelfTest} {v22 :
    Boot} {v23 : Cause} {v24 : Module} {v25 : Tab Nat} {v26 : Tab Nat} {v27 : List Emit}
    (h : Frame l s e) (p : v0 = e.pending := by with_reducible rfl) (c : Memory.wf e.hbm = true → Memory.wf v8 = true := by exact fun h => h)
    (k : ∀ f, f ∉ l → f.Same e ⟨v0, v1, v2, v3, v4, v5, v28, v6, v7, v8, v9, v10, v11, v12, v13, v14, v15, v16, v17, v18, v19, v20, v21, v22,
      v23, v24, v25, v26, v27⟩ := by
        intro f hf; cases f <;> first | exact absurd (by decide) hf | exact rfl) :
    Frame l s ⟨v0, v1, v2, v3, v4, v5, v28, v6, v7, v8, v9, v10, v11, v12, v13, v14, v15, v16, v17, v18, v19, v20, v21, v22,
      v23, v24, v25, v26, v27⟩ :=
  h.trans ⟨p, c, k⟩

/-- The state that an operation answers beside a value. -/
theorem Frame.of_fst {α : Type} {l : List Field} {s t : State} {x : α} {p : State × α} (e : p = (t, x))
    (h : Frame l s p.1) : Frame l s t := by
  rw [e] at h
  exact h

theorem Frame.of_snd {α : Type} {l : List Field} {s t : State} {x : α} {p : α × State} (e : p = (x, t))
    (h : Frame l s p.2) : Frame l s t := by
  rw [e] at h
  exact h

/-- An operation that may answer nothing: the frame of the state it answers. -/
structure FrameOpt (l : List Field) (s : State) (o : Option State) : Prop where
  frame : ∀ t, o = some t → Frame l s t

theorem Frame.of_some {l : List Field} {s t : State} {o : Option State} (e : o = some t) (h : FrameOpt l s o) : Frame l s t :=
  h.frame t e

theorem FrameOpt.none {l : List Field} {s : State} : FrameOpt l s none := ⟨fun _ h => nomatch h⟩

theorem FrameOpt.some {l : List Field} {s t : State} (h : Frame l s t) : FrameOpt l s (some t) :=
  ⟨fun u e => by cases e; exact h⟩

theorem FrameOpt.mono {l m : List Field} {s : State} {o : Option State} (h : FrameOpt l s o)
    (k : l.all (m.contains ·) = true := by rfl) : FrameOpt m s o :=
  ⟨fun t e => (h.frame t e).mono fun f i => by simpa using List.all_eq_true.1 k f i⟩

/-- An operation that may answer an error instead of a state and a value. -/
structure FrameExc {α : Type} (l : List Field) (s : State) (o : Except Status (State × α)) : Prop where
  frame : ∀ t x, o = .ok (t, x) → Frame l s t

theorem Frame.of_ok {α : Type} {l : List Field} {s t : State} {x : α} {o : Except Status (State × α)} (e : o = .ok (t, x))
    (h : FrameExc l s o) : Frame l s t := h.frame t x e

theorem FrameExc.error {α : Type} {l : List Field} {s : State} {st : Status} :
    FrameExc (α := α) l s (.error st) := ⟨fun _ _ h => nomatch h⟩

theorem FrameExc.ok {α : Type} {l : List Field} {s : State} {a : State × α} (h : Frame l s a.1) : FrameExc l s (.ok a) :=
  ⟨fun t x e => by cases e; exact h⟩

/-- A command answers a next state, and that state's frame. -/
structure FrameOut (l : List Field) (s : State) (o : Out) : Prop where
  frame : ∃ t, o = .next t ∧ Frame l s t

theorem FrameOut.next {l : List Field} {s t : State} (h : Frame l s t) : FrameOut l s (.next t) := ⟨t, rfl, h⟩

theorem Frame.of_next {l : List Field} {s t : State} {o : Out} (e : o = .next t) (h : FrameOut l s o) : Frame l s t := by
  obtain ⟨u, f, g⟩ := h
  cases e.symm.trans f
  exact g

theorem FrameOut.mono {l m : List Field} {s : State} {o : Out} (h : FrameOut l s o)
    (k : l.all (m.contains ·) = true := by rfl) : FrameOut m s o := by
  obtain ⟨t, e, g⟩ := h
  exact ⟨t, e, g.mono fun f i => by simpa using List.all_eq_true.1 k f i⟩

end Sys2Proof.Machine
end

