-- ==== Sys2Proof/WellFormed.lean ====
section
/-!
DEFINITION. What every command that can reach the block satisfies: the sizes of fields and messages that the spec fixes
and the operand types do not already bound.
-/

namespace Sys2Proof

/-- A request's fields fit the wire: LEN and SEGOFF have 32 bits, and the data lies within the message (R271, R297). -/
def Request.wellFormed (r : Request) : Bool :=
  decide (r.len < 2 ^ 32) && decide (r.off < 2 ^ 32) && (r.data.isEmpty || decide (r.off + r.data.length ≤ r.len))

/-- A packet fits the largest IP MTU, 9,216 bytes, with the 24-byte header and the smallest IP and UDP headers (R268, R269). -/
def Packet.wellFormed (p : Packet) : Bool := decide (p.body.length ≤ 9216 - 28 - 24)

/-- A datagram fits the largest IP MTU (R268). -/
def Frame.wellFormed (f : Frame) : Bool :=
  match f.content with
  | .udp _ _ _ bytes => decide (bytes.length ≤ 9216 - 28)
  | _ => true

/-- A flit without its FEC parity has 504 bytes (R293). -/
def flitWellFormed (bytes : List Byte) : Bool := bytes.length == 504

/-- Phases 1 to 7, and eight lanes at most (R303). -/
def Training.wellFormed (t : Training) : Bool := decide (1 ≤ t.phase.val) && decide (t.ratios.length ≤ 8)

/-- The value of an OD_REQ fits a packet (R270). -/
def OdReq.wellFormed (q : OdReq) : Bool := decide (q.value.length ≤ 9216 - 28 - 32)

/-- A peer's version numbers are bytes, as in OPEN (R277, R303). -/
def PeerIdent.wellFormed (i : PeerIdent) : Bool := decide (i.vmajHi < 256) && decide (i.vmin < 256) && decide (i.vmajLo < 256)

/-- Staged outputs lie in a buffer of less than 2^44 bytes (R237). -/
def ServeAct.wellFormed : ServeAct → Bool
  | .unit outs _ _ => outs.all fun o => decide (o.1 + o.2.length < 2 ^ 44)
  | _ => true

/-- An activity counter of an estimation period has 64 bits (R367). -/
def Activity.wellFormed (a : Activity) : Bool :=
  [a.mac, a.tree, a.tally, a.adapter, a.vector, a.churn, a.sram, a.clock].all fun n => decide (n < 2 ^ 64)

/-- A commit record, a shard or an image lies below the HBM capacity of the larger part (R310). -/
def hbmPlace (o : Nat) : Bool := decide (o < 432 * 2 ^ 30)

/-- The management complex has two cores (R137). -/
def TrimRef.wellFormed (t : TrimRef) : Bool := t.sh.val != 16 || decide (t.k.val < 2)

/-- A core has 16 PMP entries, listed once each in ascending order (R133). -/
def TrimBase.wellFormed (b : TrimBase) : Bool :=
  b.pmp.all (fun e => decide (e.1 < 16)) && (b.pmp.map (·.1)).Pairwise (· < ·)

/-- A trim core's instruction, and where the core stands. -/
def trimWellFormed (t : TrimRef) (o : TrimOps) : Bool := t.wellFormed && o.base.wellFormed

/-- The check of a command. -/
def Instr.wellFormed : Instr → Bool
  | .tallyAdd r | .put r | .get r | .atomicAdd r | .atomicSwap r | .atomicCas r | .putSignal r | .fence r | .vlaunch r
  | .fillDescriptor r | .stepfWrite r => r.wellFormed
  | .response _ a => decide (a.data.length < 2 ^ 24)
  | .open_ p => p.wellFormed
  | .packetReceive f => f.wellFormed
  | .flitReceive _ bytes => flitWellFormed bytes
  | .snapshotCommand q | .abortWork q | .abortGroup q | .modeCommandDevice q | .modeCommandBoard q | .retrainGroup q
  | .regionEntry q | .ownerKeyClaim q | .ownerRelease q | .quoteRequest q | .securityVersionCommit q | .partitionReset q
  | .regionScrub q | .odWrite q | .sessionLevel q | .deviceReset q | .updateStage q | .updateActivate q | .updateAbandon q
  | .enterParked q => q.wellFormed
  | .shelfReset q _ _ => q.all OdReq.wellFormed
  | .ack _ _ _ sack => decide (sack.length ≤ 4)
  | .laneErrorWindow _ ratios => decide (ratios.length ≤ 8)
  | .linkState _ words => words.length == 8
  | .estimationPeriod acts _ => acts.length == 4 && acts.all Activity.wellFormed
  | .groupTraining _ t => t.wellFormed && t.ident.wellFormed
  | .groupRegister _ _ _ npart => decide (npart ≤ 64)
  | .serveWork _ a => a.wellFormed
  | .loadRowScales t o | .loadTokenScales t o | .storeRowMaxima t o | .storeTokenMaxima t o | .scSeed t o | .rmCmd t o
  | .waitWNe t o | .waitWEq t o | .waitWGeu t o | .tpIssue t o | .tpStat t o | .tpDiscard t o | .sumRecv t o | .sumPoll t o
  | .sumFlush t o => trimWellFormed t o
  | .trimException t b _ => t.wellFormed && b.wellFormed
  | .counterStore t _ _ _ | .waitWake t | .waitTimeout t | .waitInterrupt t _ => t.wellFormed
  | .trainingImageBuild _ image timage => hbmPlace image && hbmPlace timage
  | _ => true

end Sys2Proof
end

