-- ==== Sys2Proof/Tests/Slice0.lean ====
section
/-!
SUPPORT. Tests: a concrete state and operands for the hypotheses of each statement, one step of each command there, and
terms that are not well formed.
-/

open Sys2Proof Sys2Proof.Machine

namespace Sys2Proof.Tests

set_option Elab.async false

/-- A field of an instruction word or a record: value `v` from bit `lo` on. -/
def fld (v lo : Nat) : Nat := v * 2 ^ lo

/-- A device that serves, as reset leaves it otherwise. -/
def ready : State := { State.reset with boot := .ready }

def c00 : CoreRef := ⟨0, 0⟩

/-- `ready` with core S0.C0 changed. -/
def withCore (f : Core → Core) : State := ready.modCore 0 f

/-- `ready` with these instructions in the tile queue of S0.C0. -/
def withTile (q : List (BitVec 128)) : State := withCore fun k => { k with tile := { k.tile with queue := q } }

/-- The state after a command, where it answers one. -/
def after (o : Out) : State :=
  match o with
  | .next t => t
  | _ => State.reset

/-! ### Witnesses: the hypotheses of each statement hold of a concrete state and operands -/

/-- R62's table: code 5, row 63, one source row, stride 64 bytes. -/
def ldWord : BitVec 128 := BitVec.ofNat 128 (fld 1 120 + fld 5 116 + fld 63 89 + fld 4 60)

/-- R60, R66: tile.mask of entry 15. -/
def maskWord : BitVec 128 := BitVec.ofNat 128 (fld 5 120 + fld 15 92 + 3)

def swapWord : BitVec 128 := BitVec.ofNat 128 (fld 2 120)

def endWord : BitVec 128 := BitVec.ofNat 128 (fld 6 120 + 0xFFFFFFFF)

/-- `withTile` with a load of shadow cell 5 in flight. -/
def loading (q : List (BitVec 128)) : State :=
  withCore fun k => { k with tile := { k.tile with queue := q, loads := [⟨0, [(5, 7)]⟩] } }

theorem test_tile_nop : (withTile [0]).Issues c00 0 0 ∧ ((after (exec (.tileNop c00) (withTile [0]))).core 0).tile.queue = [] :=
  ⟨by constructor <;> decide +kernel, by decide +kernel⟩

theorem test_tile_ld : (withTile [ldWord]).Issues c00 0 ldWord ∧ tileOpc ldWord.toNat = 1 ∧
    ((after (exec (.tileLd c00) (withTile [ldWord]))).core 0).tile.loads.map (·.cells.length) = [64] :=
  ⟨by constructor <;> decide +kernel, by decide +kernel, by decide +kernel⟩

theorem test_tile_swap : (withTile [swapWord]).Issues c00 0 swapWord ∧ ((withTile [swapWord]).core 0).tile.loads = [] ∧
    (loading [swapWord]).Issues c00 0 swapWord ∧ ((loading [swapWord]).core 0).tile.loads ≠ [] ∧
    ((after (exec (.tileSwap c00) (loading [swapWord]))).core 0).tile.queue = [swapWord] :=
  ⟨by constructor <;> decide +kernel, by decide +kernel, by constructor <;> decide +kernel, by decide +kernel, by decide +kernel⟩

theorem test_tile_mask : (withTile [maskWord]).Issues c00 0 maskWord ∧ tileOpc maskWord.toNat = 5 ∧
    ((after (exec (.tileMask c00) (withTile [maskWord]))).core 0).mask 15 = 3 :=
  ⟨by constructor <;> decide +kernel, by decide +kernel, by decide +kernel⟩

/-- R54: cell (row 63, column 63) of the load above, and the last column of a 4-bit load. -/
theorem test_load_cells : 0 < (LdF.of ldWord.toNat).n ∧ (LdF.of ldWord.toNat).four = false ∧
    (LdF.of (ldWord.toNat - fld 1 116)).four = true ∧
    (128 * 63 + 127) ∈ (loadCells [] (LdF.of (ldWord.toNat - fld 1 116))).map (·.1) := by decide +kernel

theorem test_tile_ld_done : (loading []).phys c00.sh c00.c = some 0 ∧ ((loading []).core 0).tile.loads = [⟨0, [(5, 7)]⟩] ∧
    ([(5, (7 : BitVec 12))].map (·.1)).Nodup ∧ tabGet 0 ((after (exec (.tileLdDone c00) (loading []))).core 0).shadow 5 = 7 := by
  decide +kernel

theorem test_tile_end : ((withTile [endWord, 0]).core 0).tile.queue = [endWord, 0] ∧ bits endWord.toNat 119 32 = 0 ∧
    (∀ x, [(0 : BitVec 128)].head? = some x → tileOpc x.toNat < 6) ∧ ((withTile [endWord, 0]).core 0).tile.idle = true ∧
    ((after (exec (.tileEnd c00) (withTile [endWord, 0]))).core 0).tile.tlast = 0xFFFFFFFF00000000 :=
  ⟨by decide +kernel, by decide +kernel, by intro x h; cases h; decide, by decide +kernel, by decide +kernel⟩

def discarding : State := withCore fun k => { k with tile := { k.tile with discarding := true } }

theorem test_discard_idle : (discarding.core 0).tile.discarding = true ∧ (discarding.core 0).tile.idle = true ∧
    (discarding.core 0).vec.prog = none ∧
    ((after (exec (.discardIdle c00) discarding)).core 0).tile.tlast = 0xFFFFFFFF01030000 := by decide +kernel

/-- R59: a load with a reserved bit set, before an instruction and its tile.end. -/
def badLd : BitVec 128 := ldWord + 1

theorem test_tile_reject : ((withTile [badLd, 0, endWord]).core 0).tile.queue = [badLd, 0, endWord] ∧
    ((tileCheck badLd.toNat).orElse fun _ => tileStateCheck ((withTile []).core 0) badLd.toNat) = some St.tileFieldInvalid ∧
    tileOpc badLd.toNat ≤ 5 ∧
    ((after (exec (.tileLd c00) (withTile [badLd, 0, endWord]))).core 0).tile.ends = [⟨0, 0xFFFFFFFF, St.tileFieldInvalid⟩] ∧
    ((after (exec (.tileLd c00) (withTile [badLd, 0]))).core 0).tile.rej = some St.tileFieldInvalid := by decide +kernel

/-- R60, R63: int8 (code 5) times int8, P = 0, slot 15, K = 64, token position 63, stride 64. -/
def runWord : BitVec 128 := BitVec.ofNat 128 (fld 3 120 + fld 5 116 + fld 5 112 + fld 15 100 + fld 63 79 + fld 63 73 + fld 4 46)

def accRun : BitVec 128 := runWord + BitVec.ofNat 128 (fld 1 99)
def swapRun : BitVec 128 := runWord + BitVec.ofNat 128 (fld 1 98)

theorem test_run_waits : (withTile [runWord]).Issues c00 0 runWord ∧ tileOpc runWord.toNat = 3 ∧
    ((withTile [runWord]).core 0).tile.granted = false ∧ 0 ∉ (withTile [runWord]).power.ramp ∧
    (loading [swapRun]).Issues c00 0 swapRun ∧ (RunF.of swapRun.toNat).swap = true ∧ ((loading [swapRun]).core 0).tile.loads ≠ [] ∧
    (after (exec (.tileRun c00 true) (withTile [runWord]))).power.ramp = [0] ∧
    ((after (exec (.tileRun c00 false) (loading [swapRun]))).core 0).tile.queue = [swapRun] :=
  ⟨by constructor <;> decide +kernel, by decide +kernel, by decide +kernel, by decide +kernel, by constructor <;> decide +kernel, by decide +kernel, by decide +kernel, by decide +kernel, by decide +kernel⟩

/-- A drain of slot 15 with DCLR in flight: a clearing run of the slot waits (R31, R67). -/
def draining (q : List (BitVec 128)) (d : Drain) : State :=
  withCore fun k => { k with tile := { k.tile with queue := q, drains := [d] } }

def someDrain : Drain :=
  ⟨0, 15, false, [(0, [1, 2, 3, 4])], 1, true, 0, 0xFFF00000, 0, 0, false, true, false, false, true, { count := 1, clip := 1 }⟩

theorem test_run_waits_for_clear : (draining [runWord] someDrain).Issues c00 0 runWord ∧ (RunF.of runWord.toNat).acc = false ∧
    ((draining [runWord] someDrain).core 0).tile.clearHeld 15 = true ∧
    ((after (exec (.tileRun c00 false) (draining [runWord] someDrain))).core 0).tile.queue = [runWord] :=
  ⟨by constructor <;> decide +kernel, by decide +kernel, by decide +kernel, by decide +kernel⟩

theorem test_run_issues : (withTile [runWord]).Issues c00 0 runWord ∧ (RunF.of runWord.toNat).mode = 0 ∧
    ((withTile [runWord]).core 0).tile.clearHeld 15 = false ∧ (63 : Nat) < 64 ∧
    (((withTile []).core 0).mask 0).getLsbD 63 = true ∧
    ((after (exec (.tileRun c00 false) (withTile [runWord]))).core 0).tile.runs.map (·.slot) = [15] :=
  ⟨by constructor <;> decide +kernel, by decide +kernel, by decide +kernel, by decide +kernel, by decide +kernel, by decide +kernel⟩

/-- R194: GRAD_W, 8-bit codes 0 and 0, rank code 1, P = −9 (E4M3's grid). -/
def gradWord : BitVec 128 :=
  BitVec.ofNat 128 (fld 3 120 + fld 5 116 + fld 0 112 + fld 247 104 + fld 1 89 + fld 4 86 + fld 8 46)

theorem test_grad_run_issues : (withTile [gradWord]).Issues c00 0 gradWord ∧ (RunF.of gradWord.toNat).mode = 4 ∧
    ((withTile [gradWord]).core 0).tile.runs.all (·.grad.isNone) = true ∧ codeGrid 0 = -9 ∧
    ((after (exec (.tileRun c00 false) (withTile [gradWord]))).core 0).tile.runs.map (·.grad.isSome) = [true] :=
  ⟨by constructor <;> decide +kernel, by decide +kernel, by decide +kernel, by decide +kernel, by decide +kernel⟩

/-- A run in flight into slot 15 with one word's total. -/
def running (g : Option (List (Nat × Int))) : State :=
  withCore fun k => { k with tile := { k.tile with runs := [⟨0, 15, 1, if g.isSome then [] else [(4095, 2 ^ 127)], false, none, g⟩] } }

theorem test_run_completes : ((running none).core 0).tile.runs = [⟨0, 15, 1, [(4095, 2 ^ 127)], false, none, none⟩] ∧
    ((running none).core 0).tile.mayWrite ⟨0, 15, 1, [(4095, 2 ^ 127)], false, none, none⟩ = true ∧
    (running none).adapterPart ((running none).partOf c00.sh) ((running none).core 0) ⟨0, 15, 1, [(4095, 2 ^ 127)], false, none, none⟩ =
      some (.ok []) ∧
    tabGet 0 ((after (exec (.runComplete c00) (running none))).core 0).tally (4096 * 15 + 4095) = 2 ^ 127 - 1 := by decide +kernel

theorem test_grad_run_completes : ((running (some [(0, 5)])).core 0).tile.runs = [⟨0, 15, 1, [], false, none, some [(0, 5)]⟩] ∧
    (running (some [(0, 5)])).adapterPart ((running none).partOf c00.sh) ((running none).core 0) ⟨0, 15, 1, [], false, none, some [(0, 5)]⟩ =
      some (.ok []) ∧
    tabGet 0 ((after (exec (.runComplete c00) (running (some [(0, 5)])))).core 0).grad 0 = 5 := by decide +kernel

/-- R65: a drain of slot 15, position 63, to the shelf SRAM, FMT 6 (RAW128) or 0 (FP32). -/
def drainInstr (fmt : Nat) : BitVec 128 := BitVec.ofNat 128 (fld 4 120 + fld 15 100 + fld 63 86 + fld 1 78 + fld fmt 51)

theorem test_drain_issues : (withTile [drainInstr 0]).Issues c00 0 (drainInstr 0) ∧ tileOpc (drainInstr 0).toNat = 4 ∧
    drainHeld ((withTile [drainInstr 0]).core 0) (DrainF.of (drainInstr 0).toNat) = false ∧
    (withTile [drainInstr 6]).Issues c00 0 (drainInstr 6) ∧ (DrainF.of (drainInstr 6).toNat).fmt = 6 ∧
    ((after (exec (.tallyDrain c00) (withTile [drainInstr 6]))).core 0).tile.drains.map (·.outs.length) = [64] :=
  ⟨by constructor <;> decide +kernel, by decide +kernel, by decide +kernel, by constructor <;> decide +kernel, by decide +kernel, by decide +kernel⟩

theorem test_drain_completes : ((draining [] someDrain).core 0).tile.drains = [someDrain] ∧ ((draining [] someDrain).core 0).scale.loads = [] ∧
    someDrain.fmt ≠ 6 ∧ tabGet 0 ((after (exec (.drainComplete c00) (draining [] someDrain))).core 0).opbuf 3 = 4 ∧
    ((after (exec (.drainComplete c00) (draining [] someDrain))).stats.skim.length) = 1 := by decide +kernel

/-- R73: a core that waits on the ramp controller with a run at its head. -/
def ramped : State := { withTile [runWord] with power := { State.reset.power with ramp := [0, 127] } }

theorem test_wake_wave : rampWave ramped 3 = [0, 127] ∧ ramped.phys 0 0 = some 0 ∧
    ((after (exec (.wakeWave 3) ramped)).core 0).tile.granted = true ∧ (after (exec (.wakeWave 3) ramped)).power.ramp = [] := by
  decide +kernel

theorem test_run_waits_for_wave : ramped.Issues c00 0 runWord ∧ (0 : Nat) ∈ ramped.power.ramp ∧ (ramped.core 0).tile.granted = false ∧
    after (exec (.tileRun c00 false) ramped) = ramped ∧ after (exec (.tileRun c00 true) ramped) = ramped :=
  ⟨by constructor <;> decide +kernel, by decide +kernel, by decide +kernel, by decide +kernel, by decide +kernel⟩

/-- Two runs in flight: the first into slot 14 waits for its adapter slot, which fills; the second names a slot without
content. -/
def waitingRun : Run := ⟨0, 14, 1, [(0, 1)], false, some ⟨0, 0, false, 0, [], []⟩, none⟩
def faultingRun : Run := ⟨1, 15, 1, [(0, 1)], false, some ⟨1, 0, false, 0, [], []⟩, none⟩
def twoRuns : State := withCore fun k => { k with tile := { k.tile with runs := [waitingRun, faultingRun] }, aslot := [(0, { st := .filling })] }

theorem test_run_with_slot_fault : (twoRuns.core 0).tile.runs = [waitingRun] ++ faultingRun :: [] ∧
    twoRuns.adapterPart (twoRuns.partOf 0) (twoRuns.core 0) waitingRun = none ∧ (twoRuns.core 0).tile.mayWrite faultingRun = true ∧
    twoRuns.adapterPart (twoRuns.partOf 0) (twoRuns.core 0) faultingRun = some (.error St.adapterSlotFault) ∧
    ((after (exec (.runComplete c00) twoRuns)).core 0).tile.runs = [waitingRun] ∧
    tabGet 0 ((after (exec (.runComplete c00) twoRuns)).core 0).tally (4096 * 15) = 1 := by decide +kernel

def asleep (x : Sleep) : State := { ready with power := { State.reset.power with sleep := x } }

/-- Sixteen empty rings: SRAM is zero. -/
theorem test_idle_ready : ready.serving = true ∧ ready.power.sleep = .active ∧ (∀ x ∈ ready.work.slots, x.2.live = false) ∧
    (∀ o ∈ ready.ops, o.done = true) ∧ (∀ sh, sh < 16 → ringTail (ready.sram sh) = ringHead (ready.sram sh)) ∧
    (after (exec .idleReadyEntry ready)).power.sleep = .idleReady ∧ (asleep .idleReady).power.sleep = .idleReady ∧
    (after (exec .idleReadyExit (asleep .idleReady))).power.sleep = .active := by decide +kernel

theorem test_parked_wake : (asleep .parked).power.sleep = .parked ∧ (asleep .active).power.sleep ≠ .parked ∧
    (after (exec .parkedWake (asleep .parked))).port.port = .training := by decide +kernel

/-- `ready` with an open non-secure host context 0 of partition 0 and region 16 over the first 2 MiB. -/
def hosted : State := { ready with
  regions := ready.fixedRegions ++ [(16, { v := true, npg := 1 })], port := { State.reset.port with port := .up, ctxs := [(0, { st := .open_ })] } }

/-- As `hosted`, with a secure, expert session. -/
def secured : State := { hosted with port := { State.reset.port with port := .up, ctxs := [(0, { st := .open_, secure := true, expert := true })] } }

/-- A one-byte or wider dictionary write of context 0. -/
def odReq (i : BitVec 16) (sub : BitVec 8) (v : List Byte) : OdReq := ⟨0, 1, i, sub, v⟩

/-- A write that passes every check of R415. -/
def accepts (s : State) (q : OdReq) (k : Nat) : Bool :=
  odKeyOf q == k && (s.ctx q.ctx).st == .open_ && !s.fw.pause && (s.odCheck q.ctx k true q.value matches .ok _)

theorem accepts_sound (s : State) (q : OdReq) (k : Nat) (h : accepts s q k = true) : s.OdAccepts q k := by
  simp only [accepts, Bool.and_eq_true, beq_iff_eq, Bool.not_eq_true'] at h
  obtain ⟨⟨⟨h1, h2⟩, h3⟩, h4⟩ := h
  refine ⟨h1, h2, h3, ?_⟩
  cases hr : s.odCheck q.ctx k true q.value with
  | ok r => exact ⟨r, rfl⟩
  | error e => rw [hr] at h4; simp at h4

def working : State := { secured with work := { State.reset.work with slots := [(0, { st := .running })] } }

theorem test_enter_parked : secured.OdAccepts (odReq 0x3050 2 [1]) 0x305002 ∧ leNat (odReq 0x3050 2 [1]).value = 1 ∧
    (∃ x ∈ working.work.slots, x.2.live = true) ∧ working.OdAccepts (odReq 0x3050 2 [1]) 0x305002 ∧ secured.work.slots = [] ∧
    secured.mode.st = .stable ∧ secured.sec.resetting = [] ∧ tabWf {} secured.port.ctxs = true ∧
    ((after (exec (.enterParked (odReq 0x3050 2 [1])) secured)).ctx 0).st = .draining :=
  ⟨accepts_sound _ _ _ (by decide +kernel), by decide, by decide, accepts_sound _ _ _ (by decide +kernel), by decide, by decide,
    by decide, by decide, by decide +kernel⟩

def resetting : State := { secured with sec := { State.reset.sec with resetting := [0] } }

theorem test_enter_parked_busy : resetting.OdAccepts (odReq 0x3050 2 [1]) 0x305002 ∧ resetting.sec.resetting ≠ [] :=
  ⟨accepts_sound _ _ _ (by decide +kernel), by decide⟩

/-- `ready` with the spare C8 of S0 in retention. -/
def spared : State := ready.modCore 8 fun k => { k with use := .retention }

theorem test_retire_core : spared.phys c00.sh c00.c = some 0 ∧ spared.test.st = .idle ∧ (spared.core 0).scale.loads = [] ∧
    (spared.core 0).scale.seedHeld = none ∧ spared.spareOf c00.sh = some 8 ∧ ready.spareOf 1 = none ∧
    (after (exec (.retireCore c00 false 0 none) spared)).phys 0 0 = some 8 ∧
    (after (exec (.retireCore ⟨1, 7⟩ false 12288000 none) ready)).phys 1 7 = none := by decide +kernel

def awaited : State := ready.modShelf 0 fun h => { h with awaiting := [7] }

theorem test_maxima_read_timeout : (7 : Nat) ∈ (awaited.shelf 0).awaiting ∧
    ((after (exec (.maximaReadTimeout ⟨0, 7⟩) awaited)).shelf 0).awaiting = [] := by decide +kernel

/-! R262: requests of host context 0. -/

def reqAt (a : BitVec 64) (n : Nat) : Request := ⟨.host 0, 1, a, n, 0, (List.range n).map fun i => BitVec.ofNat 8 (i + 1), 7, 9, 0, 0, 0⟩

def hostSender : Sender := ⟨⟨false, 0, true, false⟩, false⟩

/-- SPACE `sp` of this device, partition 0, offset `o`. -/
def ga (sp o : Nat) : BitVec 64 := BitVec.ofNat 64 (fld sp 60 + o)

theorem test_put_places : hosted.sender 1 (reqAt (ga 0 0x1FFFFC) 4) = some (hostSender, reqAt (ga 0 0x1FFFFC) 4) ∧ lengthOk 1 4 = true ∧
    hosted.place hostSender 1 (ga 0 0x1FFFFC) 4 = .ok (.hbm 0x1FFFFC) ∧ hosted.hbmBarrier 0x1FFFFC 4 = none ∧
    hosted.place hostSender 1 (ga 1 (sramFirm - 4)) 4 = .ok (.sram 0 (sramFirm - 4)) ∧
    hosted.place hostSender 1 (ga 2 0x17FFFC) 4 = .ok (.cl 0 0 0 0x17FFFC) ∧
    hosted.place hostSender 1 (ga 2 0x1A03FC) 4 = .ok (.cl 0 0 0 0x1A03FC) ∧
    hosted.place hostSender 1 (ga 3 0x10003C) 4 = .ok (.tally 0 0x10003C) ∧ hosted.asmOf (reqAt 0 4) = [] := by decide +kernel

/-- `State.Arrives` for a message's first segment, as a test. -/
def arrives (s : State) (opc : Nat) (w : Sender) (q : Request) (pl : Place) : Bool :=
  (s.placeOf w q.addr matches .ok _) && decide (s.placeOf w q.addr = .ok pl) &&
    ((s.asmOf q).find? (·.msn = reqKey q)).isNone && (s.putDecision w opc q matches .ok _)

theorem arrives_sound (s : State) (opc : Nat) (w : Sender) (q : Request) (pl : Place) (h : arrives s opc w q pl = true) :
    s.Arrives opc w q q.len pl := by
  simp only [arrives, Bool.and_eq_true, decide_eq_true_eq, Option.isNone_iff_eq_none] at h
  obtain ⟨⟨⟨-, h1⟩, h2⟩, h3⟩ := h
  refine ⟨h1, Or.inl ⟨h2, ?_, rfl⟩⟩
  cases hr : s.putDecision w opc q with
  | ok r => exact ⟨r, rfl⟩
  | error e => rw [hr] at h3; simp at h3

/-- A later segment: bytes 2 and 3 of a message whose first two have come. -/
def laterSegment : Request := { reqAt (ga 0 0x1FFFFC) 4 with off := 2, data := [9, 8] }

def partWay (st : Status) : State :=
  { hosted with port := { hosted.port with ctxs := [(0, { st := .open_, asm := [⟨1, st, 2, false, none⟩] })] } }

theorem test_put_arrives : hosted.Arrives 1 hostSender (reqAt (ga 0 0x1FFFFC) 4) 4 (.hbm 0x1FFFFC) ∧
    hosted.Arrives 1 hostSender (reqAt (ga 1 (sramFirm - 4)) 4) 4 (.sram 0 (sramFirm - 4)) ∧
    hosted.Arrives 1 hostSender (reqAt (ga 2 0x17FFFC) 4) 4 (.cl 0 0 0 0x17FFFC) ∧
    hosted.Arrives 1 hostSender (reqAt (ga 2 0x1A03FC) 4) 4 (.cl 0 0 0 0x1A03FC) ∧
    hosted.Arrives 1 hostSender (reqAt (ga 3 0x10003C) 4) 4 (.tally 0 0x10003C) ∧
    hosted.putDecision hostSender 1 (reqAt (ga 0 0x200000) 1) = .error St.accessDenied ∧
    ((partWay 0).asmOf laterSegment).find? (·.msn = reqKey laterSegment) = some ⟨1, 0, 2, false, none⟩ ∧
    ((partWay St.accessDenied).asmOf laterSegment).find? (·.msn = reqKey laterSegment) = some ⟨1, St.accessDenied, 2, false, none⟩ ∧
    (after (exec (.put laterSegment) (partWay 0))).hbm = [(0x1FFFFE, 9), (0x1FFFFF, 8)] ∧
    (after (exec (.put laterSegment) (partWay St.accessDenied))).hbm = [] :=
  ⟨arrives_sound _ _ _ _ _ (by decide +kernel), arrives_sound _ _ _ _ _ (by decide +kernel), arrives_sound _ _ _ _ _ (by decide +kernel),
    arrives_sound _ _ _ _ _ (by decide +kernel), arrives_sound _ _ _ _ _ (by decide +kernel), by decide +kernel⟩

theorem test_put : ((after (exec (.put (reqAt (ga 0 0x1FFFFC) 4)) hosted)).hbm.map (·.2)) = [1, 2, 3, 4] ∧
    tabGet 0 ((after (exec (.put (reqAt (ga 3 0xFFFF0) 2)) hosted)).core 0).tally 0xFFFF = 0x201 ∧
    ((after (exec (.put (reqAt (ga 2 0x1A03FC) 4)) hosted)).core 0).gather = [(63, 0x0400020100000000)] ∧
    ((after (exec (.put (reqAt (ga 3 0x10003C) 4)) hosted)).core 0) = {} := by decide +kernel

/-- `hosted` with granule 0 uncorrectable. -/
def badGranule : State := { hosted with ecc := { State.reset.ecc with bad := [0] } }

theorem test_get_of_a_bad_granule : badGranule.place hostSender 2 (ga 0 511) 1 = .ok (.hbm 511) ∧ badGranule.hbmBad 511 1 = true ∧
    badGranule.hbmBad 512 1 = false ∧ badGranule.place hostSender 3 (ga 0 504) 8 = .ok (.hbm 504) ∧ badGranule.hbmBad 504 8 = true ∧
    ((after (exec (.get (reqAt (ga 0 511) 1)) badGranule)).ecc.uncorrectable) = [(0, 1)] ∧
    (after (exec (.atomicSwap (reqAt (ga 0 504) 8)) badGranule)).hbm = [] := by decide +kernel

theorem test_get : hosted.place hostSender 2 (ga 0 0) 1 = .ok (.hbm 0) ∧ hosted.hbmBad 0 1 = false ∧
    hosted.place hostSender 2 (ga 1 0) 1 = .ok (.sram 0 0) ∧ hosted.place hostSender 2 (ga 2 0x1FFFFF) 1 = .ok (.cl 0 0 0 0x1FFFFF) ∧
    hosted.place hostSender 2 (ga 3 0x10003F) 1 = .ok (.tally 0 0x10003F) ∧
    hosted.place hostSender 2 (ga 4 (16 * 0xA01001)) 16 = .ok (.od 0xA01001) ∧
    ((after (exec (.get (reqAt (ga 0 0) 1)) hosted)).ctx 0).rqin = 1 := by decide +kernel

/-- A launch word of PTAG 5 at the operand buffer's last word address, and a descriptor with every field zero. -/
def launchReq : Request := { reqAt (ga 2 0x190000) 8 with data := natLE 0x50002FFFF 8 }

theorem test_vlaunch : hosted.sender 1 launchReq = some (hostSender, launchReq) ∧
    hosted.place hostSender 1 launchReq.addr 8 = .ok (.cl 0 0 0 0x190000) ∧ bits (leNat launchReq.data) 17 0 ≤ 0x2FFFF ∧
    bits (leNat launchReq.data) 19 18 = 0 ∧
    ((after (exec (.vlaunch launchReq) hosted)).core 0).vec.queue = [0x50002FFFF] := by decide +kernel

theorem test_stepf : hosted.place hostSender 1 (ga 2 0x190120) 8 = .ok (.cl 0 0 0 0x190120) ∧
    ((after (exec (.stepfWrite (reqAt (ga 2 0x190120) 8)) hosted)).core 0).stepf = 0x04000001 := by decide +kernel

/-- R170: a descriptor with every field 0, for adapter slot 7. -/
def fillReq : Request := { reqAt (ga 2 (0x1A0000 + 0x40 * 7)) 32 with data := natLE 0 32 }

theorem test_fill_descriptor : hosted.place hostSender 1 fillReq.addr 32 = .ok (.cl 0 0 0 0x1A01C0) ∧
    hosted.fillFieldsOk (hosted.partOf 0) hostSender.init (BitVec.ofNat 256 (leNat fillReq.data)) = true ∧
    ((hosted.core 0).slotA 7).st ≠ .filling ∧ ((hosted.core 0).slotA 7).held = none ∧
    (((after (exec (.fillDescriptor fillReq) hosted)).core 0).slotA 7).held = some 0 := by decide +kernel

theorem test_atomics : hosted.sender 3 (reqAt (ga 0 0x1FFFF8) 8) = some (hostSender, reqAt (ga 0 0x1FFFF8) 8) ∧
    hosted.place hostSender 3 (ga 0 0x1FFFF8) 8 = .ok (.hbm 0x1FFFF8) ∧ hosted.hbmBad 0x1FFFF8 8 = false ∧
    0x1FFFF8 + 8 ≤ hosted.sysBase ∧ hosted.place hostSender 5 (ga 1 0) 8 = .ok (.sram 0 0) ∧
    memNat (after (exec (.atomicAdd (reqAt (ga 0 0x1FFFF8) 8)) hosted)).hbm 0x1FFFF8 8 = 7 ∧
    memNat (after (exec (.atomicCas { reqAt (ga 0 0) 8 with opnd1 := 0 }) hosted)).hbm 0 8 = 9 := by decide +kernel

/-- A PUT_SIGNAL whose signal word is the last of the region. -/
def signalReq : Request := { reqAt (ga 0 0) 2 with signal := ga 0 0x1FFFF8 }

theorem test_put_signal_arrives : hosted.Arrives 7 hostSender signalReq 2 (.hbm 0) ∧ hosted.sender 7 signalReq = some (hostSender, signalReq) ∧
    hosted.placeOf hostSender (ga 0 0x1FFFF8) = .ok (.hbm 0x1FFFF8) ∧ hosted.placeOf hostSender (ga 1 0) = .ok (.sram 0 0) ∧
    hosted.putDecision hostSender 7 { signalReq with signal := ga 0 4 } = .error St.addressInvalid ∧
    (after (exec (.putSignal { signalReq with signal := ga 1 8 }) hosted)).sram 0 = [(8, 1)] :=
  ⟨arrives_sound _ _ _ _ _ (by decide +kernel), by decide +kernel⟩

theorem test_put_signal : hosted.signalPlace hostSender signalReq = .ok (.hbm 0x1FFFF8) ∧
    (hosted.writePlace hostSender (.hbm 0) signalReq.data).2 = St.ok ∧
    (hosted.writePlace hostSender (.hbm 0) signalReq.data).1.hbmBad 0x1FFFF8 8 = false ∧
    (after (exec (.putSignal signalReq) hosted)).hbm = [(0, 1), (1, 2), (0x1FFFF8, 1)] ∧
    (badGranule.writePlace hostSender (.hbm 0) signalReq.data).2 = St.memoryUncorrectable ∧
    hosted.signalPlace hostSender { signalReq with signal := ga 1 0 } = .ok (.sram 0 0) := by decide +kernel

/-- `hosted` with Tally slot 15 LIVE at point 0. -/
def liveSlot : State := hosted.modCore 0 fun k => { k with tslot := [(15, { live := true })] }

/-- `State.TallyArrives` for a message's first segment, as a test. -/
def tallyArrives (s : State) (w : Sender) (q : Request) (p : Option Nat) (pl : Place) : Bool :=
  decide (s.placeOf w q.addr = .ok pl) && !s.tallyMoved pl ⟨reqKey q, St.ok, q.len, false, p⟩ q.point &&
    ((s.asmOf q).find? (·.msn = reqKey q)).isNone && decide ((s.tallyDecision w q).map (·.core) = .ok p)

theorem tallyArrives_sound (s : State) (w : Sender) (q : Request) (p : Option Nat) (pl : Place)
    (h : tallyArrives s w q p pl = true) : s.TallyArrives w q ⟨reqKey q, St.ok, q.len, false, p⟩ pl := by
  simp only [tallyArrives, Bool.and_eq_true, decide_eq_true_eq, Option.isNone_iff_eq_none, Bool.not_eq_true'] at h
  obtain ⟨⟨⟨h1, h2⟩, h3⟩, h4⟩ := h
  refine ⟨h1, rfl, h2, Or.inr ⟨h3, ?_⟩⟩
  cases hr : s.tallyDecision w q with
  | ok r => rw [hr] at h4; simp only [Except.map, Except.ok.injEq] at h4; exact ⟨r, rfl, by rw [h4]⟩
  | error e => rw [hr] at h4; simp [Except.map] at h4

/-- A later segment of a TALLY_ADD that core 0 was accepted for; core 0's slot has gone. -/
def laterTally : Request := { reqAt (ga 3 0xFFFE0) 32 with off := 16 }

def tallyPart (st : Status) (core : Option Nat) : State :=
  { hosted with port := { hosted.port with ctxs := [(0, { st := .open_, asm := [⟨1, st, 16, true, core⟩] })] } }

theorem test_tally_add_arrives : liveSlot.TallyArrives hostSender (reqAt (ga 3 0xFFFF0) 16) ⟨1, St.ok, 16, false, some 0⟩ (.tally 0 0xFFFF0) ∧
    hosted.TallyArrives hostSender (reqAt (ga 0 0x1FFFF0) 16) ⟨1, St.ok, 16, false, none⟩ (.hbm 0x1FFFF0) ∧
    hosted.sender 6 (reqAt (ga 3 0xFFFF0) 16) = some (hostSender, reqAt (ga 3 0xFFFF0) 16) ∧
    hosted.tallyDecision hostSender (reqAt (ga 3 0xFFFF0) 16) = .error St.tallyPointMismatch ∧
    (tallyPart 0 (some 5)).tallyMoved (.tally 0 0xFFFE0) ⟨1, 0, 16, true, some 5⟩ 0 = true ∧
    ((tallyPart 0 (some 5)).asmOf laterTally).find? (·.msn = reqKey laterTally) = some ⟨1, 0, 16, true, some 5⟩ ∧
    ((after (exec (.tallyAdd laterTally) (tallyPart 0 (some 5)))).core 0).tally = [] ∧
    ((after (exec (.tallyAdd laterTally) (tallyPart St.accessDenied none))).core 0).tally = [] :=
  ⟨tallyArrives_sound _ _ _ _ _ (by decide +kernel), tallyArrives_sound _ _ _ _ _ (by decide +kernel), by decide +kernel⟩

theorem test_tally_add : lengthOk 6 16 = true ∧ liveSlot.place hostSender 6 (ga 3 0xFFFF0) 16 = .ok (.tally 0 0xFFFF0) ∧
    (tabGet {} (liveSlot.core 0).tslot 15).live = true ∧ (tabGet {} (hosted.core 0).tslot 15).live = false ∧
    hosted.place hostSender 6 (ga 0 0x1FFFF0) 16 = .ok (.hbm 0x1FFFF0) ∧ 0x1FFFF0 + 16 ≤ hosted.sysBase ∧
    tabGet 0 ((after (exec (.tallyAdd (reqAt (ga 3 0xFFFF0) 16)) liveSlot)).core 0).tally 0xFFFF =
      0x100F0E0D0C0B0A090807060504030201 := by decide +kernel

theorem test_requests_refused : lengthOk 3 4 = false ∧ lengthOk 2 16777216 = false ∧ lengthOk 6 4112 = false ∧
    hosted.place hostSender 2 (ga 0 0x200000) 1 = .error St.accessDenied ∧
    hosted.place hostSender 2 (ga 2 0x188000) 1 = .error St.addressInvalid := by decide +kernel

def fenceReq : Request := { reqAt 0 0 with data := [] }

/-- `hosted` with a message of context 0 still arriving. -/
def arriving : State := { hosted with port := { hosted.port with ctxs := [(0, { st := .open_, asm := [⟨9, 0, 1, false, none⟩] })] } }

theorem test_fence : hosted.sender 8 fenceReq = some (hostSender, fenceReq) ∧ hosted.asmOf fenceReq = [] ∧
    arriving.sender 8 fenceReq = some (hostSender, fenceReq) ∧ arriving.asmOf fenceReq ≠ [] ∧
    ((after (exec (.fence fenceReq) arriving)).ctx 0).fences.length = 1 := by decide +kernel

/-! Operations of trim core 0 of shelf 0. -/

def t00 : TrimRef := ⟨0, 0⟩

def op (id opc : Nat) (remote : BitVec 64) (n : Nat) (a : Option Answer) (done : Bool) : RemOp :=
  { id := id, who := .trim 0 0 15, part := 0, secure := true, opc := opc, remote := remote, len := n, local_ := 64, data := [], opnd1 := 0, opnd2 := 0, signal := 0,
    point := 0, cfl := 0, answered := a, done := done, sent := true }

def withOps (l : List RemOp) : State := { hosted with ops := l }

theorem test_trim_fence : (withOps [op 0 8 0 0 none false]).ops.find? (·.id = 0) = some (op 0 8 0 0 none false) ∧
    (op 0 8 0 0 none false).who.sameDomain (.trim 0 0 0) = true ∧
    ((after (exec (.fence { fenceReq with origin := .trim t00 0 }) (withOps [op 0 8 0 0 none false]))).ops.map (·.done)) = [true] := by
  decide +kernel

theorem test_response : (withOps [op 0 2 0 8 (some ⟨0, false, [1]⟩) false]).ops.find? (·.id = 0) = some (op 0 2 0 8 (some ⟨0, false, [1]⟩) false) ∧
    gaSpace (op 0 2 0 8 none false).remote ≠ 15 ∧
    ((after (exec (.response 0 ⟨0, false, []⟩) (withOps [op 0 2 0 8 (some ⟨0, false, [1]⟩) false]))).ops.map (·.done)) = [true] := by
  decide +kernel

def fwOp : RemOp := { op 0 1 (ga 15 0) 4 none false with who := .firmware }

theorem test_host_response : (withOps [fwOp]).ops.find? (·.id = 0) = some fwOp ∧ gaSpace fwOp.remote = 15 ∧
    ((after (exec (.response 0 ⟨0, false, []⟩) (withOps [fwOp]))).ctx 0).rqout = 1 := by decide +kernel

/-! Trim-core instructions. -/

def withTrim (f : Trim → Trim) : State := hosted.modTrim 0 0 f

def machineMode : TrimBase := ⟨0, true, false, 0, 0, []⟩
def jobMode : TrimBase := ⟨0, false, false, 0, 0, []⟩
def ops0 (a b : BitVec 64) : TrimOps := ⟨31, a, b, machineMode⟩

theorem test_wait_w : hosted.Running t00 ∧ (hosted.enter t00 machineMode).trim 0 0 = hosted.trim 0 0 ∧
    hosted.localWord 0 0 0 = some 0 ∧ hosted.localWord 0 0 7 = none ∧
    tabGet 0 ((after (exec (.waitWEq t00 (ops0 0 0)) hosted)).trim 0 0).x 31 = 0 ∧
    ((after (exec (.waitWEq t00 (ops0 0 0)) hosted)).trim 0 0).pc = 4 ∧
    ((after (exec (.waitWNe t00 (ops0 0 0)) hosted)).trim 0 0).wait.isSome = true ∧
    ((after (exec (.waitWGeu t00 (ops0 7 0)) hosted)).trim 0 0).mcause = 5 :=
  ⟨⟨by decide, by decide⟩, by decide +kernel, by decide +kernel, by decide +kernel, by decide +kernel, by decide +kernel,
    by decide +kernel, by decide +kernel⟩

/-- A trim core gated on a word of its shelf SRAM, with a timeout; `mie` set. -/
def gated (cond : Nat) (cmp : BitVec 64) : State :=
  withTrim fun r => { r with wait := some (.word cond 0 cmp 5), twtmo := 1, mie := true }

theorem test_wait_events : ((gated 2 0).trim 0 0).wait = some (.word 2 0 0 5) ∧ waitHolds 2 0 0 = true ∧
    ((gated 0 0).trim 0 0).twtmo ≠ 0 ∧ ((gated 0 0).trim 0 0).mie = true ∧
    ((after (exec (.waitWake t00) (gated 2 0))).trim 0 0).wait = none ∧
    ((after (exec (.waitTimeout t00) (gated 0 0))).trim 0 0).wait = none ∧
    ((after (exec (.waitInterrupt t00 7) (gated 0 0))).trim 0 0).mcause = 0x8000000000000007 := by decide +kernel

/-- A write that met the condition of core 0's wait came and went (R151). -/
def wokenState : State := { gated 0 0 with woken := [0] }

theorem test_wait_woken : (0 : Nat) ∈ wokenState.woken ∧ (wokenState.trim 0 0).wait = some (.word 0 0 0 5) ∧ waitHolds 0 0 0 = false ∧
    wokenState.localWord 0 0 0 = some 0 ∧ (0 : Nat) ∉ (gated 0 0).woken ∧ ((after (exec (.waitWake t00) wokenState)).trim 0 0).wait = none ∧
    after (exec (.waitWake t00) (gated 0 0)) = gated 0 0 ∧ ((gated 0 0).sramWrite 0 0 [1]).localWord 0 0 0 = some 1 ∧
    waitHolds 0 1 0 = true ∧ ((gated 0 0).sramWrite 0 0 [1]).woken = [0] := by decide +kernel

/-- A management core (R137): shelf 16. -/
def m00 : TrimRef := ⟨16, 0⟩

theorem test_management_core : m00.sh.val = 16 ∧
    ((after (exec (.tpStat m00 (ops0 0 0)) hosted)).trim 16 0).mcause = 2 ∧
    ((after (exec (.scSeed m00 (ops0 0 0)) hosted)).trim 16 0).mcause = 2 ∧
    ((after (exec (.sumPoll m00 (ops0 0 0)) hosted)).trim 16 0).mcause = 2 := by decide +kernel

/-- A command block in shelf SRAM: PUT of 8 bytes to HBM offset 0 from SRAM byte 64 (R140, R141). -/
def blockState : State := (hosted.sramWrite 0 0 (natLE (fld 1 56 + 8) 8)).sramWrite 0 16 (natLE 64 8)

theorem test_rm_cmd : hosted.rmOp t00 0 15 = .error St.rmCmdInvalid ∧ (blockState.rmOp t00 0 15 matches .ok _) = true ∧
    blockState.outstanding t00 < 64 ∧ (after (exec (.rmCmd t00 (ops0 0 15)) blockState)).ops.map (·.opc) = [1] ∧
    tabGet 0 ((after (exec (.rmCmd t00 (ops0 0 15)) hosted)).trim 0 0).x 31 = 0x0306 := by decide +kernel

/-- 64 operations outstanding. -/
def full : State := { blockState with ops := (List.range 64).map fun i => op i 1 0 8 none false }

theorem test_rm_cmd_waits : (full.rmOp t00 0 15 matches .ok _) = true ∧ 64 ≤ full.outstanding t00 ∧
    ((after (exec (.rmCmd t00 (ops0 0 15)) full)).trim 0 0).wait = some (.cmd 31 0 15) := by decide +kernel

def answered : State := withOps [op 3 2 0 2 (some ⟨0, false, [5, 6]⟩) true]

theorem test_rm_completion : answered.ops.find? (·.id = 3) = some (op 3 2 0 2 (some ⟨0, false, [5, 6]⟩) true) ∧
    (answered.trim 0 0).wait = none ∧ tabGet 0 ((after (exec (.rmCompletion 3) answered)).trim 0 0).counters 15 = 1 ∧
    tabGet 0 ((after (exec (.rmCompletion 3) answered)).sram 0) 65 = 6 := by decide +kernel

/-- A TALLY_ADD that failed, on a core that waits for room. -/
def failedAdd : State := { withOps [{ op 3 6 0 16 (some ⟨St.tallyPointMismatch, true, []⟩) true with cfl := 1 }] with
  shelves := (withTrim fun r => { r with wait := some (.cmd 31 0 15) }).shelves }

theorem test_rm_completion_of_a_failure : failedAdd.ops.map (·.answered) = [some ⟨St.tallyPointMismatch, true, []⟩] ∧
    (failedAdd.trim 0 0).wait = some (.cmd 31 0 15) ∧
    tabGet 0 ((after (exec (.rmCompletion 3) failedAdd)).trim 0 0).errors 15 = 0x1000000000000 + St.tallyPointMismatch.setWidth 64 ∧
    ((after (exec (.rmCompletion 3) failedAdd)).trim 0 0).wait = none := by decide +kernel

theorem test_counter_store : tabGet 0 ((after (exec (.counterStore t00 true 15 9) hosted)).trim 0 0).errors 15 = 9 := by decide +kernel

/-- tp.issue of 64 zero words to C0, which trim core 0 owns; C7 belongs to another. -/
theorem test_tile_program : hosted.tpCheck t00 0 64 = .ok 0 ∧ hosted.tpCheck t00 0 0 = .error St.rmCmdInvalid ∧
    hosted.ownedCore t00 0 = .ok 0 ∧ hosted.ownedCore t00 7 = .error St.trimNotOwner ∧
    tabGet 0 ((after (exec (.tpIssue t00 (ops0 0 64)) (withTile [0]))).trim 0 0).x 31 = 63 ∧
    ((after (exec (.tpDiscard t00 (ops0 0 0)) (withTile [0]))).core 0).tile.discarding = true ∧
    tabGet 0 ((after (exec (.tpStat t00 (ops0 0 1)) discarding)).trim 0 0).x 31 = 0 := by decide +kernel

/-- sc.load word: core 0, form, count 1, first index 4095 (R147). -/
def scWord (form : Nat) : BitVec 64 := BitVec.ofNat 64 (fld form 59 + fld 1 16 + 4095)

def firstDrain : Drain := { someDrain with bc := 63, br := 63, stochastic := true }

theorem test_load_scales : scForm (scWord 0).toNat = 0 ∧ hosted.scCheck t00 (scWord 1).toNat true = .ok 0 ∧
    hosted.scCheck t00 (scWord 0 + 0x10000).toNat true = .error St.addressInvalid ∧
    hosted.scSource t00 (ga 1 0) (4 * scN (scWord 0).toNat) = .ok [0, 0, 0, 0] ∧
    hosted.scSource t00 1 4 = .error St.addressInvalid ∧
    (draining [] firstDrain).scCheck t00 (scWord 0).toNat true = .ok 0 ∧
    ((draining [] firstDrain).core 0).tile.drains.any (fun d => (⟨0, 31, false, 4095, [0]⟩ : ScaleLoad).touches d.br d.bc) = true ∧
    ((after (exec (.loadRowScales t00 (ops0 (ga 1 0) (scWord 0))) (draining [] firstDrain))).trim 0 0).wait = some .scale ∧
    ((after (exec (.loadTokenScales t00 (ops0 (ga 1 0) (scWord 1))) hosted)).trim 0 0).pc = 4 := by decide +kernel

theorem test_store_maxima : scForm (scWord 3).toNat = 3 ∧ hosted.scCheck t00 (scWord 2).toNat false = .ok 0 ∧
    hosted.localSram (ga 1 8) 4 = some (0, 8) ∧ hosted.sramAccess t00 (ga 1 8) 0 8 4 = St.ok ∧
    ((after (exec (.storeRowMaxima t00 (ops0 (ga 1 8) (scWord 2))) hosted)).trim 0 0).pc = 4 ∧
    ((after (exec (.storeTokenMaxima t00 (ops0 (ga 1 8) (scWord 3 + 0x10000))) hosted)).trim 0 0).x = [(31, 0x0401)] := by decide +kernel

def heldSeed : State := withCore fun k => { k with scale := { k.scale with seedHeld := some (9, 0, 31) } }

theorem test_seed : hosted.ownedCore t00 0 = .ok 0 ∧ (hosted.core 0).drawing = false ∧ ((draining [] firstDrain).core 0).drawing = true ∧
    ((after (exec (.scSeed t00 (ops0 9 0)) hosted)).core 0).scale.seed = 9 ∧
    ((after (exec (.scSeed t00 (ops0 9 0)) (draining [] firstDrain))).trim 0 0).wait = some .seed ∧
    (heldSeed.core 0).scale.seedHeld = some (9, 0, 31) ∧
    ((after (exec (.seedWriteApply c00) heldSeed)).core 0).scale.seed = 9 := by decide +kernel

def summed : State := withTrim fun r => { r with port := [5, 6], coming := [7] }

theorem test_summaries : (summed.trim 0 0).port = [5, 6] ∧ (hosted.trim 0 0).port = [] ∧ summed.Running t00 ∧
    ((after (exec (.sumRecv t00 (ops0 0 0)) summed)).trim 0 0).x = [(31, 5)] ∧
    ((after (exec (.sumPoll t00 (ops0 0 0)) hosted)).trim 0 0).x = [(31, 0xF000000000000000)] ∧
    ((after (exec (.sumFlush t00 (ops0 0 0)) summed)).trim 0 0).x = [(31, 2)] ∧
    ((after (exec (.summaryDeliver t00) summed)).trim 0 0).port = [5, 6, 7] :=
  ⟨by decide, by decide, ⟨by decide, by decide⟩, by decide +kernel, by decide +kernel, by decide +kernel, by decide +kernel⟩

def userMode : State := withTrim fun r => { r with machine := false }

/-- R135, R137, R139: what raises an exception: a word outside the map, an unknown custom-0 word; what raises none. -/
theorem test_exception_causes : userMode.excCause t00 (.load 7 8) = some 5 ∧ userMode.excCause t00 (.store 0x50000000 8) = some 7 ∧
    userMode.excCause t00 (.load 0x03000000 8) = none ∧ userMode.excCause t00 (.illegal 0x0000000B) = none ∧
    userMode.excCause t00 (.illegal 0xFE00700B) = some 2 ∧ userMode.excCause t00 (.other 2) = some 2 ∧
    after (exec (.trimException t00 jobMode (.load 0x03000000 8)) userMode) = userMode := by decide +kernel

theorem test_trim_exception : userMode.Running t00 ∧ jobMode.machine = false ∧
    (userMode.enter t00 jobMode).trim 0 0 = userMode.trim 0 0 ∧ userMode.worksOn 0 = [] ∧ userMode.owns 0 0 0 = true ∧
    userMode.phys 0 0 = some 0 ∧ ((after (exec (.trimException t00 jobMode (.other 2)) userMode)).core 0).tile.discarding = true ∧
    ((after (exec (.trimException t00 jobMode (.other 2)) userMode)).trim 0 0).mcause = 2 :=
  ⟨⟨by decide, by decide⟩, by decide +kernel⟩

/-! Vector programs. -/

/-- An instruction word of this opcode with 32-bit elements, IMM and the other bits given (R112). -/
def vword (op imm bits : Nat) : Nat := fld op 56 + fld 2 34 + bits + imm

/-- `ready` with a program at word 0 of S0.C0's operand buffer, VL 64. -/
def program (w : Nat) (trap : Bool) : State :=
  withCore fun k => { k with opbuf := memWrite [] 0 (natLE w 8), vec := { k.vec with prog := some ⟨5, 7, 0, trap⟩, vl := 64 } }

/-- `State.VIssues` for S0.C0, as a test. -/
def vIssues (s : State) (f : VF) (op : Nat) : Bool :=
  s.phys 0 0 == some 0 && !s.issueHeld 0 && !(s.core 0).tile.discarding && f.op == op &&
    ((s.core 0).vec.prog.any fun g => f == VF.of ((s.core 0).vecWord g.pc) && vecCheck ((s.core 0).vecWord g.pc))

theorem vIssues_sound (s : State) (f : VF) (op : Nat) (h : vIssues s f op = true) : s.VIssues c00 0 f op := by
  simp only [vIssues, Bool.and_eq_true, beq_iff_eq, Bool.not_eq_true', Option.any_eq_true] at h
  obtain ⟨⟨⟨⟨h1, h2⟩, h3⟩, h4⟩, g, hg, h5, h6⟩ := h
  exact ⟨h1, h2, h3, ⟨g, hg, h5, h6⟩, h4⟩

/-- Every opcode has a word that issues, and its command passes or ends the program there. -/
theorem test_vector_rows_issue : ∀ e ∈ vectorRows c00, vIssues (program (vword e.1 0 0) false) (VF.of (vword e.1 0 0)) e.1 = true ∧
    (((after (exec e.2 (program (vword e.1 0 0) false))).core 0).vec.prog.map (·.pc)) = if e.1 = 1 then none else some 1 := by
  decide +kernel

/-- A reserved bit ends the program, whichever row's opcode it has. -/
theorem test_vector_rows_reject : ∀ e ∈ vectorRows c00, vecCheck (((program (vword e.1 0 (fld 1 33)) false).core 0).vecWord 0) = false ∧
    ((after (exec e.2 (program (vword e.1 0 (fld 1 33)) false))).core 0).vec.vlast = 0x0000000503010000 := by decide +kernel

def launched : State := withCore fun k => { k with vec := { k.vec with queue := [0x000000050070FFFF, 0] } }

theorem test_vector_start : (launched.core 0).vec.prog = none ∧ (launched.core 0).vec.queue = [0x000000050070FFFF, 0] ∧
    ((after (exec (.vectorProgramStart c00) launched)).core 0).vec.prog = some ⟨5, 7, 0xFFFF, launched.permuteTrap⟩ ∧
    ((after (exec (.vectorProgramStart c00) launched)).core 0).vec.vl = 64 := by decide +kernel

/-- vsum of each kind, IMM 16 × port + kind (R129), on the lead core, with a full port, and on a core that does not lead. -/
def fullPort : State := (program (vword 4 0x36 0) false).modTrim 0 3 fun r => { r with port := List.replicate 15 0, coming := [0] }

def program1 : State := ready.modCore 1 fun _ => (program (vword 4 0x36 0) false).core 0

theorem test_vsum : (∀ kind ∈ List.range 7, vIssues (program (vword 4 (48 + kind) 0) false) (VF.of (vword 4 (48 + kind) 0)) 4 = true) ∧
    (ready.lead 0 = some 0) ∧ ((after (exec (.vsum c00) (program (vword 4 0x36 0) false))).trim 0 3).coming = [0x6001000000000000] ∧
    vIssues fullPort (VF.of (vword 4 0x36 0)) 4 = true ∧ ((fullPort.trim 0 3).port.length + (fullPort.trim 0 3).coming.length) = 16 ∧
    program1.lead 0 ≠ some 1 ∧ ((after (exec (.vsum ⟨0, 1⟩) program1)).core 1).vec.vlast = 0x0000000503040000 := by decide +kernel

/-- One instruction with registers v1 and v2 filled, result in v3 or m3 (R115). -/
def lanes (op imm bits a b : Nat) : State :=
  withCore fun k => { k with opbuf := memWrite [] 0 (natLE (vword op imm (fld 3 51 + fld 1 46 + bits)) 8), vec := { k.vec with
    prog := some ⟨5, 7, 0, true⟩, vl := 2, v := [(1, BitVec.ofNat 2048 a), (2, BitVec.ofNat 2048 b)] } }

def lane0 (o : Out) : BitVec 32 := ((after o).core 0).velem 3 32 0

def masks (o : Out) : BitVec 256 := ((after o).core 0).mreg 3

/-- R115: wrap, signed and unsigned order, shift amounts modulo 32, saturation. -/
theorem test_integer_lanes : lane0 (exec (.vadd c00) (lanes 0x20 0 (fld 2 41) 0xFFFFFFFF 2)) = 1 ∧
    lane0 (exec (.vmin c00) (lanes 0x23 0 (fld 2 41) 0xFFFFFFFF 2)) = 0xFFFFFFFF ∧
    lane0 (exec (.vminu c00) (lanes 0x25 0 (fld 2 41) 0xFFFFFFFF 2)) = 2 ∧
    lane0 (exec (.vsra c00) (lanes 0x2C 0 (fld 2 41) 0x80000000 33)) = 0xC0000000 ∧
    lane0 (exec (.vsadd c00) (lanes 0x2D 1 (fld 1 36) 0x7FFFFFFF 0)) = 0x7FFFFFFF ∧
    masks (exec (.vcmpLt c00) (lanes 0x62 0 (fld 2 41) 0xFFFFFFFF 2)) = 1 ∧
    masks (exec (.vcmpLtu c00) (lanes 0x63 0 (fld 2 41) 0xFFFFFFFF 2)) = 0 ∧
    masks (exec (.vfcmpUno c00) (lanes 0x69 0 (fld 2 41) 0x7FC00000 2)) = 1 ∧
    masks (exec (.vmset c00) (lanes 0x6E 1 0 0 0 |>.modCore 0 fun k => { k with opbuf := memWrite [] 0 (natLE (vword 0x6E 1 (fld 3 51)) 8) })) = 3 := by
  decide +kernel

/-- R117, R118: 1 + 1, an overflow sets NF, a conversion to BF16 and one from it. -/
theorem test_float_lanes : lane0 (exec (.vfadd c00) (lanes 0x40 0 (fld 2 41) 0x3F800000 0x3F800000)) = 0x40000000 ∧
    ((after (exec (.vfmul c00) (lanes 0x42 0 (fld 2 41) 0x7F000000 0x7F000000))).core 0).vec.nf = true ∧
    lane0 (exec (.vfsqrt c00) (lanes 0x49 0 0 0x40800000 0)) = 0x40000000 ∧
    vIssues (lanes 0x51 0x10 0 0x3F80 0) (VF.of (vword 0x51 0x10 (fld 3 51 + fld 1 46))) 0x51 = true ∧
    lane0 (exec (.vcvt c00) (lanes 0x51 0x10 0 0x3F80 0)) = 0x3F800000 ∧
    lane0 (exec (.vcvt c00) (lanes 0x51 0x01 0 0x3F808000 0)) = 0x3F80 := by decide +kernel

/-- R120 to R125: a reduction of two lanes, an exclusive scan, a permute out of range with the trap set. -/
theorem test_reductions_and_moves : lane0 (exec (.vredAdd c00) (lanes 0x70 0 0 (3 + fld 4 32) 0)) = 7 ∧
    ((after (exec (.vscanxAdd c00) (lanes 0x81 0 0 (3 + fld 4 32) 0))).core 0).velem 3 32 1 = 3 ∧
    lane0 (exec (.vfredMax c00) (lanes 0x76 0 0 (fld 0x3F800000 32) 0)) = 0x3F800000 ∧
    ((after (exec (.vperm c00) (lanes 0x92 0 (fld 2 41) 0 2))).core 0).vec.vlast = 0x0000000503030002 ∧
    lane0 (exec (.vperm c00) (lanes 0x92 0 (fld 2 41) (fld 9 32) 1)) = 9 ∧
    ((after (exec (.vrank c00) (lanes 0x93 0 0 0 0))).core 0).velem 3 32 1 = 1 ∧
    after (exec (.vrand c00) ((program (vword 5 0 0) false).modCore 0 fun k => { k with scale := { k.scale with seedHeld := some (1, 0, 0) } }))
      = (program (vword 5 0 0) false).modCore 0 fun k => { k with scale := { k.scale with seedHeld := some (1, 0, 0) } } := by
  decide +kernel

/-- R127, R128: the last element of the buffer, an address past it, and two lanes at one address. -/
theorem test_vector_memory : ((after (exec (.vst c00) (lanes 0x11 0x17FFF8 0 0x01020304 0 |>.modCore 0 fun k =>
      { k with opbuf := memWrite [] 0 (natLE (vword 0x11 0x17FFF8 (fld 1 46)) 8) }))).core 0).opbuf.getLast? = some (0x17FFFB, 1) ∧
    ((after (exec (.vld c00) (lanes 0x10 0x17FFFC 0 0 0 |>.modCore 0 fun k =>
      { k with opbuf := memWrite [] 0 (natLE (vword 0x10 0x17FFFC (fld 3 51)) 8) }))).core 0).vec.vlast = 0x0000000504010000 ∧
    memNat ((after (exec (.vsxadd c00) (lanes 0x14 64 0 0 0 |>.modCore 0 fun k => { k with
      opbuf := memWrite [] 0 (natLE (vword 0x14 64 (fld 1 46 + fld 2 41)) 8), vec := { k.vec with v := [(1, 3 + fld 4 32)] } }))).core 0).opbuf 64 4 = 7 ∧
    ((after (exec (.vmld c00) (program (vword 0x15 0x180000 0) false))).core 0).vec.vlast = 0x0000000504010000 := by decide +kernel

/-! Snapshots (R102): OD 8020.01 of partition 0, whose address is 0. -/

/-- Tags 0 to `last`, all three tables, CLR. -/
def snapReq (last : Nat) : OdReq := odReq 0x8020 1 (natLE (fld last 12 + fld 15 24) 4)

def counted : State := { secured with stats := { State.reset.stats with drainMon := [(0, { count := 3 })] } }

def snapBusy : State := { secured with stats := { State.reset.stats with snap := [(0, { st := .busy, body := [1, 2] })] } }

theorem test_snapshot_command : counted.OdAccepts (snapReq 0) 0x802001 ∧ (counted.snapshot 0).st ≠ .busy ∧
    counted.localHbm 0 (64 + (counted.snapBody 0 (leNat (snapReq 0).value)).length) = some 0 ∧
    64 + (counted.snapBody 0 (leNat (snapReq 0).value)).length ≤ counted.sysBase ∧ counted.offsetPart 0 = some 0 ∧
    counted.regionCheck (Init.firmware 0) 0 (64 + (counted.snapBody 0 (leNat (snapReq 0).value)).length) true = none ∧
    ((after (exec (.snapshotCommand (snapReq 0)) counted)).snapshot 0).st = .busy ∧
    (after (exec (.snapshotCommand (snapReq 0)) counted)).stats.drainMon = [] :=
  ⟨accepts_sound _ _ _ (by decide +kernel), by decide +kernel, by decide +kernel, by decide +kernel, by decide +kernel,
    by decide +kernel, by decide +kernel, by decide +kernel⟩

/-- While BUSY; and tags 1 to 0. -/
theorem test_snapshot_refused : snapBusy.OdAccepts (snapReq 0) 0x802001 ∧ (snapBusy.snapshot 0).st = .busy ∧
    counted.OdAccepts (odReq 0x8020 1 (natLE (1 + fld 15 24) 4)) 0x802001 ∧
    ((after (exec (.snapshotCommand (odReq 0x8020 1 (natLE (1 + fld 15 24) 4))) counted)).snapshot 0).st = .failed :=
  ⟨accepts_sound _ _ _ (by decide +kernel), by decide +kernel, accepts_sound _ _ _ (by decide +kernel), by decide +kernel⟩

theorem test_snapshot_done : (snapBusy.snapshot 0).st = .busy ∧ snapBusy.MayWrite (Init.firmware 0) 0 66 0 ∧
    ((after (exec (.snapshotDone 0) snapBusy)).snapshot 0).st = .done ∧
    tabGet 0 (after (exec (.snapshotDone 0) snapBusy)).hbm 65 = 2 :=
  ⟨by decide +kernel, by constructor <;> decide +kernel, by decide +kernel, by decide +kernel⟩

/-! Directory commands of firmware (R160): entry 0x7FFFF, generation 0. -/

def dirCmd (op extra : Nat) : DirCmd := ⟨none, 0, BitVec.ofNat 768 (fld op 56 + fld 0x7FFFF 26 + extra)⟩

/-- `hosted` with that entry in a state. -/
def withEntry (e : DirEntry) : State := { hosted with dir := { State.reset.dir with entries := [(0x7FFFF, e)] } }

/-- `State.Directs`, as a test, where the entry has no training state. -/
def directs (s : State) (c : DirCmd) (op : Nat) : Option State :=
  match s.begins c with
  | none => none
  | some t =>
    let e := t.entry (dcDidx c)
    if dcOp c == op && dirBlockOk c.block && s.didxOk (s.carried c).part (dcDidx c) && e.area.isNone &&
        (op == 1 || e.gen.toNat == dcGen c) && !e.wait && dirAllowed op e.st then some t else none

theorem directs_sound (s t : State) (c : DirCmd) (op : Nat) (h : directs s c op = some t) : s.Directs c op t := by
  unfold directs at h
  split at h
  · cases h
  · rename_i u hu
    dsimp only at h
    split at h
    · rename_i hc
      cases h
      simp only [Bool.and_eq_true, Bool.or_eq_true, beq_iff_eq, Bool.not_eq_true', Option.isNone_iff_eq_none] at hc
      obtain ⟨⟨⟨⟨⟨⟨h1, h2⟩, h3⟩, h4⟩, h5⟩, h6⟩, h7⟩ := hc
      exact ⟨h1, h2, h3, hu, (fun a ha => by rw [h4] at ha; cases ha), h5, Or.inr h6, h7⟩
    · cases h

def entryAfter (o : Out) : DirEntry := (after o).entry 0x7FFFF

theorem test_directory_commands : (directs hosted (dirCmd 1 0) 1).isSome = true ∧ (entryAfter (exec (.create (dirCmd 1 0)) hosted)).st = .training ∧
    (directs (withEntry { st := .parked }) (dirCmd 2 0) 2).isSome = true ∧
    (entryAfter (exec (.load (dirCmd 2 0)) (withEntry { st := .parked }))).st = .loading ∧
    (directs (withEntry { st := .resident }) (dirCmd 4 0) 4).isSome = true ∧
    (entryAfter (exec (.pin (dirCmd 4 0)) (withEntry { st := .resident }))).st = .pinned ∧
    (directs (withEntry { st := .pinned }) (dirCmd 5 0) 5).isSome = true ∧
    (entryAfter (exec (.unpin (dirCmd 5 0)) (withEntry { st := .pinned }))).st = .resident ∧
    (directs (withEntry { st := .parked }) (dirCmd 8 0) 8).isSome = true ∧
    (entryAfter (exec (.revoke (dirCmd 8 0)) (withEntry { st := .parked }))).st = .revoked := by decide +kernel

/-- 2,048 pinned entries of partition 0 in four-partition mode: the next PIN meets the limit (R164). -/
def pinnedFull : State := { ready with
  mode := { State.reset.mode with cur := { four := true } }
  dir := { State.reset.dir with entries := (0x1FFFF, ({ st := .resident } : DirEntry)) :: (List.range 2048).map fun i => (i, { st := .pinned }) } }

theorem test_pin_limit : pinnedFull.mode.cur.four = true ∧ 2048 ≤ pinnedFull.pinned 0x1FFFF ∧
    (directs pinnedFull ⟨none, 0, BitVec.ofNat 768 (fld 4 56 + fld 0x1FFFF 26)⟩ 4).isSome = true := by decide +kernel

/-- PARK, TRAIN_END and FREE with and without references; with TMO 0 and 1. -/
theorem test_directory_waits : (directs (withEntry { st := .resident, refcnt := 1 }) (dirCmd 3 0) 3).isSome = true ∧
    (withEntry { st := .resident, refcnt := 1 }).waitOver (dirCmd 3 0) 0x7FFFF = false ∧ dcTmo (dirCmd 3 (fld 1 128)) = 1 ∧
    (entryAfter (exec (.park (dirCmd 3 0)) (withEntry { st := .resident, refcnt := 1 }))).wait = false ∧
    (entryAfter (exec (.park (dirCmd 3 (fld 1 128))) (withEntry { st := .resident, refcnt := 1 }))).wait = true ∧
    (directs (withEntry { st := .training, pub := true, refcnt := 1 }) (dirCmd 7 0) 7).isSome = true ∧
    (entryAfter (exec (.trainEnd (dirCmd 7 (fld 1 128))) (withEntry { st := .training, pub := true, refcnt := 1 }))).wait = true ∧
    (directs (withEntry { st := .revoked, refcnt := 1 }) (dirCmd 10 0) 10).isSome = true ∧
    (entryAfter (exec (.park (dirCmd 3 0)) (withEntry { st := .resident, loc := 1 }))).st = .parked ∧
    (entryAfter (exec (.park (dirCmd 3 (fld 1 192))) (withEntry { st := .resident }))).st = .resident ∧
    (entryAfter (exec (.free (dirCmd 10 (fld 255 48))) (withEntry { st := .parked, gen := 255 }))) = {} := by decide +kernel

/-- A PARK that waits on entry 0x7FFFF. -/
def waiting (n : Nat) : State :=
  let s := withEntry { st := .resident, refcnt := n, wait := true }
  { s with dir := { s.dir with waits := [⟨0x7FFFF, dirCmd 3 (fld 1 128)⟩] } }

theorem test_wait_ends : (waiting 1).dir.waits.find? (fun x => x.didx = 0x7FFFF) = some ⟨0x7FFFF, dirCmd 3 (fld 1 128)⟩ ∧
    (waiting 1).waitOver (dirCmd 3 (fld 1 128)) 0x7FFFF = false ∧ (waiting 0).waitOver (dirCmd 3 (fld 1 128)) 0x7FFFF = true ∧
    dcOp (dirCmd 3 (fld 1 128)) = 3 ∧ (entryAfter (exec (.commandTmoExpiry 0x7FFFF) (waiting 1))).wait = false ∧
    (entryAfter (exec (.refcntZero 0x7FFFF) (waiting 0))).st = .parked := by decide +kernel

/-- `withEntry`, with an adapter pool of 64 KiB at 1 MiB (R163). -/
def pooled (e : DirEntry) : State := ((withEntry e).odSet 0x501001 0x100000).odSet 0x501101 0x10000

/-- An adaptation of no layer: its serving copy is empty. -/
def emptyCopy (st : DState) (area : Option Nat) : DirEntry :=
  { st := st, digest := BitVec.ofNat 256 (leNat (sha256 [])), src := 0x2000000000000000, area := area }

def baseListed : State :=
  { (withEntry { st := .resident }).odSet 0x503101 16 with regions := [(16, { v := true, npg := 1 })] }

theorem test_train_begin : baseListed.baseList 0 = [16] ∧ (tabGet {} baseListed.regions 16).v = true ∧
    (directs baseListed (dirCmd 6 0) 6).isSome = true ∧ (withEntry { st := .resident }).baseList 0 = [] ∧
    (directs (withEntry { st := .pinned }) (dirCmd 6 0) 6).isSome = true ∧
    (tabGet {} (after (exec (.trainBegin (dirCmd 6 0)) baseListed)).regions 16).baseRo = true ∧
    (entryAfter (exec (.trainBegin (dirCmd 6 0)) (withEntry { st := .pinned }))).st = .pinned := by decide +kernel

/-- `s` with the build of a TRAIN_END in progress on entry 0x7FFFF. -/
def building (s : State) : State := { s with dir := { s.dir with builds := [⟨0x7FFFF, dirCmd 7 0⟩] } }

/-- TRAIN_END begins its build; the build of an entry without a state area, and of a record of no shards at offset 0. -/
theorem test_train_end : (directs (withEntry { st := .training }) (dirCmd 7 0) 7).isSome = true ∧
    (withEntry { st := .training }).waitOver (dirCmd 7 0) 0x7FFFF = true ∧
    (after (exec (.trainEnd (dirCmd 7 0)) (withEntry { st := .training }))).dir.builds = [⟨0x7FFFF, dirCmd 7 0⟩] ∧
    (building (withEntry { st := .training, wait := true })).dir.builds.find? (fun x => x.didx = 0x7FFFF) = some ⟨0x7FFFF, dirCmd 7 0⟩ ∧
    (entryAfter (exec (.loadComplete 0x7FFFF ⟨0, false, []⟩) (building (withEntry { st := .training, wait := true })))) = { st := .training } ∧
    (pooled (emptyCopy .training (some 0))).recState 0 = 0 ∧ (pooled (emptyCopy .training (some 0))).recSound 0 = true ∧
    ((pooled (emptyCopy .training (some 0))).serveAll 0 (emptyCopy .training none) 0 ((pooled (emptyCopy .training (some 0))).shardTable 0)
      matches .ok []) = true ∧
    ((building (pooled (emptyCopy .training (some 0)))).trainEndBuild 0 0x7FFFF [] matches .ok _) = true ∧
    (entryAfter (exec (.loadComplete 0x7FFFF ⟨0, false, []⟩) (building (pooled (emptyCopy .training (some 0)))))).st = .resident ∧
    (entryAfter (exec (.loadComplete 0x7FFFF ⟨0, false, []⟩) (building (pooled (emptyCopy .training (some 0)))))).loc = 0x100 := by decide +kernel

/-- REVOKE ends a build; and a PARK that waits. -/
theorem test_revoke_ends_builds : (directs (building (withEntry { st := .training })) (dirCmd 8 0) 8).isSome = true ∧
    (after (exec (.revoke (dirCmd 8 0)) (building (withEntry { st := .training })))).dir.builds = [] ∧
    (after (exec (.revoke (dirCmd 8 0)) (waiting 1))).dir.waits = [] := by decide +kernel

def loadInProgress (s : State) : State := { s with dir := { s.dir with loads := [⟨0x7FFFF, none⟩] } }

theorem test_load_complete : ((loadInProgress (pooled (emptyCopy .loading none))).entry 0x7FFFF).st = .loading ∧
    ((loadInProgress (pooled (emptyCopy .loading none))).loadBuild 0 (emptyCopy .loading none) ⟨0, false, []⟩ matches .ok _) = true ∧
    (entryAfter (exec (.loadComplete 0x7FFFF ⟨0, false, []⟩) (loadInProgress (pooled (emptyCopy .loading none))))).st = .resident ∧
    (loadInProgress (withEntry { st := .loading })).loadBuild 0 { st := .loading } ⟨0, false, []⟩ = .error St.adapterPoolFull ∧
    (loadInProgress (withEntry { st := .loading })).loadWaiters 0x7FFFF = [] ∧
    (entryAfter (exec (.loadComplete 0x7FFFF ⟨0, false, []⟩) (loadInProgress (withEntry { st := .loading })))).st = .parked := by
  decide +kernel

/-- `State.FirmwareMay`, as a test. -/
def firmwareMay (s : State) (p o n : Nat) : Bool :=
  (pageRanges o n).all (fun r => s.regionCheck (Init.firmware p) r.1 r.2 true == none) && (s.hbmBarrier o n).isNone

theorem firmwareMay_sound (s : State) (p o n : Nat) (h : firmwareMay s p o n = true) : s.FirmwareMay p o n := by
  simp only [firmwareMay, Bool.and_eq_true, List.all_eq_true, beq_iff_eq, Option.isNone_iff_eq_none] at h
  exact h

/-- The copy and the image of the load, and those of the build, lie where firmware may write. -/
theorem test_load_places : (match (loadInProgress (pooled (emptyCopy .loading none))).loadBuild 0 (emptyCopy .loading none) ⟨0, false, []⟩ with
      | .ok (copy, o, img, q, _) => firmwareMay (loadInProgress (pooled (emptyCopy .loading none))) 0 o copy.length &&
        firmwareMay (loadInProgress (pooled (emptyCopy .loading none))) 0 q img.length && decide (img.length = 4096)
      | .error _ => false) = true ∧
    (match (building (pooled (emptyCopy .training (some 0)))).trainEndBuild 0 0x7FFFF [] with
      | .ok (o, q, img, _) => firmwareMay (building (pooled (emptyCopy .training (some 0)))) 0 o 0 &&
        firmwareMay (building (pooled (emptyCopy .training (some 0)))) 0 q img.length
      | .error _ => false) = true ∧
    (loadInProgress (pooled (emptyCopy .loading none))).dir.loads.filter (fun l => l.didx = 0x7FFFF) = [⟨0x7FFFF, none⟩] ∧
    (loadInProgress (pooled (emptyCopy .loading none))).dir.builds = [] := by decide +kernel

theorem test_revoke_tenant : dcOp (dirCmd 9 5) = 9 ∧ dirBlockOk (dirCmd 9 5).block = true ∧
    (withEntry { st := .pinned, tenant := 5 }).started (dirCmd 9 5) = some (withEntry { st := .pinned, tenant := 5 }) ∧
    (DState.pinned).revocable = true ∧
    (entryAfter (exec (.revokeTenant (dirCmd 9 5)) (withEntry { st := .pinned, tenant := 5 }))).st = .revoked ∧
    (entryAfter (exec (.revokeTenant (dirCmd 9 4)) (withEntry { st := .pinned, tenant := 5 }))).st = .pinned := by decide +kernel

/-- A descriptor word of a work: KIND, and one more field. -/
def desc (kind extra : Nat) : BitVec 2048 := BitVec.ofNat 2048 (fld kind 56 + extra)

/-- A wait of each kind for a cache line: a reference of work 0 on entry 0x7FFFF, UNPIN, a fill of slot 7 of S0.C0. -/
def lineWaits (e : DirEntry) (w : LineWait) : State :=
  let s := withEntry e
  { (s.modCore 0 fun k => k.modSlotA 7 fun a => { a with held := some (BitVec.ofNat 256 (fld 0x7FFFF 13)) }) with
    dir := { s.dir with lineWaits := [w] }
    work := { s.work with slots := [(0, { st := .held, desc := desc 1 (fld (fld 1 63 + 0x7FFFF) (8 * 0x58)) })] } }

theorem test_cache_line_available : (lineWaits { st := .resident } (.ref 0)).lineWaitPart (.ref 0) = 0 ∧
    daDidx ((lineWaits { st := .resident } (.ref 0)).wk 0).da = 0x7FFFF ∧
    ((lineWaits { st := .resident } (.ref 0)).takeLine 0x7FFFF).isSome = true ∧
    ((after (exec (.cacheLineAvailable 0) (lineWaits { st := .resident } (.ref 0)))).wk 0).ref = some 0x7FFFF ∧
    ((lineWaits { st := .pinned } (.cmd (dirCmd 5 0))).takeLine 0x7FFFF).isSome = true ∧
    (entryAfter (exec (.cacheLineAvailable 0) (lineWaits { st := .pinned } (.cmd (dirCmd 5 0))))).st = .resident ∧
    ((lineWaits {} (.fill 0 7)).takeLine 0x7FFFF).isSome = true ∧
    (((after (exec (.cacheLineAvailable 0) (lineWaits {} (.fill 0 7)))).core 0).slotA 7).st = .filling := by decide +kernel

/-- The walker meets an uncorrectable granule in the entry (R321). -/
def badEntry (w : LineWait) : State :=
  { lineWaits { st := .pinned } w with ecc := { State.reset.ecc with bad := [(ready.dirBase + 32 * 0x7FFFF) / 512] } }

theorem test_walk_fails : (badEntry (.ref 0)).walkFails 0x7FFFF = true ∧
    ((after (exec (.cacheLineAvailable 0) (badEntry (.ref 0)))).wk 0).status =
      St.memoryUncorrectable ∧
    (lineWaits {} (.fill 0 6)).lineWaitPart (.fill 0 6) = 0 ∧ ((lineWaits {} (.fill 0 6)).lcore 0 0 |>.slotA 6).held = none ∧
    (after (exec (.cacheLineAvailable 0) (lineWaits {} (.fill 0 6)))).dir.lineWaits = [] := by decide +kernel

/-- Every line of partition 3 taken by a pinned entry (one entry for all, to keep the list short): none is free. -/
def linesFull : State :=
  { ready with mode := { State.reset.mode with cur := { four := true } }
               dir := { State.reset.dir with
                 entries := [(393216, { st := .pinned })], lines := (List.range 4096).map fun i => ⟨12288 + i, 393216, i⟩
                 lineWaits := [.cmd ⟨none, 3, BitVec.ofNat 768 (fld 5 56 + fld 0x7FFFF 26)⟩] } }

theorem test_no_cache_line : (linesFull.takeLine 0x7FFFF).isNone = true ∧
    linesFull.lineWaitPart (.cmd ⟨none, 3, BitVec.ofNat 768 (fld 5 56 + fld 0x7FFFF 26)⟩) = 3 := by decide +kernel

/-! Fills (R171): slot 7 of S0.C0. -/

def filling (a : AdptSlot) (runs : List Run) : State :=
  hosted.modCore 0 fun k => { k with tile := { k.tile with runs := runs } }.modSlotA 7 fun _ => a

def naming : Run := ⟨0, 0, 0, [], false, some ⟨7, 0, false, 0, [], []⟩, none⟩

def slotAfter (o : Out) : AdptSlot := ((after o).core 0).slotA 7

theorem test_fill_start : ((filling { held := some 0 } [naming]).core 0).runsNaming 7 = 1 ∧
    ((filling { held := some 0 } []).core 0).runsNaming 7 = 0 ∧ fdGth (BitVec.ofNat 256 (fld 1 61)) = true ∧ fdGth 0 = false ∧
    ((filling { held := some 0 } []).takeLine 0).isSome = true ∧
    (slotAfter (exec (.fillStart c00 7) (filling { held := some 0 } [naming]))).st = .empty ∧
    (slotAfter (exec (.fillStart c00 7) (filling { held := some (BitVec.ofNat 256 (fld 1 61)) } []))).gth = true ∧
    (slotAfter (exec (.fillStart c00 7) (filling { held := some 0 } []))).fault = St.adapterNotReady := by decide +kernel

/-- Entry 0 with an image at HBM offset 0: one record, at 64, of one input and one output of rank code 1 (R155). -/
def imaged (held : Option (BitVec 256)) : State :=
  let s := filling { held := held } []
  { s with
    hbm := memWrite (memWrite [] 0 (natLE 64 8)) 64 (natLE (1 + fld 1 32 + fld 1 64) 16)
    dir := { s.dir with entries := [(0, { st := .resident, pub := true, lmask := 1, ranks := 1 })] } }

theorem test_fill_checks_pass : ((imaged (some 0)).takeLine 0).isSome = true ∧ (imaged (some 0)).didxOk 0 0 = true ∧
    (imaged (some 0)).walkFails 0 = false ∧ ((imaged (some 0)).fillCheck 0 0 0 0 0 64 matches .ok _) = true ∧
    (slotAfter (exec (.fillStart c00 7) (imaged (some 0)))).fault = 0 ∧ (slotAfter (exec (.fillStart c00 7) (imaged (some 0)))).record = 64 ∧
    after (exec (.fillStart c00 7) (imaged none)) = imaged none ∧
    (slotAfter (exec (.fillStart c00 7) { imaged (some 0) with ecc := { State.reset.ecc with bad := [ready.dirBase / 512] } })).fault =
      St.memoryUncorrectable := by decide +kernel

/-- Rank 4 at HBM offset 0, whose memory is zero; chunk 0 is in buffer 0 and chunk 1 is wanted. -/
def slotReady : AdptSlot := { st := .ready, rank := 1, nch := 2, buf0 := some 0 }

theorem test_fill_copy_done : (filling { st := .filling, rank := 1, nch := 1 } []).hbmBad 0 256 = false ∧ rankOf 1 = 4 ∧
    (slotAfter (exec (.fillCopyDone c00 7) (filling { st := .filling, fault := St.adapterStale } []))).st = .fault ∧
    (slotAfter (exec (.fillCopyDone c00 7) (filling { st := .filling, rank := 1, nch := 1 } []))).buf0 = some 0 ∧
    ((filling slotReady []).core 0).nextChunk 7 = some 1 ∧
    (slotAfter (exec (.chunkFetchDone c00 7) (filling slotReady []))).buf1 = some 1 ∧
    (slotAfter (exec (.chunkFetchDone c00 7) { filling slotReady [] with ecc := { State.reset.ecc with bad := [0] } })).st = .fault := by
  decide +kernel

/-! Work (R231 to R249). -/

/-- A SERVE descriptor without a group, adaptation or outputs: KIND 1, NPART 1, and a VALID word (R232, R237). -/
def serveDesc (valid : Nat) : BitVec 2048 := desc 1 (fld 1 (8 * 0x10 + 51) + fld valid (8 * 0xF8))

/-- `hosted` with a host window of 4 KiB, and these bytes in work slot 16383. -/
def placed (w : Work) (d : BitVec 2048) : State :=
  let s := { hosted with port := { hosted.port with ctxs := [(0, { st := .open_, hlen := 4096 })] }
                         work := { State.reset.work with slots := tabSet {} [] 16383 w } }
  { s with hbm := memWrite [] (s.slotOff 16383) (natLE d.toNat 256) }

/-- As `placed`, with the context closed: its records go nowhere. -/
def placedNoCtx (d : BitVec 2048) : State := { placed {} d with port := hosted.port }

def workAfter (o : Out) : Work := (after o).wk 16383

theorem test_scanner_idle : ready.placedSlots = [] ∧ ready.serving = true ∧ State.reset.serving = false ∧
    (after (exec .scannerSweep ready)).work.sweepFrom = 1 ∧ after (exec .scannerSweep State.reset) = State.reset := by decide +kernel

theorem test_scanner_accepts : (placed {} (serveDesc 1)).serving = true ∧ (placed {} (serveDesc 1)).placedSlots = [16383] ∧
    (placed {} (serveDesc 1)).deliverable 0 0 0 0 = true ∧
    (placed {} (serveDesc 1)).acceptCheck 16383 { desc := serveDesc 1 } = none ∧
    (placed {} (serveDesc 1 + 1)).acceptCheck 16383 { desc := serveDesc 1 + 1 } = some St.workDescInvalid ∧
    (workAfter (exec .scannerSweep (placed {} (serveDesc 1)))).st = .held ∧
    (workAfter (exec .scannerSweep (placed {} (serveDesc 1 + 1)))).status = St.workDescInvalid ∧
    (after (exec .scannerSweep (placed {} (serveDesc 2)))).out.length = 2 ∧
    (after (exec .scannerSweep (placedNoCtx (serveDesc 1)))).work.undeliverable = 1 ∧
    (placed { st := .running } (serveDesc 0 + BitVec.ofNat 2048 (fld 1 (8 * 0xF0)))).lastPrepared 16383 = false ∧
    (workAfter (exec .scannerSweep (placed { st := .running } (serveDesc 0 + BitVec.ofNat 2048 (fld 1 (8 * 0xF0)))))).status = St.aborted := by
  decide +kernel

/-- A gathering SERVE request of slot 16383, without an adaptation, and with one on entry 0x7FFFF. -/
def gathering (e : DirEntry) (da : Nat) : State :=
  { withEntry e with work := { State.reset.work with slots := [(16383, { st := .held, gathering := true, desc := desc 1 (fld da (8 * 0x58)) })] } }

def daWord : Nat := fld 1 63 + 0x7FFFF

theorem test_batch_window : daAv ((gathering {} 0).wk 16383).da = false ∧ daAv ((gathering {} daWord).wk 16383).da = true ∧
    ((gathering { st := .resident, pub := true } daWord).takeLine 0x7FFFF).isSome = true ∧
    (workAfter (exec .batchWindowExpiry (gathering {} 0))).handed = true ∧
    (workAfter (exec .batchWindowExpiry (gathering { st := .resident, pub := true } daWord))).ref = some 0x7FFFF ∧
    (entryAfter (exec .batchWindowExpiry (gathering { st := .parked } daWord))).st = .loading := by decide +kernel

theorem test_work_end : (placed { st := .ending, status := St.aborted } (serveDesc 1)).ops.all (fun o => o.who ≠ .output 16383) = true ∧
    (placed { st := .ending, status := St.aborted } (serveDesc 1)).domainDown 0 = false ∧
    (workAfter (exec (.workEnd 16383) (placed { st := .ending, gen := 0xFFFFFFFF } (serveDesc 1)))).gen = 1 ∧
    (after (exec (.workEnd 16383) (placed { st := .ending } (serveDesc 1)))).out.length = 2 ∧
    (workAfter (exec (.workEnd 16383) (placed { st := .running } (serveDesc 1)))).st = .running := by decide +kernel

def revokedRef : State :=
  { withEntry { st := .revoked, refcnt := 1 } with work := { State.reset.work with slots := [(16383, { st := .running, desc := serveDesc 0, ref := some 0x7FFFF })] } }

/-- A part under abort, whose copy is abandoned. -/
def abortingPart : State := { hosted with work := { State.reset.work with slots := [(16383, { st := .running, desc := serveDesc 0, aborting := true, copying := true })] } }

theorem test_work_end_under_abort : (abortingPart.wk 16383).aborting = true ∧ (abortingPart.wk 16383).live = true ∧
    (workAfter (exec (.workEnd 16383) abortingPart)).gen = 2 ∧
    ((placed { st := .ending } (serveDesc 1)).wk 16383).aborting = false ∧
    firmwareMay (placed { st := .ending } (serveDesc 1)) 0 ((placed {} 0).slotOff 16383 + 0xF8) 8 = true := by decide +kernel

theorem test_token_boundary : (revokedRef.wk 16383).kind = 1 ∧ (revokedRef.wk 16383).group = 0 ∧ (revokedRef.wk 16383).ref = some 0x7FFFF ∧
    (workAfter (exec (.tokenBoundary 16383) revokedRef)).status = St.adapterRevoked ∧
    (entryAfter (exec (.tokenBoundary 16383) revokedRef)).refcnt = 0 := by decide +kernel

/-- OD 2070.03: slot 16383, generation 1. -/
def abortReq : OdReq := odReq 0x2070 3 (natLE (fld 16383 32 + 1) 8)

def abortable (w : Work) : State := { secured with work := { State.reset.work with slots := [(16383, w)] } }

theorem test_abort_work : (abortable { st := .held }).OdAccepts abortReq 0x207003 ∧
    (abortable { st := .held, gen := 2 }).OdAccepts abortReq 0x207003 ∧
    (abortable {}).OdAccepts (odReq 0x2070 3 (natLE (fld 1 46) 8)) 0x207003 ∧ (abortable { st := .held }).lastPrepared 16383 = false ∧
    (workAfter (exec (.abortWork abortReq) (abortable { st := .held }))).status = St.aborted ∧
    (workAfter (exec (.abortWork abortReq) (abortable { st := .held, gen := 2 }))).st = .held :=
  ⟨accepts_sound _ _ _ (by decide +kernel), accepts_sound _ _ _ (by decide +kernel), accepts_sound _ _ _ (by decide +kernel),
    by decide +kernel, by decide +kernel, by decide +kernel⟩

/-- A non-secure session of partition 1 in four-partition mode, and slot 0 of partition 0. -/
def otherPart : State := { hosted with
  mode := { State.reset.mode with cur := { four := true } }, port := { hosted.port with ctxs := [(0, { st := .open_, part := 1 })] } }

theorem test_abort_denied : otherPart.OdAccepts (odReq 0x2070 3 (natLE 1 8)) 0x207003 ∧ otherPart.slotPart 0 ≠ (otherPart.ctx 0).part ∧
    (otherPart.ctx 0).secure = false :=
  ⟨accepts_sound _ _ _ (by decide +kernel), by decide, by decide⟩

/-! SERVE work. -/

def serve (w : Work) : State := { hosted with work := { State.reset.work with slots := [(16383, { w with desc := serveDesc 0 + BitVec.ofNat 2048 (fld 64 (8 * 0x50)) })] } }

theorem test_serve_work : ((serve {}).wk 16383).kind = 1 ∧ (serve { st := .held, handed := true }).refWaits 16383 = false ∧
    (serve {}).mayStart 0 = true ∧ (serve { st := .held, handed := true }).firstHeld 16383 = true ∧ (15 : Nat) ∈ (serve {}).shelvesOf 0 ∧
    (workAfter (exec (.serveWork 16383 (.start 15)) (serve { st := .held, handed := true }))).shelf = 15 ∧
    ((serve { st := .running }).wk 16383).outsFit [(60, [1, 2, 3, 4])] = true ∧
    (workAfter (exec (.serveWork 16383 (.unit [(60, [1, 2, 3, 4])] 0 false)) (serve { st := .running }))).copying = true ∧
    (workAfter (exec (.serveWork 16383 (.unit [] 0 false)) (serve { st := .running }))).tokens = 1 ∧
    (workAfter (exec (.serveWork 16383 (.unit [] 0 true)) (serve { st := .running }))).st = .ending ∧
    (workAfter (exec (.serveWork 16383 (.fail St.trimFault)) (serve { st := .running }))).status = St.trimFault := by decide +kernel

/-! Groups (R242 to R246): the leader is this device, D0; group 1. -/

def withGroup (g : List Group) (l : Tab Work) : State := { hosted with work := { State.reset.work with groups := g, slots := l } }

/-- Parts 0 and 63 of group 1, of which 63 is on D7. -/
def group1 : Group := { handle := 1, npart := 2, parts := [⟨0, 0⟩, ⟨63, 7⟩] }

theorem test_group_register : ghLeader 1 = 0 ∧ hosted.grp 1 = none ∧ hosted.groupRoom 1 = true ∧
    (withGroup [group1] []).grp 1 = some group1 ∧ group1.parts.any (fun r => r.part = 63) = true ∧
    ((after (exec (.groupRegister 7 1 63 2) hosted)).grp 1).isSome = true ∧
    (after (exec (.groupRegister 7 1 62 3) (withGroup [group1] []))).grp 1 = none ∧
    (after (exec (.groupRegister 7 1 63 2) (withGroup [group1] []))).grp 1 = none := by decide +kernel

theorem test_group_ready : group1.parts.all (fun r => [63].contains (64 * 0 + r.part)) = false ∧ group1.parts.length = group1.npart ∧
    (withGroup [{ group1 with ready := [0] }] []).partsHere 1 = [] ∧
    { group1 with ready := [0] }.parts.all (fun r => [63, 0].contains (64 * 0 + r.part)) = true ∧
    { group1 with copied := [] }.parts.all (fun r => group1.copied.contains (64 * group1.unit + r.part)) = false ∧
    ((after (exec (.groupReady 1 63 0 false) (withGroup [group1] []))).grp 1).map (·.ready) = some [63] ∧
    ((after (exec (.groupReady 1 63 0 true) (withGroup [{ group1 with ready := [0] }] []))).grp 1).map (·.committed) = some true := by
  decide +kernel

theorem test_group_copied : group1.parts.all (fun r => [63].contains (64 * 0 + r.part)) = false ∧
    group1.parts.all (fun r => [63, 0].contains (64 * 0 + r.part)) = true ∧ group1.parts.all (fun r => [0, 63].contains r.part) = true ∧
    ((after (exec (.groupCopied 1 63 0) (withGroup [{ group1 with committed := true }] []))).grp 1).map (·.copied) = some [63] ∧
    (after (exec (.groupCopied 1 63 0) (withGroup [{ group1 with committed := true, copied := [0], lastBy := [0, 63] }] []))).grp 1 = none := by
  decide +kernel

/-- A live part of group 1 in slot 16383. -/
def partDesc : BitVec 2048 := desc 1 (fld 1 (8 * 8))

def member (w : Work) : State := withGroup [group1] [(16383, { w with desc := partDesc })]

theorem test_group_fails : ((member { st := .held }).wk 16383).group = 1 ∧ ((member { st := .held }).wk 16383).live = true ∧
    (workAfter (exec (.groupFail 1 63 St.trimFault) (member { st := .held }))).pstat = St.trimFault ∧
    (withGroup [{ group1 with npart := 3 }] []).grp 1 = some { group1 with npart := 3 } ∧
    (after (exec (.groupAssemblyTimeout 1) (withGroup [{ group1 with npart := 3 }] []))).grp 1 = none ∧
    ((after (exec (.groupAssemblyTimeout 1) (withGroup [group1] []))).grp 1).isSome = true := by decide +kernel

theorem test_group_parts : (member { st := .running, ready := true, staged := [(0, [1])] }).partsHere 1 = [16383] ∧
    ((member {}).wk 16383).kind = 1 ∧
    (workAfter (exec (.groupCommit 1 0) (member { st := .running, ready := true, staged := [(0, [1])] }))).copying = true ∧
    (workAfter (exec (.groupEnd 1 5) (member { st := .running }))).tokens = 5 ∧
    (workAfter (exec (.groupDiscard 1 63 St.trimFault 5) (member { st := .running }))).fpart = 63 ∧
    (workAfter (exec (.groupAbort 1 0) (member { st := .running }))).status = St.aborted ∧
    (workAfter (exec (.groupDecisionTimeout 16383) (member { st := .running, copiedHeld := true }))).pstat = St.groupLeaderLost := by
  decide +kernel

/-- R249, R257: a copying part ends after its copy, and its leader waits for the other parts. -/
theorem test_group_aborts : ghLeader 1 = (member {}).mod.pos.val ∧ (member { st := .running, copying := true }).lastPrepared 16383 = false ∧
    (workAfter (exec (.groupAbort 1 0) (member { st := .running, copying := true }))).aborting = true ∧
    ((after (exec (.groupAbort 1 0) (withGroup [{ group1 with committed := true }] []))).grp 1).map (·.aborting) = some true ∧
    (after (exec (.groupAbort 1 0) (member { st := .running }))).grp 1 = none ∧
    (after (exec (.groupCopied 1 63 0) (withGroup [{ group1 with committed := true, copied := [0], aborting := true }] []))).grp 1 = none ∧
    after (exec (.groupDiscard 1 63 7 5) (member { st := .running })) = member { st := .running } ∧
    after (exec (.groupCommit 1 7) (member { st := .running, ready := true })) = member { st := .running, ready := true } ∧
    after (exec (.groupDecisionTimeout 16383) (member { st := .running })) = member { st := .running } := by decide +kernel

theorem test_abort_group : (working.OdAccepts (odReq 0x2070 4 (natLE 1 8)) 0x207004) ∧ (1 : BitVec 64) ≠ 0 ∧ (secured.ctx 0).secure = true ∧
    ghLeader 0x2000000000000001 ≠ hosted.mod.pos.val := ⟨accepts_sound _ _ _ (by decide +kernel), by decide, by decide, by decide⟩

/-! Mode changes (R250 to R254). -/

def modeReq (v : Nat) : OdReq := odReq 0x2000 3 (natLE v 4)

def modeState (m : Mode) : State := { secured with mode := m }

theorem test_mode_command : secured.OdAccepts (modeReq 1) 0x200003 ∧ secured.OdAccepts (modeReq 2) 0x200003 ∧
    secured.OdAccepts (modeReq 3) 0x200003 ∧ resetting.OdAccepts (modeReq 1) 0x200003 ∧ secured.mod.pos.val = 0 ∧
    { secured with mod := { State.reset.mod with pos := 7 } }.OdAccepts (modeReq 2) 0x200003 ∧
    { working with mode := { State.reset.mode with staged := { four := true } } }.OdAccepts (modeReq 1) 0x200003 ∧
    (modeState { staged := { drainFmt := 7 } }).OdAccepts (modeReq 1) 0x200003 ∧
    (after (exec (.modeCommandDevice (modeReq 1)) secured)).mode.st = .transitioning ∧
    (after (exec (.modeCommandBoard (modeReq 2)) { secured with mod := { State.reset.mod with pos := 7 } })).mode.result = St.modeNotLeader ∧
    (after (exec (.modeCommandDevice (modeReq 1)) { working with mode := { State.reset.mode with staged := { four := true } } })).mode.result = St.modeWorkActive ∧
    (after (exec (.modeCommandDevice (modeReq 1)) (modeState { staged := { drainFmt := 7 } }))).mode.result = St.odValueInvalid ∧
    (after (exec (.modeCommandDevice (modeReq 3)) secured)).mode.result = St.odValueInvalid :=
  ⟨accepts_sound _ _ _ (by decide +kernel), accepts_sound _ _ _ (by decide +kernel), accepts_sound _ _ _ (by decide +kernel),
    accepts_sound _ _ _ (by decide +kernel), by decide, accepts_sound _ _ _ (by decide +kernel), accepts_sound _ _ _ (by decide +kernel),
    accepts_sound _ _ _ (by decide +kernel), by decide +kernel, by decide +kernel, by decide +kernel, by decide +kernel, by decide +kernel⟩

/-- All units but 23 have applied a change of layout. -/
def changing : Mode := { st := .transitioning, applied := 0x7FFFFF, pend := { four := true }, staged := { four := true } }

theorem test_unit_quiesced : (modeState changing).shelfIdle 15 = true ∧ (loading []).shelfIdle 0 = false ∧
    (0x7FFFFF ||| BitVec.ofNat 24 (2 ^ 23) : BitVec 24) = 0xFFFFFF ∧ (0x7FFFFF ||| BitVec.ofNat 24 (2 ^ 15) : BitVec 24) ≠ 0xFFFFFF ∧
    (after (exec (.unitQuiesced 23) (modeState changing))).mode.st = .scrubbing ∧
    (after (exec (.unitQuiesced 23) (modeState changing))).mode.scrub = [0, 1, 2, 3] ∧
    (after (exec (.unitQuiesced 23) (modeState { changing with pend := {} }))).mode.st = .stable ∧
    (after (exec (.unitQuiesced 23) (modeState { changing with pend := {} }))).mode.epoch = 1 ∧
    (after (exec .modeTimeout (modeState changing))).mode.result = St.modeRolledBack := by decide +kernel

/-- This device as D0 or D7 of a board on which D3 answers (group 3 and group 4 up). -/
def onBoard (pos : Fin 8) (m : Mode) : State := { secured with
  mode := { m with board := true }, mod := { State.reset.mod with pos := pos }
  fabric := { State.reset.fabric with groups := [(3, { st := .up8 }), (4, { st := .up8 })] } }

theorem test_board_messages : (onBoard 0 {}).boardPeers = [3, 4] ∧ (onBoard 0 {}).reachable 3 = true ∧ (onBoard 7 {}).reachable 3 = true ∧
    (onBoard 7 {}).modeRefused false = none ∧ (onBoard 7 changing).modeRefused false = some St.modeBusy ∧
    (after (exec .modePrepare (onBoard 7 {}))).mode.st = .transitioning ∧
    (after (exec .modePrepare (onBoard 7 {}))).mode.change = 1 ∧
    ((onBoard 7 {}).controlIn 0 0x20 [0, 0, 0, 0, 0, 0, 0, 5]).mode.change = 5 ∧
    (after (exec .modePrepare (onBoard 7 changing))).mode.result = St.modeBusy ∧
    (after (exec (.unitQuiesced 23) (onBoard 7 changing))).mode.waiting = true ∧
    (after (exec (.modeReady 3) (onBoard 0 { changing with applied := 0xFFFFFF, ready := [4] }))).mode.epoch = 1 ∧
    (after (exec (.modeReady 3) (onBoard 0 { changing with applied := 0xFFFFFF }))).mode.ready = [3] ∧
    (after (exec (.modeFail 3) (onBoard 0 changing))).mode.result = St.modeRolledBack ∧
    (after (exec .boardReadyTimeout (onBoard 0 changing))).mode.result = St.modeRolledBack ∧
    (after (exec (.modeQuery ⟨3, 5⟩) (onBoard 7 { committed := true, change := 5 }))).out = [.control 3 0x26 [7, 1]] ∧
    (after (exec (.modeQuery ⟨3, 6⟩) (onBoard 7 { committed := true, change := 5 }))).out = [.control 3 0x26 [7, 0]] ∧
    (after (exec .modeTimeout (onBoard 7 changing))).mode.result = St.modeRolledBack := by decide +kernel

theorem test_board_decisions : (∀ p, p < 8 → secured.reachable p = false) ∧
    (after (exec .modeCommit (onBoard 7 { changing with waiting := true }))).mode.epoch = 1 ∧
    (after (exec .modeRollback (onBoard 7 changing))).mode.st = .stable ∧
    (after (exec (.modeQuery ⟨3, 5⟩) (onBoard 7 changing))).mode = { changing with board := true } ∧
    (after (exec (.modeAnswer 3 true) (onBoard 7 { changing with waiting := true, asked := [3] }))).mode.epoch = 1 ∧
    (after (exec (.modeAnswer 3 false) (onBoard 7 { changing with waiting := true, asked := [3] }))).mode.st = .stable ∧
    (after (exec (.modeAnswer 3 false) (onBoard 7 { changing with waiting := true, asked := [3, 4] }))).mode.asked = [4] ∧
    (after (exec .modeDecisionTimeout (modeState { changing with waiting := true }))).mode.st = .stable ∧
    (after (exec .modeDecisionTimeout (onBoard 7 { changing with waiting := true }))).mode.asked = [3, 4] := by decide +kernel

/-! Scrubs and partition resets. -/

/-- The last partition's scrub after a change to four partitions, with bytes at the ends of its user area. -/
def scrubbing : State :=
  let s := modeState { st := .scrubbing, scrub := [3], cur := { four := true } }
  { s with hbm := [(3 * s.quarter - 1, 1), (3 * s.quarter, 1), (4 * s.quarter - 1, 1)] }

theorem test_scrub_complete : (3 : Nat) ∈ scrubbing.mode.scrub ∧ scrubbing.mode.st = .scrubbing ∧
    (after (exec (.scrubComplete 3) scrubbing)).mode.st = .stable ∧
    (after (exec (.scrubComplete 3) scrubbing)).hbm = [(3 * scrubbing.quarter - 1, 1)] := by decide +kernel

theorem test_partition_reset : secured.OdAccepts (odReq 0x4030 1 [0]) 0x403001 ∧ secured.OdAccepts (odReq 0x4030 1 [1]) 0x403001 ∧
    resetting.OdAccepts (odReq 0x4030 1 [0]) 0x403001 ∧ tabWf {} secured.port.ctxs = true ∧
    (after (exec (.partitionReset (odReq 0x4030 1 [0])) secured)).sec.resetting = [0] ∧
    ((after (exec (.partitionReset (odReq 0x4030 1 [0])) working)).wk 0).status = 0x0702 ∧
    (after (exec (.partitionReset (odReq 0x4030 1 [1])) secured)).sec.resetting = [] :=
  ⟨accepts_sound _ _ _ (by decide +kernel), accepts_sound _ _ _ (by decide +kernel), accepts_sound _ _ _ (by decide +kernel),
    by decide, by decide +kernel, by decide +kernel, by decide +kernel⟩

/-! Host contexts (R274 to R288). Context 0x3FFF failed under host number 5, so that an OPEN of host number 5 gets it again. -/

/-- Extension of an OPEN from offset 24: VMAJ_HI 1, VMIN 0, VMAJ_LO 1, WORLD; PART 0; MTU at 38; HLEN 4 KiB (R277). -/
def openBody (world mtu : Nat) (auth : List Byte) : List Byte :=
  be 1 1 ++ be 0 1 ++ be 1 1 ++ be world 1 ++ be 0 8 ++ be 0 2 ++ be mtu 2 ++ be 0 8 ++ be 4096 8 ++ auth

def pkt (typ flags : BitVec 8) (ctx sctx : BitVec 16) (psn : BitVec 32) (body : List Byte) : Packet :=
  ⟨0, 0x10, typ, flags, 0, ctx, sctx, psn, 0, 0, 0, body, false⟩

def openPkt (world mtu : Nat) (auth : List Byte) : Packet := pkt 1 0x80 0 5 0 (openBody world mtu auth)

def openable (x : Ctx) (sec : Security) : State := { ready with
  port := { State.reset.port with port := .up, ctxs := [(0x3FFF, x)] }, sec := sec }

def failedCtx : Ctx := { st := .failed, hctx := 5 }

def claimed : Security := { State.reset.sec with claimed := true, kown := 7 }

/-- Host and status of each REFUSE sent. -/
def refusals (o : Out) : List (Nat × Nat) :=
  (after o).out.filterMap fun e => match e with
    | .refuse c st _ => some (c.toNat, st.toNat)
    | _ => none

def zeros32 : List Byte := List.replicate 32 0

/-- AUTH over the body with key 7 and nonce 0 (R346). -/
def auth7 : List Byte := hmac (natLE 7 32) ((openable failedCtx claimed).authMessage 5 (openBody 1 1500 zeros32))

/-- The context that `openPkt` opened, its ACCEPT unacknowledged. -/
def openedCtx : Ctx := { st := .open_, hctx := 5, openBody := openBody 0 1500 zeros32, ctl := { tx := 1, unacked := [⟨⟨2, 0, 0, 0, true, true, []⟩, 0, 0, false⟩] } }

theorem test_open : (openable failedCtx {}).openCheck 0 5 (openPkt 0 1500 zeros32).body = .ok 0x3FFF ∧
    (openable failedCtx {}).openCheck 0 5 (openPkt 0 1499 zeros32).body = .error St.openInvalid ∧
    64 ≤ (openPkt 0 1500 zeros32).body.length ∧ extField (openPkt 1 1500 zeros32).body 27 1 = 1 ∧
    ((after (exec (.open_ (openPkt 0 1500 zeros32)) (openable failedCtx {}))).ctx 0x3FFF).st = .open_ ∧
    refusals (exec (.open_ (openPkt 0 1499 zeros32)) (openable failedCtx {})) = [(5, St.openInvalid.toNat)] ∧
    (openable openedCtx {}).openRepeat (openPkt 0 1500 zeros32) = some 0x3FFF ∧
    ((after (exec (.open_ (openPkt 0 1500 zeros32)) (openable openedCtx {}))).ctx 0x3FFF).ctl.due = 1 := by
  decide +kernel

theorem test_secure_open : (openable failedCtx claimed).openCheck 0 5 (openPkt 1 1500 zeros32).body = .ok 0x3FFF ∧
    (openable failedCtx claimed).authOk 5 (openPkt 1 1500 zeros32).body = false ∧
    (openable failedCtx claimed).authOk 5 (openPkt 1 1500 auth7).body = true ∧
    ((after (exec (.open_ (openPkt 1 1500 auth7)) (openable failedCtx claimed))).ctx 0x3FFF).secure = true ∧
    (after (exec (.open_ (openPkt 1 1500 zeros32)) (openable failedCtx claimed))).sec.refusals = [0] ∧
    (after (exec (.open_ (openPkt 1 1500 zeros32)) (openable failedCtx { claimed with refusals := List.replicate 7 0 }))).sec.lockout = true ∧
    refusals (exec (.open_ (openPkt 1 1500 auth7)) (openable failedCtx { claimed with lockout := true })) = [(5, St.accessDenied.toNat)] := by
  decide +kernel

/-- Host context 16383 in a state. -/
def ctxState (x : Ctx) : State := { hosted with port := { hosted.port with ctxs := [(16383, x)] } }

def ctxAfter (o : Out) : Ctx := (after o).ctx 16383

theorem test_context_close : (ctxAfter (exec (.close 16383 false) (ctxState { st := .open_ }))).st = .draining ∧
    (ctxAfter (exec (.close 16383 true) (ctxState { st := .open_ }))).st = .draining ∧
    (ctxState { st := .draining }).drained 16383 = true ∧
    (ctxState { st := .draining, asm := [⟨1, 0, 1, false, none⟩] }).drained 16383 = false ∧
    (ctxAfter (exec (.closed 16383) (ctxState { st := .draining }))).st = .closed ∧
    (ctxAfter (exec (.drainTimeout 16383) (ctxState { st := .draining, asm := [⟨1, 0, 1, false, none⟩] }))).st = .closed ∧
    (ctxAfter (exec (.keepalive 16383) (ctxState { st := .open_, kaOut := true }))).kaOut = false ∧
    (after (exec (.keepalive 16383) (ctxState { st := .draining }))).out.length = 1 ∧
    (ctxAfter (exec (.keepaliveTimer 16383) (ctxState { st := .open_ }))).kaOut = true ∧
    (after (exec (.portStateChange .down) (ctxState {}))).port.port = .down ∧
    (after (exec (.portStateChange .laneFault) (ctxState {}))).mod.portBad = true ∧
    (after (exec (.portStateChange .up) (ctxState {}))).port.port = .up ∧
    (after (exec (.portStateChange .up) { ctxState {} with mod := { State.reset.mod with portBad := true }, port := State.reset.port })).port.port ≠ .up := by decide +kernel

/-- Two control packets unacknowledged, the first passed over by two selective acknowledgements. -/
def sentQueue : Queue :=
  { tx := 2, rx := 3, due := 1, unacked := [⟨⟨0x30, 0, 0, 0, true, true, []⟩, 10, 2, false⟩, ⟨⟨0x30, 1, 0, 0, true, true, []⟩, 0, 0, false⟩] }

def sentTwo : Ctx := { st := .open_, rate := 8000000000, ctl := sentQueue }

theorem test_acknowledgements : (ctxState sentTwo).ctx 16383 = sentTwo ∧ sentTwo.joined = true ∧ inSack 1 [(1, 1)] = true ∧
    inSack 0 [(1, 1)] = false ∧
    (ctxAfter (exec (.ack 16383 true 1 []) (ctxState sentTwo))).ctl.unacked.length = 1 ∧
    (after (exec (.ack 16383 true 0 [(1, 1)]) (ctxState sentTwo))).out.length = 1 ∧
    (ctxAfter (exec (.ackTimer 16383 true) (ctxState sentTwo))).ctl.due = 0 ∧
    (ctxAfter (exec (.retransmitTimeout 16383 true) (ctxState sentTwo))).ctl.timer = 128 ∧
    (ctxAfter (exec (.retransmitTimeout 16383 true) (ctxState { sentTwo with retry := 11 }))).st = .failed ∧
    (ctxAfter (exec (.cnp 16383) (ctxState sentTwo))).rate = 7000000000 ∧
    (ctxAfter (exec (.rateTick 16383) (ctxState sentTwo))).rate = 24000000000 := by decide +kernel

/-- A keepalive packet of queue 1 for context 16383 as the bytes of R269, its PSN as given; in a frame to Marale's port. -/
def kaBytes (psn : Nat) : List Byte := [0x10, 0x30, 0x80, 0] ++ be 16383 2 ++ be 5 2 ++ be psn 4 ++ be 0 12 ++ be 0 8

def udp (bytes : List Byte) : Frame := ⟨0, false, 0, false, .udp 19284 .good false bytes⟩

def kaPkt (psn : BitVec 32) : Packet := pkt 0x30 0x80 16383 5 psn (be 0 8)

/-- Context 16383, whose control queue expects PSN 3, on a port that speaks IPv4. -/
def listening (x : Ctx) : State := { ctxState x with port := { (ctxState x).port with cfg := [(3, 0x0A000001)] } }

def rx3 : Ctx := { sentTwo with ctl := { rx := 3 } }

theorem test_frames : (listening rx3).ipOn false = true ∧ (listening rx3).ipOn true = false ∧ udpOk false .zero = true ∧
    (listening rx3).portCfg 4 19284 = 19284 ∧ packetOf 0 false (kaBytes 3) = some (kaPkt 3) ∧ headerOk (kaPkt 3) = true ∧
    typeOk (kaPkt 3) = true ∧ (kaPkt 3).flags.getLsbD 7 = true ∧ (kaPkt 3).flags.getLsbD 6 = false ∧
    (listening rx3).odFull (kaPkt 3) = false ∧
    after (exec (.packetReceive { udp (kaBytes 3) with tags := 2 }) (listening rx3)) = listening rx3 ∧
    after (exec (.packetReceive { udp (kaBytes 3) with ipv6 := true }) (listening rx3)) = listening rx3 ∧
    after (exec (.packetReceive { udp [] with content := .other }) (listening rx3)) = listening rx3 ∧
    (after (exec (.packetReceive { udp [] with content := .query .echo }) (listening rx3))).out = [.netReply .echo 0] ∧
    (ctxAfter (exec (.packetReceive (udp ((kaBytes 3).take 6))) (listening rx3))).drop = 1 ∧
    after (exec (.packetReceive (udp ((kaBytes 3).take 5))) (listening rx3)) = listening rx3 ∧
    (ctxAfter (exec (.packetReceive (udp (0x20 :: (kaBytes 3).drop 1))) (listening rx3))).drop = 1 := by decide +kernel

theorem test_packets : (ctxAfter (exec (.packetReceive (udp (kaBytes 3))) (listening rx3))).ctl.rx = 4 ∧
    (ctxAfter (exec (.packetReceive (udp (kaBytes 2))) (listening rx3))).drop = 1 ∧
    (ctxAfter (exec (.packetReceive (udp (kaBytes 1027))) (listening rx3))).drop = 1 ∧
    refusals (exec (.packetReceive (udp (kaBytes 0))) (listening {})) = [(5, St.contextInvalid.toNat)] ∧
    refusals (exec (.packetReceive (udp (kaBytes 0))) { listening {} with port := { (listening {}).port with refused := [(16383, 1)] } }) = [] ∧
    after (exec (.packetReceive (udp (kaBytes 0))) ready) = ready := by decide +kernel

/-! Fabric links (R290 to R308): group 1 leads to D1, spare lane 1 is group 9. -/

def linked (l : List (Nat × LaneGroup)) : State := { ready with fabric := { State.reset.fabric with groups := l } }

def ident (pos : Fin 8) (hi lo : Nat) (ok : Bool) : PeerIdent :=
  { position := pos, stepping := 0, firmware := 0, vmajHi := hi, vmin := 0, vmajLo := lo, caps := 0, challenge := 0, certOk := ok, sigOk := ok,
    claimed := true, ownerDigest := 0 }

/-- Training has come to its last phase: these lanes are good on each side. -/
def trainedBy (mine theirs : BitVec 8) (i : PeerIdent) : Training :=
  ⟨7, (List.range 8).map fun k => if mine.getLsbD k then 0 else 0x38D1B718, theirs, i⟩

def grpAfter (n : Nat) (o : Out) : LaneGroup := (after o).group n

theorem test_group_training : (linked []).linksAlive = true ∧
    (grpAfter 1 (exec (.groupTraining 1 (trainedBy 0xFF 0xFF (ident 1 1 1 true))) (linked []))).st = .up8 ∧
    (grpAfter 1 (exec (.groupTraining 1 (trainedBy 0x7F 0xFF (ident 1 1 1 true))) (linked []))).st = .up7 ∧
    (grpAfter 1 (exec (.groupTraining 1 (trainedBy 0x7F 0xBF (ident 1 1 1 true))) (linked []))).st = .failed ∧
    (grpAfter 1 (exec (.groupTraining 1 (trainedBy 0xFF 0xFF (ident 2 1 1 true))) (linked []))).st = .miswired ∧
    (grpAfter 1 (exec (.groupTraining 1 (trainedBy 0xFF 0xFF (ident 1 2 2 true))) (linked []))).st = .version ∧
    (grpAfter 1 (exec (.groupTraining 1 (trainedBy 0xFF 0xFF (ident 1 1 1 false))) (linked []))).st = .authFailed ∧
    (grpAfter 9 (exec (.groupTraining 9 (trainedBy 1 1 (ident 1 1 1 true))) (linked []))).st = .up8 := by decide +kernel

def training1 (n : Nat) : State := linked [(1, { st := .training, attempts := n })]

theorem test_training_timeouts : (grpAfter 1 (exec (.trainingPhaseTimeout 1 false) (training1 0))).st = .dark ∧
    (grpAfter 1 (exec (.trainingPhaseTimeout 1 true) (training1 1))).attempts = 2 ∧
    (grpAfter 1 (exec (.trainingPhaseTimeout 1 true) (training1 2))).st = .failed ∧
    (grpAfter 1 (exec (.groupRestoreTimer 1) (linked [(1, { st := .failed })]))).st = .training ∧
    (linked []).odVal 0x903004 10000 ≠ 0 ∧ (grpAfter 1 (exec (.groupRestoreTimer 1) (linked [(1, { st := .up8 })]))).st = .up8 := by
  decide +kernel

def upLanes : LaneGroup := { st := .up8, lanes := 0xFF }

/-- Group 1 as given, with all eight lanes of the mask. -/
def upGroup (st : GState) : State := linked [(1, { st := st, lanes := 0xFF })]

def retrainReq : OdReq := odReq 0x9030 5 [1]

theorem test_retrain_group : secured.OdAccepts retrainReq 0x903005 ∧
    { secured with fabric := (upGroup .up8).fabric }.OdAccepts retrainReq 0x903005 ∧
    (grpAfter 1 (exec (.retrainGroup retrainReq) secured)).st = .training ∧
    (grpAfter 1 (exec (.retrainGroup retrainReq) { secured with fabric := (upGroup .up8).fabric })).st = .up8 :=
  ⟨accepts_sound _ _ _ (by decide +kernel), accepts_sound _ _ _ (by decide +kernel), by decide +kernel, by decide +kernel⟩

theorem test_lane_loss : (grpAfter 1 (exec (.laneLockLoss 1 7) (upGroup .up8))).lanes = 0x7F ∧
    (grpAfter 1 (exec (.laneLockLoss 1 0) (upGroup .up7))).st = .failed ∧
    (grpAfter 1 (exec (.laneErrorWindow 1 [0x38D1B717]) (upGroup .up8))).st = .up8 ∧
    (grpAfter 1 (exec (.laneErrorWindow 1 [0x38D1B718]) (upGroup .up8))).lanes = 0xFE ∧
    (grpAfter 1 (exec (.clockChannelLoss ⟨1, .channel⟩) (upGroup .up8))).st = .failed ∧
    (grpAfter 1 (exec (.clockChannelLoss ⟨1, .channel⟩) (upGroup .dark))).st = .dark := by decide +kernel

/-- Operation 0 of a trim core, on its way to D1. -/
def inFlight : State := { upGroup .up8 with
  ops := [op 0 2 (BitVec.ofNat 64 (fld 1 57)) 8 none false], fabric := { (upGroup .up8).fabric with ops := [(0, 5, 1)] } }

theorem test_fabric_timeout : inFlight.ops = [op 0 2 (BitVec.ofNat 64 (fld 1 57)) 8 none false] ∧ (0, 5, 1) ∈ inFlight.fabric.ops ∧
    (after (exec (.fabricOpTimeout 0) inFlight)).ops.map (·.done) = [true] ∧
    ((after (exec (.linkState 1 [3]) (upGroup .up8))).peer 1).links = [3] := by decide +kernel

theorem test_training_phases : (linked []).goodLanes ((List.range 8).map fun _ => 0x38D1B717) = 0xFF ∧
    (linked []).goodLanes ((List.range 8).map fun _ => 0x38D1B718) = 0 ∧ (linked []).goodLanes [0x7F800001] = 1 ∧
    (grpAfter 1 (exec (.groupTraining 1 { trainedBy 0xFF 0xFF (ident 1 1 1 true) with phase := 5 }) (linked []))).phase = 5 ∧
    (after (exec (.groupTraining 1 { trainedBy 0xFF 0xFF (ident 1 1 1 true) with phase := 6 }) (linked []))).out.length = 1 ∧
    after (exec (.groupTraining 0 (trainedBy 0xFF 0xFF (ident 1 1 1 true))) (linked [])) = linked [] ∧
    (grpAfter 8 (exec (.groupTraining 8 (trainedBy 1 1 (ident 1 1 1 true))) (linked []))).st = .up8 := by decide +kernel

/-- A peer's reset, an engine's fault, and the peer's words for this group: UP7 with lane 7 out (state 3), FAILED (5). -/
theorem test_clock_losses : (grpAfter 1 (exec (.clockChannelLoss ⟨1, .peerReset⟩) (upGroup .up8))).st = .training ∧
    (after (exec (.clockChannelLoss ⟨1, .engine⟩) (upGroup .up8))).mod.engineBad = [0] ∧ engineOf 1 = 0 ∧
    (grpAfter 1 (exec (.clockChannelLoss ⟨1, .engine⟩) (upGroup .up8))).st = .failed ∧
    (upGroup .up8).groupTo 1 = 1 ∧ (upGroup .up8).reachable 1 = true ∧
    (grpAfter 1 (exec (.linkState 1 [0, BitVec.ofNat 32 (fld 3 28 + fld 0x7F 8)]) (upGroup .up8))).lanes = 0x7F ∧
    (grpAfter 1 (exec (.linkState 1 [0, BitVec.ofNat 32 (fld 5 28)]) (upGroup .up8))).st = .failed := by decide +kernel

/-! Flits of D1 (R293 to R296): SEQ 0 is due. -/

/-- CRC-32 with the sum so far looked at before each byte. -/
def crcGo : List Byte → BitVec 32 → BitVec 32
  | [], c => c
  | b :: l, c => if c = 0 then crcGo l (crcByte 0 b) else crcGo l (crcByte c b)

theorem crcGo_sound (l : List Byte) (c : BitVec 32) : crcGo l c = l.foldl crcByte c := by
  induction l generalizing c with
  | nil => rfl
  | cons b l ih => simp only [crcGo, List.foldl_cons, ih]; split <;> simp_all

/-- The 504 bytes of a flit with credits 1, 2, 3 for partition 0, from the table of R293. -/
def flitOfD1 (vc part seq : Nat) (nak : Bool) : List Byte :=
  let l := be (fld vc 62 + fld part 60 + fld seq 48 + fld nak.toNat 35 + fld 1 24 + fld 2 16 + fld 3 8) 8 ++ List.replicate 492 0
  l ++ natLE (~~~ crcGo l 0xFFFFFFFF).toNat 4

def fieldsOfD1 (vc : Fin 4) (seq : BitVec 12) (nak : Bool) : Flit :=
  { vc := vc, part := 0, seq := seq, ackseq := 0, nak := nak, cr0 := 1, cr1 := 2, cr2 := 3, crp := 0, payload := List.replicate 492 0 }

theorem flitOf_sound (b : List Byte) (f : Flit) (hl : b.length = 504)
    (hc : leNat (b.drop 500) = (~~~ crcGo (b.take 500) 0xFFFFFFFF).toNat)
    (hf : f = { vc := ⟨beNat (b.take 8) / 2 ^ 62 % 4, Nat.mod_lt _ (by decide)⟩, part := ⟨beNat (b.take 8) / 2 ^ 60 % 4, Nat.mod_lt _ (by decide)⟩
                seq := BitVec.ofNat 12 (bits (beNat (b.take 8)) 59 48), ackseq := BitVec.ofNat 12 (bits (beNat (b.take 8)) 47 36)
                nak := bit (beNat (b.take 8)) 35, cr0 := BitVec.ofNat 8 (bits (beNat (b.take 8)) 31 24)
                cr1 := BitVec.ofNat 8 (bits (beNat (b.take 8)) 23 16), cr2 := BitVec.ofNat 8 (bits (beNat (b.take 8)) 15 8)
                crp := ⟨beNat (b.take 8) / 2 ^ 6 % 4, Nat.mod_lt _ (by decide)⟩, payload := (b.drop 8).take 492 }) :
    flitOf b = some f := by
  rw [crcGo_sound] at hc
  simp [flitOf, crc32, hl, hc, hf]

/-- One flit of ours is unacknowledged. -/
def replaying (stuck : Nat) : State :=
  { upGroup .up8 with fabric := { (upGroup .up8).fabric with peers := [(1, { seq := 1, stuck := stuck, replay := [(0, 0, 0, [7])] })] } }

theorem test_flit_bytes : flitOf (flitOfD1 0 0 0 false) = some (fieldsOfD1 0 0 false) ∧
    flitOf (flitOfD1 3 0 0 true) = some (fieldsOfD1 3 0 true) ∧ flitOf (flitOfD1 0 0 1 false) = some (fieldsOfD1 0 1 false) :=
  ⟨flitOf_sound _ _ (by decide +kernel) (by decide +kernel) (by decide +kernel),
    flitOf_sound _ _ (by decide +kernel) (by decide +kernel) (by decide +kernel),
    flitOf_sound _ _ (by decide +kernel) (by decide +kernel) (by decide +kernel)⟩

theorem test_flits : (upGroup .up8).reachable 1 = true ∧ (upGroup .dark).reachable 1 = false ∧
    ((upGroup .up8).peer 1).out = [] ∧ ((upGroup .up8).peer 1).ctlq = [] ∧ ((upGroup .up8).peer 1).stream = [] ∧
    (grpAfter 1 (exec (.flitReceive 1 []) (upGroup .up8))).crcFails = 1 ∧
    after (exec (.flitReceive 1 []) (upGroup .dark)) = upGroup .dark ∧
    (((upGroup .up8).flitIn 1 (fieldsOfD1 3 0 false)).peer 1).rx = 0 ∧
    (((upGroup .up8).flitIn 1 (fieldsOfD1 0 0 false)).peer 1).rx = 1 := by decide +kernel

theorem test_flits_out_of_order : ((upGroup .up8).flitIn 1 (fieldsOfD1 0 1 false)).out.length = 1 ∧
    ((upGroup .up8).flitIn 1 (fieldsOfD1 0 2048 false)).out = [] ∧
    (((replaying 15).flitIn 1 (fieldsOfD1 3 0 true)).peer 1).stuck = 16 ∧ (replaying 15).odVal 0x903002 16 = 16 ∧
    (((replaying 16).flitIn 1 (fieldsOfD1 3 0 true)).group 1).st = .failed := by decide +kernel

def credit1 : Credit := ⟨0, 1, 1500000, 0, 5⟩

theorem test_power_credits : ((after (exec (.powerCredit 1 credit1) (upGroup .up8))).peer 1).credit = some credit1 ∧
    (after (exec (.powerCreditStale 1) { upGroup .up8 with power := { State.reset.power with shiftmW := 9 } })).power.shiftmW = 0 ∧
    (after (exec (.powerRound 0 0) ready)).power.round = 1 ∧ (after (exec (.powerRound 0 0) ready)).power.fresh = true ∧
    (after (exec (.powerRound 0 0) (upGroup .up8))).power.fresh = false ∧
    (after (exec (.powerRound 0 0) otherPart)).power.round = 0 := by decide +kernel

/-! HBM upkeep (R319 to R324): the last granule of stack 11. -/

def patrolling (x : Ecc) : State := { hosted with ecc := { x with patrol := [(11, hosted.stackGranules - 1)] } }

def lastGranule : Nat := hosted.hbmCap / 512 - 1

/-- Bits 0 and 1 of one burst of the last granule, row 9; with a second burst wrong as well where asked. -/
def burst2 (more : Bool) : GranuleError :=
  ⟨lastGranule, 9, ⟨3, [0, 1], false⟩ :: if more then [⟨4, [0, 1], false⟩] else []⟩

theorem test_patrol : ((patrolling {}).stackOf ((patrolling {}).granuleIn false 11 (hosted.stackGranules - 1))).1 = 11 ∧
    (patrolling {}).granuleIn false 11 (hosted.stackGranules - 1) = 512 * lastGranule ∧
    tabGet 0 (after (exec (.patrolRead 11 [] false) (patrolling {}))).ecc.patrol 11 = 0 ∧
    (after (exec (.patrolRead 11 [burst2 false] false) (patrolling {}))).ecc.hits.map (·.2) = [(11, 19, 9)] ∧
    (after (exec (.patrolRead 11 [burst2 false] true) (patrolling {}))).ecc.errors.length = 1 ∧
    (after (exec (.patrolRead 11 [burst2 false] false) (patrolling {}))).ecc.errors = [] ∧
    (after (exec (.patrolRead 11 [burst2 true] false) (patrolling {}))).ecc.bad = [lastGranule] ∧
    (after (exec (.patrolRead 11 [burst2 true] false) (patrolling {}))).out.length = 1 ∧
    (after (exec (.patrolRead 11 [⟨lastGranule, 9, [⟨3, [0], false⟩]⟩] false) (patrolling {}))).ecc.hits = [] ∧
    (after (exec (.patrolRead 11 [⟨lastGranule, 9, [⟨3, [0, 256], false⟩]⟩] false) (patrolling {}))).ecc.bad = [lastGranule] ∧
    (after (exec (.patrolRead 11 [⟨lastGranule, 9, [⟨3, [0, 256], true⟩]⟩] false) (patrolling {}))).ecc.bad = [] := by
  decide +kernel

def hits (n : Nat) (remaps : List (Nat × Nat × Nat × Nat)) (lost : List (Nat × Nat × Nat)) : State :=
  { hosted with ecc := { State.reset.ecc with hits := List.replicate n (0, 11, 31, 5), remaps := remaps, lostRows := lost } }

theorem test_row_remap : (after (exec (.rowRemap 11 31 5) (hits 3 [] []))).ecc.remaps = [] ∧
    (after (exec (.rowRemap 11 31 5) (hits 4 [] []))).ecc.remaps = [(11, 31, 5, 0)] ∧
    (after (exec (.rowRemap 11 31 5) (hits 0 [(11, 31, 4, 0)] [(11, 31, 5)]))).ecc.remaps = [(11, 31, 4, 0), (11, 31, 5, 1)] ∧
    (after (exec (.rowRemap 11 31 5) (hits 4 ((List.range 64).map fun i => (11, 0, i, i)) []))).ecc.alarm = [(11, 1)] := by decide +kernel

/-! Regions (R313, R360). The region selector of a session is 16 at OPEN. -/

/-- An entry with V, these BASE and NPG, and other bits. -/
def entryReq (base npg extra : Nat) : OdReq := odReq 0x4020 2 (natLE (fld 1 63 + fld npg 64 + fld base 96 + extra) 16)

def scrubOf (k : Nat) : State := { secured with sec := { State.reset.sec with scrubs := [k] } }

/-- `secured` with region 255 over the last page of the first 4 MiB. -/
def region255 (r : Region) : State := { secured with regions := [(255, r)] }

def region3 : Region := { v := true, base := 1, npg := 1 }

def scrubReq (k : Nat) : OdReq := odReq 0x4030 3 (natLE k 1)

def outLen (o : Out) : Nat := (after o).out.length

theorem test_region_entry : secured.OdAccepts (entryReq 0 1 0) 0x402002 ∧ (region255 region3).OdAccepts (entryReq 0 1 0) 0x402002 ∧
    (scrubOf 16).OdAccepts (entryReq 0 1 0) 0x402002 ∧
    tabGet {} (after (exec (.regionEntry (entryReq 5 2 0)) secured)).regions 16 = { v := true, base := 5, npg := 2 } ∧
    tabGet {} (after (exec (.regionEntry (entryReq 0 2 0)) (region255 region3))).regions 16 = {} ∧
    tabGet {} (after (exec (.regionEntry (entryReq 0 1 0)) (region255 region3))).regions 16 = { v := true, npg := 1 } ∧
    tabGet {} (after (exec (.regionEntry (entryReq 0 1 (fld 1 59))) secured)).regions 16 = { v := true, npg := 1 } ∧
    tabGet {} (after (exec (.regionEntry (entryReq 5 1 0)) (scrubOf 16))).regions 16 = { v := true, npg := 1 } ∧
    tabGet {} (after (exec (.regionEntry (entryReq 0 (secured.sysBase / 0x200000 + 1) 0)) secured)).regions 16 = { v := true, npg := 1 } :=
  ⟨accepts_sound _ _ _ (by decide +kernel), accepts_sound _ _ _ (by decide +kernel), accepts_sound _ _ _ (by decide +kernel),
    by decide +kernel, by decide +kernel, by decide +kernel, by decide +kernel, by decide +kernel, by decide +kernel⟩

theorem test_region_scrub : secured.OdAccepts (scrubReq 255) 0x403003 ∧ (region255 region3).OdAccepts (scrubReq 255) 0x403003 ∧
    (scrubOf 16).OdAccepts (scrubReq 16) 0x403003 ∧
    (region255 { region3 with baseRo := true }).OdAccepts (scrubReq 255) 0x403003 ∧
    (after (exec (.regionScrub (scrubReq 255)) (region255 region3))).sec.scrubs = [255] ∧
    (tabGet {} (after (exec (.regionScrub (scrubReq 255)) (region255 region3))).regions 255).v = false ∧
    (after (exec (.regionScrub (scrubReq 255)) secured)).sec.scrubs = [] ∧
    (after (exec (.regionScrub (scrubReq 15)) secured)).sec.scrubs = [] ∧
    (after (exec (.regionScrub (scrubReq 255)) (region255 { region3 with baseRo := true }))).sec.scrubs = [] ∧
    (after (exec (.regionScrub (scrubReq 16)) (scrubOf 16))).sec.scrubs = [16] :=
  ⟨accepts_sound _ _ _ (by decide +kernel), accepts_sound _ _ _ (by decide +kernel), accepts_sound _ _ _ (by decide +kernel),
    accepts_sound _ _ _ (by decide +kernel), by decide +kernel, by decide +kernel, by decide +kernel, by decide +kernel, by decide +kernel,
    by decide +kernel⟩

/-- The scrub of region 255: a byte on each side of its ends, a bad granule inside and one outside. -/
def regionScrubbing : State := { region255 { region3 with v := false } with
  sec := { State.reset.sec with scrubs := [255] }, ecc := { State.reset.ecc with bad := [4095, 4096, 8191, 8192] }
  hbm := [(0x1FFFFF, 1), (0x200000, 2), (0x3FFFFF, 3), (0x400000, 4)] }

theorem test_region_scrub_done : regionScrubbing.sec.scrubs = [255] ∧ (tabGet {} regionScrubbing.regions 255).npg ≠ 0 ∧
    (after (exec (.regionScrubDone 255) regionScrubbing)).hbm = [(0x1FFFFF, 1), (0x400000, 4)] ∧
    (after (exec (.regionScrubDone 255) regionScrubbing)).ecc.bad = [4095, 8192] ∧
    (tabGet {} (after (exec (.regionScrubDone 255) regionScrubbing)).regions 255).v = true ∧
    (after (exec (.regionScrubDone 255) regionScrubbing)).sec.scrubs = [] := by decide +kernel

/-! Replicas (R327 to R329): members D0.P0, D1.P0 and D2.P0, seen from D0, the coordinator, or from D1. -/

def replicas (pos : Fin 8) (r : Replica) : State :=
  ((linked [(1, upLanes), (2, upLanes), (3, upLanes)]).odSet 0x705001 0x111) |> fun s =>
    { s with mod := { s.mod with pos := pos }, replica := r }

def alone : State := ready.odSet 0x705001 1

/-- Members D0.P0 and D1.P0, seen from D1: its base image is region 16, 2 MiB of zeros; the golden source is D0's HBM. -/
def imageAt : State :=
  let s := (((upGroup .up8).odSet 0x705001 0x11).odSet 0x503101 16).odSet 0x705003 0x4000000
  { s with mod := { s.mod with pos := 1 }, regions := [(16, { v := true, npg := 1 })], replica := { s.replica with refetch := [(4, 0)] } }

theorem test_replica_check : ready.ownMembers = [] ∧ alone.ownMembers = [0] ∧ (replicas 0 {}).roundLost = false ∧
    (after (exec .replicaCheck alone)).replica.round = true ∧
    { replicas 0 { round := true } with sec := { State.reset.sec with resetting := [0] } }.roundLost = true ∧
    (after (exec .replicaCheck { replicas 0 { round := true } with sec := { State.reset.sec with resetting := [0] } })).replica.round = false ∧
    imageAt.reachable 0 = true ∧ imageAt.roundLost = false ∧ imageAt.ownMembers = [4] ∧ imageAt.coordinator = some 0 ∧ imageAt.shardCount 0 = 1 ∧
    (after (exec .replicaCheck { imageAt with od := imageAt.od.filter (·.1 = 0x705001) })).replica.round = true := by decide +kernel

/-- Digests of shard 0 that have come in the round: member, digest, ECC record. -/
def known (l : List (Nat × Nat × Nat)) : State :=
  replicas 0 { digests := l.map fun e => (e.1, 0, BitVec.ofNat 256 e.2.1, e.2.2), fresh := l.map fun e => (e.1, 0) }

theorem test_digest : (replicas 0 {}).coordinator = some 0 ∧ (replicas 0 {}).members = [0, 4, 8] ∧ memberDev 8 = 2 ∧
    (known [(0, 7, 0), (4, 7, 0)]).roundLost = false ∧ (known [(0, 7, 0), (4, 7, 0)]).digestAt 4 0 = some (7, 0) ∧
    (after (exec (.digest .round 8 0 ⟨7, 0⟩) (known [(0, 7, 0), (4, 7, 0)]))).replica.quarantined = [] ∧
    (after (exec (.digest .round 8 0 ⟨6, 0⟩) (known [(0, 7, 0), (4, 7, 0)]))).replica.quarantined = [8] ∧
    (after (exec (.digest .round 8 0 ⟨7, 0⟩) (known [(0, 7, 0), (4, 6, 0)]))).replica.quarantined = [4] ∧
    (after (exec (.digest .round 8 0 ⟨5, 0⟩) (known [(0, 7, 0), (4, 6, 0)]))).replica.quarantined = [8] ∧
    (after (exec (.digest .round 8 0 ⟨5, 3⟩) (known [(0, 7, 9), (4, 6, 0)]))).replica.quarantined = [0] ∧
    (after (exec (.digest .round 8 0 ⟨6, 0⟩) (known [(0, 7, 0)]))).replica.quarantined = [] ∧
    { known [(0, 7, 0), (4, 7, 0)] with mode := { State.reset.mode with st := .scrubbing } }.roundLost = true := by decide +kernel

/-- Member 8 of D2 has to refetch shard 0; members 0 and 4 hold other digests of it. -/
def refetching : State :=
  let s := known [(0, 7, 0), (4, 6, 0)]
  { s with replica := { s.replica with refetch := [(8, 0)], quarantined := [8] } }

theorem test_digest_after : (after (exec (.digest .refetched 8 0 ⟨7, 0⟩) refetching)).replica.quarantined = [4] ∧
    (after (exec (.digest .refetched 8 0 ⟨7, 0⟩) refetching)).replica.refetch = [(4, 0)] ∧
    (after (exec (.digest .restore 8 0 ⟨0, 0⟩) refetching)).replica.quarantined = [] ∧
    (after (exec (.digest .restore 8 0 ⟨0, 0⟩) refetching)).replica.refetch = [] ∧ refetching.coordinator = some 0 ∧
    refetching.members = [0, 4, 8] := by decide +kernel

def outDigest (m slot : Nat) (d : BitVec 256) : OutDigest := ⟨9, m, slot, 2, 0, d⟩

theorem test_output_digests :
    (after (exec (.digest (.output 9 1 2) 8 0 ⟨7, 0⟩) (replicas 0 {}))).replica.pairs = [outDigest 8 1 7] ∧
    (after (exec (.digest (.output 9 1 2) 8 0 ⟨7, 0⟩) (replicas 0 { pairs := [outDigest 4 3 7] }))).replica.pairs = [] ∧
    (after (exec (.digest (.output 9 1 2) 8 0 ⟨7, 0⟩) (replicas 0 { pairs := [outDigest 4 3 7] }))).out = [] ∧
    ((after (exec (.digest (.output 9 1 2) 8 0 ⟨7, 0⟩) (replicas 0 { pairs := [outDigest 4 3 6] }))).out.length != 0) = true ∧
    (replicas 0 {}).reachable 1 = true := by decide +kernel

theorem test_digest_orders : (replicas 1 {}).coordinator = some 0 ∧ memberDev 4 = 1 ∧ memberDev 0 = 0 ∧ (replicas 1 {}).members = [0, 4, 8] ∧
    (after (exec (.digest .quarantine 4 9 ⟨0, 0⟩) (replicas 1 {}))).replica.refetch = [(4, 9)] ∧
    (after (exec (.digest .quarantine 4 9 ⟨0, 0⟩) (replicas 1 {}))).replica.quarantined = [4] ∧
    after (exec (.digest .quarantine 4 9 ⟨0, 0⟩) (replicas 1 { refetch := [(4, 9)] })) = replicas 1 { refetch := [(4, 9)] } ∧
    (after (exec (.digest .restore 4 9 ⟨0, 0⟩) (replicas 1 { refetch := [(4, 9)], quarantined := [4] }))).replica.quarantined = [] ∧
    (after (exec (.digest .restore 4 9 ⟨0, 0⟩) (replicas 1 { refetch := [(4, 9), (4, 8)], quarantined := [4] }))).replica.quarantined = [4] := by
  decide +kernel

/-- As `imageAt`, with the region's BASE_RO set; with a golden source in SPACE 15. -/
def imageRo : State := { imageAt with regions := [(16, { v := true, npg := 1, baseRo := true })] }

def imageFar : State := imageAt.odSet 0x705003 (fld 15 60)

theorem test_refetch : imageAt.shardPieces 0 0 = [(0, 0x200000)] ∧ imageAt.regionCheck (Init.firmware 0) 0 0x200000 true = none ∧
    imageAt.hbmBarrier 0 0x200000 = none ∧ 0x200000 ≤ imageAt.sysBase ∧
    imageRo.regionCheck (Init.firmware 0) 0 0x200000 true ≠ none ∧ (4, 0) ∈ imageRo.replica.refetch ∧
    gaSpace (BitVec.ofNat 64 (imageAt.odVal 0x705003 0)) ≠ 15 ∧ gaDev (BitVec.ofNat 64 (imageAt.odVal 0x705003 0)) = 0 ∧
    gaSpace (BitVec.ofNat 64 (imageFar.odVal 0x705003 0)) = 15 ∧ (List.replicate 0x200000 (0 : Byte)).length = 0x200000 ∧
    (after (exec (.replicaRefetchDone 4 0 ⟨1, false, []⟩) imageAt)).replica.events = 1 ∧
    (after (exec (.replicaRefetchDone 4 0 ⟨1, false, []⟩) imageAt)).replica.refetch = [(4, 0)] ∧
    (after (exec (.replicaRefetchDone 4 0 ⟨0, false, []⟩) imageFar)).replica.events = 1 :=
  ⟨by decide +kernel, by decide +kernel, by decide +kernel, by decide +kernel, by decide +kernel, by decide +kernel, by decide +kernel,
    by decide +kernel, by decide +kernel, List.length_replicate .., by decide +kernel, by decide +kernel, by decide +kernel⟩

/-! Ownership and quotes (R345 to R355). -/

/-- The base point of P-256, uncompressed, as the 65 bytes of a value. -/
def basePoint : List Byte := 4 :: bigBytes (
  0x6b17d1f2e12c4247f8bce6e563a440f277037d812deb33a0f4a13945d898c296 * 2 ^ 256 +
  0x4fe342e2fe1a7f9b8ee7eb4a7c0f9e162bce33576b315ececbb6406837bf51f5) 64

def claimReq (v : List Byte) : OdReq := odReq 0x1020 2 v

def owned : State := { secured with sec := claimed }

theorem test_owner_claim : secured.OdAccepts (claimReq basePoint) 0x102002 ∧ pointOk (natLE (leNat basePoint) 65) = true ∧
    secured.OdAccepts (claimReq (natLE 4 65)) 0x102002 ∧ pointOk (natLE (leNat (natLE 4 65)) 65) = false ∧
    (after (exec (.ownerKeyClaim (claimReq (natLE 4 65))) secured)).sec.claimed = false ∧
    (owned.ctx 0).st = .open_ ∧ owned.fw.pause = false ∧
    outLen (exec (.ownerKeyClaim (claimReq basePoint)) owned) = 1 :=
  ⟨accepts_sound _ _ _ (by decide +kernel), by decide +kernel, accepts_sound _ _ _ (by decide +kernel), by decide +kernel,
    by decide +kernel, by decide +kernel, by decide +kernel, by decide +kernel⟩

def releaseReq (v : Nat) : OdReq := odReq 0x4001 1 (natLE v 4)

theorem test_owner_release : owned.OdAccepts (releaseReq 0x52454C53) 0x400101 ∧ owned.OdAccepts (releaseReq 0) 0x400101 ∧
    (after (exec (.ownerRelease (releaseReq 0)) owned)).sec.claimed = true ∧
    (after (exec (.ownerRelease (releaseReq 0x52454C53)) { owned with hbm := [(0, 1)] })).sec.claimed = false ∧
    (after (exec (.ownerRelease (releaseReq 0x52454C53)) { owned with hbm := [(0, 1)] })).hbm = [] ∧
    (after (exec (.ownerRelease (releaseReq 0x52454C53)) owned)).cause = .ownerRelease :=
  ⟨accepts_sound _ _ _ (by decide +kernel), accepts_sound _ _ _ (by decide +kernel), by decide +kernel, by decide +kernel,
    by decide +kernel, by decide +kernel⟩

theorem test_saggar : (after (exec .nonceRefresh ready)).free = 1 ∧
    (after (exec .secureOpenLockoutEnd { ready with sec := { claimed with lockout := true, refusals := [3] } })).sec = claimed ∧
    (after (exec (.scanGrantRequest 11 15 63) ready)).sec.grant = some (11, 15, 63) := by decide +kernel

def versionReq : OdReq := odReq 0x4010 2 [1]

def newer (u : UState) : State := { secured with fw := { State.reset.fw with ust := u, running := { sgf := { svn := 3 } }, fused := [1, 2, 0] } }

theorem test_security_versions : (newer .idle).OdAccepts versionReq 0x401002 ∧ (newer .failed).OdAccepts versionReq 0x401002 ∧
    (newer .pending).OdAccepts versionReq 0x401002 ∧
    (after (exec (.securityVersionCommit versionReq) (newer .failed))).fw.fused = [3, 2, 0] ∧
    (after (exec (.securityVersionCommit versionReq) (newer .pending))).fw.fused = [1, 2, 0] :=
  ⟨accepts_sound _ _ _ (by decide +kernel), accepts_sound _ _ _ (by decide +kernel), accepts_sound _ _ _ (by decide +kernel),
    by decide +kernel, by decide +kernel⟩

def quoteReq (scope : Nat) : OdReq := odReq 0x1030 1 (natLE (fld scope 256 + 5) 33)

/-- A session of partition 3 in four-partition mode, secure or not. -/
def inFour (secure : Bool) (reset : List Nat) : State := { secured with
  mode := { State.reset.mode with cur := { four := true } }, sec := { State.reset.sec with resetting := reset }
  port := { secured.port with ctxs := [(0, { st := .open_, part := 3, secure := secure })] } }

theorem test_quote_request : secured.OdAccepts (quoteReq 0) 0x103001 ∧ secured.OdAccepts (quoteReq 0x10) 0x103001 ∧
    (inFour false []).OdAccepts (quoteReq 0x12) 0x103001 ∧ (inFour true []).OdAccepts (quoteReq 0x10) 0x103001 ∧
    (inFour false [3]).OdAccepts (quoteReq 0x13) 0x103001 ∧
    ((after (exec (.quoteRequest (quoteReq 0)) secured)).ctx 0).quote = .busy ∧
    ((after (exec (.quoteRequest (quoteReq 0x10)) secured)).ctx 0).quote = .idle ∧
    ((after (exec (.quoteRequest (quoteReq 0x12)) (inFour false []))).ctx 0).quote = .idle ∧
    ((after (exec (.quoteRequest (quoteReq 0x10)) (inFour true []))).ctx 0).quote = .busy ∧
    ((after (exec (.quoteRequest (quoteReq 0x13)) (inFour false [3]))).ctx 0).quoteReset = true :=
  ⟨accepts_sound _ _ _ (by decide +kernel), accepts_sound _ _ _ (by decide +kernel), accepts_sound _ _ _ (by decide +kernel),
    accepts_sound _ _ _ (by decide +kernel), accepts_sound _ _ _ (by decide +kernel), by decide +kernel, by decide +kernel,
    by decide +kernel, by decide +kernel, by decide +kernel⟩

def quoting (r : Bool) : State := ctxState { st := .open_, quote := .busy, quoteReset := r, quoteReq := 5 }

theorem test_quote_capture : (ctxState {}).fw.fused.length = 3 ∧ ((quoting true).ctx 16383).quote = .busy ∧
    (ctxAfter (exec (.quoteCapture 16383) (quoting true))).quote = .done ∧
    ((quoting true).quoteBody 0).length = 208 ∧ ((quoting false).ctx 16383).quoteReset = false ∧
    (ctxAfter (exec (.quoteCapture 16383) (ctxState {}))).quote = .idle := by decide +kernel

/-! Power (R367 to R382). -/

/-- Island 3 as given, in four-partition mode or not. -/
def island3 (four : Bool) (d : Island) : State := { ready with
  mode := { State.reset.mode with cur := { four := four } }, power := { State.reset.power with islands := tabSet {} [] 3 d } }

def isl3 (o : Out) : Island := (after o).island 3

theorem test_steps : ready.serving = true ∧ ready.power.sleep = .active ∧ (asleep .parked).power.sleep ≠ .active ∧
    (after (exec (.estimationPeriod [] 0) (asleep .parked))).power.hist = [] ∧
    capStep 0 50 98 98 100 100 = 1 ∧ capStep 5 49 98 98 100 100 = 5 ∧ capStep 5 50 99 98 100 100 = 5 ∧ capStep 5 50 98 101 100 100 = 4 ∧
    (isl3 (exec (.slewDone 3) (island3 true { step := 9, slew := some 9 }))).clk = 9 ∧
    (isl3 (exec (.slewDone 3) (island3 true { step := 9, slew := some 9 }))).mV = 690 ∧
    (isl3 (exec (.slewDone 3) (island3 true { step := 9, slew := some 9, droop := true, deferred := some 4 }))).deferred = some 4 ∧
    (isl3 (exec (.slewDone 3) (island3 true {}))) = {} := by decide +kernel

theorem test_responses : (isl3 (exec (.droopDetect 3) (island3 true { clk := 15 }))).clockNow = 7 ∧
    (isl3 (exec (.droopDetect 3) (island3 true { clk := 15 }))).droop = true ∧
    (isl3 (exec (.droopClear 3) (island3 true { droop := true, clk := 15 }))).clockNow = 15 ∧
    (isl3 (exec (.supplyWarning 3) (island3 true { clk := 15 }))).clockNow = 0 ∧
    (after (exec (.supplyWarning 3) (island3 true {}))).issueHeld 15 = true ∧ islandOf 15 = 3 ∧
    (after (exec (.supplyRecovery 3) (island3 true { warn := true }))).power.warnings = 1 ∧
    (after (exec (.supplyRecovery 3) (island3 true {}))).power.warnings = 0 ∧
    (isl3 (exec (.deferredStep 3) (island3 true { warn := true, deferred := some 4 }))).deferred = some 4 ∧
    (isl3 (exec (.deferredStep 3) (island3 true { step := 9, clk := 9, deferred := some 4 }))).clk = 4 ∧
    (isl3 (exec (.deferredStep 0) (island3 false { step := 9, clk := 9, deferred := some 10 }))).slew = some 10 ∧
    (isl3 (exec (.deferredStep 0) (island3 true { step := 9, clk := 9, deferred := some 9 }))).deferred = some 9 ∧
    (isl3 (exec (.deferredStep 3) (island3 true { step := 9, clk := 1, deferred := some 9 }))).clk = 9 := by decide +kernel

def ceilingAfter (c : Nat) (t : Int) : Nat :=
  (after (exec (.thermalTick t) { ready with power := { State.reset.power with ceiling := c } })).power.ceiling

theorem test_thermal_tick : ceilingAfter 15 98 = 14 ∧ ceilingAfter 0 98 = 0 ∧ ceilingAfter 7 97 = 7 ∧ ceilingAfter 7 92 = 7 ∧
    ceilingAfter 7 91 = 8 ∧ ceilingAfter 15 (-20) = 15 := by decide +kernel

/-- Work 16383, of partition 3 in four-partition mode, RUNNING; a byte in every shelf's SRAM that is named. -/
def runningLate (four : Bool) (w : Work) : State := { hosted with
  mode := { State.reset.mode with cur := { four := four } }, work := { State.reset.work with slots := [(16383, w)] }
  shelves := [(0, { sram := [(5, 1)] }), (15, { sram := [(5, 1)] })] }

theorem test_junction_limit : (runningLate false { st := .running }).test.st = .idle ∧
    ((after (exec .junctionLimit (runningLate false { st := .running }))).wk 16383).status = St.thermalTrip ∧
    ((after (exec .junctionLimit (runningLate false { st := .running }))).shelf 15).sram = [] ∧
    (after (exec .junctionLimit (runningLate false { st := .running }))).power.trip = true ∧
    (after (exec .junctionLimit State.reset)).power.trip = false ∧
    (after (exec .thermalRestart { runningLate false { st := .ending } with power := { State.reset.power with trip := true } })).power.trip = false ∧
    ((after (exec .thermalRestart { runningLate false { st := .ending } with power := { State.reset.power with trip := true } })).wk 16383).gen = 2 ∧
    (after (exec .thermalRestart ready)).power = ready.power := by decide +kernel

theorem test_supply_reset : (runningLate true { st := .running }).slotPart 16383 = 3 ∧
    ((after (exec (.supplyReset 3) (runningLate true { st := .running }))).wk 16383).status = St.powerFault ∧
    ((after (exec (.supplyReset 3) (runningLate true { st := .running }))).shelf 15).sram = [] ∧
    ((after (exec (.supplyReset 3) (runningLate true { st := .running }))).shelf 0).sram = [(5, 1)] ∧
    ((after (exec (.supplyReset 3) (runningLate true { st := .held }))).wk 16383).st = .held ∧
    ((after (exec (.supplyReset 3) (runningLate false { st := .running }))).shelf 0).sram = [] ∧
    (after (exec (.supplyReset 3) (island3 true { down := true }))).power.resets = 0 ∧
    (after (exec (.supplyReset 3) (island3 true {}))).power.resets = 1 ∧
    (isl3 (exec (.arithmeticDomainRestore 3) (island3 true { down := true, downAt := 0, hist := [1] }))) = { hist := [1] } ∧
    (after (exec (.arithmeticDomainRestore 3) { island3 true { down := true, downAt := 1000 } with tsc := 5000 })).test.downtime = 128 ∧
    (after (exec (.arithmeticDomainRestore 3) (island3 true {}))).test.downtime = 0 := by decide +kernel

/-- Partition 0: work 0 is part 1 of a group that D1 leads; work 1, a directory command, waits for a line; work 2 is HELD. -/
def faulting : State := { runningLate true {} with
  work := { State.reset.work with slots := [(0, { st := .running, desc := desc 1 (fld 1 (64 + 61) + fld 1 (64 + 59)) }),
    (1, { st := .running, desc := desc 3 0 }), (2, { st := .held, handed := true, desc := desc 1 0 })] }
  dir := { State.reset.dir with lineWaits := [.cmd ⟨some 1, 0, 0⟩] } }

theorem test_supply_reset_works : (faulting.waitingCmds 0).map (·.slot) = [some 1] ∧ faulting.slotPart 0 = 0 ∧
    ghLeader (faulting.wk 0).group = 1 ∧ faulting.mod.pos = 0 ∧ faulting.serving = true ∧ faulting.test.st = .idle ∧
    ((after (exec (.supplyReset 0) faulting)).wk 0).status = St.groupPartFailed ∧
    ((after (exec (.supplyReset 0) faulting)).wk 0).pstat = St.powerFault ∧
    ((after (exec (.supplyReset 0) faulting)).wk 1).status = St.aborted ∧
    ((after (exec (.supplyReset 0) faulting)).wk 2).gathering = true := by decide +kernel

/-! In-service tests (R403): the spare of S0 is in retention, C0 holds stage factors. -/

def testing (i : Nat) (t : SelfTest) : State :=
  let s := (spared.modCore 0 fun k => { k with stepf := 7 })
  { s with test := { t with next := i } }

theorem test_in_service : (testing 0 {}).nextTest = some 0 ∧ (testing 0 {}).spareOf 0 = some 8 ∧ ready.nextTest = none ∧
    (testing 0 {}).odVal 0x703001 1 ≠ 0 ∧ (testing 0 {}).testBoundary 0 0 = true ∧ (testing 0 {}).phys 0 0 = some 0 ∧
    ((after (exec (.inServiceTest [.pass] true 0) (testing 0 {}))).core 8).stepf = 7 ∧
    ((after (exec (.inServiceTest [.pass] true 0) (testing 0 {}))).core 0).use = .fenced ∧
    ((after (exec (.inServiceTest [.logic] true 0) (testing 0 {}))).core 0).use = .retired ∧
    (after (exec (.inServiceTest [.logic] true 0) (testing 0 {}))).test.st = .idle ∧
    (testing 8 {}).nextTest = some 8 ∧ (after (exec (.inServiceTest [] true 0) (testing 8 {}))).test.next = 9 ∧
    (after (exec (.inServiceTest [] true 0) (testing 0 { st := .testing }))).test.st = .testing ∧
    (after (exec (.inServiceTest [] true 0) ready)).test.st = .idle := by decide +kernel

def handedOver : State := (ready.modCore 0 fun k => { k with use := .fenced }) |> fun s => { s.modShelf 0 fun h => { h with map := [8, 1, 2, 3, 4, 5, 6, 7] } with
  test := { State.reset.test with st := .returning } }

theorem test_handback : handedOver.phys 0 0 = some 8 ∧ handedOver.testBoundary 0 0 = true ∧ (handedOver.core 8).scale = {} ∧
    ((after (exec (.inServiceHandback 0) handedOver)).core 8).use = .retention ∧
    (after (exec (.inServiceHandback 0) handedOver)).test.st = .idle ∧
    (withTile [runWord]).testBoundary 0 0 = false ∧
    (after (exec (.inServiceTest [] true 0) ((testing 0 {}).modCore 0 fun k => { k with tile := { k.tile with queue := [runWord] } }))).test.st = .handover ∧
    (after (exec (.inServiceHandback 0) ready)).test.st = .idle := by decide +kernel

/-! Firmware faults and shelf resets (R402, R426). -/

/-- Work 5 RUNNING on shelf 15, and an uncorrectable granule. -/
def onShelf (g : Nat) : State := { secured with
  work := { State.reset.work with slots := [(5, { st := .running, handed := true, shelf := 15, desc := desc 1 0 })] }
  shelves := [(15, { sram := [(5, 1)] })], ecc := { State.reset.ecc with bad := [g] } }

def windowGranule : Nat := ready.sysBase / 512

theorem test_firmware_faults : (onShelf windowGranule).worksOn 15 = [5] ∧ ((onShelf windowGranule).wk 5).group = 0 ∧
    ((onShelf windowGranule).wk 5).kind = 1 ∧
    ((after (exec (.trimFetchFault ⟨15, 3⟩ 0 0) (onShelf windowGranule))).wk 5).status = St.memoryUncorrectable ∧
    (after (exec (.trimFetchFault ⟨15, 3⟩ 0 0) (onShelf windowGranule))).ecc.bad = [] ∧
    (after (exec (.trimFetchFault ⟨15, 3⟩ 0 0) (onShelf 0))).ecc.bad = [0] ∧
    (after (exec (.managementDataFault 1 0xFFFFFF 2) (onShelf (windowGranule + (0x12000000 - 1) / 512)))).ecc.bad = [] ∧
    (after (exec (.managementDataFault 1 0xFFFFFF 2) (onShelf (windowGranule + (0x12000000 - 1) / 512)))).test.downtime = 256 ∧
    (after (exec (.managementDataFault 0 0 0) (onShelf 0))).ecc.bad = [0] := by decide +kernel

theorem test_management_restart : ((after (exec (.trimFetchFault ⟨16, 3⟩ 0 0) (onShelf windowGranule))).wk 5).st = .running ∧
    (after (exec (.trimFetchFault ⟨16, 3⟩ 0 0) (onShelf windowGranule))).ecc.bad = [] ∧
    ((after (exec (.trimFetchFault ⟨16, 3⟩ 0 0) (onShelf windowGranule))).shelf 15).sram = [(5, 1)] ∧
    (after (exec (.trimFetchFault ⟨16, 3⟩ 0 4) (onShelf windowGranule))).test.downtime = 512 := by decide +kernel

def shelfReq (sh : Nat) : OdReq := odReq 0x2090 2 (natLE sh 1)

/-- An expert session of partition 3. -/
def inFourExpert : State := (inFour true []).modCtx 0 fun x => { x with expert := true }

theorem test_shelf_reset : secured.OdAccepts (shelfReq 15) 0x209002 ∧ inFourExpert.OdAccepts (shelfReq 11) 0x209002 ∧
    ((after (exec (.shelfReset none 15 St.aborted) (onShelf 0))).wk 5).status = St.aborted ∧
    ((after (exec (.shelfReset none 15 St.aborted) (onShelf 0))).shelf 15).sram = [] ∧
    ((after (exec (.shelfReset (some (shelfReq 15)) 0 0) (onShelf 0))).shelf 15).sram = [] ∧
    outLen (exec (.shelfReset (some (shelfReq 11)) 0 0) inFourExpert) = 1 :=
  ⟨accepts_sound _ _ _ (by decide +kernel), accepts_sound _ _ _ (by decide +kernel), by decide +kernel, by decide +kernel,
    by decide +kernel, by decide +kernel⟩

/-! Dictionary writes (R409 to R420). -/

def wr (i : BitVec 16) (sub : BitVec 8) (v n : Nat) : OdReq := odReq i sub (natLE v n)

def takes (s : State) (q : OdReq) : Bool := accepts s q (odKeyOf q) && !odOwn.contains (odKeyOf q)

/-- Value of an entry after a write to it. -/
def odAfter (s : State) (q : OdReq) : Nat := (after (execOdWrite q s)).odVal (odKeyOf q) 0

def paused : State := { secured with fw := { State.reset.fw with pause := true } }

def lockedBase : State := { secured with regions := [(16, { v := true, baseRo := true, npg := 1 })] }

/-- A curve at its defaults, step 0 at `v0` mV. -/
def curve (v0 : Nat) : Nat := leNat ((List.range 16).flatMap fun i => natLE (if i = 0 then v0 else 600 + 10 * i) 2)

/-- A queued tile instruction on S15.C7, and an expert secure session. -/
def queued15 : State := { secured with cores := tabSet {} [] (9 * 15 + 7) { tile := { queue := [runWord] } } }

theorem test_od_accepted : takes secured (wr 0xA010 6 4094 2) = true ∧ takes secured (wr 0x2010 2 1 1) = true ∧
    takes (modeState changing) (wr 0x2010 2 1 1) = true ∧ takes secured (wr 0x2011 2 6 1) = true ∧ takes secured (wr 0x3010 2 2 1) = true ∧
    takes secured (wr 0x2060 16 0 2) = true ∧ takes queued15 (wr 0x2060 16 0 2) = true ∧ takes secured (wr 0x3030 1 600 4) = true ∧
    takes secured (wr 0x3031 4 340 4) = true ∧ takes secured (wr 0x3030 2 1499 4) = true ∧ takes secured (wr 0x3020 1 32 1) = true ∧
    takes secured (wr 0x3020 1 5 1) = true ∧ takes secured (wr 0x3060 1 (curve 600) 32) = true ∧ takes lockedBase (wr 0x5030 1 0 8) = true ∧
    takes secured (wr 0x5030 1 33 8) = true ∧ takes secured (wr 0x5031 16 17 10) = true ∧ takes secured (wr 0x7011 1 127 1) = true := by
  decide +kernel

theorem test_od_write : odAfter secured (wr 0xA010 6 4094 2) = 4094 ∧
    tabGet 0 (after (exec (.odWrite (wr 0xA010 6 4094 2)) secured)).odStore 0xA01006 = 4095 ∧
    (after (exec (.odWrite (wr 0x2010 2 1 1)) secured)).mode.staged.four = true ∧
    (after (exec (.odWrite (wr 0x2010 2 0 1)) (modeState changing))).mode.staged.four = true ∧
    (after (exec (.odWrite (wr 0x2060 16 0 2)) secured)).shelf 15 = { owner := 0 } ∧
    (after (exec (.odWrite (wr 0x2060 16 0 2)) queued15)).shelf 15 = {} ∧
    odAfter secured (wr 0x3030 2 1499 4) = 0 ∧ odAfter secured (wr 0x3031 4 339 4) = 339 ∧ odAfter secured (wr 0x3031 4 341 4) = 0 ∧
    odAfter secured (wr 0x3020 1 5 1) = 0 ∧ odAfter secured (wr 0x3060 1 (curve 600) 32) = curve 600 ∧
    odAfter secured (wr 0x3060 1 (curve 599) 32) = 0 ∧ odAfter lockedBase (wr 0x5030 1 32 8) = 0 ∧ odAfter secured (wr 0x5030 1 33 8) = 0 ∧
    odAfter secured (wr 0x5030 1 32 8) = 32 ∧
    (after (exec (.odWrite (wr 0x7020 1 4351 2)) secured)).out.length = 1 ∧
    (after (exec (.odWrite (wr 0xA010 6 1 2)) paused)).fw.heldReqs = [(wr 0xA010 6 1 2, true)] ∧
    odAfter secured (wr 0xA010 6 4095 2) = 0 := by decide +kernel

theorem test_od_retire : secured.phys 15 7 = some (9 * 15 + 7) ∧
    ((after (exec (.odWrite (wr 0x7011 1 127 1)) secured)).core (9 * 15 + 7)).use = .retired ∧
    (after (exec (.odWrite (wr 0x7011 1 127 1)) secured)).free = 1 := by decide +kernel

/-! Sessions and the device reset (R275, R416, R427). -/

def levelReq (v : Nat) : OdReq := odReq 0x1040 1 [BitVec.ofNat 8 v]

/-- An open session of the secure world or not; another, expert, beside it or not; OD 4050.01. -/
def session (secure other allow : Bool) : State :=
  let l : List (Nat × Ctx) := (0, { st := .open_, secure := secure }) :: if other then [(4095, { st := .open_, expert := true, secure := secure })] else []
  ({ hosted with port := { hosted.port with ctxs := l } }).odSet 0x405001 allow.toNat

theorem test_session_level : (session true false false).OdAccepts (levelReq 1) 0x104001 ∧ (session false true true).OdAccepts (levelReq 1) 0x104001 ∧
    secured.OdAccepts (levelReq 0) 0x104001 ∧
    ((after (exec (.sessionLevel (levelReq 1)) (session true false false))).ctx 0).expert = true ∧
    ((after (exec (.sessionLevel (levelReq 1)) (session false false false))).ctx 0).expert = false ∧
    ((after (exec (.sessionLevel (levelReq 1)) (session false false true))).ctx 0).expert = true ∧
    ((after (exec (.sessionLevel (levelReq 1)) (session false true true))).ctx 0).expert = false ∧
    ((after (exec (.sessionLevel (levelReq 0)) secured)).ctx 0).expert = false ∧
    (ctxAfter (exec (.expertSessionTimeout 16383) (ctxState { st := .open_, expert := true }))).expert = false :=
  ⟨accepts_sound _ _ _ (by decide +kernel), accepts_sound _ _ _ (by decide +kernel), accepts_sound _ _ _ (by decide +kernel),
    by decide +kernel, by decide +kernel, by decide +kernel, by decide +kernel, by decide +kernel, by decide +kernel⟩

def resetReq (v : Nat) : OdReq := odReq 0x2090 1 (natLE v 4)

theorem test_device_reset : secured.OdAccepts (resetReq 0x52535444) 0x209001 ∧ secured.OdAccepts (resetReq 0) 0x209001 ∧
    (after (exec (.deviceReset (resetReq 0x52535444)) { secured with hbm := [(5, 1)] })).boot = .starting ∧
    (after (exec (.deviceReset (resetReq 0x52535444)) { secured with hbm := [(5, 1)] })).hbm = [(5, 1)] ∧
    (after (exec (.deviceReset (resetReq 0x52535444)) secured)).port.ctxs = [] ∧
    (after (exec (.deviceReset (resetReq 0)) secured)).boot = .ready :=
  ⟨accepts_sound _ _ _ (by decide +kernel), accepts_sound _ _ _ (by decide +kernel), by decide +kernel, by decide +kernel,
    by decide +kernel, by decide +kernel⟩

/-! Firmware updates (R348 to R350, R423 to R425). -/

def updateReq (v : Nat) : OdReq := odReq 0x4040 2 (natLE v 2)

/-- Firmware as given, the byte of KIND 3 at HBM offset 6, where OD 4040.01 points. -/
def updating (f : Firmware) : State := { secured with fw := f, hbm := [(6, 3)] }

def fwOf (u : UState) (i : Option Image) : Firmware := { State.reset.fw with ust := u, pend := i }

def pendingOf (k : Nat) : State := updating (fwOf .pending (some { kind := k }))

theorem test_update_commands : (updating (fwOf .failed none)).OdAccepts (updateReq 0x103) 0x404002 ∧
    (updating (fwOf .idle none)).OdAccepts (updateReq 0x104) 0x404002 ∧ (pendingOf 1).OdAccepts (updateReq 0x200) 0x404002 ∧
    (pendingOf 3).OdAccepts (updateReq 0x300) 0x404002 ∧
    (after (exec (.updateStage (updateReq 0x103)) (updating (fwOf .failed none)))).fw.ust = .verifying ∧
    (after (exec (.updateStage (updateReq 0x102)) (updating (fwOf .failed none)))).fw.ust = .failed ∧
    (after (exec (.updateStage (updateReq 0x104)) (updating (fwOf .idle none)))).fw.ust = .idle ∧
    (after (exec (.updateStage (updateReq 0x103)) (pendingOf 1))).fw.ust = .pending ∧
    (after (exec (.updateActivate (updateReq 0x200)) (pendingOf 1))).cause = .firmwareActivate ∧
    (after (exec (.updateActivate (updateReq 0x200)) (pendingOf 2))).fw.pause = true ∧
    (after (exec (.updateActivate (updateReq 0x200)) (pendingOf 3))).fw.ust = .rollout ∧
    (after (exec (.updateActivate (updateReq 0x200)) (updating (fwOf .idle none)))).fw.ust = .idle ∧
    (after (exec (.updateAbandon (updateReq 0x300)) (pendingOf 3))).fw.bankB.valid = false ∧
    (after (exec (.updateAbandon (updateReq 0x300)) (updating (fwOf .idle none)))).fw.ust = .idle :=
  ⟨accepts_sound _ _ _ (by decide +kernel), accepts_sound _ _ _ (by decide +kernel), accepts_sound _ _ _ (by decide +kernel),
    accepts_sound _ _ _ (by decide +kernel), by decide +kernel, by decide +kernel, by decide +kernel, by decide +kernel,
    by decide +kernel, by decide +kernel, by decide +kernel, by decide +kernel, by decide +kernel, by decide +kernel⟩

/-- A rollout or its revert of TRF image `{ kind := 3, svn := 4 }`, at these shelves. -/
def rolling (u : UState) (m : BitVec 16) : State := updating { fwOf u (some { kind := 3, svn := 4 }) with trfsh := m }

theorem test_update_progress : (after (exec .updateVerifyDone (updating { fwOf .verifying none with stage := some (3, 0) }))).fw.ust = .failed ∧
    (updating { fwOf .verifying none with stage := some (3, 0) }).imageValid 0 3 = false ∧
    (after (exec .updateVerifyDone (updating (fwOf .verifying none)))).fw.ust = .verifying ∧
    (rolling .rollout 0x7FFF).trfShelf = some 15 ∧ (rolling .rollout 0x7FFF).shelfBoundary 15 = true ∧
    (after (exec (.trfStartFailure ⟨15, 3⟩ 9) (rolling .rollout 0x7FFF))).fw.ust = .reverting ∧
    (after (exec .trfShelfSwitch (rolling .rollout 0x7FFF))).fw.running.trf.svn = 4 ∧
    (after (exec .trfShelfSwitch (rolling .rollout 0x3FFF))).fw.trfsh = 0x7FFF ∧
    (after (exec .trfShelfSwitch (rolling .reverting 1))).fw.ust = .failed ∧
    (after (exec .trfShelfSwitch (rolling .reverting 3))).fw.trfsh = 1 ∧ (rolling .reverting 3).trfShelf = some 1 ∧
    (withTile [runWord]).shelfBoundary 0 = false ∧
    (after (exec .trfShelfSwitch { rolling .rollout 0 with cores := (withTile [runWord]).cores })).fw.trfsh = 0 ∧
    (after (exec .managementRestartDone (updating { fwOf .switching (some { kind := 2, svn := 5 }) with pause := true }))).fw.running.mgf.svn = 5 ∧
    (after (exec .managementRestartDone ready)).fw = ready.fw := by decide +kernel

/-! Power, pins and cartridges (R426 to R443). -/

/-- A serving device with rails up, a byte of HBM, and its module as given. -/
def powered (m : Module) : State := { ready with hbm := [(5, 1)], mod := m }

def railsOff : Module := { rails := false, pgood := false }

theorem test_power_up : (powered { railsOff with input := false, aon := false }).mod.input = false ∧
    (after (exec (.inputPowerApplied 7) (powered { railsOff with input := false, aon := false }))).mod = { pos := 7 } ∧
    (after (exec (.inputPowerApplied 7) (powered { railsOff with input := false, aon := false, pwrEn := false }))).mod.rails = false ∧
    (after (exec (.inputPowerApplied 7) (powered {}))).mod.pos = 0 ∧
    (after (exec .pwrEnRise (powered { railsOff with pwrEn := false }))).mod = {} ∧
    (after (exec .pwrEnRise (powered { railsOff with pwrEn := false, aon := false }))).mod.rails = false := by decide +kernel

theorem test_power_down : (powered {}).mod.rails = true ∧ (after (exec .pwrEnFall (powered {}))).hbm = [] ∧
    (after (exec .pwrEnFall (powered {}))).mod.pwrEn = false ∧ (after (exec .inputOvervoltage (powered {}))).mod.pgood = false ∧
    (after (exec .inputUndervoltage (powered {}))).mod.aon = false ∧ (after (exec .inputUndervoltage (powered railsOff))).hbm = [(5, 1)] ∧
    (after (exec .inputOvervoltage (powered railsOff))).hbm = [(5, 1)] ∧ (after (exec .pwrEnFall (powered railsOff))).hbm = [(5, 1)] ∧
    (after (exec (.railFault 5) (powered {}))).alertLow = true ∧ (after (exec (.railFault 5) (powered {}))).boot = .held ∧
    (after (exec (.railFault 5) (powered railsOff))).out = [] ∧ tabWf {} (powered {}).cores = true ∧ tabWf {} (powered {}).shelves = true := by
  decide +kernel

def cart0Is (c : Cart) : State := powered { cart0 := c }

theorem test_cartridges : (after (exec (.cartridgeRelease false) (cart0Is .supplying))).cart false = .releasing ∧
    (after (exec (.cartridgeRelease true) (cart0Is .warming))).indicator true = .flashingAmber ∧
    (after (exec (.cartridgeRelease false) (cart0Is .off))).cart false = .off ∧
    (after (exec (.cartridgeOff false) (cart0Is .releasing))).cart false = .off ∧
    (after (exec (.cartridgeOff false) (cart0Is .supplying))).cart false = .supplying ∧
    (after (exec (.cartridgePull false) (cart0Is .faulted))).cart false = .absent ∧
    (after (exec (.cartridgePull true) (cart0Is .absent))).cart true = .absent ∧
    (after (exec (.cartridgeLatch false) (cart0Is .absent))).cart false = .warming ∧
    (after (exec (.cartridgeLatch true) (cart0Is .absent))).cart true = .supplying ∧
    (after (exec (.cartridgeWarmupDone false) (cart0Is .warming))).cart false = .supplying ∧
    (after (exec (.cartridgeWarmupDone false) (cart0Is .off))).cart false = .off ∧
    (after (exec (.cartridgeFault false) (cart0Is .warming))).alertLow = true ∧
    (after (exec (.cartridgeFault false) (cart0Is .absent))).cart false = .absent := by decide +kernel

theorem test_leak : (after (exec .leakSensorWet (powered {}))).alertLow = true ∧ (powered {}).alertLow = false ∧
    (after (exec .leakSensorDry (powered { wet := true }))).mod.wet = false := by decide +kernel

/-! Reset and start-up (R349, R426 to R429). -/

def report (l : List StartFault) : StartReport := { faults := l, looped := false, storeOk := true, recordOk := true }

/-- A device whose reset by command goes on to its start-up, warm. -/
def restarting (f : Firmware) : State := { powered { resetN := true, cold := false } with boot := .starting, fw := f }

def noBank : Firmware := { State.reset.fw with bankA := { valid := false }, bankB := { valid := false } }

theorem test_reset_pin : (after (exec .resetNAssert (powered { resetN := true, cold := false }))).boot = .held ∧
    (after (exec .resetNAssert (powered { resetN := true, cold := false }))).hbm = [(5, 1)] ∧
    (after (exec .resetNAssert (powered { resetN := true, cold := false }))).cause = .resetPin ∧
    (after (exec .resetNAssert (powered railsOff))).boot = .ready ∧
    (after (exec .resetNAssert State.reset)).boot = .held := by decide +kernel

theorem test_startup : State.reset.mod.pgood = true ∧ State.reset.mod.rails = true ∧ State.reset.fw.bankA.valid = true ∧
    State.reset.fw.activeB = false ∧ State.reset.fw.bankB.valid = false ∧
    (after (exec (.startup (report [])) State.reset)).mod.cold = false ∧ (after (exec (.startup (report [])) (restarting {}))).boot = .ready ∧
    (after (exec (.startup (report [.stack 11])) (restarting {}))).boot = .failed ∧
    (after (exec (.startup (report [])) (restarting {}))).port.port = .training ∧
    (after (exec (.startup (report [])) { restarting {} with odStore := [(0x201001, 2)] })).mode.cur.four = true ∧
    (after (exec (.startup (report [])) (restarting noBank))).boot = .dead ∧
    (after (exec (.startup (report [])) (restarting { State.reset.fw with bankA := { valid := false }, bankB := {} }))).fw.runB = true ∧
    (after (exec (.startup (report [])) ready)).boot = .ready ∧
    ((after (exec (.startup (report [])) (restarting {}))).core 8).use = .retention := by decide +kernel

/-! Training (R183 to R224). The state area stands at HBM offset 0x8000 with its table at 0x8040; the shards of a 1 × 1
matrix under rule 2 at 0x10000 and 0x14000. -/

/-- Front of a state shard: rule 2, FP32 moment. -/
def shardFront (role : Nat) : List Byte := HdrF.front ⟨5, 0, 0, role, 15, 8, 0, false, 0, 1, 1, 0, 1, 0x200, 2, 1⟩

/-- A commit record in a state, at an epoch, and two shards at epochs of their own. -/
def stateMem (st e e0 e1 : Nat) : Mem :=
  let m := memWrite [] 0x8000 (natLE (fld st 60 + e) 8 ++ natLE 6 8 ++ natLE 6 8 ++ natLE 2 8 ++ natLE 0 8 ++ natLE 0x8040 8 ++ natLE 0 16 ++ natLE 0x10000 8 ++ natLE 0x14000 8)
  let m := memWrite (memWrite m 0x10000 (shardFront 0)) 0x10080 (natLE e0 8)
  memWrite (memWrite m 0x14000 (shardFront 1)) 0x14080 (natLE e1 8)

/-- Work 0 of this KIND over entry 0x7FFFF and the state area, HELD, STEPS 1 (R237). -/
def areaWork (kind : Nat) : Work := { st := .held, desc := desc kind (fld daWord (8 * if kind = 2 then 0x48 else 0x30) + fld 0x8000 (8 * 0x38) + fld (if kind = 2 then 2 ^ 32 else 0) (8 * 0x50)) }

def trainState (kind : Nat) (m : Mem) (e : DirEntry) (jobs : List Job) : State := { withEntry e with
  hbm := m, work := { State.reset.work with slots := [(0, areaWork kind)], jobs := jobs } }

def locked (s : State) (ro : Bool) : State := { s.odSet 0x503101 17 with regions := s.regions ++ [(17, { v := true, npg := 1, base := 4, baseRo := ro })] }

def starting (e : DirEntry) (ro : Bool) : State := locked (trainState 2 (stateMem 0 7 7 7) e []) ro

/-- As `starting`, with the state area at the start of the system area. -/
def outside : State := { starting { st := .training } true with
  work := { State.reset.work with slots := [(0, { st := .held, desc := desc 2 (fld daWord (8 * 0x48) + fld ready.sysBase (8 * 0x38)) })] } }

theorem test_train_start : ((starting { st := .training } true).wk 0).kind = 2 ∧ (starting { st := .training } true).mayStart 0 = true ∧
    (starting { st := .training } true).didxOk 0 0x7FFFF = true ∧ (starting { st := .training } true).baseList 0 = [17] ∧
    (starting { st := .training } true).inJob 0 0x8000 64 = true ∧ (starting { st := .training } true).firstHeld 0 = true ∧
    (match (starting { st := .training } true).engineRead (Init.firmware 0) 0x8000 64 with | .ok l => l.length | .error _ => 0) = 64 ∧
    ((after (exec (.trainWork 0) { starting { st := .training } true with ecc := { State.reset.ecc with bad := [0x8000 / 512] } })).wk 0).status =
      St.memoryUncorrectable ∧
    ((after (exec (.trainWork 0) (starting { st := .training } true))).wk 0).st = .running ∧
    (after (exec (.trainWork 0) (starting { st := .training } true))).work.jobs.map (·.area) = [0x8000] ∧
    ((after (exec (.trainWork 0) (starting { st := .resident } true))).wk 0).status = St.adapterStateInvalid ∧
    ((after (exec (.trainWork 0) (starting { st := .training } false))).wk 0).status = St.adapterBaseUnlocked ∧
    ((after (exec (.trainWork 0) outside)).wk 0).status = St.addressInvalid ∧
    ((after (exec (.trainWork 16383) ready)).wk 16383).st = .free := by decide +kernel

def job : Job := { slot := 0, didx := 0x7FFFF, part := 0, area := 0x8000 }

/-- A RUNNING job; S0.C0 holds a step flag. -/
def jobState (st e e0 e1 : Nat) (j : Job) : State :=
  let s := (trainState 2 (stateMem st e e0 e1) { st := .training, area := some 0x8000 } [j]).modWork 0 fun w => { w with st := .running }
  s

def flagged (j : Job) : State := (jobState 0 7 7 7 j).modCore 0 fun k => { k with stepf := 1 }

def savedJob : Job := { job with preempted := true, saved := [(8 * 15 + 7, ⟨[], [], 9, [], 1, []⟩)] }

theorem test_preempt_resume : (flagged job).work.jobs.find? (fun j => ((flagged job).shelvesOf j.part).contains 15) = some job ∧
    (flagged job).jobOf 0 = some job ∧
    ((after (exec (.servingPreempt 0) (flagged job))).shelf 0).serving = true ∧
    (((after (exec (.servingPreempt 0) (flagged job))).jobOf 0).map (·.flags)) = some 1 ∧
    ((after (exec (.servingPreempt 0) (flagged job))).core 0).stepf = 0 ∧
    (((after (exec (.servingPreempt 0) ((flagged job).modCore 0 fun k => { k with tile := { k.tile with loads := [⟨0, []⟩] } }))).jobOf 0).map (·.preempted)) = some false ∧
    ((after (exec (.servingPreempt 15) ready)).shelf 15).serving = true ∧
    ((after (exec (.trainingResume 15) (flagged savedJob))).core (9 * 15 + 7)).scale.seed = 9 ∧
    (((after (exec (.trainingResume 15) (flagged savedJob))).jobOf 0).map (·.preempted)) = some false ∧
    (after (exec (.trainingResume 15) (onShelf 0))).shelf 15 = (onShelf 0).shelf 15 := by decide +kernel

def places : List EmitPlace := [⟨1, 0x20000, 0x21000, 0x22000⟩, ⟨2, 0x23000, 0x24000, 0x22008⟩]

/-- The emitters have run: completion words read 0. -/
def emittedJob : Job := { job with begun := true, copies := places, emitted := 2 }

theorem test_step_start : (jobState 0 7 7 7 job).shardTable 0x8000 = [0x10000, 0x14000] ∧ (jobState 0 7 7 7 job).inJob 0 0x1FFFF8 8 = true ∧
    (((after (exec (.stepStart 0 [(0x1FFFF8, 8)] places []) { jobState 0 7 7 7 job with hbm := [(0x1FFFFF, 1)] })).hbm) = []) ∧
    (((after (exec (.stepStart 0 [(0x1FFFF8, 8)] places []) (jobState 0 7 7 7 job))).jobOf 0).map (·.emitted)) = some 2 ∧
    (((after (exec (.stepStart 0 [(ready.sysBase, 8)] places []) (jobState 0 7 7 7 job))).jobOf 0).map (·.begun)) = some false ∧
    (((after (exec (.stepStart 0 [] places []) (jobState 0 7 7 7 { job with restart := true }))).jobOf 0).map (·.begun)) = some false := by
  decide +kernel

theorem test_step_places : (jobState 0 7 7 7 job).stepPlacesOk job [(0x1FFFF8, 8)] places [] = true ∧
    (jobState 0 7 7 7 job).stepPlacesOk job [(ready.sysBase, 8)] places [] = false ∧
    firmwareMay (jobState 0 7 7 7 job) 0 0x1FFFF8 8 = true ∧ ((jobState 0 7 7 7 job).wk 0).live = true ∧
    ringTail ((jobState 0 7 7 7 job).sram 15) = 0 ∧ ringHead ((jobState 0 7 7 7 job).sram 15) = 0 ∧
    ((after (exec (.stepStart 0 [] places [[⟨10485761, 0, 0⟩]]) (jobState 0 7 7 7 job))).wk 0).status = St.sequenceTooLong ∧
    ((after (exec (.stepStart 0 [] places [[⟨10485760, 0, 0⟩]]) (jobState 0 7 7 7 job))).wk 0).status ≠ St.sequenceTooLong := by
  decide +kernel

/-- ω for a column whose largest output was 2.0 at ω = 1. -/
theorem test_omegas : tabGet 0 (nextOmegas [] [(65536, 0x40000000)]) 65536 = omegaOf 0x40000000 0 0 ∧
    tabWf (0 : BitVec 32) [(65536, 0x40000000)] = true := by decide +kernel

/-- R204 over four shelves: 3, 1 and 9 chunks; the longest spans two shelves at the split ratio 2, whose limit is 6.5. -/
theorem test_sequences : (placeSeqs [0, 1, 2, 3] ⟨2, 1⟩ [⟨8193, 5, 6⟩, ⟨1, 0, 0⟩, ⟨36864, 0, 0⟩]).map (fun q => (q.seq, q.shelves)) =
      [(2, [0, 1]), (0, [2]), (1, [3])] ∧
    ((placeSeqs [0, 1, 2, 3] ⟨2, 1⟩ [⟨8193, 5, 6⟩]).map (·.chunks)) = [[4096, 4096, 1]] ∧
    ((placeSeqs [0, 1, 2, 3] ⟨2, 1⟩ [⟨8193, 5, 6⟩]).map (·.backward)) = [[2, 1, 0]] ∧
    ((placeSeqs [0, 1, 2, 3] ⟨2, 1⟩ [⟨8193, 5, 6⟩]).map (·.kv)) = [(5, 6)] := by decide +kernel

theorem test_image_build : (jobState 0 7 7 7 emittedJob).emitsOut emittedJob = false ∧ (jobState 0 7 7 7 emittedJob).imageIn 0 0x40000 = true ∧
    (emittedJob.copies.map fun p => (jobState 0 7 7 7 emittedJob).doneStatus 0 p.done) = [0, 0] ∧
    (((jobState 0 7 7 7 emittedJob).jobPairs emittedJob 1) matches .ok _) = true ∧
    (jobState 0 7 7 7 emittedJob).onImage 0x7FFFF 0x40000 4096 = false ∧ firmwareMay (jobState 0 7 7 7 emittedJob) 0 0x40000 4096 = true ∧
    ((after (exec (.trainingImageBuild 0 0x40000 0x60000) { jobState 0 7 7 7 emittedJob with
      hbm := memWrite (stateMem 0 7 7 7) 0x22000 [3] })).wk 0).status = 3 ∧
    (((after (exec (.trainingImageBuild 0 0x40000 0x60000) (jobState 0 7 7 7 job))).jobOf 0).map (·.image)) = some 0 := by decide +kernel

/-- A job over a record with no shards: both images are their headers. -/
def noShards : State := { jobState 0 7 7 7 { emittedJob with emitted := 0, copies := [] } with hbm := memWrite (stateMem 0 7 7 7) 0x8018 (natLE 0 8) }

theorem test_images_built : noShards.shardTable 0x8000 = [] ∧
    (noShards.jobPairs emittedJob 0 matches .ok []) = true ∧ (noShards.buildImage 0 [] matches .ok _) = true ∧
    noShards.onImage 0x7FFFF 0x40000 (imageBytes []).length = false ∧ firmwareMay noShards 0 0x60000 (imageBytes []).length = true ∧
    (((after (exec (.trainingImageBuild 0 0x40000 0x60000) noShards)).jobOf 0).map fun j => (j.image, j.timage)) = some (0x40000, 0x60000) := by
  decide +kernel

/-! Micro-steps, commits and restarts (R198 to R200, R222 to R224). -/

def builtJob : Job := { emittedJob with image := 0x40000 }

def jobAfter (o : Out) : Option Job := (after o).jobOf 0

theorem test_micro_step : (jobState 0 7 7 7 builtJob).odVal 0x604001 1 = 1 ∧ (jobState 0 7 7 7 builtJob).jobOf 0 = some builtJob ∧
    (jobAfter (exec (.microStepEnd 0 [3] ⟨[], [], []⟩) (jobState 0 7 7 7 builtJob))).map (·.micro) = some 1 ∧
    (jobAfter (exec (.microStepEnd 0 [3] ⟨[], [], []⟩) (flagged builtJob))).map (·.begun) = some false ∧
    ((after (exec (.microStepEnd 0 [3] ⟨[], [], []⟩) (flagged { builtJob with flagged := 7 }))).wk 0).status = St.trainStopped ∧
    (jobAfter (exec (.microStepEnd 0 [3] ⟨[], [], []⟩) ((jobState 0 7 7 7 builtJob).modCore 0 fun k => { k with stepf := 0x100 }))).map (·.rerun) = some true ∧
    ((after (exec (.microStepEnd 0 [] ⟨[], [], []⟩) ((jobState 0 7 7 7 builtJob).modEntry 0x7FFFF fun e => { e with st := .revoked }))).wk 0).status = St.adapterRevoked ∧
    (jobAfter (exec (.microStepEnd 0 [3] ⟨[], [], []⟩) (jobState 0 7 7 7 { builtJob with micro := 1 }))).map (·.micro) = some 1 := by decide +kernel

/-- Channel 5 of tag 3 with maximum 2.0 in entry 7 of S0.C0's row maxima, its scale loaded into entry 9; column 0 of tag 4 with
maximum 1.0, drained at BF16 by S0.C1. -/
def chan5 : GradChan := ⟨3 * 65536 + 5, [.file c00 false 7], [(c00, 9)]⟩

def col0 : RankCol := ⟨4 * 65536, [.file ⟨0, 1⟩ true 1], [.file ⟨0, 1⟩ true 2]⟩

def measured : State :=
  ((jobState 0 7 7 7 builtJob).modCore 0 fun k => { k with scale := { k.scale with rowMax := [(7, 0x40000000)] } }).modCore 1 fun k =>
    { k with scale := { k.scale with tokMax := [(1, 0x3F800000), (2, 0x40800000)] } }

theorem test_micro_step_scales : measured.jobOf 0 = some builtJob ∧ (measured.lcore 0 0).quiet = true ∧ measured.maxOf chan5.drained = 0x40000000 ∧
    (jobAfter (exec (.microStepEnd 0 [3] ⟨[chan5], [col0], [2]⟩) measured)).map (fun j => tabGet 0 j.sigma chan5.key) =
      some (gradScale 0x40000000 0 0) ∧
    tabGet 0 ((after (exec (.microStepEnd 0 [3] ⟨[chan5], [col0], [2]⟩) measured)).core 0).scale.rowScale 9 ≠ 0 ∧
    ((after (exec (.microStepEnd 0 [3] ⟨[chan5], [col0], [2]⟩) measured)).core 0).scale.rowMax = [] ∧
    (jobAfter (exec (.microStepEnd 0 [3] ⟨[chan5], [col0], [2]⟩) measured)).map (fun j => tabGet 0 j.rankMax col0.key) = some 0x40800000 ∧
    (jobAfter (exec (.microStepEnd 0 [3] ⟨[chan5], [col0], [2]⟩) measured)).map (fun j => tabGet 0 j.omega col0.key) = some (omegaOf 0x3F800000 0 0) ∧
    (jobAfter (exec (.microStepEnd 0 [3] ⟨[chan5], [col0], [2]⟩) measured)).map (·.arrivals) = some [[2]] := by decide +kernel

def commitOf (phase kind : Nat) : Commit := ⟨phase, kind, 8, 2, [0x30000, 0x30040], 0x31000, 0x32000⟩

/-- A commit whose two commands have completed with a status each. -/
def committing (phase st : Nat) (sts : List Nat) : State :=
  let s := jobState st 8 7 7 { builtJob with micro := 1, commit := some (commitOf phase 0) }
  { s with hbm := memWrite s.hbm 0x32000 (sts.flatMap fun v => natLE v 8) }

theorem test_commit : (jobState 0 7 7 7 { builtJob with micro := 1 }).inJob 0 0x31000 8 = true ∧
    (jobState 0 7 7 7 { builtJob with micro := 1 }).regionCheck (Init.job 0 false) 0x31000 8 true = none ∧
    (after (exec (.stepCommit 0 [0x30000, 0x30040] 0x31000 0x32000) (jobState 0 7 7 7 { builtJob with micro := 1 }))).hbmNat 0x8000 8 = fld 1 60 + 8 ∧
    (jobAfter (exec (.stepCommit 0 [] 0x31000 0x32000) (jobState 0 7 7 7 builtJob))).map (·.commit) = some none ∧
    (jobAfter (exec (.stepCommit 0 [] 0x31000 0x32000) (jobState 0 7 7 7 { builtJob with restart := true, micro := 1 }))).map (·.commit) = some none ∧
    (committing 0 1 [0, 0]).commitStatus { builtJob with micro := 1, commit := some (commitOf 0 0) } (commitOf 0 0) = some St.ok ∧
    (committing 0 1 [0, 0]).hbmNat 0x8000 8 = fld 1 60 + 8 ∧
    (after (exec (.stepCommit 0 [] 0x31000 0x32000) (committing 0 1 [0, 0]))).hbmNat 0x8000 8 = fld 2 60 + 8 := by decide +kernel

theorem test_commit_may : ([0x8000, 0x8008, 0x8010].all fun o => firmwareMay (committing 0 1 [0, 0]) 0 o 8) = true ∧
    (jobState 0 7 7 7 { builtJob with micro := 1 }).localSram 0x31000 8 = none ∧
    (jobState 0 7 7 7 { builtJob with micro := 1 }).localHbm 0x31000 8 = some 0x31000 ∧
    (jobState 0 7 7 7 { builtJob with micro := 1 }).hbmBad 0x31000 8 = false ∧
    commitTotal (committing 0 1 [0, 0]) { builtJob with micro := 1 } (commitOf 0 0) = 2 ∧ (commitOf 0 0).placed = 2 ∧
    ((after (exec (.stepCommit 0 [] (BitVec.ofNat 64 ready.sysBase) 0x32000) (jobState 0 7 7 7 { builtJob with micro := 1 }))).wk 0).status =
      St.addressInvalid := by decide +kernel

theorem test_commit_ends : (after (exec (.stepCommit 0 [] 0x31000 0x32000) (committing 0 1 [0, St.stepFlagged.toNat]))).hbmNat 0x8000 8 = 7 ∧
    ((after (exec (.stepCommit 0 [] 0x31000 0x32000) (committing 0 1 [3, St.stepFlagged.toNat]))).wk 0).status = 3 ∧
    ((after (exec (.stepCommit 0 [] 0x31000 0x32000) (committing 1 2 [0, 4]))).wk 0).status = 4 ∧
    (after (exec (.stepCommit 0 [] 0x31000 0x32000) (committing 1 2 [0, 0]))).hbmNat 0x8000 8 = 8 ∧
    ((after (exec (.stepCommit 0 [] 0x31000 0x32000) (committing 1 2 [0, 0]))).wk 0).tokens = 1 ∧
    ((after (exec (.stepCommit 0 [] 0x31000 0x32000) ((committing 1 2 [0, 0]).modEntry 0x7FFFF fun e => { e with st := .revoked }))).wk 0).status = St.adapterRevoked := by
  decide +kernel

/-- A record to restart: its job stands in `restart`. -/
def interrupted (st e0 e1 : Nat) : State := jobState st 8 e0 e1 { job with restart := true }

theorem test_commit_restart : ((interrupted 1 8 7).entry 0x7FFFF).area = some 0x8000 ∧ (interrupted 1 8 7).recSound 0x8000 = true ∧
    (interrupted 1 8 6).recSound 0x8000 = false ∧
    (after (exec (.commitRestart 0x7FFFF) (interrupted 1 8 7))).shardEpoch 0x10000 = 7 ∧
    (after (exec (.commitRestart 0x7FFFF) (interrupted 1 8 7))).hbmNat 0x8000 8 = 7 ∧
    (after (exec (.commitRestart 0x7FFFF) (interrupted 2 8 7))).shardEpoch 0x14000 = 8 ∧
    (after (exec (.commitRestart 0x7FFFF) (interrupted 2 8 7))).hbmNat 0x8000 8 = 8 ∧
    (jobAfter (exec (.commitRestart 0x7FFFF) (interrupted 0 8 8))).map (·.restart) = some false ∧
    ((after (exec (.commitRestart 0x7FFFF) (interrupted 1 8 6))).wk 0).status = St.shardEpochMismatch := by decide +kernel

/-! Churn units (R207 to R229): one entry in the ring of S0. -/

/-- As `stateMem`, with one shard. -/
def oneShard (st e0 : Nat) : Mem :=
  let m := memWrite [] 0x8000 (natLE (fld st 60 + 7) 8 ++ natLE 0 16 ++ natLE 1 8 ++ natLE 0 8 ++ natLE 0x8040 8 ++ natLE 0 16 ++ natLE 0x10000 8)
  memWrite (memWrite m 0x10000 (shardFront 0)) 0x10080 (natLE e0 8)

def ringedOn (m : Mem) (c : ChurnCmd) : State :=
  let s := { jobState 0 7 7 7 job with hbm := m }
  (s.sramWrite 0 0xBE0000 c.bytes).sramWrite 0 0xBE1000 (natLE 1 8)

def ringed (c : ChurnCmd) : State := ringedOn (oneShard 0 7) c

def doneWord (o : Out) : Nat := (after o).hbmNat 0x33000 8

def statusWord (st : Status) (v : Nat) : Nat := v * 65536 + st.toNat

def cmd (opc a0 a1 a2 a3 : Nat) : ChurnCmd := churnCmd opc 0 0x33000 a0 a1 a2 a3

theorem test_churn_ring : ((ringed (cmd 3 0x10000 7 8 0)).shelf 0).churnDropped = [] ∧
    (ringed (cmd 3 0x10000 7 8 0)).ringNext 0 = some (cmd 3 0x10000 7 8 0) ∧ (cmd 3 0x10000 7 8 0).fieldsOk = true ∧
    (cmd 3 0x10000 7 9 0).fieldsOk = false ∧ ((ringed (cmd 3 0x10000 7 8 0)).jobShard 0 0x10000 matches .ok _) = true ∧
    ((ringed (cmd 3 0x10000 7 8 0)).jobShard 0 0x10100 matches .error _) = true ∧
    (after (exec (.setepoch 0) (ringed (cmd 3 0x10000 7 8 0)))).shardEpoch 0x10000 = 8 ∧
    doneWord (exec (.setepoch 0) (ringed (cmd 3 0x10000 6 7 0))) = statusWord St.shardEpochMismatch 0 ∧
    doneWord (exec (.setepoch 0) (ringed (cmd 3 0x10000 7 9 0))) = statusWord St.churnCmdInvalid 0 ∧
    doneWord (exec (.setepoch 0) (ringed (cmd 3 0x10100 7 8 0))) = statusWord St.addressInvalid 0 ∧
    ringHead ((after (exec (.setepoch 0) (ringed (cmd 3 0x10000 7 8 0)))).sram 0) = 1 ∧
    ringHead ((after (exec (.stepfRd 0) (ringed (cmd 3 0x10000 7 8 0)))).sram 0) = 0 ∧
    doneWord (exec (.emit 0) (ringed (cmd 10 0 0 0 0))) = statusWord St.churnCmdInvalid 0 ∧
    (after (exec (.emit 0) ready)).out = [] := by decide +kernel

theorem test_churn_addresses : (ringed (cmd 3 0x10000 7 8 0)).addrsOk (cmd 3 0x10000 7 8 0) = true ∧
    (ringed (cmd 3 0x10000 7 8 0)).addrsOk (churnCmd 3 0 ready.sysBase 0x10000 7 8 0) = false ∧
    (ringed (cmd 3 0x10000 7 8 0)).localSram 0x33000 8 = none ∧ (ringed (cmd 3 0x10000 7 8 0)).localHbm 0x33000 8 = some 0x33000 ∧
    (ringed (cmd 3 0x10000 7 8 0)).inJob 0 0x33000 8 = true ∧
    (ringed (cmd 3 0x10000 7 8 0)).regionCheck (Init.job 0 false) 0x33000 8 true = none ∧
    (ringed (cmd 3 0x10000 7 8 0)).hbmBad 0x33000 8 = false ∧
    (ringed (cmd 3 0x10000 7 8 0)).localHbm 0x10080 8 = some 0x10080 := by decide +kernel

def flagsHeld (c : ChurnCmd) : State := (ringed c).modShelf 0 fun h => { h with churnFlags := 5 }

theorem test_churn_flags : (after (exec (.stepfRd 0) (flagsHeld (cmd 7 0x34000 0 0 0)))).hbmNat 0x34000 8 = 5 ∧
    doneWord (exec (.stepfRd 0) (flagsHeld (cmd 7 ready.sysBase 0 0 0))) = statusWord St.addressInvalid 0 ∧
    ((after (exec (.stepfWr 0) (flagsHeld (cmd 8 9 0 0 0)))).shelf 0).churnFlags = 9 ∧
    (flagsHeld (cmd 7 0x34000 0 0 0)).localSram 0x34000 8 = none ∧
    (flagsHeld (cmd 7 0x34000 0 0 0)).localHbm 0x34000 8 = some 0x34000 := by decide +kernel

/-- An EMIT of a 1 × 1 matrix from 0x15000, ABSMAX by column, code 0: SRC, DST, SDST, sizes, fields
(R92). -/
def emitCmd (flags : Nat) : ChurnCmd := { churnCmd 1 0 0 0 0 0 0 with body := BitVec.ofNat 512 (leNat (natLE 0x15000 8 ++ natLE 0x20000 8 ++ natLE 0x21000 8 ++ natLE (2 ^ 32 + 1) 8 ++ natLE flags 8 ++ natLE 0 8 ++ natLE 0x33000 8)) }

/-- As `ringed`, with 1.0 at 0x15000. -/
def emitting (flags : Nat) : State := { ringed (emitCmd flags) with hbm := memWrite (ringed (emitCmd flags)).hbm 0x15000 (natLE 0x3F800000 4) }

theorem test_churn_emit : (emitCmd 0x10).fieldsOk = true ∧ (emitting 0x10).ringNext 0 = some (emitCmd 0x10) ∧
    doneWord (exec (.emit 0) (emitting 0x10)) = 0 ∧ ((after (exec (.emit 0) (emitting 0x10))).hbmNat 0x20000 1 != 0) = true ∧
    ((after (exec (.emit 0) (emitting 0x10))).hbmNat 0x21000 4 != 0) = true ∧
    doneWord (exec (.emit 0) (emitting 0x18)) = statusWord St.emitDescInvalid 0 ∧
    doneWord (exec (.emit 0) (emitting 0x70)) = statusWord St.emitDescInvalid 0 := by decide +kernel

/-- UPDATE of the first shard with flag word at 0x31000 and record at 0x30000. -/
def updating1 (rec flags : Nat) : State :=
  let c := cmd 2 0x10000 0x30000 0x31000 8
  { ringed c with hbm := memWrite (memWrite (ringed c).hbm 0x30000 (natLE rec 64)) 0x31000 (natLE flags 8) }

/-- A tensor record of a rule, FP32 moment, gradient at 0x35000, factors at 0x36000 (R212). -/
def tensorRec (rule : Nat) : Nat := fld rule 60 + fld 1 58 + fld 0x35000 (64 * 5) + fld 0x36000 (64 * 6)

theorem test_churn_update : (TensorRec.of (tensorRec 2)).ok = true ∧ (TensorRec.of (tensorRec 4)).ok = false ∧
    doneWord (exec (.update 0) (updating1 (tensorRec 2) 1)) = statusWord St.stepFlagged 0 ∧
    doneWord (exec (.update 0) (updating1 (tensorRec 4) 0)) = statusWord St.churnCmdInvalid 0 ∧
    doneWord (exec (.update 0) (updating1 (tensorRec 0) 0)) = statusWord St.shardHeaderInvalid 0 ∧
    doneWord (exec (.update 0) (updating1 (tensorRec 2) 0x200)) = 0 := by decide +kernel

theorem test_churn_sketch : doneWord (exec (.sketch 0 [] false) (ringedOn (stateMem 0 7 7 7) (cmd 4 0x10000 0x14000 0x37000 0x38000))) = statusWord St.adapterBaseScaleInvalid 0 ∧
    doneWord (exec (.sketch 0 [] false) (ringedOn (stateMem 0 7 7 7) (cmd 4 0x10000 0x11000 0x37000 0x38000))) = statusWord St.shardHeaderInvalid 0 ∧
    (BaseRec.of (fld 0x39000 0 + fld 1 96 + fld 1 64)).ok = true ∧
    (BaseRec.of (fld 0x39000 0 + fld 1 96 + fld 0x100001 64)).ok = false := by decide +kernel

def exported (moved : Bool) (c : ChurnCmd) : Nat := doneWord (execExport 0 moved (ringed c))

theorem test_churn_export : exported false (cmd 5 0x10000 0x20000 0 0) = statusWord St.ok 1 ∧
    exported true (cmd 5 0x10000 0x20000 0 0) = statusWord St.shardEpochMismatch 0 ∧
    exported false (cmd 5 0x10000 0x20000 0x30000 0) = statusWord St.exportKeyInvalid 0 ∧
    exported false (cmd 5 0x10000 0x20000 0 7) = statusWord St.churnCmdInvalid 0 ∧
    doneWord (exec (.serve 0) (ringed (cmd 9 0x10000 0x20000 0 0))) = 0 := by decide +kernel

/-- One export shard of W of the first shard: 2.0. -/
def shardOut : List Byte :=
  let f : HdrF := ⟨5, 0, 0, 0, 0, 8, 0, false, 7, 1, 1, 0, 1, 4, 2, 1⟩
  f.bytes (natLE 0x40000000 4) ++ natLE 0x40000000 4

def importing (epoch : Nat) (bs : List Byte) : State :=
  let c := cmd 6 0x30000 0x10000 0 epoch
  { ringed c with hbm := memWrite (ringed c).hbm 0x30000 bs }

theorem test_churn_import : hdrOk (leNat (shardOut.take 128)) = true ∧ hWrap (leNat (shardOut.take 128)) = false ∧
    (after (exec (.import_ 0) (importing 8 shardOut))).hbmNat 0x10100 4 = 0x40000000 ∧
    doneWord (exec (.import_ 0) (importing 8 (shardOut.set 130 1))) = statusWord St.shardDigestMismatch 0 ∧
    doneWord (exec (.import_ 0) (importing 8 (shardOut.set 0 0))) = statusWord St.shardHeaderInvalid 0 := by decide +kernel

/-! EXPORT and IMPORT works (R224 to R229, R237): one shard; the shard to import stands at 0x30000. -/

/-- As `areaWork`, with words of BODY, and bytes at 0x30000. -/
def controlState (kind st e0 : Nat) (words : List (Nat × Nat)) (bs : List Byte) : State :=
  let w : Work := { areaWork kind with desc := BitVec.ofNat 2048 ((areaWork kind).desc.toNat + (words.map fun x => fld x.2 (8 * (0x30 + x.1))).sum + fld 1 (8 * 0x10 + 51)) }
  let s := trainState kind (memWrite (oneShard st e0) 0x30000 bs) { st := .training } []
  { s with work := { s.work with slots := [(0, w)] } }

/-- EXPORT of W into a buffer of `n` bytes. -/
def exportState (st e0 n comps : Nat) : State := controlState 4 st e0 [(0x28, comps), (0x18, n)] []

def importState (st e0 n : Nat) : State := controlState 5 st e0 [(0x10, 0x30000), (0x18, n)] shardOut

/-- A read of the record by the firmware. -/
def recRead (s : State) : Nat :=
  match s.engineRead (Init.firmware 0) 0x8000 64 with
  | .ok l => l.length
  | .error _ => 0

theorem test_export_work : ((exportState 0 7 4096 1).wk 0).kind = 4 ∧ ((exportState 0 7 4096 1).wk 0).group = 0 ∧
    (exportState 0 7 4096 1).inCommit 0 = false ∧ (exportState 0 7 4096 1).domainDown 0 = false ∧ (exportState 0 7 4096 1).recSound 0x8000 = true ∧
    (exportState 0 7 4096 1).firstHeld 0 = true ∧ recRead (exportState 0 7 4096 1) = 64 ∧ (exportState 0 7 4096 1).recState 0x8000 = 0 ∧
    (exportState 0 7 4096 1).didxOk 0 0x7FFFF = true ∧ (exportState 0 7 4096 1).inJob 0 0x8000 64 = true ∧
    (match (exportState 0 7 4096 1).exportAll 0 1 none [0x10000] with
      | .ok x => ((exportState 0 7 4096 1).wk 0).outsFit (stageAll 0 x.2) && !((exportState 0 7 16 1).wk 0).outsFit (stageAll 0 x.2)
      | .error _ => false) = true ∧
    ((after (exec (.exportWork 0) (exportState 0 7 4096 1))).wk 0).copying = true ∧
    (after (exec (.exportWork 0) (exportState 0 7 4096 1))).ops.length = 1 ∧
    ((after (exec (.exportWork 0) (exportState 0 7 16 1))).wk 0).status = St.addressInvalid ∧
    ((after (exec (.exportWork 0) (exportState 0 9 4096 1))).wk 0).status = St.shardEpochMismatch ∧
    ((after (exec (.exportWork 0) { exportState 0 7 4096 1 with ecc := { State.reset.ecc with bad := [0x8000 / 512] } })).wk 0).status = St.memoryUncorrectable ∧
    (after (exec (.exportWork 16383) ready)).work = ready.work := by decide +kernel

theorem test_import_work : ((importState 0 7 1).wk 0).kind = 5 ∧ (importState 0 7 1).recState 0x8000 = 0 ∧
    (after (exec (.importWork 0) (importState 0 7 1))).hbmNat 0x8000 8 = 2 ^ 56 + 8 ∧
    ((after (exec (.importWork 0) (importState 0 9 1))).wk 0).status = St.shardEpochMismatch ∧
    (after (exec (.importWork 16383) ready)).work = ready.work := by decide +kernel

/-- The state before the record is COMMITTED again, with the status of each part. -/
def importParts (s : State) : (State × Status) × List Status :=
  let o := (s.modEntry 0x7FFFF fun x => { x with area := some 0x8000 }).putRec 0 0x8000 1 1 8
  let c := o.1.copyBanks 0 8 [0x10000]
  let m := c.1.importFrom 0 8 [0x10000] 1 0x30000
  (m, [o.2, c.2, m.2])

theorem test_import_parts : (importState 0 7 1).recEpoch 0x8000 = 7 ∧ (importParts (importState 0 7 1)).2 = [0, 0, 0] ∧
    (importParts (importState 0 7 1)).1.1.shardTable 0x8000 = [0x10000] ∧
    (importParts (importState 0 7 1)).1.1.hbmNat 0x8028 8 = 0x8040 ∧
    ([(0x8000, 8), (0x8010, 8), (0x10080, 8)].all fun r => firmwareMay (importParts (importState 0 7 1)).1.1 0 r.1 r.2) = true ∧
    (importParts (importState 0 9 1)).2 = [0, St.shardEpochMismatch, St.shardEpochMismatch] := by decide +kernel

/-! The queue, the idle tick, and the first statements. -/

theorem test_queue : (after (step { ready with pending := [.leakSensorWet, .leakSensorDry] })).pending = [.leakSensorDry] ∧
    (after (step { ready with pending := [.leakSensorWet, .leakSensorDry] })).mod.wet = true ∧ ready.pending = [] ∧
    (after (step { ready with tsc := 2 ^ 64 - 1 })).tsc = 0 ∧ Memory.wf State.reset.hbm = true ∧
    decodeTableWord 16 3 = none ∧ (ready.withFetchWord 16 3) = ready := by decide +kernel

theorem test_slot_status : (placed { st := .ending, gen := 9 } 0).hbmNat (ready.slotBase + 0x400000 + 8 * 16383) 8 = fld 3 60 + 9 ∧
    ready.hbmNat (ready.slotBase + 0x400000) 8 = 1 := by decide +kernel

/-- MSGD over a 1 × 1 matrix: every operand 1.0, β 0.5, nested. -/
def msgd : RuleIn := {
  t := { TensorRec.of 0 with nest := true, b1 := 0x3F000000, lr := 0x3F800000 }
  r := 1, c := 1, role := 0, w0 := [[0x3F800000]], m0 := [[0x3F800000]], rv0 := [], cv0 := [], lr0 := [], qr0 := [], dd0 := []
  g := [[0x40000000]], stepc := 0, borrow := 0, free := 0 }

/-- m' = 0.5 × 1 + 2 = 2.5; u = 0.5 × 2.5 + 2 = 3.25; w' = 1 − 3.25 = −2.25. -/
theorem test_msgd : msgd.t.rule = 0 ∧ msgd.run = [(1, [[0x40200000]]), (0, [[0xC0100000]])] := by decide +kernel

/-! Terms that are not well formed, one for each check. -/

def longReq : OdReq := odReq 0x2090 1 (List.replicate 9157 0)

theorem test_ill_formed_requests : Instr.wellFormed (.put { reqAt 0 0 with len := 2 ^ 32 }) = false ∧
    Instr.wellFormed (.get { reqAt 0 0 with off := 2 ^ 32 }) = false ∧ Instr.wellFormed (.putSignal { reqAt 0 4 with off := 1 }) = false ∧
    Instr.wellFormed (.put (reqAt 0 4)) = true ∧
    Instr.wellFormed (.open_ { openPkt 0 1500 [] with body := List.replicate 9165 0 }) = false ∧
    Instr.wellFormed (.packetReceive (udp (List.replicate 9189 0))) = false ∧
    Instr.wellFormed (.packetReceive (udp (List.replicate 9188 0))) = true ∧
    Instr.wellFormed (.flitReceive 1 (List.replicate 503 0)) = false ∧ Instr.wellFormed (.flitReceive 1 (List.replicate 504 0)) = true ∧
    Instr.wellFormed (.deviceReset longReq) = false ∧ Instr.wellFormed (.shelfReset (some longReq) 0 0) = false ∧
    Instr.wellFormed (.shelfReset none 0 0) = true := by decide +kernel

theorem test_ill_formed_events : Instr.wellFormed (.ack 0 true 0 (List.replicate 5 (0, 0))) = false ∧
    Instr.wellFormed (.laneErrorWindow 1 (List.replicate 9 0)) = false ∧ Instr.wellFormed (.linkState 1 [0]) = false ∧
    Instr.wellFormed (.estimationPeriod [] 0) = false ∧
    Instr.wellFormed (.estimationPeriod (List.replicate 4 ⟨2 ^ 64, 0, 0, 0, 0, 0, 0, 0, 0⟩) 0) = false ∧
    Instr.wellFormed (.groupTraining 1 (trainedBy 0xFF 0xFF (ident 1 256 1 true))) = false ∧
    Instr.wellFormed (.groupTraining 1 (trainedBy 0xFF 0xFF { ident 1 1 1 true with vmin := 256 })) = false ∧
    Instr.wellFormed (.groupTraining 1 (trainedBy 0xFF 0xFF (ident 1 1 256 true))) = false ∧
    Instr.wellFormed (.groupTraining 1 { trainedBy 0xFF 0xFF (ident 1 1 1 true) with phase := 0 }) = false ∧
    Instr.wellFormed (.groupTraining 1 { trainedBy 0xFF 0xFF (ident 1 1 1 true) with ratios := List.replicate 9 0 }) = false ∧
    Instr.wellFormed (.groupTraining 1 (trainedBy 0xFF 0xFF (ident 1 1 1 true))) = true ∧
    Instr.wellFormed (.groupRegister 0 0 0 65) = false ∧ Instr.wellFormed (.serveWork 0 (.unit [(2 ^ 44, [])] 0 true)) = false ∧
    Instr.wellFormed (.trainingImageBuild 0 0 (432 * 2 ^ 30)) = false ∧ Instr.wellFormed (.trainingImageBuild 0 (432 * 2 ^ 30) 0) = false := by
  decide +kernel

theorem test_ill_formed_trim : Instr.wellFormed (.waitWake ⟨16, 2⟩) = false ∧ Instr.wellFormed (.waitWake ⟨16, 1⟩) = true ∧
    Instr.wellFormed (.waitWake ⟨15, 3⟩) = true ∧
    TrimBase.wellFormed { machineMode with pmp := [(16, {})] } = false ∧ TrimBase.wellFormed { machineMode with pmp := [(1, {}), (0, {})] } = false ∧
    TrimBase.wellFormed machineMode = true := by decide +kernel

end Sys2Proof.Tests
end

section
/-!
PROOF. Churn rings (R208 to R210): the statement fails where the completion word crosses a 2 MiB page and two entries of
the region table overlap. `State.JobDest` checks R315 once for the whole range, and an entry that covers both pages passes
it; the write checks each page's piece by itself, and an entry that covers the first page alone, listed before, refuses it.
R314 admits no such table (`State.regionOk`), but the statement speaks of every state.
-/

namespace Sys2Proof.Machine

/-- A write whose piece in the first page is refused writes nothing. -/
theorem State.hbmPutLong_of_first_page_refused {s : State} {i : Init} {o : Nat} {bs : List Byte} {st : Status}
    (refused : s.regionCheck i o (min (0x200000 - o % 0x200000) bs.length) true = some st) (hst : st ≠ 0) :
    s.hbmPutLong i o bs = (s, st) := by
  have first : s.hbmPut i o (bs.take (0x200000 - o % 0x200000)) = (s, st) := by
    simp only [State.hbmPut, List.length_take, refused]
  simp only [State.hbmPutLong, pagePieces, State.hbmPutAll, first, if_pos hst]

/-- A Churn write to HBM of the job's partition is a write in pieces, one for each page. -/
theorem State.churnWrite_of_jobDest {s : State} {p o : Nat} {a : BitVec 64} {bs : List Byte} (d : s.JobDest p a bs.length o) :
    s.churnWrite p a bs = s.hbmPutLong (Init.job p false) o bs := by
  obtain ⟨notSram, inHbm, inJob, -, -⟩ := d
  simp [State.churnWrite, State.engineWrite, notSram, inHbm, inJob]

/-- Moving HEAD leaves HBM as it is. -/
theorem State.hbmNat_ringPop (s : State) (sh a n : Nat) : (s.ringPop sh).hbmNat a n = s.hbmNat a n := rfl

/-- Where the completion word's piece in the first page is refused, HBM reads as before the end of the entry. -/
theorem State.hbmNat_churnDone_of_first_page_refused {s : State} {sh v o a n : Nat} {c : ChurnCmd} {st no : Status}
    (d : s.JobDest c.part c.doneAt 8 o)
    (refused : s.regionCheck (Init.job c.part false) o (min (0x200000 - o % 0x200000) 8) true = some no) (hno : no ≠ 0) :
    (s.churnDone sh c st v).hbmNat a n = s.hbmNat a n := by
  have len (w : Nat) : (natLE w 8).length = 8 := rfl
  rw [State.churnDone, State.hbmNat_ringPop, State.churnWrite_of_jobDest (o := o) (by rwa [len]),
    State.hbmPutLong_of_first_page_refused (by rwa [len]) hno]

/-- After reset, with two overlapping entries in the region table: entry 16 gives page 0 to partition 1, entry 17 gives
pages 0 and 1 to partition 0. -/
def overlappingRegions : State :=
  { State.reset with regions := [(16, { v := true, owner := 1, npg := 1 }), (17, { v := true, owner := 0, npg := 2 })] }

/-- An entry of partition 0 with an opcode that R210 does not list, whose completion word crosses from page 0 to page 1. -/
def crossingEntry : ChurnCmd := churnCmd 0 0 0x1FFFFC 0 0 0 0

theorem crossingEntry_jobDest :
    overlappingRegions.JobDest crossingEntry.part crossingEntry.doneAt 8 0x1FFFFC := by
  unfold State.JobDest
  decide

/-- The four bytes in page 0 belong to partition 1 by entry 16. -/
theorem crossingEntry_first_page_refused :
    overlappingRegions.regionCheck (Init.job crossingEntry.part false) 0x1FFFFC
      (min (0x200000 - 0x1FFFFC % 0x200000) 8) true = some St.accessDenied := by decide

/-- Refutes O57: with overlapping region entries (`overlappingRegions`) the completion word CHURN_CMD_INVALID of
`crossingEntry`, which meets `State.JobDest`, is not written, and its place still reads 0. -/
theorem not_churnRings : ¬ Obligations.ChurnRings := by
  unfold Obligations.ChurnRings
  rintro ⟨-, completes, -⟩
  obtain ⟨word, -⟩ := completes overlappingRegions 0 crossingEntry St.churnCmdInvalid 0 0x1FFFFC crossingEntry_jobDest
  rw [State.hbmNat_churnDone_of_first_page_refused crossingEntry_jobDest crossingEntry_first_page_refused (by decide)] at word
  have unwritten : overlappingRegions.hbmNat 0x1FFFFC 8 = 0 := by decide
  rw [unwritten] at word
  exact absurd word (by decide)

end Sys2Proof.Machine
end

section
/-!
PROOF. Reset and start-up (R418, R426 to R429): what a power-on reset leaves, what RESET_N low loses and keeps, and the
steps of the start-up, each with its frame.
-/

namespace Sys2Proof.Machine

/-- Settles O2: no table lists anything, so every read is a default. -/
theorem resetLeaves : Obligations.ResetLeaves := by
  unfold Obligations.ResetLeaves
  refine ⟨rfl, rfl, rfl, rfl, rfl, rfl, rfl, rfl, fun _ => ⟨rfl, rfl⟩, fun _ => rfl, rfl, rfl, fun _ => rfl, fun _ _ => rfl,
    fun _ => ⟨rfl, rfl⟩, rfl, fun _ => rfl⟩

/-! ### What a frame keeps of the named reads -/

theorem Frame.core {l : List Field} {s t : State} (h : Frame l s t) (k : Nat) (n : .cores ∉ l := by decide) :
    t.core k = s.core k := by
  have e : t.cores = s.cores := h.same .cores n
  rw [State.core, e, ← State.core]

theorem Frame.shelf {l : List Field} {s t : State} (h : Frame l s t) (sh : Nat) (n : .shelves ∉ l := by decide) :
    t.shelf sh = s.shelf sh := by
  have e : t.shelves = s.shelves := h.same .shelves n
  rw [State.shelf, e, ← State.shelf]

/-- A repair map is a matter of the recorded rows (R56). -/
theorem State.repairMap_congr {s t : State} (rows : t.test.rows = s.test.rows) (k : Nat) : t.repairMap k = s.repairMap k := by
  unfold State.repairMap State.arrayMap State.failedRows
  rw [rows]

theorem Frame.repairMap {l : List Field} {s t : State} (h : Frame l s t) (k : Nat) (n : .test ∉ l := by decide) :
    t.repairMap k = s.repairMap k := by
  have e : t.test = s.test := h.same .test n
  exact State.repairMap_congr (by rw [e]) k

theorem Frame.group {l : List Field} {s t : State} (h : Frame l s t) (g : Nat) (n : .fabric ∉ l := by decide) :
    t.group g = s.group g := by
  have e : t.fabric = s.fabric := h.same .fabric n
  rw [State.group, e, ← State.group]

theorem Frame.fixedRegions {l : List Field} {s t : State} (h : Frame l s t) (n : .part ∉ l := by decide) :
    t.fixedRegions = s.fixedRegions := by
  have e : t.part = s.part := h.same .part n
  unfold State.fixedRegions State.sysBase
  rw [e]

theorem Frame.stored {l : List Field} {s t : State} (h : Frame l s t) (k d : Nat) (n : .odStore ∉ l := by decide) :
    t.stored k d = s.stored k d := by
  have e : t.odStore = s.odStore := h.same .odStore n
  rw [State.stored, e, ← State.stored]

/-! ### Work on every physical core in turn -/

theorem State.frame_modCore (s : State) (p : Nat) (f : Core → Core) : Frame [.cores, .woken] s (s.modCore p f) :=
  .upd (.refl _ s)

/-- Work on the first `n` cores of a shelf in turn, each piece of which changes its own core alone. -/
theorem State.core_foldl_shelf {s : State} {step : State → Nat → Nat → State} {g : Nat → Nat → Core → Core}
    (own : ∀ u sh q, Frame [.cores, .woken] s u → Frame [.cores, .woken] s (step u sh q) ∧
      ∀ k, (step u sh q).core k = if k = 9 * sh + q then g sh q (u.core k) else u.core k)
    (sh n : Nat) {u : State} (hu : Frame [.cores, .woken] s u) :
    let t := (List.range n).foldl (fun u q => step u sh q) u
    Frame [.cores, .woken] s t ∧
      ∀ k, t.core k = if 9 * sh ≤ k ∧ k < 9 * sh + n then g sh (k - 9 * sh) (u.core k) else u.core k := by
  induction n with
  | zero => exact ⟨hu, fun k => by rw [if_neg (by omega)]; rfl⟩
  | succ n ih =>
    obtain ⟨kept, cores⟩ := ih
    obtain ⟨kept', core'⟩ := own _ sh n kept
    simp only [List.range_succ, List.foldl_append, List.foldl_cons, List.foldl_nil]
    refine ⟨kept', fun k => ?_⟩
    rw [core', cores]
    by_cases last : k = 9 * sh + n
    · subst last
      simp
    · rw [if_neg last]
      congr 1
      exact propext (by omega)

/-- Work on every physical core in turn, each piece of which changes its own core alone. -/
theorem State.core_foldl_shelves {s : State} {step : State → Nat → Nat → State} {g : Nat → Nat → Core → Core}
    (own : ∀ u sh q, Frame [.cores, .woken] s u → Frame [.cores, .woken] s (step u sh q) ∧
      ∀ k, (step u sh q).core k = if k = 9 * sh + q then g sh q (u.core k) else u.core k) (m : Nat) :
    let t := (List.range m).foldl (fun u sh => (List.range 9).foldl (fun u q => step u sh q) u) s
    Frame [.cores, .woken] s t ∧
      ∀ sh q, q < 9 → t.core (9 * sh + q) = if sh < m then g sh q (s.core (9 * sh + q)) else s.core (9 * sh + q) := by
  induction m with
  | zero => exact ⟨.refl _ s, fun sh q _ => by rw [if_neg (by omega)]; rfl⟩
  | succ m ih =>
    obtain ⟨kept, cores⟩ := ih
    obtain ⟨kept', core'⟩ := State.core_foldl_shelf own m 9 kept
    simp only [List.range_succ (n := m), List.foldl_append, List.foldl_cons, List.foldl_nil]
    refine ⟨kept', fun sh q hq => ?_⟩
    rw [core', cores sh q hq]
    by_cases last : sh = m
    · subst last
      simp [hq]
    · rw [if_neg (by omega)]
      congr 1
      exact propext (by omega)

/-- Where a core stands after the start-up: its place in the core map, or retired (R75). -/
def Core.placed (map : List Nat) (q : Nat) (k : Core) : Core :=
  { k with use := if k.use = .retired then .retired else if map.contains q then .active else .retention }

theorem State.startCores_spec (s : State) :
    Frame [.cores, .woken] s s.startCores ∧
      ∀ sh q, sh < 16 → q < 9 → s.startCores.core (9 * sh + q) = (s.core (9 * sh + q)).placed (s.shelf sh).map q := by
  obtain ⟨kept, cores⟩ := State.core_foldl_shelves (s := s)
    (step := fun u sh q => u.modCore (9 * sh + q) (Core.placed (u.shelf sh).map q))
    (g := fun sh q => Core.placed (s.shelf sh).map q) (m := 16) fun u sh q hu => by
      refine ⟨hu.trans (u.frame_modCore _ _), fun k => ?_⟩
      rw [State.core_modCore, hu.shelf sh]
      split
      · next h => rw [h]
      · rfl
  exact ⟨kept, fun sh q hsh hq => (cores sh q hq).trans (if_pos hsh)⟩

/-- A core with its repair map again, unless it is retired (R427). -/
def Core.mapped (l : List RepairEntry) (k : Core) : Core := if k.use = .retired then k else { k with repair := l }

theorem State.startMaps_spec (s : State) :
    Frame [.cores, .woken] s s.startMaps ∧
      ∀ sh q, sh < 16 → q < 9 → s.startMaps.core (9 * sh + q) = (s.core (9 * sh + q)).mapped (s.repairMap (9 * sh + q)) := by
  obtain ⟨kept, cores⟩ := State.core_foldl_shelves (s := s)
    (step := fun u sh q => if (u.core (9 * sh + q)).use = .retired then u else u.applyMap (9 * sh + q))
    (g := fun sh q => Core.mapped (s.repairMap (9 * sh + q))) (m := 16) fun u sh q hu => by
      split
      · next retired =>
        refine ⟨hu, fun k => ?_⟩
        split
        · next h => rw [h, Core.mapped, if_pos retired]
        · rfl
      · next inUse =>
        refine ⟨hu.trans (u.frame_modCore _ _), fun k => ?_⟩
        rw [State.applyMap, State.core_modCore, hu.repairMap]
        split
        · next h => rw [h, Core.mapped, if_neg inUse]
        · rfl
  exact ⟨kept, fun sh q hsh hq => (cores sh q hq).trans (if_pos hsh)⟩

/-! ### The bank that starts (R349) -/

/-- The images of a bank are valid, with no SVN below its fused counter (R349). -/
def State.Fits (s : State) (b : Bank) : Prop :=
  b.valid = true ∧ b.sgf.valid = true ∧ b.mgf.valid = true ∧ b.trf.valid = true ∧
    s.fw.fused.getD 0 0 ≤ b.sgf.svn ∧ s.fw.fused.getD 1 0 ≤ b.mgf.svn ∧ s.fw.fused.getD 2 0 ≤ b.trf.svn

theorem State.bankOk_iff (s : State) (b : Bank) : s.bankOk b = true ↔ s.Fits b := by
  simp only [State.bankOk, State.Fits, Bool.and_eq_true, decide_eq_true_eq]
  tauto

/-- Bank A or bank B. -/
def State.bank (s : State) (b : Bool) : Bank := if b then s.fw.bankB else s.fw.bankA

theorem State.bootBank_none {s : State} (a : ¬ s.Fits s.fw.bankA) (b : ¬ s.Fits s.fw.bankB) : s.bootBank = none := by
  rw [← s.bankOk_iff] at a b
  cases active : s.fw.activeB <;> simp [State.bootBank, active, a, b]

/-- The active bank starts, or the other one where the active bank does not verify. -/
theorem State.bootBank_some {s : State} {b : Bool} (fit : s.Fits (s.bank b)) (turn : b = s.fw.activeB ∨ ¬ s.Fits (s.bank !b)) :
    s.bootBank = some b := by
  rw [← s.bankOk_iff] at fit turn
  cases active : s.fw.activeB <;> cases b <;> simp_all [State.bootBank, State.bank]

/-! ### The steps of the start-up (R428) -/

theorem State.frame_startImages (s : State) (b : Bool) : Frame [.fw] s (s.startImages b) := .upd (.refl _ s)

theorem State.frame_startSystemArea (s : State) : Frame [.regions, .ecc] s s.startSystemArea := .upd (.refl _ s)

theorem State.frame_startKeys (s : State) : Frame [.free, .sec] s s.startKeys.drawNonce :=
  .upd (.upd (.refl _ s)) (p := rfl)

/-- What a listed key reads as stands in the table. -/
theorem mem_of_tabGet {α : Type} (d : α) {t : Tab α} {k : Nat} (listed : k ∈ t.map (·.1)) : (k, tabGet d t k) ∈ t := by
  induction t with
  | nil => simp at listed
  | cons e t ih =>
    obtain ⟨j, v⟩ := e
    by_cases here : j = k
    · simp [tabGet, here]
    · rw [tabGet, if_neg here]
      exact List.mem_cons_of_mem _ (ih (by simpa [Ne.symm here] using listed))

/-- The eight fixed entries stand, and the others stay as they were (R312, R314). -/
theorem State.regions_startSystemArea (s : State) (e : Nat) :
    tabGet {} s.startSystemArea.regions e = if e < 8 then tabGet {} s.fixedRegions e else tabGet {} s.regions e := by
  have keys : s.fixedRegions.map (·.1) = List.range 8 := rfl
  obtain ⟨listed, others⟩ := tabGet_foldl_set {} s.fixedRegions s.regions e (keys ▸ List.nodup_range)
  split
  · next low => exact listed _ (mem_of_tabGet _ (by rw [keys]; simpa using low))
  · next high => exact others (by rw [keys]; simpa using high)

theorem State.frame_loadStore (s : State) : Frame [.od, .mode, .power] s (s.loadStore true) := by
  unfold State.loadStore
  simp only [if_true]
  split
  · exact .upd (.refl _ s)
  · exact .upd (.refl _ s)

/-- The modes come from the firmware store, with nothing staged beside them (R251, R418). -/
theorem State.mode_loadStore (s : State) : ∃ items : ModeItems,
    (s.loadStore true).mode = { s.mode with cur := items, staged := items, pend := items } ∧
      items.four = (s.stored 0x201001 0 != 0) ∧ items.profile = s.stored 0x301001 0 := by
  refine ⟨⟨s.stored 0x201001 0 != 0, BitVec.ofNat 8 (s.stored 0x201101 1), s.stored 0x301001 0⟩, ?_, rfl, rfl⟩
  unfold State.loadStore
  simp only [if_true]
  split <;> rfl

theorem State.stored_eq (s : State) (k d : Nat) :
    s.stored k d = if tabGet 0 s.odStore k = 0 then d else tabGet 0 s.odStore k - 1 := by
  unfold State.stored
  split
  · next h => rw [if_pos h]
  · next n h => rw [h, if_neg (Nat.succ_ne_zero n), Nat.succ_sub_one]

theorem State.group_modGroup (s : State) (g j : Nat) (f : LaneGroup → LaneGroup) :
    (s.modGroup g f).group j = if j = g then f (s.group g) else s.group j := tabGet_mod _ _ _ _ _

theorem State.frame_modGroup (s : State) (g : Nat) (f : LaneGroup → LaneGroup) : Frame [.fabric] s (s.modGroup g f) :=
  .upd (.refl _ s)

/-- The groups from 1 on are set training in turn. -/
theorem State.startGroups_spec (s : State) (n : Nat) :
    let t := (List.range n).foldl (fun s i => s.modGroup (i + 1) fun l => { l with st := .training, phase := 0, attempts := 0 }) s
    Frame [.fabric] s t ∧ ∀ g, 1 ≤ g → g ≤ n → (t.group g).st = .training := by
  induction n with
  | zero => exact ⟨.refl _ s, fun g _ _ => by omega⟩
  | succ n ih =>
    obtain ⟨kept, groups⟩ := ih
    simp only [List.range_succ, List.foldl_append, List.foldl_cons, List.foldl_nil]
    refine ⟨kept.trans (State.frame_modGroup ..), fun g low high => ?_⟩
    rw [State.group_modGroup]
    split
    · rfl
    · exact groups g low (by omega)

/-- Every group and spare lane trains, and so does the host port, unless its module has failed (R21, R303). -/
theorem State.startLinks_spec (s : State) :
    Frame [.fabric, .port] s s.startLinks ∧ s.startLinks.port.port = (if s.mod.portBad then .down else .training) ∧
      ∀ g, 1 ≤ g → g ≤ 15 → (s.startLinks.group g).st = .training := by
  have spec := s.startGroups_spec 15
  unfold State.startLinks
  revert spec
  generalize List.foldl _ s (List.range 15) = u
  rintro ⟨kept, groups⟩
  have pins : u.mod = s.mod := kept.same .mod (by decide)
  exact ⟨.upd (kept.mono (by simp)), by rw [← pins], groups⟩

/-! ### The start-up self-test without a fault (R393, R398) -/

/-- An entry that reports RES 0 tells of no failure. -/
theorem Result.ending_of_passed (blk inst unit test : Nat) (w : BitVec 64) :
    Result.ending ⟨resultW0 blk inst unit test 0 0, w⟩ = false := by
  have res : bits (resultW0 blk inst unit test 0 0).toNat 39 36 = 0 := by
    simp only [bits, resultW0, BitVec.toNat_ofNat]
    omega
  simp [Result.ending, res]

theorem Result.ending_loopEntry {r : StartReport} (sound : r.faults = []) : (loopEntry r).ending = false := by
  cases looped : r.looped <;> simp only [loopEntry, sound, looped] <;> decide

/-- Without a fault the self-test records its entries alone, none of which ends service. -/
theorem State.selfTest_of_no_fault (s : State) {r : StartReport} (sound : r.faults = []) (kept : r.recordOk = true) :
    ∃ l, s.selfTest r = { s with test := { s.test with loopBad := false, startResults := l } } ∧ l.any Result.ending = false := by
  simp only [State.selfTest, sound, kept, if_true, List.foldl_nil]
  refine ⟨_, rfl, ?_⟩
  rw [List.any_eq_false]
  intro e he
  rcases List.mem_append.1 (List.mem_of_mem_take he) with he | he
  · obtain ⟨u, -, hu⟩ := List.mem_flatMap.1 he
    simp only [List.filter_nil, List.map_nil, List.mem_singleton] at hu
    rw [hu, Result.ending_of_passed]
    decide
  · rw [List.mem_singleton.1 he, Result.ending_loopEntry sound]
    decide

/-- What the start-up has done before its system area: the bank's images run, and the self-test without a fault has
recorded what it passed. -/
structure State.FirstSteps (s t : State) (r : StartReport) (b : Bool) : Prop where
  kept : Frame [.fw, .cores, .woken, .test, .ecc] s t
  runB : t.fw.runB = b
  running : t.fw.running = s.bank b
  retired : ∀ sh q, sh < 16 → q < 9 → ((t.core (9 * sh + q)).use = .retired ↔ (s.core (9 * sh + q)).use = .retired)
  rows : t.test.rows = s.test.rows
  ending : t.test.ending = s.test.ending
  results : s.mod.cold = true ∨ s.test.startResults.any Result.ending = false → t.test.startResults.any Result.ending = false
  remaps : s.mod.cold = true → t.ecc.remaps = s.ecc.remaps.filter fun e => r.noSpare.contains (e.1, e.2.1, e.2.2.1)

/-- The first steps of a start-up on a bank: its images, and at a cold start the self-test and the post-package repair. -/
def State.startFirst (s : State) (r : StartReport) (b : Bool) : State :=
  if s.mod.cold then ((s.startImages b).startCores.selfTest r).postRepair r else s.startImages b

theorem Core.placed_retired_iff (map : List Nat) (q : Nat) (k : Core) : (k.placed map q).use = .retired ↔ k.use = .retired := by
  unfold Core.placed
  dsimp only
  split
  · next h => simp [h]
  · next h => split <;> simp [h]

theorem State.firstSteps_warm {s : State} (r : StartReport) (b : Bool) (warm : s.mod.cold = false) :
    s.FirstSteps (s.startFirst r b) r b := by
  rw [State.startFirst, if_neg (by simp [warm])]
  exact {
    kept := (s.frame_startImages b).mono (by simp)
    runB := rfl
    running := rfl
    retired := fun _ _ _ _ => Iff.rfl
    rows := rfl
    ending := rfl
    results := fun h => h.elim (fun cold => by simp [warm] at cold) id
    remaps := fun cold => by simp [warm] at cold }

/-- The cold start-up from the state `u` in which its cores have taken their places. -/
theorem State.firstSteps_of_places {s u : State} (r : StartReport) {b : Bool} {l : List Result}
    (places : Frame [.cores, .woken] (s.startImages b) u)
    (retired : ∀ sh q, sh < 16 → q < 9 → ((u.core (9 * sh + q)).use = .retired ↔ (s.core (9 * sh + q)).use = .retired))
    (passed : l.any Result.ending = false) :
    s.FirstSteps ({ u with test := { u.test with loopBad := false, startResults := l } }.postRepair r) r b := by
  have fw : u.fw = (s.startImages b).fw := places.same .fw (by decide)
  have test : u.test = s.test := places.same .test (by decide)
  have ecc : u.ecc = s.ecc := places.same .ecc (by decide)
  exact {
    kept := .upd (.upd (places.step (s.frame_startImages b |>.mono (by simp))))
    runB := congrArg Firmware.runB fw
    running := congrArg Firmware.running fw
    retired := retired
    rows := by rw [← test]; rfl
    ending := by rw [← test]; rfl
    results := fun _ => passed
    remaps := fun _ => congrArg (fun x : Ecc => x.remaps.filter _) ecc }

theorem State.firstSteps_cold {s : State} {r : StartReport} (b : Bool) (cold : s.mod.cold = true) (sound : r.faults = [])
    (record : r.recordOk = true) : s.FirstSteps (s.startFirst r b) r b := by
  obtain ⟨kept, cores⟩ := (s.startImages b).startCores_spec
  obtain ⟨l, tested, passed⟩ := (s.startImages b).startCores.selfTest_of_no_fault sound record
  rw [State.startFirst, if_pos cold, tested]
  exact State.firstSteps_of_places r kept (fun sh q hsh hq => by rw [cores sh q hsh hq, Core.placed_retired_iff]; rfl) passed

theorem State.firstSteps {s : State} {r : StartReport} (b : Bool) (sound : r.faults = []) (record : r.recordOk = true) :
    s.FirstSteps (s.startFirst r b) r b := by
  cases cold : s.mod.cold
  · exact State.firstSteps_warm r b cold
  · exact State.firstSteps_cold b cold sound record

/-! ### The rest of the start-up (R428) -/

/-- The last steps: cores take their places with their repair maps, and Saggar derives its keys. -/
def State.startPlaces (s : State) : State := s.startCores.startMaps.startKeys.drawNonce

theorem State.kown_startKeys (s : State) :
    s.startKeys.drawNonce.sec.kown = if s.sec.claimed then ownerKown s.sec.ownerKey else 0 := rfl

theorem State.core_startKeys (s : State) (k : Nat) : s.startKeys.drawNonce.core k = s.core k := rfl

theorem State.frame_startPlaces (s : State) : Frame [.cores, .woken, .sec, .free] s s.startPlaces := by
  obtain ⟨places, -⟩ := s.startCores_spec
  obtain ⟨maps, -⟩ := s.startCores.startMaps_spec
  have cores : Frame [.cores, .woken, .sec, .free] s s.startCores.startMaps := (places.trans maps).mono (by simp)
  exact (State.frame_startKeys s.startCores.startMaps).step cores

theorem State.kown_startPlaces (s : State) :
    s.startPlaces.sec.kown = if s.sec.claimed then ownerKown s.sec.ownerKey else 0 := by
  obtain ⟨places, -⟩ := s.startCores_spec
  obtain ⟨maps, -⟩ := s.startCores.startMaps_spec
  have sec : s.startCores.startMaps.sec = s.sec := (places.trans maps).same .sec (by decide)
  rw [State.startPlaces, State.kown_startKeys, sec]

theorem State.core_startPlaces (s : State) {sh q : Nat} (hsh : sh < 16) (hq : q < 9) :
    s.startPlaces.core (9 * sh + q) =
      ((s.core (9 * sh + q)).placed (s.shelf sh).map q).mapped (s.repairMap (9 * sh + q)) := by
  obtain ⟨places, placed⟩ := s.startCores_spec
  obtain ⟨-, mapped⟩ := s.startCores.startMaps_spec
  rw [State.startPlaces, State.core_startKeys, mapped sh q hsh hq, placed sh q hsh hq, places.repairMap]

/-- The steps after the self-test; `ok`: the store's copies verify. -/
def State.startRest (s : State) (ok : Bool) : State := ((s.startSystemArea.loadStore ok).startLinks).startPlaces

/-- What the start-up leaves, from its system area on: the fixed regions, the stored entries, links that train, cores in
their places with their maps, and K_own. -/
structure State.RestSteps (s t : State) : Prop where
  kept : Frame [.regions, .ecc, .od, .mode, .power, .fabric, .port, .cores, .woken, .sec, .free] s t
  regions : ∀ e, tabGet {} t.regions e = if e < 8 then tabGet {} s.fixedRegions e else tabGet {} s.regions e
  remaps : t.ecc.remaps = s.ecc.remaps
  mode : ∃ items : ModeItems, t.mode = { s.mode with cur := items, staged := items, pend := items } ∧
    items.four = (s.stored 0x201001 0 != 0) ∧ items.profile = s.stored 0x301001 0
  port : t.port.port = if s.mod.portBad then .down else .training
  groups : ∀ g, 1 ≤ g → g ≤ 15 → (t.group g).st = .training
  kown : t.sec.kown = if s.sec.claimed then ownerKown s.sec.ownerKey else 0
  cores : ∀ sh q, sh < 16 → q < 9 → t.core (9 * sh + q) =
    ((s.core (9 * sh + q)).placed (s.shelf sh).map q).mapped (s.repairMap (9 * sh + q))

theorem State.frame_startLinks_startPlaces (s : State) :
    Frame [.fabric, .port, .cores, .woken, .sec, .free] s s.startLinks.startPlaces := by
  obtain ⟨links, -, -⟩ := s.startLinks_spec
  have places := s.startLinks.frame_startPlaces
  exact (links.mono (by simp)).trans (places.mono (by simp))

theorem State.restSteps (s : State) : s.RestSteps (s.startRest true) := by
  have loaded := s.startSystemArea.frame_loadStore
  have linked := (s.startSystemArea.loadStore true).frame_startLinks_startPlaces
  obtain ⟨links, port, groups⟩ := (s.startSystemArea.loadStore true).startLinks_spec
  have area := s.frame_startSystemArea
  have places := (s.startSystemArea.loadStore true).startLinks.frame_startPlaces
  have kown := (s.startSystemArea.loadStore true).startLinks.kown_startPlaces
  have cores := fun sh q => (s.startSystemArea.loadStore true).startLinks.core_startPlaces (sh := sh) (q := q)
  obtain ⟨items, mode, stored⟩ := s.startSystemArea.mode_loadStore
  have regions := s.regions_startSystemArea
  have remaps : s.startSystemArea.ecc.remaps = s.ecc.remaps := rfl
  have stored' : ∀ k d, s.startSystemArea.stored k d = s.stored k d := fun _ _ => rfl
  rw [stored', stored'] at stored
  rw [State.startRest]
  generalize s.startSystemArea = a at *
  generalize a.loadStore true = m at *
  generalize m.startLinks = l at *
  generalize l.startPlaces = t at *
  have before : Frame [.regions, .ecc, .od, .mode, .power, .fabric, .port] s l :=
    ((area.mono (by simp)).trans (loaded.mono (by simp))).trans (links.mono (by simp))
  have after : Frame [.od, .mode, .power, .fabric, .port, .cores, .woken, .sec, .free] a t :=
    (loaded.mono (by simp)).trans (linked.mono (by simp))
  have config : Frame [.regions, .ecc, .od, .mode, .power] s m := (area.mono (by simp)).trans (loaded.mono (by simp))
  exact {
    kept := (before.mono (by simp)).trans (places.mono (by simp))
    regions := fun e => by rw [show t.regions = a.regions from after.same .regions (by decide), regions e]
    remaps := by rw [show t.ecc = a.ecc from after.same .ecc (by decide), remaps]
    mode := ⟨items, by rw [show t.mode = m.mode from linked.same .mode (by decide), mode,
      show a.mode = s.mode from area.same .mode (by decide)], stored⟩
    port := by rw [show t.port = l.port from places.same .port (by decide), port,
      show m.mod = s.mod from config.same .mod (by decide)]
    groups := fun g low high => by rw [places.group g, groups g low high]
    kown := by rw [kown, show l.sec = s.sec from before.same .sec (by decide)]
    cores := fun sh q hsh hq => by rw [cores sh q hsh hq, before.core, before.shelf, before.repairMap] }

/-! ### The start-up as a whole -/

/-- RESET_N is high again. -/
def State.released (s : State) : State := { s with mod := { s.mod with resetN := true } }

/-- A start-up is due: RESET_N deasserts with PGOOD high and the rails up, or a reset by command goes on (R428). -/
def State.StartDue (s : State) : Prop :=
  (s.boot = .held ∧ s.mod.pgood = true ∧ s.mod.rails = true) ∨ (s.boot = .starting ∧ s.mod.resetN = true)

theorem exec_startup_of_due {s : State} (r : StartReport) (due : s.StartDue) :
    exec (.startup r) s = .next (s.released.startUp r) := by
  show execStartup r s = _
  unfold execStartup
  split
  · rfl
  · next notHeld =>
    obtain ⟨held, good, rails⟩ | ⟨starting, high⟩ := due
    · exact absurd ⟨held, good, rails⟩ notHeld
    · have same : s.released = s := by unfold State.released; rw [← high]
      rw [if_pos ⟨starting, high⟩, same]

theorem exec_startup_of_not_due {s : State} (r : StartReport) (due : ¬ s.StartDue) : exec (.startup r) s = .next s := by
  show execStartup r s = _
  unfold execStartup
  rw [if_neg fun h => due (.inl h), if_neg fun h => due (.inr h)]

/-- Without a bank that verifies the die stays in reset, its port down (R349, R429). -/
theorem State.startUp_of_no_bank {s : State} (r : StartReport) (h : s.bootBank = none) :
    s.startUp r = s.serviceEnding.holdDie := by
  simp only [State.startUp, h]

/-- The findings that a start-up acts on: at a start that follows no power-on, those of the tests that then run (R427). -/
def State.findings (s : State) (r : StartReport) : StartReport := if s.mod.cold then r else reportAtReset r

/-- A start-up on a bank, with Saggar and the host-port engine sound. -/
theorem State.startUp_of_bank {s : State} {r : StartReport} {b : Bool} (h : s.bootBank = some b)
    (alive : reportDead (s.findings r) = false) :
    s.startUp r =
      let t := (s.startFirst (s.findings r) b).startRest (s.findings r).storeOk
      { t with
        boot := if reportFailed (s.findings r) then .failed else if t.degraded then .degraded else .ready
        mod := { t.mod with cold := false } } := by
  unfold State.findings at alive ⊢
  simp only [State.startUp, State.startFirst, State.startRest, State.startPlaces, h, alive, Bool.false_eq_true, if_false]
  congr 1

/-- Nothing of R405 leaves the device with less than full service. -/
theorem State.not_degraded {s : State} (ending : s.test.ending = 0) (results : s.test.startResults.any Result.ending = false)
    (shelves : ∀ sh, sh < 16 → 15 ∉ (s.shelf sh).map ∧ ∀ k, k < 4 → (s.trim sh k).off = false) : s.degraded = false := by
  simp only [State.degraded, ending, results, Nat.lt_irrefl, decide_false, Bool.false_or, List.any_eq_false, List.mem_range]
  intro sh hsh
  obtain ⟨cores, trims⟩ := shelves sh hsh
  have running : (List.range 4).filter (fun k => (s.trim sh k).off) = [] :=
    List.filter_eq_nil_iff.2 fun k hk => by simp [trims k (List.mem_range.1 hk)]
  simp [cores, running]

theorem State.degraded_of_ending {s : State} (ending : 0 < s.test.ending) : s.degraded = true := by
  simp [State.degraded, ending]

theorem State.findings_sound {s : State} {r : StartReport} (sound : r.faults = []) : (s.findings r).faults = [] := by
  unfold State.findings
  split
  · exact sound
  · simp [reportAtReset, sound]

theorem State.findings_stack {s : State} {r : StartReport} {h : Fin 12} (one : r.faults = [.stack h]) :
    (s.findings r).faults = [.stack h] := by
  unfold State.findings
  split
  · exact one
  · simp [reportAtReset, one]

theorem State.findings_storeOk (s : State) (r : StartReport) : (s.findings r).storeOk = r.storeOk := by
  unfold State.findings
  split <;> rfl

theorem State.findings_recordOk (s : State) (r : StartReport) : (s.findings r).recordOk = r.recordOk := by
  unfold State.findings
  split <;> rfl

theorem State.findings_of_cold {s : State} (r : StartReport) (cold : s.mod.cold = true) : s.findings r = r := if_pos cold

/-! ### A reset of the die (R427) -/

/-- The bytes that a device reset zeroes: the work slots, and what a layout change had still to scrub (R311, R427). -/
def State.ResetZeroes (s : State) (a : Nat) : Prop :=
  (s.slotBase ≤ a ∧ a < s.slotBase + 0x420000) ∨
    ∃ p ∈ s.mode.scrub, (s.userArea p).1 ≤ a ∧ a < (s.userArea p).1 + (s.userArea p).2

/-- Ranges cleared in turn: a key in one of them reads as the default, any other as before. -/
theorem tabGet_foldl_clear {α ι : Type} (d : α) (range : ι → Nat × Nat) (l : List ι) (t : Tab α) (a : Nat) :
    let cleared := tabGet d (l.foldl (fun t p => tabClear t (range p).1 (range p).2) t) a
    ((∃ p ∈ l, (range p).1 ≤ a ∧ a < (range p).1 + (range p).2) → cleared = d) ∧
      ((¬ ∃ p ∈ l, (range p).1 ≤ a ∧ a < (range p).1 + (range p).2) → cleared = tabGet d t a) := by
  induction l generalizing t with
  | nil => simp
  | cons p l ih =>
    obtain ⟨inside, outside⟩ := ih (tabClear t (range p).1 (range p).2)
    rw [tabGet_clear] at outside
    simp only [List.foldl_cons, List.mem_cons, exists_eq_or_imp]
    by_cases later : ∃ p ∈ l, (range p).1 ≤ a ∧ a < (range p).1 + (range p).2
    · exact ⟨fun _ => inside later, fun none => absurd (.inr later) none⟩
    · refine ⟨fun some => ?_, fun none => ?_⟩
      · rw [outside later, if_pos (some.resolve_right later)]
      · rw [outside later, if_neg fun here => none (.inl here)]

theorem State.tabGet_keptHbm (s : State) (a : Nat) :
    (s.ResetZeroes a → tabGet 0 s.keptHbm a = 0) ∧ (¬ s.ResetZeroes a → tabGet 0 s.keptHbm a = tabGet 0 s.hbm a) := by
  obtain ⟨inside, outside⟩ := tabGet_foldl_clear 0 s.userArea s.mode.scrub s.hbm a
  unfold State.keptHbm
  dsimp only
  rw [tabGet_clear]
  refine ⟨fun zeroed => ?_, fun kept => ?_⟩
  · split
    · rfl
    · next notSlot => exact inside (zeroed.resolve_left notSlot)
  · rw [if_neg fun slot => kept (.inl slot), outside fun area => kept (.inr area)]

theorem State.frame_modShelf (s : State) (sh : Nat) (f : Shelf → Shelf) : Frame [.shelves, .woken] s (s.modShelf sh f) :=
  .upd (.refl _ s)

/-- The end of an in-service test changes shelves and the test alone. -/
theorem State.frame_endTestAtReset (s : State) : Frame [.shelves, .woken, .test] s s.endTestAtReset := by
  unfold State.endTestAtReset
  dsimp only
  split
  · exact .refl _ s
  · exact .upd ((s.frame_modShelf _ _).mono (by simp)) (p := rfl)

theorem State.keptHbm_endTestAtReset (s : State) : s.endTestAtReset.keptHbm = s.keptHbm := by
  unfold State.endTestAtReset
  dsimp only
  split <;> rfl

theorem exec_resetNAssert_of_held {s : State} (held : s.mod.pgood = false ∨ s.boot = .held) :
    exec .resetNAssert s = .next { s with mod := { s.mod with resetN := false } } := by
  show execResetNAssert s = _
  exact if_pos (held.imp_left fun low => by simp [low])

theorem exec_resetNAssert_of_running {s : State} (good : s.mod.pgood = true) (running : s.boot ≠ .held) :
    exec .resetNAssert s = .next
      { ({ s with mod := { s.mod with resetN := false } } : State).dieReset s.mod.cold with boot := .held, cause := .resetPin } := by
  show execResetNAssert s = _
  exact if_neg (by simp [good, running])

/-! ### Where a start-up without findings leads -/

/-- A start-up on bank `b` with no fault found: from `s` to `t` what the statement on the start-up says of it. -/
structure State.StartedClean (s t : State) (r : StartReport) (b : Bool) : Prop where
  fw : t.fw.runB = b ∧ t.fw.running = s.bank b
  pins : t.mod = { s.mod with cold := false }
  boot : t.boot = .ready ∨ t.boot = .degraded
  ready : s.test.ending = 0 → s.mod.cold = true ∨ s.test.startResults.any Result.ending = false →
    (∀ sh, sh < 16 → 15 ∉ (s.shelf sh).map ∧ ∀ k, k < 4 → (s.trim sh k).off = false) → t.boot = .ready
  degraded : 0 < s.test.ending → t.boot = .degraded
  regions : ∀ e, tabGet {} t.regions e = if e < 8 then tabGet {} s.fixedRegions e else tabGet {} s.regions e
  four : t.mode.cur.four = (s.stored 0x201001 0 != 0)
  profile : t.mode.cur.profile = s.stored 0x301001 0
  staged : t.mode.staged = t.mode.cur
  epoch : t.mode.epoch = s.mode.epoch
  hbm : t.hbm = s.hbm
  port : t.port.port = if s.mod.portBad then .down else .training
  kown : t.sec.kown = if s.sec.claimed then ownerKown s.sec.ownerKey else 0
  groups : ∀ g, 1 ≤ g → g ≤ 15 → (t.group g).st = .training
  use : ∀ sh q, sh < 16 → q < 9 → (t.core (9 * sh + q)).use =
    if (s.core (9 * sh + q)).use = .retired then .retired else if q ∈ (s.shelf sh).map then .active else .retention
  repair : ∀ sh q, sh < 16 → q < 9 → (s.core (9 * sh + q)).use ≠ .retired →
    (t.core (9 * sh + q)).repair = s.repairMap (9 * sh + q)
  remaps : s.mod.cold = true → t.ecc.remaps = s.ecc.remaps.filter fun e => r.noSpare.contains (e.1, e.2.1, e.2.2.1)

theorem Core.use_mapped (l : List RepairEntry) (k : Core) : (k.mapped l).use = k.use := by
  unfold Core.mapped
  split <;> rfl

theorem Core.repair_mapped (l : List RepairEntry) {k : Core} (inUse : k.use ≠ .retired) : (k.mapped l).repair = l := by
  rw [Core.mapped, if_neg inUse]

theorem Core.use_placed (map : List Nat) (q : Nat) (k : Core) :
    (k.placed map q).use = if k.use = .retired then .retired else if q ∈ map then .active else .retention := by
  simp [Core.placed]

/-- The first steps and the rest together. -/
theorem State.startedClean {s a t : State} {r : StartReport} {b : Bool} (first : s.FirstSteps a r b) (rest : a.RestSteps t) :
    s.StartedClean { t with boot := if t.degraded then .degraded else .ready, mod := { t.mod with cold := false } } r b := by
  have fw : t.fw = a.fw := rest.kept.same .fw (by decide)
  have test : t.test = a.test := rest.kept.same .test (by decide)
  have shelf (sh : Nat) : t.shelf sh = s.shelf sh := (rest.kept.shelf sh).trans (first.kept.shelf sh)
  have pins : a.mod = s.mod := first.kept.same .mod (by decide)
  have sec : a.sec = s.sec := first.kept.same .sec (by decide)
  have pins' : t.mod = a.mod := rest.kept.same .mod (by decide)
  have mode : a.mode = s.mode := first.kept.same .mode (by decide)
  have table : a.regions = s.regions := first.kept.same .regions (by decide)
  have hbm : t.hbm = a.hbm := rest.kept.same .hbm (by decide)
  have hbm' : a.hbm = s.hbm := first.kept.same .hbm (by decide)
  obtain ⟨items, modes, four, profile⟩ := rest.mode
  exact {
    fw := ⟨(congrArg Firmware.runB fw).trans first.runB, (congrArg Firmware.running fw).trans first.running⟩
    pins := by rw [← pins, ← pins']
    boot := by dsimp only; split <;> simp
    ready := fun ending results shelves => by
      have whole : t.degraded = false := State.not_degraded (by rw [test, first.ending, ending])
        (by rw [test, first.results results]) fun sh hsh => by simpa only [State.trim, shelf] using shelves sh hsh
      simp [whole]
    degraded := fun ending => by
      have less : t.degraded = true := State.degraded_of_ending (by rw [test, first.ending]; exact ending)
      simp [less]
    regions := fun e => by rw [← table, ← first.kept.fixedRegions]; exact rest.regions e
    four := by rw [← first.kept.stored, ← four]; exact congrArg (fun m : Mode => m.cur.four) modes
    profile := by rw [← first.kept.stored, ← profile]; exact congrArg (fun m : Mode => m.cur.profile) modes
    staged := by dsimp only; rw [modes]
    epoch := by dsimp only; rw [modes, mode]
    hbm := hbm.trans hbm'
    port := by rw [← pins]; exact rest.port
    kown := by rw [← sec]; exact rest.kown
    groups := rest.groups
    use := fun sh q hsh hq => by
      show (t.core (9 * sh + q)).use = _
      rw [rest.cores sh q hsh hq, Core.use_mapped, Core.use_placed, first.kept.shelf sh]
      simp only [first.retired sh q hsh hq]
    repair := fun sh q hsh hq inUse => by
      show (t.core (9 * sh + q)).repair = _
      rw [rest.cores sh q hsh hq, Core.repair_mapped, State.repairMap_congr first.rows]
      rwa [Ne, Core.placed_retired_iff, first.retired sh q hsh hq]
    remaps := fun cold => rest.remaps.trans (first.remaps cold) }

theorem State.startUp_sound {s : State} {r : StartReport} {b : Bool} (bank : s.bootBank = some b) (sound : r.faults = [])
    (store : r.storeOk = true) (record : r.recordOk = true) : s.StartedClean (s.startUp r) (s.findings r) b := by
  have none : (s.findings r).faults = [] := State.findings_sound sound
  rw [State.startUp_of_bank bank (by simp [reportDead, none]), State.findings_storeOk, store]
  have whole : reportFailed (s.findings r) = false := by simp [reportFailed, none]
  simp only [whole, Bool.false_eq_true, if_false]
  exact State.startedClean (State.firstSteps b none ((s.findings_recordOk r).trans record)) (State.restSteps _)

theorem State.startUp_stack {s : State} {r : StartReport} {b : Bool} {h : Fin 12} (bank : s.bootBank = some b)
    (one : r.faults = [.stack h]) : (s.startUp r).boot = .failed := by
  have stack : (s.findings r).faults = [.stack h] := State.findings_stack one
  rw [State.startUp_of_bank bank (by simp [reportDead, stack])]
  simp [reportFailed, stack]

/-- RESET_N low on a die that runs: what is lost and what is kept (R418, R427). -/
theorem State.dieReset_kept (s : State) (cold : Bool) :
    (s.dieReset cold).mod = s.mod ∧ (s.dieReset cold).odStore = s.odStore ∧ (s.dieReset cold).sec.ownerKey = s.sec.ownerKey ∧
      (cold = false → (s.dieReset cold).mode.epoch = s.mode.epoch ∧ (s.dieReset cold).hbm = s.keptHbm) := by
  have kept := s.frame_endTestAtReset
  have sec : s.endTestAtReset.sec = s.sec := kept.same .sec (by decide)
  have mode : s.endTestAtReset.mode = s.mode := kept.same .mode (by decide)
  refine ⟨kept.same .mod (by decide), kept.same .odStore (by decide), by rw [← sec]; rfl, ?_⟩
  rintro rfl
  exact ⟨by rw [← mode]; rfl, s.keptHbm_endTestAtReset⟩

/-- Settles O52: the start-up is cut into its first steps (`State.FirstSteps`) and the rest (`State.RestSteps`), each
with what it changes. -/
theorem resetAndStartUp : Obligations.ResetAndStartUp := by
  unfold Obligations.ResetAndStartUp
  intro s m bank fit begins stored
  refine ⟨exec_resetNAssert_of_held, fun good running => ?_, fun r => exec_startup_of_not_due r, fun r due noA noB => ?_,
    fun r b due ok turn sound store record => ?_, fun r b h due ok turn one => ?_⟩
  · obtain ⟨pins, odStore, owner, warm⟩ := State.dieReset_kept { s with mod := { s.mod with resetN := false } } m.cold
    refine ⟨_, exec_resetNAssert_of_running good running, pins, rfl, rfl, rfl, rfl, rfl, odStore, owner, fun notCold => ?_⟩
    obtain ⟨epoch, hbm⟩ := warm notCold
    refine ⟨epoch, fun a => ?_⟩
    obtain ⟨zeroed, kept⟩ := s.tabGet_keptHbm a
    refine (congrArg (tabGet 0 · a) hbm).trans ?_
    split
    · next inside => exact zeroed inside
    · next outside => exact kept outside
  · have none : s.released.bootBank = none := State.bootBank_none (s := s) noA noB
    exact ⟨_, exec_startup_of_due r due, by rw [State.startUp_of_no_bank r none]; rfl,
      by rw [State.startUp_of_no_bank r none]; rfl⟩
  · have boots : s.released.bootBank = some b := State.bootBank_some (s := s) ok turn
    have clean := State.startUp_sound boots sound store record
    refine ⟨_, exec_startup_of_due r due, clean.fw.1, clean.fw.2, ?_, ?_, clean.boot,
      fun ⟨ending, results, shelves⟩ => clean.ready ending results shelves, clean.degraded, clean.regions,
      ?_, ?_, clean.staged, clean.epoch, clean.hbm, clean.port, clean.kown, clean.groups, clean.use, clean.repair,
      fun cold => ?_⟩
    · rw [clean.pins]
    · rw [clean.pins]; rfl
    · rw [clean.four, State.stored_eq]; rfl
    · rw [clean.profile, State.stored_eq]; rfl
    · have cold' : s.released.mod.cold = true := cold
      have remaps := clean.remaps cold'
      rwa [State.findings_of_cold r cold'] at remaps
  · have boots : s.released.bootBank = some b := State.bootBank_some (s := s) ok turn
    exact ⟨_, exec_startup_of_due r due, State.startUp_stack boots one⟩

end Sys2Proof.Machine
end

section
/-!
PROOF. What leaves the lane groups alone: messages, operations that fail, works that end. A change of a group tells every
peer and may lose one (R299 to R301), which reaches far into the state; `State.LinksKept` is what all of that keeps.
-/

namespace Sys2Proof.Machine

/-! ### What leaves the lane groups alone -/

/-- From `s` to `t` no lane group has changed, nor the module's own pins and faults, nor whom a peer is trusted to be and
which SEQ is due from it; and nothing that was sent is taken back. -/
structure State.LinksKept (s t : State) : Prop where
  groups : t.fabric.groups = s.fabric.groups
  mod : t.mod = s.mod
  auth : ∀ p, (t.peer p).auth = (s.peer p).auth
  rx : ∀ p, (t.peer p).rx = (s.peer p).rx
  out : ∀ e ∈ s.out, e ∈ t.out

theorem State.LinksKept.refl (s : State) : s.LinksKept s := ⟨rfl, rfl, fun _ => rfl, fun _ => rfl, fun _ => id⟩

theorem State.LinksKept.trans {s t u : State} (h : s.LinksKept t) (g : t.LinksKept u) : s.LinksKept u :=
  ⟨g.groups.trans h.groups, g.mod.trans h.mod, fun p => (g.auth p).trans (h.auth p), fun p => (g.rx p).trans (h.rx p),
    fun e he => g.out e (h.out e he)⟩

theorem State.LinksKept.foldl {α : Type} {s e : State} {f : State → α → State} {l : List α} (h : s.LinksKept e)
    (step : ∀ (u : State) (x : α), u.LinksKept (f u x)) : s.LinksKept (l.foldl f e) := by
  induction l generalizing e with
  | nil => exact h
  | cons x l ih => exact ih (h.trans (step e x))

/-- What changes neither the groups nor the peers nor the pins nor what was sent. -/
theorem State.LinksKept.of_eq {s t : State} (groups : t.fabric.groups = s.fabric.groups) (peers : t.fabric.peers = s.fabric.peers)
    (mod : t.mod = s.mod) (out : t.out = s.out) : s.LinksKept t := by
  have peer (p : Nat) : t.peer p = s.peer p := by rw [State.peer, peers, ← State.peer]
  exact ⟨groups, mod, fun p => by rw [peer], fun p => by rw [peer], fun e he => by rwa [out]⟩

theorem State.LinksKept.ite {s t u : State} {c : Prop} [Decidable c] (yes : s.LinksKept t) (no : s.LinksKept u) :
    s.LinksKept (if c then t else u) := by
  split
  · exact yes
  · exact no

/-- A step more, which changes neither the fabric nor the pins nor what was sent. -/
theorem State.LinksKept.keep {s t u : State} (h : s.LinksKept t) (fabric : u.fabric = t.fabric) (mod : u.mod = t.mod)
    (out : u.out = t.out) : s.LinksKept u :=
  h.trans (.of_eq (by rw [fabric]) (by rw [fabric]) mod out)

theorem State.LinksKept.group {s t : State} (h : s.LinksKept t) (g : Nat) : t.group g = s.group g := by
  rw [State.group, h.groups, ← State.group]

theorem State.LinksKept.groupPeer {s t : State} (h : s.LinksKept t) (g : Nat) : t.groupPeer g = s.groupPeer g := by
  rw [State.groupPeer, h.mod, ← State.groupPeer]

theorem State.LinksKept.reachable {s t : State} (h : s.LinksKept t) (p : Nat) : t.reachable p = s.reachable p := by
  simp only [State.reachable, State.groupTo, h.mod, h.group]

/-! ### Messages to peers -/

theorem State.linksKept_emit (s : State) (e : Emit) : s.LinksKept (s.emit e) :=
  ⟨rfl, rfl, fun _ => rfl, fun _ => rfl, fun _ he => List.mem_append_left _ he⟩

theorem State.peer_modPeer (s : State) (p q : Nat) (f : Peer → Peer) :
    (s.modPeer p f).peer q = if q = p then f (s.peer p) else s.peer q := tabGet_mod _ _ _ _ _

theorem State.linksKept_modPeer (s : State) (p : Nat) {f : Peer → Peer} (auth : (f (s.peer p)).auth = (s.peer p).auth)
    (rx : (f (s.peer p)).rx = (s.peer p).rx) : s.LinksKept (s.modPeer p f) := by
  refine ⟨rfl, rfl, fun q => ?_, fun q => ?_, fun _ => id⟩
  · rw [State.peer_modPeer]
    split
    · next h => rw [h, auth]
    · rfl
  · rw [State.peer_modPeer]
    split
    · next h => rw [h, rx]
    · rfl

theorem Peer.takePayload_kept (x : Peer) (vc part : Nat) :
    (x.takePayload vc part).2.auth = x.auth ∧ (x.takePayload vc part).2.rx = x.rx := by
  unfold Peer.takePayload
  split <;> exact ⟨rfl, rfl⟩

theorem State.linksKept_fillSlots (s : State) (p fuel : Nat) : s.LinksKept (s.fillSlots p fuel) := by
  induction fuel generalizing s with
  | zero => exact .refl s
  | succ fuel ih =>
    unfold State.fillSlots
    dsimp only
    split
    · exact .refl s
    · split
      · exact (s.linksKept_modPeer p rfl rfl).trans ((State.linksKept_emit _ _).trans (ih _))
      · next vc part _ =>
        obtain ⟨auth, rx⟩ := (s.peer p).takePayload_kept vc part
        exact (s.linksKept_modPeer p auth rx).trans ((State.linksKept_emit _ _).trans (ih _))

theorem State.linksKept_pumpPeer (s : State) (p : Nat) : s.LinksKept (s.pumpPeer p) := s.linksKept_fillSlots p _

theorem State.linksKept_controlOf (s : State) (part : Option Nat) (p msgt : Nat) (args : List Nat) :
    s.LinksKept (s.controlOf part p msgt args) := by
  unfold State.controlOf
  dsimp only
  split
  · exact (s.linksKept_emit _).trans ((State.linksKept_modPeer _ p rfl rfl).trans (State.linksKept_pumpPeer _ p))
  · exact .refl s

theorem State.linksKept_announce (s : State) : s.LinksKept s.announce :=
  .foldl (.refl s) fun u p => u.linksKept_controlOf none p _ _

theorem State.linksKept_replayPeer (s : State) (p : Nat) : s.LinksKept (s.replayPeer p) :=
  .foldl (.refl s) fun u _ => u.linksKept_emit _

theorem State.linksKept_sendIdent (s : State) (g : Nat) (i : PeerIdent) : s.LinksKept (s.sendIdent g i) :=
  ⟨rfl, rfl, fun _ => rfl, fun _ => rfl, fun _ he => List.mem_append_left _ he⟩

theorem State.linksKept_logTraining (s : State) (g : Nat) (t : Training) : s.LinksKept (s.logTraining g t) := by
  unfold State.logTraining
  split
  · exact s.linksKept_emit _
  · exact s.linksKept_emit _
  · exact s.linksKept_emit _
  · exact .refl s

theorem State.linksKept_dropShift (s : State) : s.LinksKept s.dropShift := by
  unfold State.dropShift
  split
  · exact .refl s
  · exact .of_eq rfl rfl rfl rfl

/-! ### Operations that fail, and works that end -/

theorem State.linksKept_answerOp (s : State) (id : Nat) (a : Answer) (done : Bool) : s.LinksKept (s.answerOp id a done) :=
  .of_eq rfl rfl rfl rfl

theorem State.linksKept_failPeer (s : State) (p : Nat) : s.LinksKept (s.failPeer p) :=
  .foldl (s.linksKept_modPeer p rfl rfl) fun u _ => u.linksKept_answerOp _ _ _

theorem State.linksKept_modWork (s : State) (i : Nat) (f : Work → Work) : s.LinksKept (s.modWork i f) := .of_eq rfl rfl rfl rfl

theorem State.linksKept_modEntry (s : State) (d : Nat) (f : DirEntry → DirEntry) : s.LinksKept (s.modEntry d f) :=
  .of_eq rfl rfl rfl rfl

theorem State.linksKept_flagWorks (s : State) (sh : Nat) (fl : BitVec 5) : s.LinksKept (s.flagWorks sh fl) := by
  unfold State.flagWorks
  split
  · exact .refl s
  · exact .foldl (.refl s) fun u i => u.linksKept_modWork i _

theorem State.linksKept_modCore (s : State) (p : Nat) (f : Core → Core) : s.LinksKept (s.modCore p f) := .of_eq rfl rfl rfl rfl

theorem State.linksKept_modShelf (s : State) (sh : Nat) (f : Shelf → Shelf) : s.LinksKept (s.modShelf sh f) :=
  .of_eq rfl rfl rfl rfl

theorem State.linksKept_discardCore (s : State) (sh p : Nat) : s.LinksKept (s.discardCore sh p) :=
  ((s.linksKept_modCore p _).trans (State.linksKept_modCore _ p _)).trans (State.linksKept_flagWorks _ sh _)

theorem State.linksKept_discardShelf (s : State) (sh : Nat) : s.LinksKept (s.discardShelf sh) :=
  .foldl (.refl s) fun u c => by
    split
    · exact u.linksKept_discardCore sh _
    · exact .refl u

theorem State.linksKept_abandonOps (s : State) (f : RemOp → Bool) : s.LinksKept (s.abandonOps f) := .of_eq rfl rfl rfl rfl

theorem State.linksKept_stopShelf (s : State) (sh : Nat) : s.LinksKept (s.stopShelf sh) :=
  (s.linksKept_discardShelf sh).trans (State.linksKept_abandonOps _ _)

theorem State.linksKept_dropChurn (s : State) (i : Nat) : s.LinksKept (s.dropChurn i) :=
  .foldl (.refl s) fun u sh => u.linksKept_modShelf sh _

theorem State.linksKept_stopPrograms (s : State) (i : Nat) : s.LinksKept (s.stopPrograms i) := by
  unfold State.stopPrograms
  dsimp only
  have alone := State.LinksKept.ite (c := (s.wk i).st = .running ∧ (s.wk i).handed ∧ s.aloneOnShelf i)
    (s.linksKept_stopShelf (s.wk i).shelf) (.refl s)
  exact .trans (.ite (.foldl alone State.linksKept_stopShelf) alone) (State.linksKept_dropChurn _ i)

theorem State.linksKept_stopWork (s : State) (i : Nat) : s.LinksKept (s.stopWork i) :=
  (s.linksKept_stopPrograms i).trans (State.linksKept_abandonOps _ _)

theorem State.linksKept_abandonLoad (s : State) (d : Nat) : s.LinksKept (s.abandonLoad d) := by
  unfold State.abandonLoad
  split
  · exact .of_eq rfl rfl rfl rfl
  · exact .refl s

theorem State.linksKept_dropRef (s : State) (i : Nat) : s.LinksKept (s.dropRef i) := by
  unfold State.dropRef
  split
  · exact .refl s
  · exact ((s.linksKept_modWork i _).trans (State.linksKept_modEntry _ _ _)).trans (State.linksKept_abandonLoad _ _)

theorem State.linksKept_dropDirWaits (s : State) (i : Nat) : s.LinksKept (s.dropDirWaits i) := by
  unfold State.dropDirWaits
  dsimp only
  refine .foldl (.foldl (.of_eq rfl rfl rfl rfl) fun u _ => ?_) fun u _ => u.linksKept_abandonLoad _
  exact u.linksKept_modEntry _ _

theorem State.linksKept_addDown (s : State) (us k : Nat) : s.LinksKept (s.addDown us k) := by
  unfold State.addDown
  split
  · exact .of_eq rfl rfl rfl rfl
  · exact .refl s

theorem State.linksKept_endWork (s : State) (i : Nat) (st : Status) (fpart : Nat) (pstat : Status) :
    s.LinksKept (s.endWork i st fpart pstat) := by
  unfold State.endWork
  dsimp only
  split
  · have ended (f : Work → Work) : s.LinksKept (((s.modWork i f).dropRef i).dropDirWaits i) :=
      (s.linksKept_modWork i f).trans ((State.linksKept_dropRef _ i).trans (State.linksKept_dropDirWaits _ i))
    exact .keep (.ite ((ended _).trans (State.linksKept_addDown _ _ _)) (ended _)) rfl rfl rfl
  · exact .refl s

theorem State.linksKept_stopEnd (s : State) (i : Nat) (st : Status) (fpart : Nat) (pstat : Status) :
    s.LinksKept (s.stopEnd i st fpart pstat) := by
  unfold State.stopEnd
  split
  · exact (s.linksKept_stopWork i).trans (State.linksKept_endWork _ _ _ _ _)
  · exact .refl s

theorem State.linksKept_endParts (s : State) (h : BitVec 64) (st : Status) (fpart : Nat) (pstat : Status) (tokens : Nat) :
    s.LinksKept (s.endParts h st fpart pstat tokens) :=
  .foldl (.refl s) fun u i => (u.linksKept_modWork i _).trans (State.linksKept_stopEnd _ _ _ _ _)

theorem State.linksKept_dropGrp (s : State) (h : BitVec 64) : s.LinksKept (s.dropGrp h) := .of_eq rfl rfl rfl rfl

theorem State.linksKept_leaderFail (s : State) (h : BitVec 64) (fpart : Nat) (pstat : Status) :
    s.LinksKept (s.leaderFail h fpart pstat) := by
  unfold State.leaderFail
  split
  · exact s.linksKept_endParts _ _ _ _ _
  · split
    · exact (s.linksKept_endParts _ _ _ _ _).trans (State.linksKept_dropGrp _ h)
    · refine .trans (.foldl (.refl s) fun u d => ?_) ((State.linksKept_endParts _ _ _ _ _ _).trans (State.linksKept_dropGrp _ h))
      exact u.linksKept_controlOf _ d _ _

theorem State.linksKept_groupsLose (s : State) (p : Nat) : s.LinksKept (s.groupsLose p) := by
  unfold State.groupsLose
  refine .foldl (.foldl (.refl s) fun u g => ?_) fun u e => u.linksKept_stopEnd _ _ _ _
  split
  · exact u.linksKept_leaderFail _ _ _
  · exact .refl u

theorem State.linksKept_checkPeer (s : State) (p : Nat) : s.LinksKept (s.checkPeer p) := by
  unfold State.checkPeer
  dsimp only
  split
  · exact .refl s
  · have lost := (s.linksKept_failPeer p).trans (State.linksKept_groupsLose _ p)
    split
    · exact lost.trans (.of_eq rfl rfl rfl rfl)
    · exact lost

end Sys2Proof.Machine
end

section
/-!
PROOF. Changes of one lane group (R305, R307): its failure, and the lanes that it loses.
-/

namespace Sys2Proof.Machine

/-! ### Changes of one lane group -/

/-- From `s` to `t` group `k` has become `l`, and no other group has changed but, for a spare lane, the group it serves. -/
def State.GroupBecomes (s t : State) (k : Nat) (l : LaneGroup) : Prop :=
  t.group k = l ∧ ∀ j, j ≠ k → j + 8 ≠ k → t.group j = s.group j

theorem State.groupBecomes_modGroup (s : State) (k : Nat) (f : LaneGroup → LaneGroup) :
    s.GroupBecomes (s.modGroup k f) k (f (s.group k)) :=
  ⟨by rw [State.group_modGroup, if_pos rfl], fun j other _ => by rw [State.group_modGroup, if_neg other]⟩

theorem State.GroupBecomes.trans {s t u : State} {k : Nat} {l m : LaneGroup} (h : s.GroupBecomes t k l)
    (g : t.GroupBecomes u k m) : s.GroupBecomes u k m :=
  ⟨g.1, fun j other spare => (g.2 j other spare).trans (h.2 j other spare)⟩

theorem State.GroupBecomes.kept {s t u : State} {k : Nat} {l : LaneGroup} (h : s.GroupBecomes t k l) (kept : t.LinksKept u) :
    s.GroupBecomes u k l :=
  ⟨(kept.group k).trans h.1, fun j other spare => (kept.group j).trans (h.2 j other spare)⟩

theorem State.LinksKept.becomes {s t u : State} {k : Nat} {l : LaneGroup} (kept : s.LinksKept t) (h : t.GroupBecomes u k l) :
    s.GroupBecomes u k l :=
  ⟨h.1, fun j other spare => (h.2 j other spare).trans (kept.group j)⟩

/-- A spare lane's group may change with the spare lane. -/
theorem State.GroupBecomes.served {s t : State} {k : Nat} {l : LaneGroup} (h : s.GroupBecomes t k l) (spare : 8 ≤ k)
    (f : LaneGroup → LaneGroup) : s.GroupBecomes (t.modGroup (k - 8) f) k l :=
  ⟨by rw [State.group_modGroup, if_neg (by omega), h.1],
    fun j other served => by rw [State.group_modGroup, if_neg (by omega), h.2 j other served]⟩

/-! ### A group that fails (R305, R307) -/

/-- A group as its own failure leaves it. -/
def State.failing (s : State) (g : Nat) (l : LaneGroup) : LaneGroup :=
  { l with
    st := s.failedState g
    failovers := if (s.group g).st.up && decide (s.failedState g = .spared) then l.failovers + 1 else l.failovers }

/-- The groups as a failure of group `g` leaves them, before anybody is told: its own, and the group that a spare lane had
taken over. -/
def State.failGroups (s : State) (g : Nat) : State :=
  let t := s.modGroup g (s.failing g)
  if 8 ≤ g ∧ (t.group (g - 8)).st = .spared then t.modGroup (g - 8) fun l => { l with st := .failed } else t

theorem State.groupFail_eq (s : State) (g : Nat) : s.groupFail g =
    let u := s.failGroups g
    let v := if s.failedState g = .spared then
        (u.modPeer (u.groupPeer g) fun x => { x with stuck := 0 }).replayPeer (u.groupPeer g) else u
    (v.checkPeer (v.groupPeer g)).announce := rfl

theorem State.linksKept_groupFail (s : State) (g : Nat) : (s.failGroups g).LinksKept (s.groupFail g) := by
  rw [State.groupFail_eq]
  generalize s.failGroups g = u
  refine .trans (.ite ?_ (.refl _)) ((State.linksKept_checkPeer _ _).trans (State.linksKept_announce _))
  exact (u.linksKept_modPeer _ rfl rfl).trans (State.linksKept_replayPeer _ _)

/-- A group that carries traffic and fails: the spare lane takes it over, or its peer is lost. -/
def LaneGroup.lost (down : GState) (l : LaneGroup) : LaneGroup :=
  { l with st := down, failovers := if down = .spared then l.failovers + 1 else l.failovers }

theorem State.groupBecomes_failGroups (s : State) (g : Nat) :
    s.GroupBecomes (s.failGroups g) g (s.failing g (s.group g)) := by
  have own := s.groupBecomes_modGroup g (s.failing g)
  unfold State.failGroups
  dsimp only
  split
  · next spare => exact own.served spare.1 _
  · exact own

theorem State.groupBecomes_groupFail (s : State) (g : Nat) :
    s.GroupBecomes (s.groupFail g) g (s.failing g (s.group g)) :=
  (s.groupBecomes_failGroups g).kept (s.linksKept_groupFail g)

theorem State.groupBecomes_groupFail_of_up {s : State} {g : Nat} (up : (s.group g).st.up = true) :
    s.GroupBecomes (s.groupFail g) g ((s.group g).lost (s.failedState g)) := by
  have fails := s.groupBecomes_groupFail g
  simpa [State.failing, up, LaneGroup.lost] using fails

theorem State.groupBecomes_groupFail_of_not_up {s : State} {g : Nat} (up : (s.group g).st.up = false) :
    s.GroupBecomes (s.groupFail g) g { s.group g with st := s.failedState g } := by
  have fails := s.groupBecomes_groupFail g
  simpa [State.failing, up] using fails

theorem State.failedState_modGroup (s : State) (g : Nat) (f : LaneGroup → LaneGroup) :
    (s.modGroup g f).failedState g = s.failedState g := by
  unfold State.failedState
  rw [State.group_modGroup, if_neg (show 8 + g ≠ g by omega)]

/-! ### Lanes that are lost (R305) -/

/-- A lane of a group is retired. -/
def LaneGroup.without (l : LaneGroup) (i : Nat) : LaneGroup :=
  { l with lanes := l.lanes &&& ~~~ BitVec.ofNat 8 (2 ^ i), retirements := l.retirements + 1 }

theorem State.loseLanes_of_not_up {s : State} {g : Nat} (lost : List Nat) (up : (s.group g).st.up = false) :
    s.loseLanes g lost = s := by
  simp [State.loseLanes, up]

theorem State.loseLanes_of_unused {s : State} {g : Nat} {lost : List Nat}
    (unused : ∀ i ∈ lost, (s.group g).lanes.getLsbD i = false) : s.loseLanes g lost = s := by
  have none : lost.filter (fun i => (s.group g).lanes.getLsbD i) = [] :=
    List.filter_eq_nil_iff.2 fun i hi => by simp [unused i hi]
  simp [State.loseLanes, none]

/-- One lane of eight is lost: the group goes on with seven. -/
theorem State.groupBecomes_loseLane_of_up8 {s : State} {g i : Nat} (used : (s.group g).lanes.getLsbD i = true)
    (up8 : (s.group g).st = .up8) (group : g < 8) :
    s.GroupBecomes (s.loseLanes g [i]) g { (s.group g).without i with st := .up7 } := by
  have runs := s.groupBecomes_modGroup g fun l => { l with
    st := .up7, lanes := (s.group g).lanes &&& ~~~ BitVec.ofNat 8 (2 ^ i), retirements := l.retirements + 1 }
  have told := runs.kept ((State.linksKept_replayPeer _ (s.groupPeer g)).trans (State.linksKept_announce _))
  have e : s.loseLanes g [i] = ((s.modGroup g fun l => { l with
      st := .up7, lanes := (s.group g).lanes &&& ~~~ BitVec.ofNat 8 (2 ^ i), retirements := l.retirements + 1 }).replayPeer
        (s.groupPeer g)).announce := by
    simp [State.loseLanes, used, up8, group, GState.up]
  rw [e]
  exact told

/-- One lane of seven, or a spare lane's one lane, is lost: the group fails. -/
theorem State.groupBecomes_loseLane_of_last {s : State} {g i : Nat} (used : (s.group g).lanes.getLsbD i = true)
    (last : (s.group g).st = .up7 ∨ ((s.group g).st = .up8 ∧ 8 ≤ g)) :
    s.GroupBecomes (s.loseLanes g [i]) g (((s.group g).without i).lost (s.failedState g)) := by
  let t := s.modGroup g fun l => { l with
    lanes := (s.group g).lanes &&& ~~~ BitVec.ofNat 8 (2 ^ i), retirements := l.retirements + 1 }
  have retired : s.GroupBecomes t g ((s.group g).without i) := s.groupBecomes_modGroup g _
  have e : s.loseLanes g [i] = t.groupFail g := by
    obtain up7 | ⟨up8, spare⟩ := last
    · simp [State.loseLanes, used, up7, GState.up, t]
    · simp [State.loseLanes, used, up8, Nat.not_lt.2 spare, GState.up, t]
  have up : (t.group g).st.up = true := by
    rw [retired.1]
    obtain up7 | ⟨up8, -⟩ := last
    · simp [LaneGroup.without, up7, GState.up]
    · simp [LaneGroup.without, up8, GState.up]
  have fails := State.groupBecomes_groupFail_of_up up
  rw [retired.1, show t.failedState g = s.failedState g from s.failedState_modGroup g _] at fails
  rw [e]
  exact retired.trans fails

/-- The one element of a range that meets a test. -/
theorem filter_range_eq_singleton {n i : Nat} {p : Nat → Bool} (low : i < n) (only : ∀ j, j < n → (p j = true ↔ j = i)) :
    (List.range n).filter p = [i] := by
  have same : (List.range n).filter p = (List.range n).filter (· == i) :=
    List.filter_congr fun j hj => by
      rw [Bool.eq_iff_iff, only j (List.mem_range.1 hj), beq_iff_eq]
  rw [same, List.filter_beq, List.count_eq_one_of_mem List.nodup_range (List.mem_range.2 low)]
  rfl

/-- A symbol error ratio above OD 9030.03, up to +∞ (R305). -/
def State.Worse (s : State) (r : BitVec 32) : Prop := s.odVal 0x903003 0x38D1B717 < r.toNat ∧ r.toNat ≤ 0x7F800000

theorem State.mem_badLanes {s : State} {ratios : List (BitVec 32)} {i : Nat} :
    i ∈ s.badLanes ratios ↔ ∃ r, ratios[i]? = some r ∧ s.Worse r := by
  simp only [State.badLanes, List.mem_filter, List.mem_range, decide_eq_true_eq, State.Worse]
  by_cases low : i < ratios.length
  · simp [low, List.getD]
  · simp [low]

theorem State.badLanes_eq_nil {s : State} {ratios : List (BitVec 32)} (good : ∀ r ∈ ratios, ¬ s.Worse r) :
    s.badLanes ratios = [] := by
  rw [List.eq_nil_iff_forall_not_mem]
  intro i bad
  obtain ⟨r, measured, worse⟩ := State.mem_badLanes.1 bad
  exact good r (List.mem_of_getElem? measured) worse

theorem State.badLanes_eq_singleton {s : State} {ratios : List (BitVec 32)} {i : Nat} {r : BitVec 32}
    (measured : ratios[i]? = some r) (worse : s.Worse r) (only : ∀ j x, j ≠ i → ratios[j]? = some x → ¬ s.Worse x) :
    s.badLanes ratios = [i] := by
  obtain ⟨low, rfl⟩ := List.getElem?_eq_some_iff.1 measured
  refine filter_range_eq_singleton low fun j hj => ?_
  have read : ratios[j]? = some ratios[j] := List.getElem?_eq_getElem hj
  have bad : (ratios.getD j 0) = ratios[j] := by simp [List.getD, read]
  rw [bad, decide_eq_true_eq]
  refine ⟨fun high => ?_, ?_⟩
  · by_contra other
    exact only j _ other read high
  · rintro rfl
    exact worse

/-- Bits of a sum of distinct powers of two. -/
theorem testBit_sum_pow (p : Nat → Bool) (n : Nat) :
    (((List.range n).filter p).map (2 ^ ·)).sum < 2 ^ n ∧
      ∀ i, (((List.range n).filter p).map (2 ^ ·)).sum.testBit i = (decide (i < n) && p i) := by
  induction n with
  | zero => simp
  | succ n ih =>
    obtain ⟨below, bits⟩ := ih
    rw [List.range_succ, List.filter_append, List.map_append, List.sum_append]
    cases hp : p n
    · simp only [List.filter_cons, hp, Bool.false_eq_true, if_false, List.filter_nil, List.map_nil, List.sum_nil, Nat.add_zero]
      refine ⟨by omega, fun i => ?_⟩
      rw [bits]
      by_cases last : i = n
      · subst last
        simp [hp]
      · congr 1
        exact decide_eq_decide.2 (by omega)
    · simp only [List.filter_cons, hp, if_true, List.filter_nil, List.map_cons, List.map_nil, List.sum_cons, List.sum_nil, Nat.add_zero]
      refine ⟨by omega, fun i => ?_⟩
      rw [Nat.add_comm]
      rcases Nat.lt_trichotomy i n with low | last | high
      · rw [Nat.testBit_two_pow_add_gt low, bits]
        simp [low, Nat.lt_succ_of_lt low]
      · subst last
        rw [Nat.testBit_two_pow_add_eq, bits]
        simp [hp]
      · have small : 2 ^ n + (((List.range n).filter p).map (2 ^ ·)).sum < 2 ^ i :=
          calc _ < 2 ^ (n + 1) := by omega
            _ ≤ 2 ^ i := Nat.pow_le_pow_right (by decide) high
        rw [Nat.testBit_lt_two_pow small]
        simp only [Bool.false_eq, Bool.and_eq_false_iff, decide_eq_false_iff_not]
        exact .inl (by omega)

theorem State.goodLanes_getLsbD (s : State) (ratios : List (BitVec 32)) {i : Nat} (lane : i < 8) :
    (s.goodLanes ratios).getLsbD i = true ↔ ∃ r, ratios[i]? = some r ∧ ¬ s.Worse r := by
  obtain ⟨-, bits⟩ := testBit_sum_pow (fun i => !(s.badLanes ratios).contains i) (min 8 ratios.length)
  unfold State.goodLanes
  rw [BitVec.getLsbD_ofNat, bits]
  simp only [lane, decide_true, Bool.true_and, Bool.and_eq_true, decide_eq_true_eq, Bool.not_eq_true', List.contains_eq_mem,
    decide_eq_false_iff_not, State.mem_badLanes]
  by_cases low : i < ratios.length
  · simp [low, lane]
  · simp [low]

end Sys2Proof.Machine
end

section
/-!
PROOF. The fabric's events (R291, R299, R300, R303 to R308): timeouts, restores and retrains, faults of engines and
clock channels, error windows, operations without an answer, LINK_STATE.
-/

namespace Sys2Proof.Machine

/-! ### Timeouts, restores and retrains (R291, R303, R307, R308) -/

theorem exec_trainingPhaseTimeout_of_not_training {s : State} {g : Fin 16} (light : Bool)
    (idle : g.val = 0 ∨ (s.group g).st ≠ .training) : exec (.trainingPhaseTimeout g light) s = .next s := if_pos idle

theorem trainingPhaseTimeout_dark {s : State} {g : Fin 16} (real : g.val ≠ 0) (training : (s.group g).st = .training) :
    ∃ t, exec (.trainingPhaseTimeout g false) s = .next t ∧
      s.GroupBecomes t g { s.group g with st := .dark, lanes := 0, phase := 0, attempts := 0 } := by
  have dark := s.groupBecomes_modGroup g fun l => { l with st := .dark, lanes := 0, phase := 0, attempts := 0 }
  refine ⟨_, ?_, dark.kept (State.linksKept_announce _)⟩
  show execTrainingPhaseTimeout g false s = _
  simp [execTrainingPhaseTimeout, real, training]

theorem trainingPhaseTimeout_again {s : State} {g : Fin 16} (real : g.val ≠ 0) (training : (s.group g).st = .training)
    (left : (s.group g).attempts < 2) : ∃ t, exec (.trainingPhaseTimeout g true) s = .next t ∧
      s.GroupBecomes t g { s.group g with attempts := (s.group g).attempts + 1, phase := 0 } := by
  have again := s.groupBecomes_modGroup g fun l => { l with attempts := l.attempts + 1, phase := 0 }
  refine ⟨_, ?_, again⟩
  show execTrainingPhaseTimeout g true s = _
  simp [execTrainingPhaseTimeout, real, training, left]

theorem trainingPhaseTimeout_fails {s : State} {g : Fin 16} (real : g.val ≠ 0) (training : (s.group g).st = .training)
    (spent : 2 ≤ (s.group g).attempts) : ∃ t, exec (.trainingPhaseTimeout g true) s = .next t ∧
      s.GroupBecomes t g { s.group g with st := s.failedState g, attempts := 0, phase := 0 } := by
  have back := s.groupBecomes_modGroup g fun l => { l with attempts := 0, phase := 0 }
  have fails := State.groupBecomes_groupFail_of_not_up (s := s.modGroup g fun l => { l with attempts := 0, phase := 0 }) (g := g)
    (by rw [back.1]; simp [training, GState.up])
  rw [back.1, State.failedState_modGroup] at fails
  have last : ¬ (s.group g).attempts + 1 < 3 := by omega
  refine ⟨_, ?_, back.trans fails⟩
  show execTrainingPhaseTimeout g true s = _
  simp [execTrainingPhaseTimeout, real, training, last]

/-- A group that goes back to TRAINING. -/
def LaneGroup.retrained (l : LaneGroup) : LaneGroup := { l with st := .training, lanes := 0, phase := 0, attempts := 0 }

theorem State.groupBecomes_retrain (s : State) (g : Nat) : s.GroupBecomes (s.retrain g) g (s.group g).retrained :=
  s.groupBecomes_modGroup g _

theorem groupRestoreTimer_trains {s : State} {g : Fin 16} (real : g.val ≠ 0)
    (failed : (s.group g).st = .failed ∨ (s.group g).st = .spared) (restores : s.odVal 0x903004 10000 ≠ 0)
    (alive : s.linksAlive = true) :
    ∃ t, exec (.groupRestoreTimer g) s = .next t ∧ s.GroupBecomes t g (s.group g).retrained :=
  ⟨_, if_pos ⟨failed, restores, alive, real⟩, (s.groupBecomes_retrain g).kept (State.linksKept_announce _)⟩

theorem groupRestoreTimer_idle {s : State} {g : Fin 16} (idle : s.odVal 0x903004 10000 = 0 ∨ g.val = 0 ∨
    ((s.group g).st ≠ .failed ∧ (s.group g).st ≠ .spared)) : exec (.groupRestoreTimer g) s = .next s := by
  refine if_neg ?_
  rintro ⟨failed, restores, -, real⟩
  obtain never | zero | ⟨notFailed, notSpared⟩ := idle
  · exact restores never
  · exact real zero
  · exact failed.elim notFailed notSpared

/-- An accepted write has its entry's own effect, and is answered (R415). -/
theorem State.odCommand_of_accepts {s : State} {q : OdReq} {k : Nat} {mine : Nat → Bool}
    (act : State → OdRow → Nat → State × Status) (accepted : s.OdAccepts q k) (due : mine k = true) :
    ∃ r, s.odCommand q mine act =
      (act s r (leNat q.value)).1.odAnswer q.ctx q.msn (act s r (leNat q.value)).2 [] := by
  obtain ⟨key, joined, running, r, checked⟩ := accepted
  refine ⟨r, ?_⟩
  simp only [State.odCommand, key, due, joined, running, checked]
  simp

theorem exec_retrainGroup {s u : State} {q : OdReq} {st : Status} (accepted : s.OdAccepts q 0x903005)
    (effect : s.odRetrain (leNat q.value) = (u, st)) :
    exec (.retrainGroup q) s = .next (u.odAnswer q.ctx q.msn st []) := by
  obtain ⟨-, e⟩ := State.odCommand_of_accepts (mine := (· == 0x903005)) (fun s _ v => s.odRetrain v) accepted rfl
  rw [effect] at e
  exact congrArg Host.Outcome.next e

theorem State.group_foldl_retrain (s : State) (l : List Nat) (k : Nat) :
    (l.foldl State.retrain s).group k = if k ∈ l then (s.group k).retrained else s.group k := by
  induction l generalizing s with
  | nil => simp
  | cons g l ih =>
    have one : (s.retrain g).group k = if k = g then (s.group g).retrained else s.group k := s.group_modGroup g k _
    simp only [List.foldl_cons, ih, one, List.mem_cons]
    by_cases here : k = g
    · subst here
      simp [LaneGroup.retrained]
    · simp [here]

/-- Groups retrain in turn, and their peers are told. -/
def State.retrainAll (s : State) (l : List Nat) : State :=
  (l.foldl (fun s g => s.checkPeer (s.groupPeer g)) (l.foldl State.retrain s)).announce

theorem State.group_retrainAll (s : State) (l : List Nat) (k : Nat) :
    (s.retrainAll l).group k = if k ∈ l then (s.group k).retrained else s.group k := by
  have told := (State.LinksKept.foldl (l := l) (.refl (l.foldl State.retrain s)) fun u g => u.linksKept_checkPeer (u.groupPeer g)).trans
    (State.linksKept_announce _)
  rw [State.retrainAll, told.group, State.group_foldl_retrain]

theorem State.odRetrain_group_busy {s : State} {g : Nat} (real : g ≠ 0)
    (busy : ((s.group g).st.up && !(s.group (8 + g)).st.up) = true) : s.odRetrain g = (s, St.odBusy) := by
  simp only [State.odRetrain, if_neg real, busy, if_true]

theorem State.odRetrain_group {s : State} {g : Nat} (real : g ≠ 0)
    (free : ((s.group g).st.up && !(s.group (8 + g)).st.up) = false) : s.odRetrain g = (s.retrainAll [g], St.ok) := by
  simp only [State.odRetrain, if_neg real, free, Bool.false_eq_true, if_false, State.retrainAll]

theorem State.odRetrain_spares_busy {s : State} (busy : ∃ k, k < 8 ∧ (s.group k).st = .spared) :
    s.odRetrain 0 = (s, St.odBusy) := by
  have any : ((List.range 8).any fun k => (s.group k).st == .spared) = true := by simpa using busy
  simp only [State.odRetrain, if_true, any]

theorem State.odRetrain_spares {s : State} (free : ∀ k, k < 8 → (s.group k).st ≠ .spared) :
    s.odRetrain 0 = (s.retrainAll ((List.range 8).map (· + 8)), St.ok) := by
  have none : ((List.range 8).any fun k => (s.group k).st == .spared) = false := by simpa using free
  simp only [State.odRetrain, if_true, none, Bool.false_eq_true, if_false, State.retrainAll]

theorem State.group_retrainAll_spares (s : State) {k : Nat} (low : k < 16) :
    (s.retrainAll ((List.range 8).map (· + 8))).group k = if k < 8 then s.group k else (s.group k).retrained := by
  have spare : k ∈ (List.range 8).map (· + 8) ↔ ¬ k < 8 := by
    simp only [List.mem_map, List.mem_range]
    exact ⟨fun ⟨i, _, e⟩ => by omega, fun h => ⟨k - 8, by omega, by omega⟩⟩
  simp only [State.group_retrainAll, spare]
  split <;> simp_all

/-! ### Engines, peers and operations that fail (R299, R306, R308) -/

theorem State.mod_groupFail (s : State) (g : Nat) : (s.groupFail g).mod = s.mod := by
  rw [(s.linksKept_groupFail g).mod]
  unfold State.failGroups
  dsimp only
  split <;> rfl

/-- One group of a failing engine: DARK groups stay (R306). -/
def State.engineStep (s : State) (g : Nat) : State := if (s.group g).st = .dark then s else s.groupFail g

theorem State.mod_foldl_engineStep (s : State) (l : List Nat) : (l.foldl State.engineStep s).mod = s.mod := by
  induction l generalizing s with
  | nil => rfl
  | cons g l ih =>
    rw [List.foldl_cons, ih, State.engineStep]
    split
    · rfl
    · exact s.mod_groupFail g

theorem State.failedState_congr {s t : State} {g : Nat} (spare : t.group (8 + g) = s.group (8 + g)) :
    t.failedState g = s.failedState g := by
  rw [State.failedState, spare, ← State.failedState]

theorem State.failedState_spare (s : State) {g : Nat} (spare : 8 ≤ g) : s.failedState g = .failed :=
  if_neg fun h => absurd h.1 (by omega)

/-- A step of an engine's fault changes no group but its own, and the one that a spare lane serves. -/
theorem State.group_engineStep_other {s : State} {g j : Nat} (other : j ≠ g) (notServed : j + 8 ≠ g) :
    (s.engineStep g).group j = s.group j := by
  unfold State.engineStep
  split
  · rfl
  · exact (s.groupBecomes_groupFail g).2 j other notServed

theorem State.st_engineStep {s : State} {g : Nat} (lit : (s.group g).st ≠ .dark) :
    ((s.engineStep g).group g).st = s.failedState g := by
  rw [State.engineStep, if_neg lit, (s.groupBecomes_groupFail g).1]
  rfl

/-- A group that carries light still does once its spare lane has failed. -/
theorem State.lit_engineStep_served {s : State} {j : Nat} (lit : (s.group j).st ≠ .dark) :
    ((s.engineStep (j + 8)).group j).st ≠ .dark := by
  unfold State.engineStep
  split
  · exact lit
  · rw [(s.linksKept_groupFail (j + 8)).group]
    unfold State.failGroups
    dsimp only
    split
    · simp [State.group_modGroup]
    · rw [State.group_modGroup, if_neg (by omega)]
      exact lit

/-- Groups that fail in turn, each to what its spare lane allows. -/
theorem State.engineGroups_fail {l : List Nat} (groups : ∀ g ∈ l, g < 8) (distinct : l.Nodup) (s : State) :
    (∀ k ∈ l, (s.group k).st ≠ .dark → ((l.foldl State.engineStep s).group k).st = s.failedState k) ∧
      ∀ k, k ∉ l → (l.foldl State.engineStep s).group k = s.group k := by
  induction l generalizing s with
  | nil => simp
  | cons g l ih =>
    obtain ⟨first, distinct⟩ := List.nodup_cons.1 distinct
    have low : g < 8 := groups g (List.mem_cons_self ..)
    obtain ⟨fail, others⟩ := ih (fun k hk => groups k (List.mem_cons_of_mem _ hk)) distinct (s.engineStep g)
    refine ⟨fun k hk lit => ?_, fun k hk => ?_⟩
    · rcases List.mem_cons.1 hk with rfl | later
      · rw [List.foldl_cons, others k first, State.st_engineStep lit]
      · have lowk : k < 8 := groups k hk
        have kept : (s.engineStep g).group k = s.group k :=
          State.group_engineStep_other (fun e => first (e ▸ later)) (by omega)
        rw [List.foldl_cons, fail k later (by rwa [kept])]
        exact State.failedState_congr (State.group_engineStep_other (by omega) (by omega))
    · obtain ⟨other, notLater⟩ := not_or.1 (List.mem_cons.not.1 hk)
      rw [List.foldl_cons, others k notLater, State.group_engineStep_other other (by omega)]

/-- Spare lanes that fail in turn: none of them is up, and no group goes dark. -/
theorem State.engineSpares_fail {l : List Nat} (spares : ∀ g ∈ l, 8 ≤ g ∧ g < 16) (distinct : l.Nodup) (s : State) :
    (∀ k ∈ l, (s.group k).st ≠ .dark → ((l.foldl State.engineStep s).group k).st = .failed) ∧
      (∀ k ∈ l, ((l.foldl State.engineStep s).group k).st.up = false) ∧
      (∀ k, k < 8 → (s.group k).st ≠ .dark → ((l.foldl State.engineStep s).group k).st ≠ .dark) ∧
      ∀ k, 8 ≤ k → k ∉ l → (l.foldl State.engineStep s).group k = s.group k := by
  induction l generalizing s with
  | nil => simp
  | cons g l ih =>
    obtain ⟨first, distinct⟩ := List.nodup_cons.1 distinct
    obtain ⟨high, top⟩ := spares g (List.mem_cons_self ..)
    obtain ⟨fail, down, lit, others⟩ := ih (fun k hk => spares k (List.mem_cons_of_mem _ hk)) distinct (s.engineStep g)
    simp only [List.foldl_cons]
    refine ⟨fun k hk litk => ?_, fun k hk => ?_, fun k low litk => ?_, fun k highk hk => ?_⟩
    · rcases List.mem_cons.1 hk with rfl | later
      · rw [others k high first, State.st_engineStep litk, State.failedState_spare s high]
      · obtain ⟨highk, -⟩ := spares k hk
        have kept : (s.engineStep g).group k = s.group k :=
          State.group_engineStep_other (fun e => first (e ▸ later)) (by omega)
        exact fail k later (by rwa [kept])
    · rcases List.mem_cons.1 hk with rfl | later
      · rw [others k high first]
        by_cases dark : (s.group k).st = .dark
        · rw [State.engineStep, if_pos dark, dark]; rfl
        · rw [State.st_engineStep dark, State.failedState_spare s high]; rfl
      · exact down k later
    · refine lit k low ?_
      by_cases served : k + 8 = g
      · subst served
        exact State.lit_engineStep_served litk
      · rwa [State.group_engineStep_other (by omega) served]
    · obtain ⟨other, notLater⟩ := not_or.1 (List.mem_cons.not.1 hk)
      rw [others k highk notLater, State.group_engineStep_other other (by omega)]

theorem engineOf_eq_one_iff (g : Nat) : engineOf g = 1 ↔ 4 ≤ g ∧ g < 8 := by
  unfold engineOf
  split <;> simp_all

theorem engineOf_lt_two (g : Nat) : engineOf g < 2 := by
  unfold engineOf
  split <;> decide

/-- Engine F0: its spare lanes fail first, so that none of its groups finds one up (R306). -/
theorem State.engineF0_fails {s : State} {k : Nat} (low : k < 16) (real : k ≠ 0) (mine : engineOf k = 0)
    (lit : (s.group k).st ≠ .dark) :
    (((engineGroups 0).reverse.foldl State.engineStep s).group k).st = .failed := by
  have order : (engineGroups 0).reverse = [15, 14, 13, 12, 11, 10, 9, 8] ++ [3, 2, 1] := by decide
  have notF1 : ¬ (4 ≤ k ∧ k < 8) := fun h => by simp [(engineOf_eq_one_iff k).2 h] at mine
  rw [order, List.foldl_append]
  obtain ⟨fail, down, stays, -⟩ := State.engineSpares_fail (l := [15, 14, 13, 12, 11, 10, 9, 8]) (by decide) (by decide) s
  generalize List.foldl State.engineStep s [15, 14, 13, 12, 11, 10, 9, 8] = t at *
  obtain ⟨failGroup, others⟩ := State.engineGroups_fail (l := [3, 2, 1]) (by decide) (by decide) t
  by_cases group : k < 8
  · have spare : (t.group (8 + k)).st.up = false := down (8 + k) (by simp; omega)
    rw [failGroup k (by simp; omega) (stays k group lit)]
    exact if_neg (by simp [spare])
  · rw [others k (by simp; omega)]
    exact fail k (by simp; omega) lit

/-- Engine F1: each of its groups moves to its spare lane, which engine F0 carries, or fails (R305, R306). -/
theorem State.engineF1_fails {s : State} {k : Nat} (mine : engineOf k = 1) (lit : (s.group k).st ≠ .dark) :
    (((engineGroups 1).reverse.foldl State.engineStep s).group k).st = s.failedState k := by
  have order : (engineGroups 1).reverse = [7, 6, 5, 4] := by decide
  obtain ⟨low, high⟩ := (engineOf_eq_one_iff k).1 mine
  rw [order]
  exact (State.engineGroups_fail (by decide) (by decide) s).1 k (by simp; omega) lit

theorem clockChannelLoss_engine (s : State) (g : Fin 16) :
    ∃ t, exec (.clockChannelLoss ⟨g, .engine⟩) s = .next t ∧ engineOf g ∈ t.mod.engineBad ∧
      ∀ k, k < 16 → k ≠ 0 → engineOf k = engineOf g → (s.group k).st ≠ .dark →
        (t.group k).st = if engineOf g = 1 then s.failedState k else .failed := by
  let bad := s.mod.engineBad
  let u : State := { s with mod := { s.mod with
    engineBad := if bad.contains (engineOf g) then bad else engineOf g :: bad } }
  refine ⟨(engineGroups (engineOf g)).reverse.foldl State.engineStep u, rfl, ?_, fun k low real same lit => ?_⟩
  · rw [u.mod_foldl_engineStep]
    show engineOf g ∈ if bad.contains (engineOf g) then bad else engineOf g :: bad
    split
    · next known => simpa using known
    · simp
  · split
    · next one =>
      rw [one]
      exact u.engineF1_fails (same.trans one) lit
    · next notOne =>
      have zero : engineOf g = 0 := by have := engineOf_lt_two g; omega
      rw [zero]
      exact u.engineF0_fails low real (same.trans zero) lit

theorem clockChannelLoss_channel {s : State} {g : Fin 16} (up : (s.group g).st.up = true) :
    ∃ t, exec (.clockChannelLoss ⟨g, .channel⟩) s = .next t ∧
      s.GroupBecomes t g ((s.group g).lost (s.failedState g)) :=
  ⟨_, congrArg Host.Outcome.next (if_pos up), State.groupBecomes_groupFail_of_up up⟩

theorem clockChannelLoss_channel_idle {s : State} {g : Fin 16} (up : (s.group g).st.up = false) :
    exec (.clockChannelLoss ⟨g, .channel⟩) s = .next s :=
  congrArg Host.Outcome.next (if_neg (by simp [up]))

theorem clockChannelLoss_peerReset {s : State} {g : Fin 16} (lit : (s.group g).st ≠ .dark) (real : g.val ≠ 0) (peer : g.val ≠ 8) :
    ∃ t, exec (.clockChannelLoss ⟨g, .peerReset⟩) s = .next t ∧ s.GroupBecomes t g (s.group g).retrained := by
  have told := (State.linksKept_checkPeer (s.retrain g) ((s.retrain g).groupPeer g)).trans (State.linksKept_announce _)
  exact ⟨_, congrArg Host.Outcome.next (if_neg (by simp [lit, real, peer])), (s.groupBecomes_retrain g).kept told⟩

theorem laneErrorWindow_quiet {s : State} (g : Fin 16) {ratios : List (BitVec 32)} (good : ∀ r ∈ ratios.take 8, ¬ s.Worse r) :
    exec (.laneErrorWindow g ratios) s = .next s := by
  show Host.Outcome.next (s.loseLanes g (s.badLanes (ratios.take 8))) = _
  rw [State.badLanes_eq_nil good, State.loseLanes_of_unused (by simp)]

/-- A window in which one lane of the eight measured is worse than OD 9030.03 costs that lane (R305). -/
theorem exec_laneErrorWindow_one {s : State} (g : Fin 16) {ratios : List (BitVec 32)} {i : Nat} {r : BitVec 32} (lane : i < 8)
    (measured : ratios[i]? = some r) (worse : s.Worse r)
    (only : ∀ j x, j < 8 → j ≠ i → ratios[j]? = some x → ¬ s.Worse x) :
    exec (.laneErrorWindow g ratios) s = .next (s.loseLanes g [i]) := by
  show Host.Outcome.next (s.loseLanes g (s.badLanes (ratios.take 8))) = _
  rw [State.badLanes_eq_singleton (by rw [List.getElem?_take_of_lt lane, measured]) worse]
  intro j x other read
  by_cases low : j < 8
  · exact only j x low other (by rwa [List.getElem?_take_of_lt low] at read)
  · rw [List.getElem?_take_eq_none (by omega)] at read
    cases read

theorem fabricOpTimeout_unknown {s : State} {op : Nat} (none : ∀ x ∈ s.fabric.ops, x.1 ≠ op) :
    exec (.fabricOpTimeout op) s = .next s :=
  congrArg Host.Outcome.next (if_neg (by simpa using fun b c h => none (op, b, c) h rfl))

theorem fabricOpTimeout_fails {s : State} {o : RemOp} (listed : o ∈ s.ops) {x : Nat × BitVec 32 × Nat} (waits : x ∈ s.fabric.ops)
    (same : x.1 = o.id) (unanswered : o.answered = none) : ∃ t, exec (.fabricOpTimeout o.id) s = .next t ∧
      { o with answered := some (failure St.remoteTimeout), done := true } ∈ t.ops ∧ ∀ y ∈ t.fabric.ops, y.1 ≠ o.id := by
  refine ⟨s.answerOp o.id (failure St.remoteTimeout) true,
    congrArg Host.Outcome.next (if_pos (List.any_eq_true.2 ⟨x, waits, by simpa using same⟩)), ?_, fun y hy => ?_⟩
  · exact List.mem_map.2 ⟨o, listed, by simp [unanswered]⟩
  · simpa using (List.mem_filter.1 hy).2

/-! ### LINK_STATE of a peer (R300, R305) -/

theorem exec_linkState_of_unreachable {s : State} {peer : Fin 8} (words : List (BitVec 32)) (lost : s.reachable peer = false) :
    exec (.linkState peer words) s = .next s :=
  congrArg Host.Outcome.next (if_neg (by simp [lost]))

/-- The peer's group states are kept. -/
def State.noteLinks (s : State) (p : Nat) (words : List (BitVec 32)) : State := s.modPeer p fun x => { x with links := words }

theorem exec_linkState {s : State} {peer : Fin 8} (words : List (BitVec 32)) (reachable : s.reachable peer = true) :
    exec (.linkState peer words) s =
      .next ((s.noteLinks peer words).followPeer (s.groupTo peer) (words.getD (s.groupTo peer) 0)) :=
  congrArg Host.Outcome.next (if_pos reachable)

theorem State.linksKept_noteLinks (s : State) (p : Nat) (words : List (BitVec 32)) : s.LinksKept (s.noteLinks p words) :=
  s.linksKept_modPeer p rfl rfl

/-- The STATE field of a group's word (R307). -/
theorem bits_state (w : BitVec 32) : bits w.toNat 31 28 = w.toNat / 2 ^ 28 := by
  have below := w.isLt
  unfold bits
  omega

theorem State.followPeer_other {s : State} {g : Nat} {w : BitVec 32} (not3 : w.toNat / 2 ^ 28 ≠ 3) (not4 : w.toNat / 2 ^ 28 ≠ 4)
    (not5 : w.toNat / 2 ^ 28 ≠ 5) : s.followPeer g w = s := by
  simp only [State.followPeer, bits_state, not3, not4, not5, if_false, false_or, false_and]

theorem State.followPeer_failed {s : State} {g : Nat} {w : BitVec 32} (failed : w.toNat / 2 ^ 28 = 4 ∨ w.toNat / 2 ^ 28 = 5)
    (up : (s.group g).st.up = true) : s.followPeer g w = s.groupFail g := by
  have not3 : w.toNat / 2 ^ 28 ≠ 3 := by omega
  simp only [State.followPeer, bits_state, not3, if_false, failed, up, and_self, if_true]

theorem State.followPeer_retired {s : State} {g i : Nat} {w : BitVec 32} (seven : w.toNat / 2 ^ 28 = 3) (lane : i < 8)
    (only : ∀ j, j < 8 → (bit w.toNat (8 + j) = false ↔ j = i)) : s.followPeer g w = s.loseLanes g [i] := by
  have retired : (List.range 8).filter (fun j => !bit w.toNat (8 + j)) = [i] :=
    filter_range_eq_singleton lane fun j hj => by rw [Bool.not_eq_true', only j hj]
  simp only [State.followPeer, bits_state, seven, if_true, retired]

theorem State.groupTo_lt (s : State) (p : Fin 8) : s.groupTo p < 8 :=
  Nat.xor_lt_two_pow (n := 3) s.mod.pos.isLt p.isLt

end Sys2Proof.Machine
end

section
/-!
PROOF. Training of a group (R303, R304, R356), and the statement on links.
-/

namespace Sys2Proof.Machine

/-! ### Training (R303, R304, R356) -/

/-- Group `g` may train: the die is out of reset and not Parked, the group trains or is DARK, its engine has not failed. -/
def State.MayTrain (s : State) (g : Nat) : Prop :=
  s.linksAlive = true ∧ ((s.group g).st = .training ∨ (s.group g).st = .dark) ∧ s.mod.engineBad.contains (engineOf g) = false

/-- The lanes that both sides find good are enough for the group (R303). -/
def State.LanesEnough (s : State) (g : Nat) (x : Training) : Prop :=
  if g < 8 then 7 ≤ laneCount (s.goodLanes x.ratios &&& x.theirs) else (s.goodLanes x.ratios &&& x.theirs).getLsbD 0 = true

theorem State.mapLanes_enough {s : State} {g : Nat} {x : Training} : (s.mapLanes g x).2 = false ↔ s.LanesEnough g x := by
  unfold State.mapLanes State.LanesEnough
  dsimp only
  split
  · simp
  · simp

/-- The training comes to its end: all phases are done, or the lanes of phase 5 are too few. -/
def State.TrainingEnds (s : State) (g : Nat) (x : Training) : Prop :=
  x.phase.val = 7 ∨ (5 ≤ x.phase.val ∧ ¬ s.LanesEnough g x)

theorem State.trainingEnds_iff {s : State} {g : Nat} {x : Training} :
    (x.phase.val < 7 && !(decide (5 ≤ x.phase.val) && (s.mapLanes g x).2)) = false ↔ s.TrainingEnds g x := by
  have top := x.phase.isLt
  rw [State.TrainingEnds, ← State.mapLanes_enough]
  cases (s.mapLanes g x).2
  · simp
    omega
  · simp
    omega

/-- With phase 6 the identification goes out, but on spare lane 0 (R303). -/
def State.identified (s : State) (g : Nat) (x : Training) : State :=
  if g ≠ 8 ∧ (s.group g).phase < 6 ∧ 6 ≤ x.phase.val ∧ !(s.mapLanes g x).2 then s.sendIdent g x.ident else s

theorem State.linksKept_identified (s : State) (g : Nat) (x : Training) : s.LinksKept (s.identified g x) :=
  .ite (s.linksKept_sendIdent g x.ident) (.refl s)

/-- The record of a group after its training has ended in a state with its lanes. -/
def LaneGroup.trained (l : LaneGroup) (st : GState) (lanes : BitVec 8) : LaneGroup :=
  { l with st := st, lanes := lanes, ver := if st.up then 0x10 else 0, caps := 0, phase := if st.up then 7 else 0, attempts := 0 }

/-- The groups after a training's end: a spare lane that came up takes over a group that has failed (R305). -/
def State.trainGroups (s : State) (g : Nat) (x : Training) : State :=
  let st := (s.trained g x).1
  let t := (s.logTraining g x).modGroup g (·.trained st (s.trained g x).2)
  if 8 ≤ g ∧ st.up ∧ (t.group (g - 8)).st = .failed then t.modGroup (g - 8) fun l => { l with st := .spared } else t

/-- The end of a training: phase 7 with the peer, or the peer is looked at; then the word goes round. -/
def State.endTraining (s : State) (g : Nat) (x : Training) : State :=
  let p := s.groupPeer g
  let t := s.trainGroups g x
  (if (s.trained g x).1.up then t.linkUp p (t.peerTrusted x.ident) (!s.reachable p) else t.checkPeer p).announce

theorem exec_groupTraining_idle {s : State} {g : Fin 16} (x : Training) (idle : g.val = 0 ∨ ¬ s.MayTrain g) :
    exec (.groupTraining g x) s = .next s := by
  refine if_pos ?_
  obtain zero | held := idle
  · exact .inl zero
  · unfold State.MayTrain at held
    by_cases alive : s.linksAlive = true <;> by_cases bad : s.mod.engineBad.contains (engineOf g) = true <;> simp_all

theorem exec_groupTraining {s : State} {g : Fin 16} (x : Training) (real : g.val ≠ 0) (may : s.MayTrain g) :
    exec (.groupTraining g x) s =
      let u := s.identified g x
      if x.phase.val < 7 && !(decide (5 ≤ x.phase.val) && (s.mapLanes g x).2) then
        .next (u.modGroup g fun l => { l with st := .training, phase := x.phase })
      else if g.val = 8 then
        let ok := !u.test.loopBad && (u.goodLanes x.ratios).getLsbD 0
        .next (u.modGroup 8 fun l => { l with st := if ok then .up8 else .failed, lanes := if ok then 1 else 0 }).announce
      else .next (u.endTraining g x) := by
  obtain ⟨alive, trains, sound⟩ := may
  refine if_neg ?_
  rintro (zero | dead | settled | bad)
  · exact real zero
  · simp [alive] at dead
  · exact trains.elim settled.1 settled.2
  · simp only [sound, Bool.false_eq_true] at bad

/-! ### Where the lanes and the identification lead (R303, R304) -/

theorem State.failedState_not_up (s : State) (g : Nat) : (s.failedState g).up = false := by
  unfold State.failedState
  split <;> rfl

theorem State.trained_short {s : State} {g : Nat} {x : Training} (short : ¬ s.LanesEnough g x) :
    s.trained g x = (s.failedState g, 0) := by
  have bad : (s.mapLanes g x).2 = true := by rwa [← State.mapLanes_enough, Bool.not_eq_false] at short
  unfold State.trained
  exact if_pos bad

/-- What the training comes to where the lanes are enough. -/
theorem State.trained_enough {s : State} {g : Nat} {x : Training} (enough : s.LanesEnough g x) : s.trained g x =
    if x.ident.position.val ≠ s.groupPeer g then (.miswired, 0)
    else if x.ident.vmajHi < 1 ∨ 1 < x.ident.vmajLo then (.version, 0)
    else if !x.ident.certOk ∨ !x.ident.sigOk then (.authFailed, 0)
    else if g < 8 then
      (if laneCount (s.goodLanes x.ratios &&& x.theirs) = 8 then .up8 else .up7, s.goodLanes x.ratios &&& x.theirs)
    else (.up8, 1) := by
  have sound : ¬ (s.mapLanes g x).2 = true := by simp [State.mapLanes_enough.2 enough]
  unfold State.trained
  exact if_neg sound

theorem State.trained_identified (s : State) (g : Nat) (x : Training) : (s.identified g x).trained g x = s.trained g x := by
  unfold State.identified
  split <;> rfl

/-! ### The end of a training -/

theorem State.groupBecomes_trainGroups (s : State) (g : Nat) (x : Training) :
    s.GroupBecomes (s.trainGroups g x) g ((s.group g).trained (s.trained g x).1 (s.trained g x).2) := by
  have logged := s.linksKept_logTraining g x
  have own := (s.logTraining g x).groupBecomes_modGroup g (·.trained (s.trained g x).1 (s.trained g x).2)
  rw [logged.group] at own
  unfold State.trainGroups
  dsimp only
  split
  · next spare => exact logged.becomes (own.served spare.1 _)
  · exact logged.becomes own

theorem State.out_trainGroups (s : State) (g : Nat) (x : Training) : ∀ e ∈ s.out, e ∈ (s.trainGroups g x).out := by
  intro e he
  have logged := (s.linksKept_logTraining g x).out e he
  unfold State.trainGroups
  dsimp only
  split <;> exact logged

theorem State.peerTrusted_trainGroups (s : State) (g : Nat) (x : Training) (i : PeerIdent) :
    (s.trainGroups g x).peerTrusted i = s.peerTrusted i := by
  have logged : (s.logTraining g x).sec = s.sec := by
    unfold State.logTraining
    split <;> rfl
  have sec : (s.trainGroups g x).sec = s.sec := by
    unfold State.trainGroups
    dsimp only
    split <;> exact logged
  simp only [State.peerTrusted, State.ownerDigest, sec]

/-- Phase 7 changes the record of its peer, and else leaves links as they are. -/
theorem State.linkUp_spec (s : State) (p : Nat) (trusted fresh : Bool) : ∃ f : Peer → Peer,
    (s.modPeer p f).LinksKept (s.linkUp p trusted fresh) ∧ (∀ x, (f x).auth = trusted) ∧ (fresh = true → ∀ x, (f x).rx = 0) := by
  unfold State.linkUp
  split
  · exact ⟨_, State.linksKept_dropShift _, fun _ => rfl, fun _ _ => rfl⟩
  · next kept => exact ⟨_, State.linksKept_pumpPeer _ p, fun _ => rfl, fun fresh => absurd fresh kept⟩

theorem State.endTraining_spec (s : State) (g : Nat) (x : Training) :
    s.GroupBecomes (s.endTraining g x) g ((s.group g).trained (s.trained g x).1 (s.trained g x).2) ∧
      (∀ e ∈ s.out, e ∈ (s.endTraining g x).out) ∧
      ((s.trained g x).1.up = true → ((s.endTraining g x).peer (s.groupPeer g)).auth = s.peerTrusted x.ident ∧
        (s.reachable (s.groupPeer g) = false → ((s.endTraining g x).peer (s.groupPeer g)).rx = 0)) := by
  have becomes := s.groupBecomes_trainGroups g x
  have out := s.out_trainGroups g x
  rw [State.endTraining, State.peerTrusted_trainGroups]
  generalize s.trainGroups g x = t at *
  split
  · obtain ⟨f, kept, auth, rx⟩ := t.linkUp_spec (s.groupPeer g) (s.peerTrusted x.ident) (!s.reachable (s.groupPeer g))
    have told := kept.trans (State.linksKept_announce _)
    have peer : (t.modPeer (s.groupPeer g) f).peer (s.groupPeer g) = f (t.peer (s.groupPeer g)) := by
      rw [State.peer_modPeer, if_pos rfl]
    refine ⟨State.GroupBecomes.kept (t := t.modPeer _ f) becomes told, fun e he => told.out e (out e he), fun _ => ⟨?_, fun lost => ?_⟩⟩
    · rw [told.auth, peer, auth]
    · rw [told.rx, peer, rx (by simp [lost])]
  · next down =>
    have told := (t.linksKept_checkPeer (s.groupPeer g)).trans (State.linksKept_announce _)
    exact ⟨becomes.kept told, fun e he => told.out e (out e he), fun up => absurd up down⟩

/-- A training that has not come to its end notes the phases that are done. -/
theorem groupTraining_phases {s : State} {g : Fin 16} {x : Training} (real : g.val ≠ 0) (may : s.MayTrain g)
    (notYet : ¬ s.TrainingEnds g x) : ∃ t, exec (.groupTraining g x) s = .next t ∧
      s.GroupBecomes t g { s.group g with st := .training, phase := x.phase } ∧
      ∀ e ∈ (s.identified g x).out, e ∈ t.out := by
  have kept := s.linksKept_identified g x
  have becomes := (s.identified g x).groupBecomes_modGroup g fun l => { l with st := .training, phase := x.phase }
  rw [kept.group] at becomes
  rw [← State.trainingEnds_iff, Bool.not_eq_false] at notYet
  exact ⟨_, (exec_groupTraining x real may).trans (if_pos notYet), kept.becomes becomes, fun _ => id⟩

/-- The loopback lane comes up where its test passed (R290, R399). -/
theorem groupTraining_loopback {s : State} {g : Fin 16} {x : Training} (loop : g.val = 8) (may : s.MayTrain g)
    (whole : s.TrainingEnds g x) : ∃ t, exec (.groupTraining g x) s = .next t ∧
      s.GroupBecomes t g { s.group g with
        st := if !s.test.loopBad && (s.goodLanes x.ratios).getLsbD 0 then .up8 else .failed
        lanes := if !s.test.loopBad && (s.goodLanes x.ratios).getLsbD 0 then 1 else 0 } := by
  have silent : s.identified g x = s := if_neg fun h => h.1 loop
  have becomes := s.groupBecomes_modGroup 8 fun l => { l with
    st := if !s.test.loopBad && (s.goodLanes x.ratios).getLsbD 0 then .up8 else .failed
    lanes := if !s.test.loopBad && (s.goodLanes x.ratios).getLsbD 0 then 1 else 0 }
  have run := exec_groupTraining x (by omega) may
  rw [State.trainingEnds_iff.2 whole, silent] at run
  refine ⟨_, run.trans ((if_neg Bool.false_ne_true).trans (if_pos loop)), ?_⟩
  rw [loop]
  exact becomes.kept (State.linksKept_announce _)

/-- The end of a training: the group's record, what was sent, and what its peer is from now on. -/
theorem groupTraining_ends {s : State} {g : Fin 16} {x : Training} (real : g.val ≠ 0) (peer : g.val ≠ 8) (may : s.MayTrain g)
    (whole : s.TrainingEnds g x) : ∃ t, exec (.groupTraining g x) s = .next t ∧
      s.GroupBecomes t g ((s.group g).trained (s.trained g x).1 (s.trained g x).2) ∧
      (∀ e ∈ (s.identified g x).out, e ∈ t.out) ∧
      ((s.trained g x).1.up = true → (t.peer (s.groupPeer g)).auth = s.peerTrusted x.ident ∧
        (s.reachable (s.groupPeer g) = false → (t.peer (s.groupPeer g)).rx = 0)) := by
  have kept := s.linksKept_identified g x
  obtain ⟨becomes, out, up⟩ := (s.identified g x).endTraining_spec g x
  have trusted : (s.identified g x).peerTrusted x.ident = s.peerTrusted x.ident := by
    unfold State.identified
    split <;> rfl
  rw [State.trained_identified] at becomes up
  rw [kept.group] at becomes
  rw [kept.groupPeer, kept.reachable, trusted] at up
  have run := exec_groupTraining x real may
  rw [State.trainingEnds_iff.2 whole] at run
  exact ⟨_, run.trans ((if_neg Bool.false_ne_true).trans (if_neg peer)), kept.becomes becomes, out, up⟩

/-- With phase 6 this device's identification leaves on the group (R303, R304, R356). -/
theorem groupTraining_ident {s : State} {g : Fin 16} {x : Training} (real : g.val ≠ 0) (peer : g.val ≠ 8) (may : s.MayTrain g)
    (before : (s.group g).phase < 6) (six : 6 ≤ x.phase.val) (enough : s.LanesEnough g x) :
    ∃ t, exec (.groupTraining g x) s = .next t ∧ .ident g (s.ownIdent x.ident) ∈ t.out := by
  have sent : .ident g.val (s.ownIdent x.ident) ∈ (s.identified g x).out := by
    rw [State.identified, if_pos ⟨peer, before, six, by simp [State.mapLanes_enough.2 enough]⟩]
    exact List.mem_append_right _ (List.mem_singleton_self _)
  by_cases whole : s.TrainingEnds g x
  · obtain ⟨t, run, -, out, -⟩ := groupTraining_ends real peer may whole
    exact ⟨t, run, out _ sent⟩
  · obtain ⟨t, run, -, out⟩ := groupTraining_phases real may whole
    exact ⟨t, run, out _ sent⟩

/-! ### The statement on links -/

/-- The end of a training, by the state and the lanes that it leads to. -/
theorem groupTraining_leads_to {s : State} {g : Fin 16} {x : Training} {st : GState} {lanes : BitVec 8} (real : g.val ≠ 0)
    (peer : g.val ≠ 8) (may : s.MayTrain g) (whole : s.TrainingEnds g x) (leads : s.trained g x = (st, lanes)) :
    ∃ t, exec (.groupTraining g x) s = .next t ∧ s.GroupBecomes t g ((s.group g).trained st lanes) := by
  obtain ⟨t, run, becomes, -, -⟩ := groupTraining_ends real peer may whole
  rw [leads] at becomes
  exact ⟨t, run, becomes⟩

theorem State.trained_version {s : State} {g : Nat} {x : Training} (enough : s.LanesEnough g x)
    (position : x.ident.position.val = s.groupPeer g) (other : x.ident.vmajHi < 1 ∨ 1 < x.ident.vmajLo) :
    s.trained g x = (.version, 0) := by
  rw [State.trained_enough enough, if_neg (not_not.2 position), if_pos other]

theorem State.trained_authFailed {s : State} {g : Nat} {x : Training} (enough : s.LanesEnough g x)
    (position : x.ident.position.val = s.groupPeer g) (hi : 1 ≤ x.ident.vmajHi) (lo : x.ident.vmajLo ≤ 1)
    (unsigned : (x.ident.certOk && x.ident.sigOk) = false) : s.trained g x = (.authFailed, 0) := by
  rw [State.trained_enough enough, if_neg (not_not.2 position), if_neg (by omega),
    if_pos (by simpa using Bool.and_eq_false_iff.1 unsigned)]

/-- Where the lanes are enough and the identification passes every check, the group comes up (R303, R304). -/
theorem State.trained_up {s : State} {g : Nat} {x : Training} (enough : s.LanesEnough g x)
    (position : x.ident.position.val = s.groupPeer g) (hi : 1 ≤ x.ident.vmajHi) (lo : x.ident.vmajLo ≤ 1)
    (signed : (x.ident.certOk && x.ident.sigOk) = true) : s.trained g x =
      if g < 8 then
        (if laneCount (s.goodLanes x.ratios &&& x.theirs) = 8 then .up8 else .up7, s.goodLanes x.ratios &&& x.theirs)
      else (.up8, 1) := by
  obtain ⟨cert, sig⟩ := Bool.and_eq_true_iff.1 signed
  rw [State.trained_enough enough, if_neg (not_not.2 position), if_neg (by omega), if_neg (by simp [cert, sig])]

theorem State.trained_comes_up {s : State} {g : Nat} {x : Training} (enough : s.LanesEnough g x)
    (position : x.ident.position.val = s.groupPeer g) (hi : 1 ≤ x.ident.vmajHi) (lo : x.ident.vmajLo ≤ 1)
    (signed : (x.ident.certOk && x.ident.sigOk) = true) : (s.trained g x).1.up = true := by
  rw [State.trained_up enough position hi lo signed]
  split
  · dsimp only
    split <;> rfl
  · rfl

/-- Settles O39: a command of the statement changes its own groups by `State.modGroup` (`State.GroupBecomes`), and what it
does beside that leaves the groups alone (`State.LinksKept`). -/
theorem linksTrainAndFail : Obligations.LinksTrainAndFail := by
  unfold Obligations.LinksTrainAndFail
  intro s g l n down becomesAt becomes lost trains without limit worse
  refine ⟨?_, trainingPhaseTimeout_dark, trainingPhaseTimeout_again, trainingPhaseTimeout_fails,
    fun idle b => exec_trainingPhaseTimeout_of_not_training b idle, groupRestoreTimer_trains, groupRestoreTimer_idle, ?_, ?_,
    fun ratios good => laneErrorWindow_quiet g good, ?_, clockChannelLoss_channel, clockChannelLoss_channel_idle,
    clockChannelLoss_peerReset, clockChannelLoss_engine s g, fun op => fabricOpTimeout_unknown,
    fun o listed x waits same => fabricOpTimeout_fails listed waits same, ?_⟩
  · intro x run lanes c p good ready whole ends
    refine ⟨fun i => s.goodLanes_getLsbD x.ratios, exec_groupTraining_idle x, fun real may notYet => ?_,
      fun real peer may before six enough => ?_, fun loop may complete => groupTraining_loopback loop may complete,
      fun real peer may complete => ?_⟩
    · obtain ⟨t, done, becomes, -⟩ := groupTraining_phases real may notYet
      exact ⟨t, done, becomes⟩
    · obtain ⟨t, done, sent⟩ := groupTraining_ident real peer may before six enough
      exact ⟨t, _, done, sent, rfl, rfl, rfl, rfl, rfl, rfl⟩
    · have leads {st : GState} {ls ver : BitVec 8} (e : s.trained n x = (st, ls)) (hver : (if st.up then 0x10 else 0) = ver) :
          ends st ls ver := hver ▸ groupTraining_leads_to real peer may complete e
      refine ⟨fun short => leads (State.trained_short short) (if_neg (Bool.eq_false_iff.1 (s.failedState_not_up n))),
        fun enough elsewhere => leads ((State.trained_enough enough).trans (if_pos elsewhere)) rfl,
        fun enough here other => leads (State.trained_version enough here other) rfl,
        fun enough here hi lo unsigned => leads (State.trained_authFailed enough here hi lo unsigned) rfl,
        fun enough here hi lo signed => ⟨fun group => leads ?_ ?_, fun spare => leads ?_ rfl, ?_⟩⟩
      · rw [State.trained_up enough here hi lo signed, if_pos group]
        rfl
      · split <;> rfl
      · rw [State.trained_up enough here hi lo signed, if_neg (by omega)]
      · obtain ⟨t, done, -, -, peerOf⟩ := groupTraining_ends real peer may complete
        obtain ⟨auth, rx⟩ := peerOf (State.trained_comes_up enough here hi lo signed)
        exact ⟨t, done, auth, rx⟩
  · intro q accepted answers again
    refine ⟨fun names real group => ⟨fun busy => ?_, fun free => ?_⟩, fun names => ⟨fun busy => ?_, fun free => ?_⟩⟩
    · exact exec_retrainGroup accepted (by rw [names, State.odRetrain_group_busy (by omega) busy])
    · refine ⟨s.retrainAll [n], exec_retrainGroup accepted (by rw [names, State.odRetrain_group (by omega) free]),
        ?_, fun k other => ?_⟩
      · rw [State.group_retrainAll, if_pos (List.mem_singleton_self n)]
        rfl
      · rw [State.group_retrainAll, if_neg (by simpa using other)]
    · exact exec_retrainGroup accepted (by rw [names, State.odRetrain_spares_busy busy])
    · exact ⟨_, exec_retrainGroup accepted (by rw [names, State.odRetrain_spares free]), fun k => s.group_retrainAll_spares⟩
  · intro lane
    refine ⟨fun idle => ?_, fun used => ⟨fun up8 group => ⟨_, rfl, State.groupBecomes_loseLane_of_up8 used up8 group⟩,
      fun last => ⟨_, rfl, State.groupBecomes_loseLane_of_last used last⟩⟩⟩
    show Host.Outcome.next (s.loseLanes g [lane.val]) = _
    obtain off | unused := idle
    · rw [State.loseLanes_of_not_up _ off]
    · rw [State.loseLanes_of_unused (by simpa using unused)]
  · intro ratios i r lane measured high used only
    have run := exec_laneErrorWindow_one g lane measured high only
    exact ⟨fun up8 group => ⟨_, run, State.groupBecomes_loseLane_of_up8 used up8 group⟩,
      fun last => ⟨_, run, State.groupBecomes_loseLane_of_last used last⟩⟩
  · intro peer words k w st x
    have noted := s.linksKept_noteLinks peer words
    refine ⟨exec_linkState_of_unreachable words, fun reachable not3 not4 not5 => ?_, fun reachable failed up => ?_,
      fun i lane reachable seven up8 only used => ?_⟩
    · have run := exec_linkState words reachable
      rw [State.followPeer_other not3 not4 not5] at run
      exact ⟨_, run, by rw [State.noteLinks, State.peer_modPeer, if_pos rfl],
        fun j other => by rw [State.noteLinks, State.peer_modPeer, if_neg other], rfl⟩
    · have run := exec_linkState words reachable
      have up' : ((s.noteLinks peer words).group k).st.up = true := by rwa [noted.group]
      rw [State.followPeer_failed failed up'] at run
      exact ⟨_, run, noted.becomes (State.groupBecomes_groupFail_of_up up')⟩
    · have run := exec_linkState words reachable
      rw [State.followPeer_retired seven lane only] at run
      exact ⟨_, run, noted.becomes (State.groupBecomes_loseLane_of_up8 used up8 (s.groupTo_lt peer))⟩

end Sys2Proof.Machine
end

section
/-!
PROOF. The Tally word (R35): how a stored word reads, and what one saturating addition makes of it.
-/

namespace Sys2Proof.Machine

/-- The one word below the range of R35. -/
theorem toInt_lt_neg_tallyMax_iff (w : BitVec 128) : w.toInt < -tallyMax ↔ w.toInt = -2 ^ 127 := by
  have low : -2 ^ 127 ≤ w.toInt := w.le_toInt
  unfold tallyMax
  omega

theorem tallyRead_fst (w : BitVec 128) : (tallyRead w).1 = if w.toInt = -2 ^ 127 then -tallyMax else w.toInt := by
  simp only [tallyRead, toInt_lt_neg_tallyMax_iff]
  split <;> rfl

theorem tallyRead_snd (w : BitVec 128) : (tallyRead w).2 = true ↔ w.toInt = -2 ^ 127 := by
  rw [← toInt_lt_neg_tallyMax_iff, tallyRead]
  split <;> simp [*]

/-- An integer of the range of R35 stands in its word exactly. -/
theorem toInt_ofInt_of_tally {y : Int} (low : -tallyMax ≤ y) (high : y ≤ tallyMax) : (BitVec.ofInt 128 y).toInt = y := by
  unfold tallyMax at low high
  exact BitVec.toInt_ofInt_eq_self (by decide) (by omega) (by omega)

/-- The new word is the exact sum brought into the range of R35. -/
theorem toInt_tallyAdd_fst (w : BitVec 128) (x : Int) :
    (tallyAdd w x).1.toInt = max (-tallyMax) (min tallyMax ((tallyRead w).1 + x)) := by
  have range : -tallyMax ≤ tallyMax := by decide
  simp only [tallyAdd]
  split_ifs with above below
  · rw [toInt_ofInt_of_tally range le_rfl]
    omega
  · rw [toInt_ofInt_of_tally le_rfl range]
    omega
  · rw [toInt_ofInt_of_tally (by omega) (by omega)]
    omega

/-- SAT: the exact sum leaves the range, or the word stood below it. -/
theorem tallyAdd_snd (w : BitVec 128) (x : Int) : (tallyAdd w x).2 = true ↔
    (tallyRead w).2 = true ∨ tallyMax < (tallyRead w).1 + x ∨ (tallyRead w).1 + x < -tallyMax := by
  simp only [tallyAdd]
  split_ifs with above below <;> simp [*]

/-- Settles O6: `toInt_tallyAdd_fst` and `tallyAdd_snd`, with what the word reads as (`tallyRead_fst`). -/
theorem tallyAdditionSaturates : Obligations.TallyAdditionSaturates := by
  unfold Obligations.TallyAdditionSaturates
  intro w x a
  have reads : (tallyRead w).1 = a := tallyRead_fst w
  refine ⟨?_, ?_⟩
  · rw [toInt_tallyAdd_fst, reads]
    rfl
  · rw [tallyAdd_snd, tallyRead_snd, reads]
    rfl

end Sys2Proof.Machine
end

section
/-!
PROOF. Runs at issue (R30, R31, R52, R55, R69, R194, R195): what a tile.run that issues makes of its core, its run in flight
included.
-/

namespace Sys2Proof.Machine

/-! ### Issue -/

/-- The core from whose queue the head has gone. -/
def Core.popped (k : Core) : Core := { k with tile := k.tile.pop }

/-- An instruction that issues acts on a state that differs in its core alone, from whose queue it has gone. -/
theorem State.Issues.acts {s : State} {c : CoreRef} {p : Nat} {w : BitVec 128} (h : s.Issues c p w)
    (real : tileOpc w.toNat < 6) : ∃ u : State, OnlyCore s u p ∧ u.core p = (s.core p).popped ∧
      ∀ act t, act u p w.toNat (s.core p).tile.seq = some t → tileIssue c (tileOpc w.toNat) act s = t := by
  refine ⟨_, onlyCore_modCore s p fun k => { k with tile := (s.core p).tile.pop }, s.core_modCore_same p _, fun act t done => ?_⟩
  rw [tileIssue_of h act real]
  simp only [done]

/-- A run that needs no grant, or holds it, goes to issue at once (R73). -/
theorem exec_tileRun_of_granted {s : State} {c : CoreRef} {cold : Bool} {p : Nat} (h : s.phys c.sh c.c = some p)
    (may : (cold = false ∧ 8 * c.sh.val + c.c.val ∉ s.power.ramp) ∨ (s.core p).tile.granted = true) :
    exec (.tileRun c cold) s = .next (tileIssue c 3 runIssue s) := by
  show execTileRun c cold s = _
  rw [execTileRun, State.lcore_some h, if_neg]
  obtain ⟨warm, out⟩ | granted := may
  · simp [warm, out]
  · simp [granted]

/-! ### Clears -/

theorem tabGet_clearRows (t : Tab (BitVec 128)) (off a : Nat) (rows : BitVec 64) :
    tabGet 0 (clearRows t off rows) a =
      if off ≤ a ∧ a < off + 4096 ∧ rows.getLsbD ((a - off) / 64) = true then 0 else tabGet 0 t a := by
  simp [clearRows, tabGet_clearIf, and_assoc]

/-- A clear reaches all 64 positions of an enabled row (R31). -/
theorem tabGet_clearRows_word (t : Tab (BitVec 128)) (off : Nat) (rows : BitVec 64) {ch pos : Nat} (hch : ch < 64)
    (hpos : pos < 64) : tabGet 0 (clearRows t off rows) (off + 64 * ch + pos) =
      if rows.getLsbD ch = true then 0 else tabGet 0 t (off + 64 * ch + pos) := by
  have row : (off + 64 * ch + pos - off) / 64 = ch := by omega
  have low : off ≤ off + 64 * ch + pos := by omega
  have high : off + 64 * ch + pos < off + 4096 := by omega
  rw [tabGet_clearRows, row]
  simp only [low, high, true_and]

theorem tabGet_clearRows_outside (t : Tab (BitVec 128)) {off a : Nat} (rows : BitVec 64) (h : a < off ∨ off + 4096 ≤ a) :
    tabGet 0 (clearRows t off rows) a = tabGet 0 t a := by
  rw [tabGet_clearRows, if_neg (by omega)]

/-! ### Sums of products -/

/-- Each enabled row and position has its exact sum of products, shifted to the run's point (R30, R32). -/
theorem mem_baseTotals {k : Core} {f : RunF} {rows : BitVec 64} {ch i : Nat} (row : ch < 64)
    (enabled : rows.getLsbD ch = true) (position : i < f.n) :
    (64 * ch + (f.tpos + i),
      (∑ j ∈ Finset.range f.k, (codeInt f.cs ((tabGet 0 k.stationary (128 * ch + j)).toNat % 2 ^ codeWidth f.cs)).1 *
        (codeInt f.ca (codeAt k.opbuf (f.src + i * f.stride) f.ca j)).1) *
        2 ^ (codeGrid f.cs + codeGrid f.ca - f.point).toNat) ∈ (baseTotals k f rows).1 := by
  have vector : (f.tpos + i, (codeRow k.opbuf (f.vAddr i) f.ca f.k).1) ∈ (f.vectors k.opbuf).1 :=
    List.mem_map.2 ⟨_, List.mem_map.2 ⟨i, List.mem_range.2 position, rfl⟩, rfl⟩
  refine List.mem_flatMap.2 ⟨(ch, planeRow k.stationary ch f.cs f.k),
    List.mem_map.2 ⟨ch, (mem_maskRows rows ch).2 ⟨row, enabled⟩, rfl⟩, List.mem_map.2 ⟨_, vector, ?_⟩⟩
  simp only [planeRow, codeRow, List.map_map, Function.comp_def, dot_range, RunF.vAddr]

/-! ### Base, APPLY, GATHER and GRAD_X runs -/

/-- The core after a run's own swap and its clear (R31, R55). -/
def Core.prepared (k : Core) (f : RunF) : Core :=
  let k1 := if f.swap then k.swap else k
  if f.acc then k1 else k1.clearSlot f.slot (k.mask f.mask) f.pbits

/-- The first run that names an adapter slot binds it to its first chunk (R173). -/
def AdptSlot.bind (a : AdptSlot) : AdptSlot := if a.bound then a else { a with bound := true, cursor := a.ch0 }

theorem AdptSlot.bound_bind (a : AdptSlot) : a.bind.bound = true := by
  unfold AdptSlot.bind
  split
  · next bound => exact bound
  · rfl

/-- The core after a run has bound the adapter slot that it names; a base run names none. -/
def Core.bindFor (k : Core) (f : RunF) : Core :=
  if f.mode = 0 then k else { k with aslot := tabSet {} k.aslot f.aslot (k.slotA f.aslot).bind }

/-- The run in flight of a base, APPLY, GATHER or GRAD_X run on a prepared core. -/
def Core.runOf (k : Core) (f : RunF) (rows : BitVec 64) (seq : Nat) : Run where
  seq := seq
  slot := f.slot
  rows := rows
  base := (baseTotals k f rows).1
  nfi := (baseTotals k f rows).2
  adpt := if f.mode = 0 then none else some
    { aslot := f.aslot
      chunk := (k.slotA f.aslot).bind.cursor
      gather := f.mode == 2
      gx := codeGrid f.ca
      x := (f.vectors k.opbuf).1
      gt := if f.mode = 2 then (List.range f.n).map fun i => (f.tpos + i, tabGet 0 k.gather (f.tpos + i)) else [] }
  grad := none

theorem Core.adpt_runOf (k : Core) (f : RunF) (rows : BitVec 64) (seq : Nat) :
    (k.runOf f rows seq).adpt = none ↔ f.mode = 0 := by
  simp [Core.runOf]

/-- The core with one more run in flight; the grant it held is used up. -/
def Core.withRun (k : Core) (r : Run) : Core :=
  { k with tile := { k.tile with granted := false, runs := k.tile.runs ++ [r] } }

/-- A run of another mode than GRAD_W issues unless it waits for its loads, or for what is in flight in the slot it clears. -/
theorem runIssue_of_not_gradW {u : State} {p w seq : Nat} (mode : (RunF.of w).mode ≠ 4)
    (loaded : (RunF.of w).swap = true → (u.core p).tile.loads = [])
    (clear : (RunF.of w).acc = true ∨ (u.core p).tile.clearHeld (RunF.of w).slot = false) :
    let f := RunF.of w
    let k := u.core p
    runIssue u p w seq =
      some (u.modCore p fun _ => ((k.prepared f).bindFor f).withRun ((k.prepared f).runOf f (k.mask f.mask) seq)) := by
  intro f k
  have loads : (f.swap && !k.tile.loads.isEmpty) = false := by
    cases swap : f.swap
    · rfl
    · rw [loaded swap]
      rfl
  have held : (!f.acc && k.tile.clearHeld f.slot) = false := by
    obtain keeps | quiet := clear
    · simp [f, keeps]
    · rw [quiet, Bool.and_false]
  have free : ¬ ((f.swap && !k.tile.loads.isEmpty) || (!f.acc && k.tile.clearHeld f.slot)) = true := by
    rw [loads, held]
    decide
  simp only [runIssue, if_neg mode]
  rw [if_neg free]
  by_cases base : f.mode = 0
  · simp only [Core.bindFor, Core.runOf, if_pos base, show (RunF.of w).mode = 0 from base]
    rfl
  · simp only [Core.bindFor, Core.runOf, if_neg base, if_neg (show ¬ (RunF.of w).mode = 0 from base)]
    rfl

/-! ### What the core of such a run holds -/

theorem Core.prepared_eq (k : Core) (f : RunF) : k.prepared f = { k with
    stationary := if f.swap then k.shadow else k.stationary
    aslot := if f.swap then k.swap.aslot else k.aslot
    tally := if f.acc then k.tally else clearRows k.tally (4096 * f.slot) (k.mask f.mask)
    tslot := if f.acc then k.tslot else tabSet {} k.tslot f.slot (SlotStatus.clear f.pbits)
    tadds := if f.acc then k.tadds else k.tadds.filter (· ≠ f.slot) } := by
  unfold Core.prepared
  cases f.swap <;> cases f.acc <;> rfl

/-- A clearing run zeroes its enabled rows (R31). -/
theorem Core.tally_prepared (k : Core) (f : RunF) {ch pos : Nat} (hch : ch < 64) (hpos : pos < 64) :
    tabGet 0 (k.prepared f).tally (4096 * f.slot + 64 * ch + pos) =
      if f.acc = false ∧ (k.mask f.mask).getLsbD ch = true then 0
      else tabGet 0 k.tally (4096 * f.slot + 64 * ch + pos) := by
  rw [Core.prepared_eq]
  cases f.acc
  · simpa using tabGet_clearRows_word k.tally (4096 * f.slot) (k.mask f.mask) hch hpos
  · simp

theorem Core.tally_prepared_outside (k : Core) (f : RunF) {a : Nat} (h : a < 4096 * f.slot ∨ 4096 * f.slot + 4096 ≤ a) :
    tabGet 0 (k.prepared f).tally a = tabGet 0 k.tally a := by
  rw [Core.prepared_eq]
  cases f.acc
  · exact tabGet_clearRows_outside k.tally (k.mask f.mask) h
  · rfl

/-- A clearing run records its point and sets LIVE alone (R31). -/
theorem Core.tslot_prepared (k : Core) (f : RunF) (i : Nat) : tabGet {} (k.prepared f).tslot i =
    if i = f.slot ∧ f.acc = false then { point := f.pbits, live := true } else tabGet {} k.tslot i := by
  rw [Core.prepared_eq]
  cases f.acc <;> simp [tabGet_set, SlotStatus.clear]

theorem Core.bindFor_eq (k : Core) (f : RunF) : k.bindFor f = { k with
    aslot := if f.mode = 0 then k.aslot else tabSet {} k.aslot f.aslot (k.slotA f.aslot).bind } := by
  unfold Core.bindFor
  split <;> rfl

theorem Core.bound_bindFor (k : Core) {f : RunF} (mode : f.mode ≠ 0) : ((k.bindFor f).slotA f.aslot).bound = true := by
  rw [Core.bindFor, if_neg mode, Core.slotA, tabGet_set_same, AdptSlot.bound_bind]

/-! ### GRAD_W runs -/

/-- The core after the clear of a GRAD_W run (R195). -/
def Core.gradPrepared (k : Core) (f : RunF) : Core :=
  if f.acc then k else { k with grad := clearRows k.grad 0 (k.mask f.mask), gradst := SlotStatus.clear f.pbits }

theorem Core.gradPrepared_eq (k : Core) (f : RunF) : k.gradPrepared f = { k with
    grad := if f.acc then k.grad else clearRows k.grad 0 (k.mask f.mask)
    gradst := if f.acc then k.gradst else SlotStatus.clear f.pbits } := by
  unfold Core.gradPrepared
  cases f.acc <;> rfl

/-- A clearing GRAD_W run zeroes its rows of the gradient store (R195). -/
theorem Core.grad_gradPrepared (k : Core) (f : RunF) {j q : Nat} (hj : j < 64) (hq : q < 64) :
    tabGet 0 (k.gradPrepared f).grad (64 * j + q) =
      if f.acc = false ∧ (k.mask f.mask).getLsbD j = true then 0 else tabGet 0 k.grad (64 * j + q) := by
  have word := tabGet_clearRows_word k.grad 0 (k.mask f.mask) hj hq
  rw [Nat.zero_add] at word
  rw [Core.gradPrepared_eq]
  cases f.acc
  · simpa using word
  · simp

/-- The run in flight of a GRAD_W run. -/
def Core.gradRunOf (k : Core) (f : RunF) (seq : Nat) : Run where
  seq := seq
  slot := 0
  rows := k.mask f.mask
  base := []
  nfi := (gradTerms k.opbuf f (k.mask f.mask)).2
  adpt := none
  grad := some (gradTerms k.opbuf f (k.mask f.mask)).1

/-- A GRAD_W run issues unless it clears the gradient store with an earlier one in flight. -/
theorem runIssue_of_gradW {u : State} {p w seq : Nat} (mode : (RunF.of w).mode = 4)
    (clear : (RunF.of w).acc = true ∨ (u.core p).tile.runs.all (·.grad.isNone) = true) :
    let f := RunF.of w
    let k := u.core p
    runIssue u p w seq = some (u.modCore p fun _ => (k.gradPrepared f).withRun (k.gradRunOf f seq)) := by
  intro f k
  have free : ¬ (!f.acc && k.tile.runs.any (·.grad.isSome)) = true := by
    obtain a | a := clear
    · simp [f, a]
    · simp_all [k]
  simp only [runIssue, if_pos mode]
  rw [if_neg free]
  rfl

/-! ### The statement -/

/-- Settles O11: the two kinds of runs go to issue (`exec_tileRun_of_granted`, `State.Issues.acts`) and make of their core
what `runIssue_of_not_gradW` and `runIssue_of_gradW` say. -/
theorem runsIssue : Obligations.RunsIssue := by
  unfold Obligations.RunsIssue
  constructor
  · intro s c cold p w issues opcode k f granted mode loaded clear plane
    obtain ⟨u, only, popped, acts⟩ := issues.acts (by omega)
    have tile : (u.core p).tile = k.tile.pop := by rw [popped]; rfl
    have run := acts runIssue _ (runIssue_of_not_gradW mode (by rwa [tile]) (by rwa [tile]))
    rw [opcode, popped] at run
    refine ⟨_, (exec_tileRun_of_granted issues.phys granted).trans (congrArg _ run), only.trans (onlyCore_modCore u p _),
      k.popped.prepared f |>.runOf f (k.mask f.mask) k.tile.seq, ?_⟩
    rw [State.core_modCore_same]
    have bound := (k.popped.prepared f).bound_bindFor (f := f)
    rw [Core.bindFor_eq] at bound ⊢
    have tally ch pos (hch : ch < 64) (hpos : pos < 64) := k.popped.tally_prepared f hch hpos
    have outside a (h : a < 4096 * f.slot ∨ 4096 * f.slot + 4096 ≤ a) := k.popped.tally_prepared_outside f h
    have tslot := k.popped.tslot_prepared f
    rw [Core.prepared_eq] at tally outside tslot bound ⊢
    exact ⟨rfl, rfl, rfl, rfl, rfl, Core.adpt_runOf .., fun ch i row enabled position => mem_baseTotals row enabled position, rfl,
      tally, outside, tslot, bound, rfl, rfl⟩
  · intro s c cold p w issues opcode k f granted mode clear
    obtain ⟨u, only, popped, acts⟩ := issues.acts (by omega)
    have tile : (u.core p).tile = k.tile.pop := by rw [popped]; rfl
    have run := acts runIssue _ (runIssue_of_gradW mode (by rwa [tile]))
    rw [opcode, popped] at run
    refine ⟨_, (exec_tileRun_of_granted issues.phys granted).trans (congrArg _ run), only.trans (onlyCore_modCore u p _),
      k.gradRunOf f k.tile.seq, ?_⟩
    have grad j q (hj : j < 64) (hq : q < 64) := k.popped.grad_gradPrepared f hj hq
    rw [State.core_modCore_same]
    rw [Core.gradPrepared_eq] at grad ⊢
    exact ⟨rfl, rfl, rfl, rfl, rfl, rfl, rfl, grad, rfl, rfl⟩

end Sys2Proof.Machine
end

section
/-!
PROOF. Runs at completion (R35, R69, R156, R195): which run completes, and what its last products make of its core.
-/

namespace Sys2Proof.Machine

/-! ### Which run completes -/

/-- The first run in queue order that may write, and whose adapter part is ready, is the one that completes (R69). -/
theorem State.ripeRun_of_oldest {s : State} {part : Nat} {k : Core} {r : Run} {pre post : List Run}
    {a : Except Status (List (Nat × Int))} (runs : k.tile.runs = pre ++ r :: post)
    (early : ∀ q ∈ pre, k.tile.mayWrite q = false ∨ s.adapterPart part k q = none) (may : k.tile.mayWrite r = true)
    (ready : s.adapterPart part k r = some a) : s.ripeRun part k = some (r, a) := by
  have none : (pre.filter k.tile.mayWrite).findSome? (fun q => (s.adapterPart part k q).map fun b => (q, b)) = none := by
    refine List.findSome?_eq_none_iff.2 fun q hq => ?_
    obtain ⟨listed, mayWrite⟩ := List.mem_filter.1 hq
    obtain held | waits := early q listed
    · rw [held] at mayWrite
      cases mayWrite
    · rw [waits]
      rfl
  rw [State.ripeRun, runs, List.filter_append, List.findSome?_append, none, List.filter_cons_of_pos may,
    List.findSome?_cons, ready]
  rfl

/-- What a completing run notes about its reads from HBM (R319, R321). -/
def State.noteRun (s : State) (a : Except Status (List (Nat × Int))) (reads : List (Nat × Nat)) : State :=
  match a with
  | .ok _ => s.noteCorrected reads
  | .error _ => s.noteReads reads

theorem exec_runComplete_of_ripe {s : State} {c : CoreRef} {p : Nat} {r : Run} {a : Except Status (List (Nat × Int))}
    (phys : s.phys c.sh c.c = some p) (ripe : s.ripeRun (s.partOf c.sh) (s.core p) = some (r, a)) :
    exec (.runComplete c) s = .next ((s.modCore p fun _ => (s.core p).runDone r a).noteRun a
      (s.runReads (s.partOf c.sh) (s.core p) r)) := by
  show execRunComplete c s = _
  rw [execRunComplete, phys]
  simp only [ripe]
  cases a <;> rfl

/-! ### What it makes of its core -/

/-- Terms that the adapter part adds: none where it ended with a status. -/
def adapterTerms (a : Except Status (List (Nat × Int))) : List (Nat × Int) :=
  match a with
  | .ok l => l
  | .error _ => []

/-- The tile unit without the run, whose program has ended where the adapter part ended with a status. -/
def TileUnit.afterRun (u : TileUnit) (r : Run) (a : Except Status (List (Nat × Int))) : TileUnit :=
  let left : TileUnit := { u with runs := u.runs.filter (·.seq ≠ r.seq) }
  match a with
  | .ok _ => left
  | .error st => left.failProgram r.seq st

/-- The Tally after the run's totals and then the terms `l`, and whether one of the additions saturated. -/
def Core.runAdded (k : Core) (r : Run) (l : List (Nat × Int)) : Tab (BitVec 128) × Bool :=
  let base := addTerms (4096 * r.slot) k.tally r.base
  let both := addTerms (4096 * r.slot) base.1 l
  (both.1, base.2 || both.2)

theorem Core.runDone_of_slot (k : Core) {r : Run} (a : Except Status (List (Nat × Int))) (slot : r.grad = none) :
    k.runDone r a = { k with
      tile := k.tile.afterRun r a
      tally := (k.runAdded r (adapterTerms a)).1
      tslot := tabMod {} k.tslot r.slot fun st =>
        { st with sat := st.sat || (k.runAdded r (adapterTerms a)).2, nfi := st.nfi || r.nfi } } := by
  rw [Core.runDone, slot]
  cases a <;> simp only [Core.runAdded, ← Bool.or_assoc] <;> rfl

theorem Core.runDone_of_grad (k : Core) {r : Run} {ts : List (Nat × Int)} (a : Except Status (List (Nat × Int)))
    (grad : r.grad = some ts) :
    k.runDone r a = { k with
      tile := { k.tile with runs := k.tile.runs.filter (·.seq ≠ r.seq) }
      grad := (addTerms 0 k.grad ts).1
      gradst := { k.gradst with sat := k.gradst.sat || (addTerms 0 k.grad ts).2, nfi := k.gradst.nfi || r.nfi } } := by
  rw [Core.runDone, grad]

/-- A Tally word that a run reaches takes the base totals, then the adapter's terms (R35, R156); SAT is due where one of
the additions saturates, and the words below the slot stay. -/
theorem Core.runAdded_spec (k : Core) (r : Run) (l : List (Nat × Int)) :
    let base (i : Nat) := addedAt r.base i (tabGet 0 k.tally (4096 * r.slot + i))
    let both (i : Nat) := addedAt l i (base i).1
    (∀ i, tabGet 0 (k.runAdded r l).1 (4096 * r.slot + i) = (both i).1) ∧
      (∀ i, i < 4096 * r.slot → tabGet 0 (k.runAdded r l).1 i = tabGet 0 k.tally i) ∧
      ((k.runAdded r l).2 = true ↔ ∃ i, (base i).2 = true ∨ (both i).2 = true) := by
  intro base both
  obtain ⟨words, below, sat⟩ := addTerms_spec (4096 * r.slot) r.base k.tally
  obtain ⟨words', below', sat'⟩ := addTerms_spec (4096 * r.slot) l (addTerms (4096 * r.slot) k.tally r.base).1
  simp only [words] at words' sat'
  refine ⟨words', fun i low => (below' i low).trans (below i low), ?_⟩
  rw [Core.runAdded, Bool.or_eq_true, sat, sat', exists_or]

/-! ### The statement -/

/-- Settles O12: the run is the ripe one (`State.ripeRun_of_oldest`); what it makes of its core is `Core.runDone_of_slot` or
`Core.runDone_of_grad`, word by word `Core.runAdded_spec` or `addTerms_spec`. -/
theorem runCompletes : Obligations.RunCompletes := by
  unfold Obligations.RunCompletes
  intro s c p r pre post a phys runs early may ready k reads extra left word base both
  have done := exec_runComplete_of_ripe phys (State.ripeRun_of_oldest runs early may ready)
  refine ⟨_, onlyCore_modCore s p fun _ => k.runDone r a, ?_, fun slot => ?_, fun ts grad => ?_⟩
  · cases a <;> exact done
  · have terms : adapterTerms a = extra := by cases a <;> rfl
    obtain ⟨words, below, sat⟩ := k.runAdded_spec r extra
    rw [State.core_modCore_same, Core.runDone_of_slot _ a slot, terms]
    refine ⟨by cases a <;> rfl, words, below, fun i other => ?_, ?_, rfl⟩
    · rw [tabGet_mod_other _ _ _ _ _ other]
    · simp only [tabGet_mod_same, Bool.or_eq_true, sat, true_and]
      exact Iff.rfl
  · obtain ⟨words, -, sat⟩ := addTerms_spec 0 ts k.grad
    simp only [Nat.zero_add] at words sat
    rw [State.core_modCore_same, Core.runDone_of_grad _ a grad]
    exact ⟨rfl, words, rfl, by rw [Bool.or_eq_true, sat], rfl⟩

end Sys2Proof.Machine
end

section
/-!
PROOF. Drains at issue (R40 to R48, R65): the outputs of a tally.drain, word by word, each with its own draw.
-/

namespace Sys2Proof.Machine

/-! ### One word -/

/-- The value of the word of position `e.1` and channel `e.2` of the drain's slot (R35). -/
def Core.drainValue (k : Core) (f : DrainF) (e : Nat × Nat) : Int :=
  (tallyRead (tabGet 0 k.tally (4096 * f.slot + 64 * e.2 + e.1))).1

/-- The exact product of word, point and scales (R42). -/
def Core.drainScaled (k : Core) (f : DrainF) (point : Int) (e : Nat × Nat) : Q :=
  ((Q.ofInt (k.drainValue f e)).mul (Q.pow2 point)).mul ((f32Scale (tabGet 0 k.scale.rowScale (64 * f.br + e.2))).1.mul
    (f32Scale (tabGet 0 k.scale.tokScale (64 * f.bc + e.1))).1)

/-- Its one rounding: to nearest, or with the draw of output number `n`, where `lfsr` is the state before output 0 (R43,
R48). -/
def Core.drainRounded (k : Core) (f : DrainF) (point : Int) (lfsr n : Nat) (e : Nat × Nat) : Nat :=
  if f.rnd then (roundStoch f.fmt (k.drainScaled f point e) (srDraw (Nat.repeat srNext (n + 1) lfsr))).bits
  else (roundNearest f.fmt (k.drainScaled f point e)).bits

/-- Output number `n`: its address and its bytes; a RAW128 output is the word itself (R41, R47). -/
def Core.drainOut (k : Core) (f : DrainF) (point : Int) (lfsr n : Nat) (e : Nat × Nat) : Nat × List Byte :=
  (f.dst + (e.1 - f.tpos) * 64 * drainWidth f.fmt + e.2 * drainWidth f.fmt,
    if f.fmt = 6 then natLE (unsext 128 (k.drainValue f e)) 16
    else natLE (k.drainRounded f point lfsr n e) (drainWidth f.fmt))

/-- A conversion takes one draw where the drain is stochastic, and none for RAW128 (R48). -/
theorem drainWord_lfsr (k : Core) (f : DrainF) (point : Int) (a : DrainAcc) (e : Nat × Nat) (fmt : f.fmt ≠ 6)
    (rnd : f.rnd = true) : (drainWord k f point a e.1 e.2).lfsr = srNext a.lfsr := by
  simp only [drainWord, if_neg fmt, if_pos rnd]

/-- A word's output stands behind those before it, and depends on them through the draws alone. -/
theorem drainWord_outs (k : Core) (f : DrainF) (point : Int) (a : DrainAcc) (e : Nat × Nat) {lfsr n : Nat}
    (draws : f.fmt ≠ 6 → f.rnd = true → a.lfsr = Nat.repeat srNext n lfsr) :
    (drainWord k f point a e.1 e.2).outs = a.outs ++ [k.drainOut f point lfsr n e] := by
  by_cases fmt : f.fmt = 6
  · simp only [drainWord, Core.drainOut, if_pos fmt]
    rw [fmt]
    rfl
  · simp only [drainWord, Core.drainOut, Core.drainRounded, if_neg fmt]
    by_cases rnd : f.rnd = true
    · simp only [if_pos rnd, draws fmt rnd]
      rfl
    · simp only [if_neg rnd]
      rfl

/-! ### All words, in their order -/

theorem foldl_drainWord (k : Core) (f : DrainF) (point : Int) (a : DrainAcc) (words : List (Nat × Nat)) :
    let b := words.foldl (fun a e => drainWord k f point a e.1 e.2) a
    (f.fmt ≠ 6 → f.rnd = true → b.lfsr = Nat.repeat srNext words.length a.lfsr) ∧
      b.outs = a.outs ++ words.zipIdx.map fun (e, n) => k.drainOut f point a.lfsr n e := by
  induction words using List.reverseRecOn with
  | nil => exact ⟨fun _ _ => rfl, (List.append_nil _).symm⟩
  | append_singleton words e ih =>
    obtain ⟨draws, outs⟩ := ih
    simp only [List.foldl_append, List.foldl_cons, List.foldl_nil]
    refine ⟨fun fmt rnd => ?_, ?_⟩
    · rw [drainWord_lfsr k f point _ e fmt rnd, draws fmt rnd, List.length_append]
      rfl
    · rw [drainWord_outs k f point _ e draws, outs, List.zipIdx_append, List.map_append, List.append_assoc]
      simp

/-- The drain's words: positions in order, and the enabled channels of each (R47). -/
def drainOrder (f : DrainF) (rows : BitVec 64) : List (Nat × Nat) :=
  (List.range f.n).flatMap fun i => (maskRows rows).map fun ch => (f.tpos + i, ch)

/-- The point of the drain's slot: 0 where the slot is not LIVE (R40). -/
def Core.drainPoint (k : Core) (f : DrainF) : Int :=
  let st := tabGet {} k.tslot f.slot
  if st.live then st.point.toInt else 0

theorem drainConvert_outs (k : Core) (f : DrainF) (rows : BitVec 64) : (drainConvert k f rows).outs =
    (drainOrder f rows).zipIdx.map fun (e, n) => k.drainOut f (k.drainPoint f) (srStart k.scale.seed.toNat f.tag) n e := by
  rw [drainConvert]
  exact (foldl_drainWord k f (k.drainPoint f) _ (drainOrder f rows)).2

/-! ### Issue -/

/-- The slot's flags after the drain's conversions; its point and LIVE stay (R46). -/
def SlotStatus.drained (st : SlotStatus) (a : DrainAcc) : SlotStatus :=
  { st with sat := st.sat || a.sat, nfs := st.nfs || a.nfs, dclip := st.dclip || a.dclip }

/-- The drain in flight. -/
def Core.drainOf (k : Core) (f : DrainF) (seq : Nat) : Drain :=
  let a := drainConvert k f (k.mask f.mask)
  let st := (tabGet {} k.tslot f.slot).drained a
  { seq := seq, slot := f.slot, toSram := f.dspc == 1, outs := a.outs, rows := k.mask f.mask, dclr := f.dclr, fmt := f.fmt
    tag := BitVec.ofNat 32 f.tag, br := f.br, bc := f.bc, stochastic := f.rnd && f.fmt != 6
    sat := st.sat, nfi := st.nfi, nfs := st.nfs, dclip := st.dclip, stat := a.stat }

/-- The core with the drain in flight: its maxima and the slot's flags are up to date. -/
def Core.draining (k : Core) (f : DrainF) (seq : Nat) : Core :=
  let a := drainConvert k f (k.mask f.mask)
  { k with
    tslot := tabSet {} k.tslot f.slot ((tabGet {} k.tslot f.slot).drained a)
    scale := { k.scale with rowMax := a.rowMax, tokMax := a.tokMax }
    tile := { k.tile with drains := k.tile.drains ++ [k.drainOf f seq] } }

theorem drainIssue_of_free {u : State} {p w seq : Nat} (free : drainHeld (u.core p) (DrainF.of w) = false) :
    drainIssue u p w seq = some (u.modCore p fun _ => (u.core p).draining (DrainF.of w) seq) := by
  simp only [drainIssue, free]
  rfl

/-- A drain that nothing holds back issues. -/
theorem exec_tallyDrain_of_free {s : State} {c : CoreRef} {p : Nat} {w : BitVec 128} (issues : s.Issues c p w)
    (opcode : tileOpc w.toNat = 4) (free : drainHeld (s.core p) (DrainF.of w.toNat) = false) :
    ∃ t, exec (.tallyDrain c) s = .next t ∧ OnlyCore s t p ∧
      t.core p = (s.core p).popped.draining (DrainF.of w.toNat) (s.core p).tile.seq := by
  obtain ⟨u, only, popped, acts⟩ := issues.acts (by omega)
  have run := acts drainIssue _ (drainIssue_of_free (by rwa [popped]))
  rw [opcode, popped] at run
  exact ⟨_, congrArg Host.Outcome.next run, only.trans (onlyCore_modCore u p _), State.core_modCore_same ..⟩

end Sys2Proof.Machine
end

section
/-!
PROOF. Drains at completion (R46, R65, R86, R100): outputs, flags, DCLR clear, and what a completing drain reports to works
and statistics.
-/

namespace Sys2Proof.Machine

/-! ### Works of a shelf (R86) -/

/-- The works' slots after the flags have gone to those whose job code runs on the shelf. -/
def State.flaggedSlots (s : State) (sh : Nat) (fl : BitVec 5) : Tab Work :=
  if fl = 0 then s.work.slots
  else (s.worksOn sh).foldl (fun t i => tabMod {} t i fun w => { w with flags := w.flags ||| fl }) s.work.slots

theorem State.flagWorks_eq (s : State) (sh : Nat) (fl : BitVec 5) :
    s.flagWorks sh fl = { s with work := { s.work with slots := s.flaggedSlots sh fl } } := by
  have fold (l : List Nat) (u : State) :
      l.foldl (fun s i => s.modWork i fun w => { w with flags := w.flags ||| fl }) u =
        { u with work := { u.work with
          slots := l.foldl (fun t i => tabMod {} t i fun w => { w with flags := w.flags ||| fl }) u.work.slots } } := by
    induction l generalizing u with
    | nil => rfl
    | cons i l ih => exact ih _
  rw [State.flagWorks, State.flaggedSlots]
  split
  · rfl
  · exact fold _ s

/-! ### What the drain makes of its core -/

/-- With no scale load held, a completing drain starts none (R89). -/
theorem Core.releaseLoads_of_none {k : Core} (none : k.scale.loads = []) : k.releaseLoads = (k, []) := by
  have kept : { k.scale with loads := [] } = k.scale := by rw [← none]
  simp only [Core.releaseLoads, none, List.filter_nil, List.foldl_nil, kept]

/-- A DCLR drain zeroes its rows; another leaves the Tally (R65). -/
theorem Core.tally_drainDone (k : Core) (d : Drain) (ds : List Drain) {ch pos : Nat} (hch : ch < 64) (hpos : pos < 64) :
    tabGet 0 (k.drainDone d ds).tally (4096 * d.slot + 64 * ch + pos) =
      if d.dclr = true ∧ d.rows.getLsbD ch = true then 0 else tabGet 0 k.tally (4096 * d.slot + 64 * ch + pos) := by
  rw [Core.drainDone]
  cases d.dclr
  · simp
  · simpa using tabGet_clearRows_word k.tally (4096 * d.slot) d.rows hch hpos

/-- A DCLR drain clears its slot's flags; another leaves them (R34, R65). -/
theorem Core.tslot_drainDone (k : Core) (d : Drain) (ds : List Drain) (i : Nat) :
    tabGet {} (k.drainDone d ds).tslot i =
      if i = d.slot ∧ d.dclr = true then
        { point := (tabGet {} k.tslot d.slot).point, live := (tabGet {} k.tslot d.slot).live }
      else tabGet {} k.tslot i := by
  rw [Core.drainDone]
  cases d.dclr <;> simp [tabGet_set, SlotStatus.dclr]

/-! ### Completion -/

/-- The shelf after the outputs of a drain into its SRAM (R65). -/
def Drain.intoSram (d : Drain) (h : Shelf) : Shelf :=
  if d.toSram then { h with sram := d.outs.foldl (fun m o => memWrite m o.1 o.2) h.sram } else h

theorem Drain.intoSram_eq (d : Drain) (h : Shelf) : d.intoSram h = { h with
    sram := if d.toSram then d.outs.foldl (fun m o => memWrite m o.1 o.2) h.sram else h.sram } := by
  unfold Drain.intoSram
  split <;> rfl

/-- The tables after the drain: it counts in the partition's, unless it is a RAW128 drain (R100). -/
def State.drainStats (s : State) (part : Nat) (d : Drain) : Stats :=
  if d.fmt = 6 then s.stats else (s.postStat true part (bits d.tag.toNat 31 20) d.fmt d.stat).stats

/-- The state with the drain's work on its core, and its flags in the records of the works. -/
def State.drainEnded (s : State) (sh p : Nat) (d : Drain) (ds : List Drain) : State :=
  let r := (s.core p).drainReport d
  { s.modCore p fun _ => (s.core p).drainDone d ds with
    work := (s.flagWorks sh (recordBits r.sat r.nfi r.nfs r.dclip false)).work }

theorem State.core_drainEnded (s : State) (sh p : Nat) (d : Drain) (ds : List Drain) (q : Nat) :
    (s.drainEnded sh p d ds).core q = if q = p then (s.core p).drainDone d ds else s.core q :=
  s.core_modCore p q fun _ => (s.core p).drainDone d ds

theorem State.shelf_drainEnded (s : State) (sh p : Nat) (d : Drain) (ds : List Drain) (i : Nat) :
    (s.drainEnded sh p d ds).shelf i = s.shelf i := rfl

/-- The state after the drain's outputs into the SRAM too, the tables apart. -/
def State.drainLanded (s : State) (sh p : Nat) (d : Drain) (ds : List Drain) : State :=
  (s.drainEnded sh p d ds).modShelf sh d.intoSram

theorem State.core_drainLanded (s : State) (sh p : Nat) (d : Drain) (ds : List Drain) (q : Nat) :
    (s.drainLanded sh p d ds).core q = if q = p then (s.core p).drainDone d ds else s.core q :=
  s.core_drainEnded sh p d ds q

theorem State.shelf_drainLanded (s : State) (sh p : Nat) (d : Drain) (ds : List Drain) (i : Nat) :
    (s.drainLanded sh p d ds).shelf i = if i = sh then d.intoSram (s.shelf sh) else s.shelf i := by
  rw [State.drainLanded, State.shelf_modShelf, State.shelf_drainEnded, State.shelf_drainEnded]

theorem State.work_drainLanded (s : State) (sh p : Nat) (d : Drain) (ds : List Drain) :
    let r := (s.core p).drainReport d
    (s.drainLanded sh p d ds).work = (s.flagWorks sh (recordBits r.sat r.nfi r.nfs r.dclip false)).work := by
  simp only [State.drainLanded, State.drainEnded, State.modShelf, State.noteWakes]

theorem State.kept_drainLanded (s : State) (sh p : Nat) (d : Drain) (ds : List Drain) :
    { s.drainLanded sh p d ds with
      cores := s.cores, shelves := s.shelves, stats := s.stats, work := s.work, woken := s.woken } = s := by
  simp only [State.drainLanded, State.drainEnded, State.modShelf, State.modCore, State.noteWakes]

theorem State.wakes_drainLanded (s : State) {sh p : Nat} (d : Drain) (ds : List Drain) (mine : p / 9 = sh) :
    s.Wakes (s.drainLanded sh p d ds) sh := by
  subst mine
  obtain ⟨-, -, core⟩ := onlyCore_modCore s p fun _ => (s.core p).drainDone d ds
  obtain ⟨-, -, shelf⟩ := onlyShelf_modShelf (s.drainEnded (p / 9) p d ds) (p / 9) d.intoSram
  exact core.trans shelf

theorem State.flagWorks_modCore (s : State) (p sh : Nat) (f : Core → Core) (fl : BitVec 5) :
    (s.modCore p f).flagWorks sh fl = { s.modCore p f with work := (s.flagWorks sh fl).work } := by
  rw [State.flagWorks_eq, State.flagWorks_eq]
  rfl

/-- The oldest drain completes on its core, in the records of the works, in the SRAM and in the tables. -/
theorem exec_drainComplete {s : State} {c : CoreRef} {p : Nat} {d : Drain} {ds : List Drain} (phys : s.phys c.sh c.c = some p)
    (oldest : (s.core p).tile.drains = d :: ds) (noLoads : (s.core p).scale.loads = []) :
    exec (.drainComplete c) s = .next { s.drainLanded c.sh p d ds with stats := s.drainStats (s.partOf c.sh) d } := by
  show execDrainComplete c s = _
  rw [execDrainComplete, phys]
  simp only [oldest]
  rw [Core.releaseLoads_of_none (k := (s.core p).drainDone d ds) noLoads]
  simp only [State.flagWorks_modCore]
  rw [State.drainStats]
  split <;> rfl

/-- A physical core is one of its shelf's nine. -/
theorem State.phys_shelf {s : State} {sh c p : Nat} (phys : s.phys sh c = some p) : p / 9 = sh := by
  unfold State.phys at phys
  split at phys
  · split at phys
    · cases phys
      omega
    · cases phys
  · cases phys

/-- Settles O13: a drain issues as `exec_tallyDrain_of_free` says, with the outputs of `drainConvert_outs`, and completes as
`exec_drainComplete` says. -/
theorem drainsIssueAndComplete : Obligations.DrainsIssueAndComplete := by
  unfold Obligations.DrainsIssueAndComplete
  constructor
  · intro s c p w issues opcode k f st point words value scaled rounded width free
    obtain ⟨t, done, only, core⟩ := exec_tallyDrain_of_free issues opcode free
    refine ⟨t, done, only, k.popped.drainOf f k.tile.seq, ?_⟩
    have tslot i : tabGet {} (k.popped.draining f k.tile.seq).tslot i = _ := tabGet_set {} k.tslot f.slot i _
    rw [core]
    refine ⟨rfl, rfl, rfl, rfl, rfl, rfl, rfl, drainConvert_outs k.popped f _, fun i other => ?_, ?_, ?_, rfl, rfl⟩
    · rw [tslot, if_neg other]
    · rw [tslot, if_pos rfl]
      rfl
    · rw [tslot, if_pos rfl]
      rfl
  · intro s c p d ds phys oldest noLoads k st m rose
    have core q : State.core { s.drainLanded c.sh p d ds with stats := s.drainStats (s.partOf c.sh) d } q = _ :=
      s.core_drainLanded c.sh p d ds q
    have shelf := s.shelf_drainLanded c.sh p d ds
    obtain ⟨kept, woken⟩ := s.wakes_drainLanded d ds (State.phys_shelf phys)
    refine ⟨_, exec_drainComplete phys oldest noLoads, fun q other => (core q).trans (if_neg other),
      fun i other => (shelf i).trans (if_neg other), ((shelf c.sh).trans (if_pos rfl)).trans (d.intoSram_eq _),
      s.work_drainLanded c.sh p d ds, ⟨kept, woken⟩, s.kept_drainLanded c.sh p d ds, fun raw => if_pos raw,
      fun other => if_neg other, ?_⟩
    rw [core p, if_pos rfl]
    exact ⟨rfl, rfl, rfl, fun ch pos hch hpos => k.tally_drainDone d ds hch hpos, k.tslot_drainDone d ds, rfl, rfl⟩

end Sys2Proof.Machine
end

section
/-!
PROOF. The tile queue (R54, R55, R58, R59, R61, R62, R66, R68, R145): the instructions that act on one core at issue, loads
that land, the way of a tile.end and of a discard, and instructions that are rejected or stay where they are.
-/

namespace Sys2Proof.Machine

/-! ### Issue -/

/-- An instruction that issues, and whose action changes its core alone, makes of the popped core what the action says. -/
theorem State.Issues.changes {s : State} {c : CoreRef} {p n : Nat} {w : BitVec 128} (h : s.Issues c p w)
    (opc : tileOpc w.toNat = n) (real : n < 6) {act : State → Nat → Nat → Nat → Option State} {f : Core → Core}
    (acts : ∀ u : State, u.core p = (s.core p).popped → act u p w.toNat (s.core p).tile.seq = some (u.modCore p f)) :
    ∃ t, Host.Outcome.next (tileIssue c n act s) = (.next t : Out) ∧ OnlyCore s t p ∧ t.core p = f (s.core p).popped := by
  subst opc
  obtain ⟨u, only, popped, done⟩ := h.acts real
  exact ⟨u.modCore p f, congrArg _ (done act _ (acts u popped)), only.trans (onlyCore_modCore ..),
    by rw [State.core_modCore_same, popped]⟩

/-- An instruction that issues, and whose action is held, stays where it is. -/
theorem State.Issues.stays {s : State} {c : CoreRef} {p n : Nat} {w : BitVec 128} (h : s.Issues c p w)
    (opc : tileOpc w.toNat = n) (real : n < 6) {act : State → Nat → Nat → Nat → Option State}
    (held : ∀ u : State, u.core p = (s.core p).popped → act u p w.toNat (s.core p).tile.seq = none) :
    ∃ t, Host.Outcome.next (tileIssue c n act s) = (.next t : Out) ∧ OnlyCore s t p ∧ t.core p = s.core p := by
  subst opc
  refine ⟨s.modCore p fun k => { k with tile := (s.core p).tile }, ?_, onlyCore_modCore .., s.core_modCore_same p _⟩
  rw [tileIssue_of h act real]
  simp only [held (s.modCore p fun k => { k with tile := (s.core p).tile.pop }) (s.core_modCore_same p _)]

theorem exec_tileNop_of_issues {s : State} {c : CoreRef} {p : Nat} {w : BitVec 128} (issues : s.Issues c p w)
    (opc : tileOpc w.toNat = 0) : ∃ t, exec (.tileNop c) s = .next t ∧ OnlyCore s t p ∧ t.core p = (s.core p).popped := by
  obtain ⟨u, only, popped, acts⟩ := issues.acts (by omega)
  have done := acts (fun s _ _ _ => some s) u rfl
  rw [opc] at done
  exact ⟨u, congrArg Host.Outcome.next done, only, popped⟩

/-! ### Loads, swaps and masks -/

/-- The core after the load `w` has issued: its cells are on their way (R54). -/
def Core.loading (k : Core) (w : BitVec 128) (seq : Nat) : Core :=
  { k with tile := { k.tile with loads := k.tile.loads ++ [⟨seq, loadCells k.opbuf (LdF.of w.toNat)⟩] } }

theorem exec_tileLd_of_issues {s : State} {c : CoreRef} {p : Nat} {w : BitVec 128} (issues : s.Issues c p w)
    (opc : tileOpc w.toNat = 1) : ∃ t, exec (.tileLd c) s = .next t ∧ OnlyCore s t p ∧
      t.core p = (s.core p).popped.loading w (s.core p).tile.seq :=
  issues.changes (f := fun k => k.loading w (s.core p).tile.seq) opc (by decide) fun _ _ => rfl

/-- A swap with no load in flight acts (R55). -/
theorem exec_tileSwap_of_issues {s : State} {c : CoreRef} {p : Nat} {w : BitVec 128} (issues : s.Issues c p w)
    (opc : tileOpc w.toNat = 2) (loaded : (s.core p).tile.loads = []) :
    ∃ t, exec (.tileSwap c) s = .next t ∧ OnlyCore s t p ∧ t.core p = (s.core p).popped.swap :=
  issues.changes opc (by decide) fun u popped => if_pos (by rw [popped]; exact List.isEmpty_iff.2 loaded)

/-- A swap with a load in flight is held (R55). -/
theorem exec_tileSwap_of_loading {s : State} {c : CoreRef} {p : Nat} {w : BitVec 128} (issues : s.Issues c p w)
    (opc : tileOpc w.toNat = 2) (loading : (s.core p).tile.loads ≠ []) :
    ∃ t, exec (.tileSwap c) s = .next t ∧ OnlyCore s t p ∧ t.core p = s.core p :=
  issues.stays opc (by decide) fun u popped => if_neg (by rw [popped]; exact fun none => loading (List.isEmpty_iff.1 none))

/-- The core after the tile.mask `w` (R66). -/
def Core.masked (k : Core) (w : BitVec 128) : Core :=
  { k with maskTab := tabSet (BitVec.allOnes 64) k.maskTab (bits w.toNat 95 92) (w.setWidth 64) }

theorem exec_tileMask_of_issues {s : State} {c : CoreRef} {p : Nat} {w : BitVec 128} (issues : s.Issues c p w)
    (opc : tileOpc w.toNat = 5) :
    ∃ t, exec (.tileMask c) s = .next t ∧ OnlyCore s t p ∧ t.core p = (s.core p).popped.masked w :=
  issues.changes (f := fun k => k.masked w) opc (by decide) fun _ _ => by rw [BitVec.ofNat_toNat]; rfl

theorem Core.mask_masked (k : Core) (w : BitVec 128) (i : Nat) :
    (k.masked w).mask i = if i = bits w.toNat 95 92 then w.setWidth 64 else k.mask i :=
  tabGet_set (BitVec.allOnes 64) k.maskTab (bits w.toNat 95 92) i (w.setWidth 64)

theorem mem_loadCells (m : Mem) (f : LdF) {i j : Nat} (row : i < f.n) (column : j < (if f.four && !f.trn then 128 else 64)) :
    (if f.trn then 128 * j + (f.row0 + i) else 128 * (f.row0 + i) + j,
      BitVec.ofNat 12 (codeAt m (f.src + i * f.stride) f.code j)) ∈ loadCells m f :=
  List.mem_flatMap.2 ⟨i, List.mem_range.2 row, List.mem_map.2 ⟨j, List.mem_range.2 column, rfl⟩⟩

/-- A swap moves the cursor of every bound adapter slot (R173). -/
theorem Core.slotA_swap (k : Core) (i : Nat) : k.swap.slotA i =
    if (k.slotA i).bound then { k.slotA i with cursor := (k.slotA i).cursor + 1 } else k.slotA i :=
  tabGet_mapVal ({} : AdptSlot) (fun a => if a.bound then { a with cursor := a.cursor + 1 } else a) rfl k.aslot i

/-- The oldest load writes its cells, and no others (R54, R68). -/
theorem Core.shadow_loadDone {k : Core} {l : Load} {ls : List Load} (oldest : k.tile.loads = l :: ls)
    (distinct : (l.cells.map (·.1)).Nodup) (a : Nat) :
    (∀ v, (a, v) ∈ l.cells → tabGet 0 k.loadDone.shadow a = v) ∧
      (a ∉ l.cells.map (·.1) → tabGet 0 k.loadDone.shadow a = tabGet 0 k.shadow a) := by
  rw [Core.loadDone, oldest]
  exact tabGet_foldl_set 0 l.cells k.shadow a distinct

/-! ### The queue in order (R58, R59) -/

/-- The unit after the tile.end `w` has left the queue with a status: it waits for its completion. -/
def TileUnit.ended (u : TileUnit) (w : BitVec 128) (st : Status) : TileUnit :=
  { u with
    rej := none, mid := false, ends := u.ends ++ [⟨u.seq, w.setWidth 32, st⟩], seq := u.seq + 1, tqout := u.tqout + 1 }

/-- With no program being discarded the queue stops at an instruction that is not a tile.end. -/
theorem settleQueue_stops {q : List (BitVec 128)} {u : TileUnit} (accepted : u.rej = none)
    (stop : ∀ x, q.head? = some x → tileOpc x.toNat ≠ 6) : settleQueue q u = { u with queue := q } := by
  cases q with
  | nil => rfl
  | cons x q => simp only [settleQueue, accepted, stop x rfl, false_and, if_false]

/-- A tile.end without reserved bits issues, with status OK (R58). -/
theorem settleQueue_end {w : BitVec 128} (q : List (BitVec 128)) {u : TileUnit} (accepted : u.rej = none)
    (isEnd : tileOpc w.toNat = 6) (zero : tileReservedZero w.toNat = true) :
    settleQueue (w :: q) u = settleQueue q (u.ended w St.ok) := by
  simp only [settleQueue, accepted, isEnd, zero, and_self, if_true, BitVec.ofNat_toNat]
  rfl

/-- The tile.end of a rejected program keeps the program's status (R59). -/
theorem settleQueue_end_rejected {w : BitVec 128} (q : List (BitVec 128)) {u : TileUnit} {st : Status} (rejected : u.rej = some st)
    (isEnd : tileOpc w.toNat = 6) : settleQueue (w :: q) u = settleQueue q (u.ended w st) := by
  simp only [settleQueue, rejected, isEnd, if_true, BitVec.ofNat_toNat]
  rfl

/-! ### Boundaries -/

/-- In an idle unit nothing is in flight. -/
theorem TileUnit.idle_iff (u : TileUnit) : u.idle = true ↔ u.loads = [] ∧ u.runs = [] ∧ u.drains = [] ∧ u.ends = [] := by
  simp [TileUnit.idle, and_assoc]

/-- The unit after the tile.end `w`, with `q` behind it, has left the queue and completed with status OK. -/
def TileUnit.passed (u : TileUnit) (w : BitVec 128) (q : List (BitVec 128)) : TileUnit :=
  { u with
    queue := q, mid := false, seq := u.seq + 1, tqout := u.tqout + 1, tends := u.tends + 1
    tlast := BitVec.ofNat 64 (w.toNat % 2 ^ 32 * 2 ^ 32) }

/-- A tile.end at the head of an idle unit issues and completes (R58, R145). -/
theorem exec_tileEnd_of_idle {s : State} {c : CoreRef} {p : Nat} {w : BitVec 128} {q : List (BitVec 128)}
    (phys : s.phys c.sh c.c = some p) (notHeld : s.issueHeld c.sh = false) (kept : (s.core p).tile.discarding = false)
    (accepted : (s.core p).tile.rej = none) (head : (s.core p).tile.queue = w :: q) (isEnd : tileOpc w.toNat = 6)
    (zero : tileReservedZero w.toNat = true) (next : ∀ x, q.head? = some x → tileOpc x.toNat < 6)
    (idle : (s.core p).tile.idle = true) :
    exec (.tileEnd c) s = .next (s.modCore p fun k => { k with tile := (s.core p).tile.passed w q }) := by
  obtain ⟨loads, runs, drains, ends⟩ := (TileUnit.idle_iff _).1 idle
  have settled : (s.core p).tile.settle = { (s.core p).tile.ended w St.ok with queue := q } := by
    rw [TileUnit.settle, head, settleQueue_end q accepted isEnd zero,
      settleQueue_stops rfl fun x h => Nat.ne_of_lt (next x h)]
  have passed : ({ (s.core p).tile.ended w St.ok with queue := q, ends := [] } : TileUnit).boundary (w.setWidth 32) St.ok =
      (s.core p).tile.passed w q := by
    simp [TileUnit.boundary, TileUnit.ended, TileUnit.passed, accepted, ends]
  show execTileEnd c s = _
  rw [execTileEnd, phys]
  simp only [notHeld, kept, settled]
  cases q with
  | nil => simp [TileUnit.ended, TileUnit.doneBefore, loads, runs, drains, ends, ← passed]
  | cons x q => 
    have real : ¬ 6 ≤ tileOpc x.toNat := Nat.not_le.2 (next x rfl)
    simp [TileUnit.ended, TileUnit.doneBefore, loads, runs, drains, ends, real, ← passed]

/-- An idle core under a discard order reports its boundary (R77, R146). -/
theorem exec_discardIdle_of_idle {s : State} {c : CoreRef} {p : Nat} (phys : s.phys c.sh c.c = some p)
    (ordered : (s.core p).tile.discarding = true) (idle : (s.core p).tile.idle = true)
    (noVector : (s.core p).vec.prog = none) :
    ∃ t, exec (.discardIdle c) s = .next t ∧ OnlyCore s t p ∧ t.core p = { s.core p with
      tile := { (s.core p).tile.boundary 0xFFFFFFFF St.aborted with discarding := false } } := by
  refine ⟨_, congrArg Host.Outcome.next (State.onCore_some phys _), onlyCore_modCore .., ?_⟩
  rw [State.core_modCore_same, if_pos (by simp [ordered, idle, noVector])]

theorem exec_tileLdDone {s : State} {c : CoreRef} {p : Nat} (phys : s.phys c.sh c.c = some p) :
    ∃ t, exec (.tileLdDone c) s = .next t ∧ OnlyCore s t p ∧ t.core p = (s.core p).loadDone :=
  ⟨_, congrArg Host.Outcome.next (State.onCore_some phys _), onlyCore_modCore .., s.core_modCore_same p _⟩

/-- Settles O9: each instruction issues as its `exec_…_of_issues` says, loads land by `Core.shadow_loadDone`, and a boundary is
`exec_tileEnd_of_idle` or `exec_discardIdle_of_idle`. -/
theorem tileInstructionsIssue : Obligations.TileInstructionsIssue := by
  unfold Obligations.TileInstructionsIssue
  refine ⟨?_, ⟨fun m f i j row column => mem_loadCells m f row column, ?_⟩, ?_⟩
  · intro s c p w issues k u
    refine ⟨exec_tileNop_of_issues issues, exec_tileLd_of_issues issues, fun opc loaded => ?_, exec_tileSwap_of_loading issues,
      fun opc => ?_⟩
    · obtain ⟨t, done, only, core⟩ := exec_tileSwap_of_issues issues opc loaded
      refine ⟨t, done, only, ?_⟩
      rw [core]
      exact ⟨rfl, Core.slotA_swap _, rfl⟩
    · obtain ⟨t, done, only, core⟩ := exec_tileMask_of_issues issues opc
      refine ⟨t, done, only, ?_⟩
      rw [core]
      exact ⟨Core.mask_masked _ w, rfl⟩
  · intro s c p l ls phys oldest distinct
    obtain ⟨t, done, only, core⟩ := exec_tileLdDone phys
    have cells := Core.shadow_loadDone oldest distinct
    have landed : (s.core p).loadDone = { s.core p with
        shadow := (s.core p).loadDone.shadow, tile := { (s.core p).tile with loads := ls } } := by
      rw [Core.loadDone, oldest]
    refine ⟨t, done, only, ?_⟩
    rw [core]
    exact ⟨by rw [landed], fun a => (cells a).1, fun a => (cells a).2, by rw [landed]⟩
  · intro s c p phys u
    refine ⟨fun w q notHeld kept accepted head isEnd zero next idle => ?_, exec_discardIdle_of_idle phys⟩
    have reserved : tileReservedZero w.toNat = true := by simp [tileReservedZero, isEnd, zero]
    exact ⟨_, exec_tileEnd_of_idle phys notHeld kept accepted head isEnd reserved next idle, onlyCore_modCore ..,
      s.core_modCore_same p _⟩

end Sys2Proof.Machine
end

section
/-!
PROOF. Tile instructions that are rejected, and runs that wait (R58, R59, R67, R73).
-/

namespace Sys2Proof.Machine

/-! ### Rejection (R59) -/

/-- The head of the queue, where no program is being discarded and it is no tile.end. -/
structure Core.Heads (k : Core) (w : BitVec 128) (q : List (BitVec 128)) : Prop where
  accepted : k.tile.rej = none
  queue : k.tile.queue = w :: q
  notEnd : tileOpc w.toNat ≤ 5

theorem Core.Heads.settle {k : Core} {w : BitVec 128} {q : List (BitVec 128)} (h : k.Heads w q) : k.tile.settle = k.tile :=
  settle_head k.tile w h.accepted (by rw [h.queue]; rfl) (by have := h.notEnd; omega)

/-- A head that fails a check is no run that could issue. -/
theorem Core.Heads.not_run {k : Core} {w : BitVec 128} {q : List (BitVec 128)} (h : k.Heads w q) {st : Status}
    (refused : ((tileCheck w.toNat).orElse fun _ => tileStateCheck k w.toNat) = some st) : k.headIsRun = false := by
  rw [Core.headIsRun, h.settle, h.queue]
  simp only [refused, Option.isNone_some, Bool.and_false]

/-- A head that fails a check is rejected, whatever its action would be. -/
theorem tileIssue_of_refused {s : State} {c : CoreRef} {p : Nat} {w : BitVec 128} {q : List (BitVec 128)} {st : Status}
    (phys : s.phys c.sh c.c = some p) (notHeld : s.issueHeld c.sh = false) (kept : (s.core p).tile.discarding = false)
    (head : (s.core p).Heads w q)
    (refused : ((tileCheck w.toNat).orElse fun _ => tileStateCheck (s.core p) w.toNat) = some st)
    (act : State → Nat → Nat → Nat → Option State) :
    tileIssue c (tileOpc w.toNat) act s = s.modCore p fun k => { k with tile := (s.core p).tile.reject st } := by
  have real : ¬ 6 < tileOpc w.toNat := by have := head.notEnd; omega
  unfold tileIssue
  simp only [phys, notHeld, kept, head.settle, head.queue, real, refused, ne_eq, not_true_eq_false, if_false,
    Bool.false_eq_true, or_self]

/-- The six tile instructions but tile.end, by opcode. -/
def tileRows (c : CoreRef) : List (Nat × Instr) :=
  [(0, .tileNop c), (1, .tileLd c), (2, .tileSwap c), (3, .tileRun c false), (4, .tallyDrain c), (5, .tileMask c)]

/-- With no run at the head that could wait for a grant, every tile command is an issue of its opcode. -/
theorem exec_of_mem_tileRows {s : State} {c : CoreRef} {p opc : Nat} {i : Instr} (phys : s.phys c.sh c.c = some p)
    (noRun : (s.core p).headIsRun = false) (row : (opc, i) ∈ tileRows c) :
    ∃ act, exec i s = .next (tileIssue c opc act s) := by
  simp only [tileRows, List.mem_cons, List.not_mem_nil, or_false, Prod.mk.injEq] at row
  obtain ⟨rfl, rfl⟩ | ⟨rfl, rfl⟩ | ⟨rfl, rfl⟩ | ⟨rfl, rfl⟩ | ⟨rfl, rfl⟩ | ⟨rfl, rfl⟩ := row
  · exact ⟨_, rfl⟩
  · exact ⟨_, rfl⟩
  · exact ⟨_, rfl⟩
  · refine ⟨runIssue, ?_⟩
    show execTileRun c false s = _
    rw [execTileRun, State.lcore_some phys, noRun, if_neg (by simp)]
  · exact ⟨_, rfl⟩
  · exact ⟨_, rfl⟩

theorem TileUnit.reject_eq {u : TileUnit} {l : List (BitVec 128)} (st : Status) (queue : u.queue = l) :
    u.reject st = settleQueue l { u with rej := some st } := by
  rw [← queue]
  rfl

/-- What is left of a program that holds no tile.end leaves the queue with its rejected head. -/
theorem TileUnit.reject_of_no_end {u : TileUnit} {w : BitVec 128} {q : List (BitVec 128)} (st : Status) (queue : u.queue = w :: q)
    (notEnd : tileOpc w.toNat ≤ 5) (open_ : (q.all fun x => tileOpc x.toNat != 6) = true) :
    u.reject st = { u with queue := [], rej := some st, tqout := u.tqout + BitVec.ofNat 64 (q.length + 1) } := by
  have all : ((w :: q).all fun x => tileOpc x.toNat != 6) = true := by
    simp only [List.all_cons, open_, Bool.and_true, bne_iff_ne]
    omega
  have gone := settleQueue_discards st (w :: q) { u with rej := some st } [] all rfl
  rw [List.append_nil] at gone
  rw [TileUnit.reject_eq st queue, gone]
  rfl

/-- The program leaves the queue up to its tile.end `e`, which keeps the status. -/
theorem TileUnit.reject_of_end {u : TileUnit} {w e : BitVec 128} {a b : List (BitVec 128)} (st : Status)
    (queue : u.queue = w :: (a ++ e :: b)) (notEnd : tileOpc w.toNat ≤ 5)
    (program : (a.all fun x => tileOpc x.toNat != 6) = true) (isEnd : tileOpc e.toNat = 6)
    (next : ∀ x, b.head? = some x → tileOpc x.toNat ≠ 6) (accepted : u.rej = none) :
    u.reject st = { u with
      queue := b
      mid := false
      seq := u.seq + 1
      ends := u.ends ++ [⟨u.seq, e.setWidth 32, st⟩]
      tqout := u.tqout + BitVec.ofNat 64 (a.length + 2) } := by
  have all : ((w :: a).all fun x => tileOpc x.toNat != 6) = true := by
    simp only [List.all_cons, program, Bool.and_true, bne_iff_ne]
    omega
  have count : u.tqout + BitVec.ofNat 64 (w :: a).length + 1 = u.tqout + BitVec.ofNat 64 (a.length + 2) := by
    rw [BitVec.add_assoc, List.length_cons, BitVec.ofNat_add (a.length + 1) 1]
    rfl
  have gone := settleQueue_discards st (w :: a) { u with rej := some st } (e :: b) all rfl
  rw [TileUnit.reject_eq st queue, ← List.cons_append, gone, settleQueue_end_rejected b rfl isEnd,
    settleQueue_stops rfl next]
  simp only [TileUnit.ended, count, accepted]

/-! ### Runs that wait (R67, R73) -/

/-- The queue of an instruction that issues, with its head. -/
theorem State.Issues.headIsRun {s : State} {c : CoreRef} {p : Nat} {w : BitVec 128} (h : s.Issues c p w)
    (opc : tileOpc w.toNat = 3) : (s.core p).headIsRun = true := by
  obtain ⟨q, queue⟩ := List.head?_eq_some_iff.1 h.head
  rw [Core.headIsRun, settle_head _ w h.accepted h.head (by omega), queue]
  simp only [opc, h.fields, h.stateOk]
  rfl

/-- A run that needs a grant and has none asks for it, once. -/
theorem exec_tileRun_of_waiting {s : State} {c : CoreRef} {p : Nat} {w : BitVec 128} {cold : Bool} (issues : s.Issues c p w)
    (opc : tileOpc w.toNat = 3) (bare : (s.core p).tile.granted = false)
    (waits : cold = true ∨ 8 * c.sh.val + c.c.val ∈ s.power.ramp) :
    let i := 8 * c.sh.val + c.c.val
    exec (.tileRun c cold) s =
      .next (if s.power.ramp.contains i then s else { s with power := { s.power with ramp := s.power.ramp ++ [i] } }) := by
  show execTileRun c cold s = _
  rw [execTileRun, State.lcore_some issues.phys, if_pos]
  rw [bare, issues.headIsRun opc, issues.phys, issues.kept]
  simpa using waits

/-- A run that has its own swap and a load before it, or clears a slot that something in flight still uses, is held. -/
theorem runIssue_of_held {u : State} {p w seq : Nat} (mode : (RunF.of w).mode ≠ 4)
    (held : ((RunF.of w).swap = true ∧ (u.core p).tile.loads ≠ []) ∨
      ((RunF.of w).acc = false ∧ (u.core p).tile.clearHeld (RunF.of w).slot = true)) : runIssue u p w seq = none := by
  rw [runIssue]
  simp only [if_neg mode]
  refine if_pos ?_
  rw [Bool.or_eq_true]
  obtain ⟨swap, loading⟩ | ⟨clears, used⟩ := held
  · exact .inl (by simp [swap, loading])
  · exact .inr (by simp [clears, used])

/-- Settles O10: a head that fails a check is rejected (`tileIssue_of_refused`) with its program (`TileUnit.reject_of_no_end`,
`TileUnit.reject_of_end`); a run waits for its grant (`exec_tileRun_of_waiting`) or for what is in flight
(`runIssue_of_held`). -/
theorem tileRejectsAndWaits : Obligations.TileRejectsAndWaits := by
  unfold Obligations.TileRejectsAndWaits
  constructor
  · intro s c p w q st phys notHeld kept accepted queue refused notEnd i row
    have head : (s.core p).Heads w q := ⟨accepted, queue, notEnd⟩
    obtain ⟨act, done⟩ := exec_of_mem_tileRows phys (head.not_run refused) row
    rw [tileIssue_of_refused phys notHeld kept head refused] at done
    refine ⟨_, done, onlyCore_modCore .., ?_⟩
    rw [State.core_modCore_same]
    exact ⟨rfl, fun open_ => TileUnit.reject_of_no_end st queue notEnd open_, fun a e b split program isEnd next =>
      TileUnit.reject_of_end st (split ▸ queue) notEnd program isEnd next accepted⟩
  · intro s c cold p w issues opc k f i
    refine ⟨fun _ bare out => ?_, fun cold bare waits => ?_, fun mode held => ?_⟩
    · rw [exec_tileRun_of_waiting issues opc bare (.inl rfl), if_neg (by simpa using out)]
    · rw [exec_tileRun_of_waiting issues opc bare (.inr waits), if_pos (by simpa using waits)]
    · by_cases waits : i ∈ s.power.ramp ∧ k.tile.granted = false
      · refine ⟨s, ?_, .refl s p, rfl⟩
        rw [exec_tileRun_of_waiting issues opc waits.2 (.inr waits.1), if_pos (by simpa using waits.1)]
      · have granted : (false = false ∧ i ∉ s.power.ramp) ∨ k.tile.granted = true := by
          rw [not_and_or, Bool.not_eq_false] at waits
          exact waits.imp_left fun out => ⟨rfl, out⟩
        rw [exec_tileRun_of_granted issues.phys granted]
        exact issues.stays opc (by decide) fun u popped => runIssue_of_held mode (by rw [popped]; exact held)

end Sys2Proof.Machine
end

section
/-!
PROOF. The wake ramp and the sleep states (R73, R381, R388 to R390): which cores a wave takes and what it gives them, when
the module enters and leaves Idle-ready, and what Park and its wake do to contexts and links.
-/

namespace Sys2Proof.Machine

/-! ### Waves of the ramp (R73) -/

/-- What the first `n` entries of a rising list leave out is larger than all of them, and then they are `n`. -/
theorem take_of_rising {l : List Nat} (rising : l.Pairwise (· < ·)) (n : Nat) {i : Nat} (listed : i ∈ l)
    (left : i ∉ l.take n) : (l.take n).length = n ∧ ∀ j ∈ l.take n, j < i := by
  rw [← List.take_append_drop n l] at rising listed
  have later : i ∈ l.drop n := (List.mem_append.1 listed).resolve_left left
  refine ⟨?_, fun j taken => (List.pairwise_append.1 rising).2.2 j taken i later⟩
  have more := List.length_pos_of_mem later
  rw [List.length_drop] at more
  rw [List.length_take]
  omega

/-- A core that waits at the controller of partition `part` and may issue (R73, R381). -/
def State.Served (s : State) (part i : Nat) : Prop :=
  i ∈ s.power.ramp ∧ i < 128 ∧ (s.mode.cur.four = true → i / 32 = part) ∧ s.issueHeld (i / 8) = false

/-- A wave is the first four, in logical order, of the waiting cores that the controller serves. -/
theorem rampWave_spec (s : State) (part : Nat) :
    (rampWave s part).length ≤ 4 ∧ (rampWave s part).Nodup ∧ (∀ i ∈ rampWave s part, s.Served part i) ∧
      ∀ i, s.Served part i → i ∉ rampWave s part → (rampWave s part).length = 4 ∧ ∀ j ∈ rampWave s part, j < i := by
  unfold rampWave
  dsimp only
  generalize filtered : (List.range 128).filter _ = mine
  have rising : mine.Pairwise (· < ·) := filtered ▸ List.pairwise_lt_range.filter _
  have served i : i ∈ mine ↔ s.Served part i := by
    have turn : (s.mode.cur.four = false ∨ i / 32 = part) ↔ (s.mode.cur.four = true → i / 32 = part) := by
      rw [← Bool.not_eq_true, imp_iff_not_or]
    simp only [← filtered, List.mem_filter, List.mem_range, State.Served, Bool.and_eq_true, Bool.or_eq_true, Bool.not_eq_true',
      List.contains_iff_mem, decide_eq_true_eq, turn]
    tauto
  exact ⟨List.length_take_le 4 mine, (rising.imp Nat.ne_of_lt).sublist (List.take_sublist 4 mine),
    fun i taken => (served i).1 (List.mem_of_mem_take taken), fun i waits left => take_of_rising rising 4 ((served i).2 waits) left⟩

/-- How far the queue settles depends on the rejection in force alone. -/
theorem queue_settleQueue_congr (q : List (BitVec 128)) {u v : TileUnit} (rej : u.rej = v.rej) :
    (settleQueue q u).queue = (settleQueue q v).queue := by
  induction q generalizing u v with
  | nil => rfl
  | cons w q ih =>
    simp only [settleQueue, rej]
    cases rejected : v.rej with
    | some st =>
      by_cases isEnd : tileOpc w.toNat = 6
      · simp only [if_pos isEnd]
        exact ih rfl
      · simp only [if_neg isEnd]
        exact ih rfl
    | none =>
      by_cases ends : tileOpc w.toNat = 6 ∧ tileReservedZero w.toNat = true
      · simp only [if_pos ends]
        exact ih rfl
      · simp only [if_neg ends]

/-- A core takes its grant: it holds one where its head is a run that passes its checks (R73). -/
def Core.takeGrant (k : Core) : Core := { k with tile := { k.tile with granted := k.headIsRun } }

theorem Core.headIsRun_granted (k : Core) (g : Bool) : Core.headIsRun { k with tile := { k.tile with granted := g } } = k.headIsRun := by
  unfold Core.headIsRun TileUnit.settle
  rw [queue_settleQueue_congr k.tile.queue (u := { k.tile with granted := g }) (v := k.tile) rfl]
  rfl

/-- Two logical numbers that share a core give it one grant. -/
theorem Core.takeGrant_takeGrant (k : Core) : k.takeGrant.takeGrant = k.takeGrant := by
  have head : k.takeGrant.headIsRun = k.headIsRun := k.headIsRun_granted _
  rw [Core.takeGrant, head]
  rfl

def State.grant (s : State) (i : Nat) : State := s.onCore (i / 8) (i % 8) Core.takeGrant

/-- From `s` to `t` the cores behind the logical indices `l` have taken their grants, and nothing else has changed but the
waits that have been met. -/
structure State.Grants (s t : State) (l : List Nat) : Prop where
  kept : { t with cores := s.cores, woken := s.woken } = s
  woken : ∀ i ∈ s.woken, i ∈ t.woken
  others : ∀ p, (∀ i ∈ l, s.phys (i / 8) (i % 8) ≠ some p) → t.core p = s.core p
  cores : ∀ i ∈ l, ∀ p, s.phys (i / 8) (i % 8) = some p → t.core p = (s.core p).takeGrant

/-- Where a logical number lies is a matter of the shelves. -/
theorem State.phys_congr {s t : State} (shelves : t.shelves = s.shelves) (sh c : Nat) : t.phys sh c = s.phys sh c := by
  unfold State.phys State.shelf
  rw [shelves]

theorem State.Grants.shelves {s t : State} {l : List Nat} (h : s.Grants t l) : t.shelves = s.shelves := by
  rw [← h.kept]

theorem State.grants_foldl (s : State) (l : List Nat) : s.Grants (l.foldl State.grant s) l := by
  induction l using List.reverseRecOn with
  | nil => exact ⟨rfl, fun _ => id, fun _ _ => rfl, fun _ h => nomatch h⟩
  | append_singleton l j ih =>
    rw [List.foldl_append, List.foldl_cons, List.foldl_nil]
    generalize l.foldl State.grant s = t at ih ⊢
    have phys i : t.phys (i / 8) (i % 8) = s.phys (i / 8) (i % 8) := State.phys_congr ih.shelves _ _
    cases here : s.phys (j / 8) (j % 8) with
    | none =>
      rw [State.grant, State.onCore, phys, here]
      refine ⟨ih.kept, ih.woken, fun p none => ih.others p fun i listed => none i (List.mem_append_left _ listed), ?_⟩
      intro i listed p behind
      refine ih.cores i ((List.mem_append.1 listed).resolve_right fun last => ?_) p behind
      rw [List.mem_singleton.1 last, here] at behind
      cases behind
    | some r =>
      rw [State.grant, State.onCore_some ((phys j).trans here)]
      obtain ⟨elsewhere, kept, woken, -⟩ := onlyCore_modCore t r Core.takeGrant
      refine ⟨?_, fun i met => woken i (ih.woken i met), fun p none => ?_, fun i listed p behind => ?_⟩
      · have before := ih.kept
        rw [← kept] at before
        exact before
      · have other : p ≠ r := fun same => none j (List.mem_append_right _ (List.mem_singleton_self j)) (same ▸ here)
        rw [elsewhere p other]
        exact ih.others p fun i listed => none i (List.mem_append_left _ listed)
      · by_cases same : p = r
        · subst same
          rw [State.core_modCore_same]
          by_cases earlier : ∃ i ∈ l, s.phys (i / 8) (i % 8) = some p
          · obtain ⟨i, listed, behind⟩ := earlier
            rw [ih.cores i listed p behind, Core.takeGrant_takeGrant]
          · rw [ih.others p fun i listed behind => earlier ⟨i, listed, behind⟩]
        · rw [elsewhere p same]
          refine ih.cores i ((List.mem_append.1 listed).resolve_right fun last => ?_) p behind
          rw [List.mem_singleton.1 last, here] at behind
          exact same (Option.some.inj behind).symm

/-- The cores of the next wave wait no longer (R73). -/
def State.waveTaken (s : State) (part : Nat) : State :=
  { s with power := { s.power with ramp := s.power.ramp.filter fun i => !(rampWave s part).contains i } }

theorem exec_wakeWave (part : Fin 4) (s : State) :
    exec (.wakeWave part) s = .next ((rampWave s part).foldl State.grant (s.waveTaken part)) := rfl

/-! ### Idle-ready (R388, R389) -/

theorem State.workActive_iff (s : State) : s.workActive = true ↔ ∃ x ∈ s.work.slots, x.2.live = true := List.any_eq_true

/-- Nothing is to be done (R389). -/
theorem State.quiet_iff (s : State) : s.quiet = true ↔ (∀ x ∈ s.work.slots, x.2.live = false) ∧ (∀ o ∈ s.ops, o.done = true) ∧
    ∀ sh, sh < 16 → ringTail (s.sram sh) = ringHead (s.sram sh) := by
  simp only [State.quiet, State.workActive, Bool.and_eq_true, Bool.not_eq_true', List.any_eq_false, List.all_eq_true,
    Bool.not_eq_true, List.mem_range, beq_iff_eq, and_assoc]

/-! ### The wake from Park (R390) -/

/-- A group whose training begins again (R303). -/
def LaneGroup.restarted (l : LaneGroup) : LaneGroup := { l with st := .training, phase := 0, attempts := 0 }

theorem State.foldl_restart (s : State) (n : Nat) :
    let t := (List.range n).foldl (fun s i => s.modGroup (i + 1) LaneGroup.restarted) s
    { t with fabric := s.fabric } = s ∧ ∀ g, t.group g = if 1 ≤ g ∧ g ≤ n then (s.group g).restarted else s.group g := by
  induction n with
  | zero => exact ⟨rfl, fun g => by rw [if_neg (by omega)]; rfl⟩
  | succ n ih =>
    obtain ⟨kept, groups⟩ := ih
    simp only [List.range_succ, List.foldl_append, List.foldl_cons, List.foldl_nil]
    refine ⟨kept, fun g => ?_⟩
    rw [State.group_modGroup, groups, groups]
    by_cases last : g = n + 1
    · subst last
      simp
    · rw [if_neg last]
      congr 1
      exact propext (by omega)

/-! ### Park (R390) -/

/-- A key that reads as something is listed. -/
theorem mem_of_tabGet_ne {α : Type} {d : α} {t : Tab α} {k : Nat} (read : tabGet d t k ≠ d) : (k, tabGet d t k) ∈ t := by
  refine mem_of_tabGet d ?_
  induction t with
  | nil => exact absurd rfl read
  | cons e t ih =>
    obtain ⟨j, v⟩ := e
    rw [List.map_cons, List.mem_cons]
    by_cases here : j = k
    · exact .inl here.symm
    · exact .inr (ih (by rwa [tabGet, if_neg here] at read))

/-- In a table in canonical form a key reads as its entry. -/
theorem tabGet_of_mem {α : Type} [DecidableEq α] {d : α} {t : Tab α} {k : Nat} {v : α} (wf : tabWf d t = true)
    (listed : (k, v) ∈ t) : tabGet d t k = v := by
  suffices ∀ lo, tabWfFrom d lo t = true → lo ≤ k ∧ tabGet d t k = v from (this 0 wf).2
  clear wf
  induction t with
  | nil => cases listed
  | cons e t ih =>
    obtain ⟨j, w⟩ := e
    intro lo wf
    simp only [tabWfFrom, Bool.and_eq_true, decide_eq_true_eq] at wf
    obtain ⟨⟨low, -⟩, rest⟩ := wf
    obtain here | later := List.mem_cons.1 listed
    · cases here
      exact ⟨low, if_pos rfl⟩
    · obtain ⟨above, read⟩ := ih later (j + 1) rest
      exact ⟨by omega, by rw [tabGet, if_neg (by omega), read]⟩

theorem State.ctx_modCtx (s : State) (c d : Nat) (f : Ctx → Ctx) :
    (s.modCtx c f).ctx d = if d = c then f (s.ctx c) else s.ctx d := tabGet_mod _ _ _ _ _

/-- From `s` to `t` context `c` alone has changed, and what was sent. -/
structure State.OnlyCtx (s t : State) (c : Nat) : Prop where
  others : ∀ d, d ≠ c → t.ctx d = s.ctx d
  kept : { t with port := { t.port with ctxs := s.port.ctxs }, out := s.out } = s

theorem State.OnlyCtx.refl (s : State) (c : Nat) : s.OnlyCtx s c := ⟨fun _ _ => rfl, rfl⟩

theorem State.OnlyCtx.modCtx {s t : State} {c : Nat} (h : s.OnlyCtx t c) (f : Ctx → Ctx) : s.OnlyCtx (t.modCtx c f) c :=
  ⟨fun d other => by rw [State.ctx_modCtx, if_neg other, h.others d other], h.kept⟩

theorem State.OnlyCtx.emit {s t : State} {c : Nat} (h : s.OnlyCtx t c) (e : Emit) : s.OnlyCtx (t.emit e) c :=
  ⟨fun d other => h.others d other, h.kept⟩

theorem State.onlyCtx_send (s : State) (c : Nat) (q : Bool) (p : TxPacket) : s.OnlyCtx (s.send c q p) c := by
  unfold State.send
  dsimp only
  split
  · exact (State.OnlyCtx.refl s c).modCtx _
  · exact ((State.OnlyCtx.refl s c).modCtx _).emit _

/-- The device closes an open context: CLOSE goes out, and the context drains (R275, R390). -/
def State.closing (s : State) (c : Nat) : State := (s.send c true (onePacket 0x04 0 [])).beginDrain c

theorem State.onlyCtx_closing (s : State) (c : Nat) : s.OnlyCtx (s.closing c) c := (s.onlyCtx_send c true _).modCtx _

theorem State.ctx_closing (s : State) (c : Nat) : ((s.closing c).ctx c).st = .draining ∧ ((s.closing c).ctx c).expert = false := by
  rw [State.closing, State.beginDrain, State.ctx_modCtx, if_pos rfl]
  exact ⟨rfl, rfl⟩

/-- From `s` to `t` the contexts `l` are being closed, and nothing else has changed but what was sent. -/
structure State.Closes (s t : State) (l : List Nat) : Prop where
  closed : ∀ c ∈ l, (t.ctx c).st = .draining ∧ (t.ctx c).expert = false
  others : ∀ c, c ∉ l → t.ctx c = s.ctx c
  kept : { t with port := { t.port with ctxs := s.port.ctxs }, out := s.out } = s

theorem State.Closes.power {s t : State} {l : List Nat} (h : s.Closes t l) : t.power = s.power := by
  rw [← h.kept]

theorem State.closes_foldl (s : State) (l : List Nat) : s.Closes (l.foldl State.closing s) l := by
  induction l using List.reverseRecOn with
  | nil => exact ⟨fun _ h => (nomatch h), fun _ _ => rfl, rfl⟩
  | append_singleton l j ih =>
    rw [List.foldl_append, List.foldl_cons, List.foldl_nil]
    generalize l.foldl State.closing s = t at ih ⊢
    obtain ⟨elsewhere, kept⟩ := t.onlyCtx_closing j
    have drains := t.ctx_closing j
    generalize t.closing j = u at elsewhere drains kept ⊢
    refine ⟨fun c listed => ?_, fun c left => ?_, ?_⟩
    · by_cases last : c = j
      · subst last
        exact drains
      · rw [elsewhere c last]
        exact ih.closed c ((List.mem_append.1 listed).resolve_right fun h => last (List.mem_singleton.1 h))
    · rw [List.mem_append, not_or, List.mem_singleton] at left
      rw [elsewhere c left.2, ih.others c left.1]
    · have before := ih.kept
      rw [← kept] at before
      exact before

/-- The module awake, its stacks out of self-refresh; its links are still down. -/
def State.awakened (s : State) : State :=
  { s with power := { s.power with sleep := .active }, ecc := { s.ecc with selfRefresh := false } }

theorem exec_parkedWake {s : State} (parked : s.power.sleep = .parked) :
    exec .parkedWake s = .next s.awakened.startLinks := by
  show execParkedWake s = _
  rw [execParkedWake, if_neg (not_not.2 parked)]
  rfl

/-- The links start: groups 1 to 15 train again, and so does the host port, unless its module has failed (R21, R303). -/
theorem State.startLinks_restarts (s : State) :
    { s.startLinks with port := s.port, fabric := s.fabric } = s ∧
      s.startLinks.port.port = (if s.mod.portBad then .down else .training) ∧ s.startLinks.port.ctxs = s.port.ctxs ∧
      ∀ g, 1 ≤ g → g ≤ 15 → s.startLinks.group g = (s.group g).restarted := by
  obtain ⟨kept, groups⟩ := s.foldl_restart 15
  have links : s.startLinks =
      let t := (List.range 15).foldl (fun s i => s.modGroup (i + 1) LaneGroup.restarted) s
      { t with port := { t.port with port := if t.mod.portBad then .down else .training, cfg := t.trainedCfg } } := rfl
  revert links kept groups
  generalize List.foldl _ s (List.range 15) = t
  intro kept groups links
  have port : t.port = s.port := by rw [← kept]
  have mod : t.mod = s.mod := by rw [← kept]
  rw [links]
  refine ⟨?_, ?_, (congrArg HostPort.ctxs port : t.port.ctxs = s.port.ctxs), fun g low high => (groups g).trans (if_pos ⟨low, high⟩)⟩
  · rw [← port]
    exact kept
  · rw [← mod]

/-- The contexts that a Park closes: those that are OPEN. -/
def State.openCtxs (s : State) : List Nat := (s.port.ctxs.filter fun e => e.2.st = .open_).map (·.1)

theorem State.mem_openCtxs {s : State} {c : Nat} (open_ : (s.ctx c).st = .open_) : c ∈ s.openCtxs := by
  have listed : (c, s.ctx c) ∈ s.port.ctxs := mem_of_tabGet_ne fun none => by
    rw [State.ctx, none] at open_
    cases open_
  exact List.mem_map.2 ⟨_, List.mem_filter.2 ⟨listed, decide_eq_true open_⟩, rfl⟩

theorem State.open_of_mem_openCtxs {s : State} {c : Nat} (wf : tabWf {} s.port.ctxs = true) (listed : c ∈ s.openCtxs) :
    (s.ctx c).st = .open_ := by
  obtain ⟨⟨k, x⟩, there, rfl⟩ := List.mem_map.1 listed
  obtain ⟨there, open_⟩ := List.mem_filter.1 there
  rw [State.ctx, tabGet_of_mem wf there]
  exact of_decide_eq_true open_

/-- The module after an accepted Park, whose contexts still drain (R390). -/
def State.parkBegun (s : State) : State :=
  let t := s.openCtxs.foldl State.closing s
  { t with power := { t.power with parking := true } }

/-- While the context of the Park itself drains, the module does not park. -/
theorem State.parkIfDrained_parkBegun {s : State} {c : Nat} (open_ : (s.ctx c).st = .open_) :
    s.parkBegun.parkIfDrained = s.parkBegun := by
  have drains : (s.parkBegun.ctx c).st = .draining := ((s.closes_foldl s.openCtxs).closed c (State.mem_openCtxs open_)).1
  have listed : (c, s.parkBegun.ctx c) ∈ s.parkBegun.port.ctxs := mem_of_tabGet_ne fun none => by
    rw [State.ctx, none] at drains
    cases drains
  refine if_neg fun ⟨_, all⟩ => ?_
  have left := List.all_eq_true.1 all _ listed
  simp [Ctx.joined, drains] at left

/-- What Park answers, and what it leaves (R388, R390). -/
theorem State.odPark_one (s : State) :
    (s.workActive = true → s.odPark 1 = (s, St.modeWorkActive)) ∧
      (s.workActive = false → s.mode.st ≠ .stable ∨ s.sec.resetting ≠ [] → s.odPark 1 = (s, St.modeBusy)) ∧
      (s.workActive = false → s.mode.st = .stable → s.sec.resetting = [] → s.odPark 1 = (s.parkBegun.parkIfDrained, St.ok)) := by
  unfold State.odPark
  refine ⟨fun active => ?_, fun idle busy => ?_, fun idle stable none => ?_⟩
  · rw [if_neg one_ne_zero, if_pos active]
  · rw [if_neg one_ne_zero, if_neg (by simp [idle]), if_pos (by simpa using busy)]
  · rw [if_neg one_ne_zero, if_neg (by simp [idle]), if_neg (by simp [stable, none])]
    rfl

theorem exec_enterParked {s u : State} {q : OdReq} {st : Status} (accepted : s.OdAccepts q 0x305002) (yes : leNat q.value = 1)
    (effect : s.odPark 1 = (u, st)) : exec (.enterParked q) s = .next (u.odAnswer q.ctx q.msn st []) := by
  obtain ⟨-, e⟩ := State.odCommand_of_accepts (mine := (· == 0x305002)) (fun s _ v => s.odPark v) accepted rfl
  rw [yes, effect] at e
  exact congrArg Host.Outcome.next e

/-- Settles O14: a wave is `rampWave_spec` with `State.grants_foldl`; Idle-ready turns on `State.quiet_iff`; the wake restarts
the links (`State.startLinks_restarts`), and Park closes the open contexts (`State.closes_foldl`). -/
theorem wavesAndSleep : Obligations.WavesAndSleep := by
  unfold Obligations.WavesAndSleep
  refine ⟨fun part s => ?_, fun s => ?_, fun s q accepted yes => ?_⟩
  · have wave := exec_wakeWave part s
    have grants := (s.waveTaken part).grants_foldl (rampWave s part)
    generalize (rampWave s part).foldl State.grant (s.waveTaken part) = t at wave grants
    exact ⟨rampWave_spec s part, t, wave, congrArg State.power grants.kept, grants.woken,
      congrArg (fun x : State => { x with power := s.power }) grants.kept, grants.others, grants.cores⟩
  · intro still
    have quiet : s.quiet = true ↔ still := s.quiet_iff
    refine ⟨fun due => ?_, fun notDue => ?_, fun ready => if_pos ready, fun other => if_neg other, fun other => if_pos other,
      fun parked => ?_⟩
    · rw [← quiet] at due
      exact if_pos due
    · rw [← quiet] at notDue
      exact if_neg notDue
    · have wakes := exec_parkedWake parked
      obtain ⟨kept, port, ctxs, groups⟩ := s.awakened.startLinks_restarts
      generalize s.awakened.startLinks = t at wakes kept port ctxs groups
      exact ⟨t, wakes, congrArg State.power kept, congrArg State.ecc kept, port, ctxs, groups,
        congrArg (fun x : State => { x with power := s.power, ecc := s.ecc }) kept⟩
  · intro answers active
    obtain ⟨refuses, waits, parks⟩ := s.odPark_one
    have idle (h : ¬ active) : s.workActive = false := by
      rw [← Bool.not_eq_true, s.workActive_iff]
      exact h
    refine ⟨fun h => exec_enterParked accepted yes (refuses (s.workActive_iff.2 h)),
      fun h busy => exec_enterParked accepted yes (waits (idle h) busy), fun h stable none wf => ?_⟩
    have closes := s.closes_foldl s.openCtxs
    have parked := parks (idle h) stable none
    rw [State.parkIfDrained_parkBegun accepted.joined] at parked
    exact ⟨s.parkBegun, exec_enterParked accepted yes parked, congrArg (fun x : Power => { x with parking := true }) closes.power,
      fun c open_ => closes.closed c (State.mem_openCtxs open_),
      fun c other => closes.others c fun listed => other (State.open_of_mem_openCtxs wf listed),
      congrArg (fun x : State => { x with power := s.power }) closes.kept⟩

end Sys2Proof.Machine
end

section
/-!
PROOF. A logical number moves (R75, R76, R132): what a handover makes of the core that takes the number, of its shelf and of
the rest, and what is left of the number where no spare takes it.
-/

namespace Sys2Proof.Machine

/-! ### Bytes of the maxima (R75) -/

theorem length_natLE (v n : Nat) : (natLE v n).length = n := by
  induction n generalizing v with
  | zero => rfl
  | succ n ih => rw [natLE, List.length_cons, ih]

theorem getD_natLE {v n b : Nat} (inside : b < n) : (natLE v n).getD b 0 = BitVec.ofNat 8 (v / 256 ^ b) := by
  induction n generalizing v b with
  | zero => omega
  | succ n ih =>
    cases b with
    | zero => simp [natLE]
    | succ b => rw [natLE, List.getD_cons_succ, ih (by omega), Nat.div_div_eq_div_mul, Nat.pow_succ']

theorem length_tabGetList {α : Type} (d : α) (t : Tab α) (k n : Nat) : (tabGetList d t k n).length = n := by
  induction n generalizing k with
  | zero => rfl
  | succ n ih => rw [tabGetList, List.length_cons, ih]

theorem getD_tabGetList {α : Type} (d e : α) (t : Tab α) (k : Nat) {n i : Nat} (inside : i < n) :
    (tabGetList d t k n).getD i e = tabGet d t (k + i) := by
  induction n generalizing k i with
  | zero => omega
  | succ n ih =>
    cases i with
    | zero => rfl
    | succ i => rw [tabGetList, List.getD_cons_succ, ih (k + 1) (by omega), Nat.add_right_comm, Nat.add_assoc]

/-- The bytes of a list of words, four for each. -/
def wordBytes (l : List (BitVec 32)) : List Byte := l.flatMap fun v => natLE v.toNat 4

theorem length_wordBytes (l : List (BitVec 32)) : (wordBytes l).length = 4 * l.length := by
  induction l with
  | nil => rfl
  | cons v l ih =>
    rw [wordBytes, List.flatMap_cons, List.length_append, length_natLE, ← wordBytes, ih, List.length_cons]
    omega

theorem getD_wordBytes (l : List (BitVec 32)) {j b : Nat} (word : j < l.length) (byte : b < 4) :
    (wordBytes l).getD (4 * j + b) 0 = BitVec.ofNat 8 ((l.getD j 0).toNat / 256 ^ b) := by
  induction l generalizing j with
  | nil => simp at word
  | cons v l ih =>
    have first := length_natLE v.toNat 4
    rw [wordBytes, List.flatMap_cons, ← wordBytes]
    cases j with
    | zero => rw [List.getD_append _ _ _ _ (by omega), Nat.mul_zero, Nat.zero_add, getD_natLE byte, List.getD_cons_zero]
    | succ j =>
      rw [List.getD_append_right _ _ _ _ (by omega), first, show 4 * (j + 1) + b - 4 = 4 * j + b by omega,
        ih (by simpa using word), List.getD_cons_succ]

/-- The maxima by number: rows before tokens. -/
def Core.maximum (k : Core) (j : Nat) : BitVec 32 :=
  if j < 4096 then tabGet 0 k.scale.rowMax j else tabGet 0 k.scale.tokMax (j - 4096)

theorem Core.length_maxima (k : Core) : k.maxima.length = 32768 := by
  have bytes := length_wordBytes (tabGetList 0 k.scale.rowMax 0 4096 ++ tabGetList 0 k.scale.tokMax 0 4096)
  rwa [List.length_append, length_tabGetList, length_tabGetList] at bytes

theorem Core.getD_maxima (k : Core) {j b : Nat} (word : j < 8192) (byte : b < 4) :
    k.maxima.getD (4 * j + b) 0 = BitVec.ofNat 8 ((k.maximum j).toNat / 256 ^ b) := by
  have rows := length_tabGetList 0 k.scale.rowMax 0 4096
  have tokens := length_tabGetList 0 k.scale.tokMax 0 4096
  have bytes := getD_wordBytes (tabGetList 0 k.scale.rowMax 0 4096 ++ tabGetList 0 k.scale.tokMax 0 4096) (j := j)
    (by rw [List.length_append]; omega) byte
  refine bytes.trans (congrArg (fun v : BitVec 32 => BitVec.ofNat 8 (v.toNat / 256 ^ b)) ?_)
  unfold Core.maximum
  split
  · next low => rw [List.getD_append _ _ _ _ (by omega), getD_tabGetList 0 0 _ _ low, Nat.zero_add]
  · next high => rw [List.getD_append_right _ _ _ _ (by omega), rows, getD_tabGetList 0 0 _ _ (by omega), Nat.zero_add]

/-! ### Summary ports (R132) -/

/-- A trim core with its summary port empty. -/
def Trim.flushed (t : Trim) : Trim := { t with port := [], coming := [] }

theorem OnlyShelf.core {s t : State} {sh : Nat} (h : OnlyShelf s t sh) (p : Nat) : t.core p = s.core p := by
  obtain ⟨-, kept, -⟩ := h
  rw [← kept]
  rfl

/-- The first `n` trim cores of a shelf are flushed in turn. -/
theorem State.foldl_flush (s : State) (sh n : Nat) :
    let t := (List.range n).foldl (fun s k => s.modTrim sh k Trim.flushed) s
    OnlyShelf s t sh ∧ (∀ k, t.trim sh k = if k < n then (s.trim sh k).flushed else s.trim sh k) ∧
      { t.shelf sh with trims := (s.shelf sh).trims } = s.shelf sh := by
  induction n with
  | zero => exact ⟨.refl s sh, fun k => by rw [if_neg (by omega)]; rfl, rfl⟩
  | succ n ih =>
    obtain ⟨only, trims, shelf⟩ := ih
    simp only [List.range_succ, List.foldl_append, List.foldl_cons, List.foldl_nil]
    generalize (List.range n).foldl (fun s k => s.modTrim sh k Trim.flushed) s = t at only trims shelf ⊢
    obtain ⟨step, -, shelf'⟩ := onlyTrim_modTrim t sh n Trim.flushed
    refine ⟨only.trans step, fun k => ?_, ?_⟩
    · rw [State.trim_modTrim, trims, trims]
      by_cases last : k = n
      · subst last
        simp
      · rw [if_neg last]
        congr 1
        exact propext (by omega)
    · rw [← shelf'] at shelf
      exact shelf

/-! ### What a move of a number changes -/

/-- On the way to a move of number `c` the shelf's trim cores are flushed where the number is the lead core's; of the shelf
nothing else but the SRAM has changed, and outside it nothing but cores. -/
structure State.Flushes (s t : State) (sh c : Nat) : Prop where
  trims : ∀ k, t.trim sh k = if s.lead sh = some c ∧ k < 4 then (s.trim sh k).flushed else s.trim sh k
  shelf : (let h := s.shelf sh
    { t.shelf sh with trims := h.trims, sram := h.sram } = h)
  others : ∀ i, i ≠ sh → t.shelf i = s.shelf i
  wakes : s.Wakes t sh
  kept : { t with cores := s.cores, shelves := s.shelves, woken := s.woken } = s

/-- The state in which firmware has flushed the summary ports, where the number is the lead core's (R132). -/
def State.flushedFor (s : State) (sh c : Nat) : State := if s.lead sh = some c then s.flushPorts sh else s

theorem State.flushes_flushedFor (s : State) (sh c : Nat) :
    s.Flushes (s.flushedFor sh c) sh c ∧ (s.flushedFor sh c).sram sh = s.sram sh ∧
      ∀ p, (s.flushedFor sh c).core p = s.core p := by
  unfold State.flushedFor
  by_cases lead : s.lead sh = some c
  · obtain ⟨only, trims, shelf⟩ := s.foldl_flush sh 4
    have flush : s.flushPorts sh = (List.range 4).foldl (fun s k => s.modTrim sh k Trim.flushed) s := rfl
    rw [← flush] at only trims shelf
    rw [if_pos lead]
    generalize s.flushPorts sh = t at only trims shelf
    obtain ⟨others, kept, wakes⟩ := id only
    have sram : t.sram sh = s.sram sh := by
      rw [State.sram, State.sram, ← shelf]
    refine ⟨⟨fun k => ?_, ?_, others, wakes, ?_⟩, sram, only.core⟩
    · rw [trims]
      simp only [lead, true_and]
    · exact congrArg (fun h : Shelf => { h with sram := (s.shelf sh).sram }) shelf
    · exact congrArg (fun x : State => { x with cores := s.cores }) kept
  · rw [if_neg lead]
    exact ⟨⟨fun k => by rw [if_neg (fun h => lead h.1)], rfl, fun _ _ => rfl, .refl s sh, rfl⟩, rfl, fun _ => rfl⟩

theorem State.core_sramWrite (s : State) (sh a : Nat) (bs : List Byte) (p : Nat) : (s.sramWrite sh a bs).core p = s.core p := rfl

theorem State.sram_sramWrite (s : State) (sh a : Nat) (bs : List Byte) :
    (s.sramWrite sh a bs).sram sh = memWrite (s.sram sh) a bs :=
  congrArg Shelf.sram (s.shelf_modShelf_same sh fun h => { h with sram := memWrite h.sram a bs })

theorem State.Flushes.sramWrite {s t : State} {sh c : Nat} (h : s.Flushes t sh c) (a : Nat) (bs : List Byte) :
    s.Flushes (t.sramWrite sh a bs) sh c := by
  obtain ⟨others, kept, wakes⟩ := onlyShelf_modShelf t sh fun h => { h with sram := memWrite h.sram a bs }
  have shelf : (t.sramWrite sh a bs).shelf sh = { t.shelf sh with sram := memWrite (t.shelf sh).sram a bs } :=
    State.shelf_modShelf_same ..
  refine ⟨fun k => ?_, ?_, fun i other => (others i other).trans (h.others i other), h.wakes.trans wakes, h.kept⟩
  · rw [State.trim, shelf]
    exact h.trims k
  · rw [shelf]
    exact h.shelf

theorem State.Flushes.modCore {s t : State} {sh c p : Nat} (h : s.Flushes t sh c) (mine : p / 9 = sh) (f : Core → Core) :
    s.Flushes (t.modCore p f) sh c := by
  obtain ⟨-, -, wakes⟩ := onlyCore_modCore t p f
  exact ⟨h.trims, h.shelf, h.others, h.wakes.trans (mine ▸ wakes), h.kept⟩

/-- Number `c` of the shelf has moved to physical core `q` (15: none): beside the core map, the trim cores that are flushed,
and the SRAM and the awaited answers, nothing of the shelf has changed; outside it nothing but cores and the test's
records. -/
structure State.Moves (s t : State) (sh c q : Nat) : Prop where
  map : (t.shelf sh).map = (s.shelf sh).map.set c q
  trims : ∀ k, t.trim sh k = if s.lead sh = some c ∧ k < 4 then (s.trim sh k).flushed else s.trim sh k
  shelf : (let h := s.shelf sh
    { t.shelf sh with map := h.map, trims := h.trims, sram := h.sram, awaiting := h.awaiting } = h)
  others : ∀ i, i ≠ sh → t.shelf i = s.shelf i
  wakes : s.Wakes t sh
  kept : { t with cores := s.cores, shelves := s.shelves, test := s.test, woken := s.woken } = s

/-- The core map changes. -/
def State.remap (s : State) (sh c q : Nat) : State := s.modShelf sh fun h => { h with map := h.map.set c q }

theorem State.shelf_remap (s : State) (sh c q : Nat) :
    (s.remap sh c q).shelf sh = { s.shelf sh with map := (s.shelf sh).map.set c q } := State.shelf_modShelf_same ..

theorem State.Flushes.remap {s t : State} {sh c : Nat} (h : s.Flushes t sh c) (q : Nat) : s.Moves (t.remap sh c q) sh c q := by
  obtain ⟨others, kept, wakes⟩ := onlyShelf_modShelf t sh fun h => { h with map := h.map.set c q }
  have shelf := t.shelf_remap sh c q
  have before := h.shelf
  have map : (t.shelf sh).map = (s.shelf sh).map := by rw [← before]
  refine ⟨?_, fun k => ?_, ?_, fun i other => (others i other).trans (h.others i other), h.wakes.trans wakes, ?_⟩
  · rw [shelf, ← map]
  · rw [State.trim, shelf]
    exact h.trims k
  · rw [shelf]
    exact congrArg (fun x : Shelf => { x with map := (s.shelf sh).map, awaiting := (s.shelf sh).awaiting }) before
  · exact congrArg (fun x : State => { x with test := s.test }) h.kept

theorem State.Moves.modCore {s t : State} {sh c q p : Nat} (h : s.Moves t sh c q) (mine : p / 9 = sh) (f : Core → Core) :
    s.Moves (t.modCore p f) sh c q := by
  obtain ⟨-, -, wakes⟩ := onlyCore_modCore t p f
  exact ⟨h.map, h.trims, h.shelf, h.others, h.wakes.trans (mine ▸ wakes), h.kept⟩

/-- Firmware awaits the answers of a core that does not answer (R75). -/
def State.awaitFor (s : State) (sh c : Nat) (answers : Bool) : State :=
  if answers then s else s.modShelf sh fun h => { h with awaiting := c :: h.awaiting }

theorem State.shelf_awaitFor (s : State) (sh c : Nat) (answers : Bool) : (s.awaitFor sh c answers).shelf sh =
    { s.shelf sh with awaiting := (if answers then [] else [c]) ++ (s.shelf sh).awaiting } := by
  cases answers
  · exact State.shelf_modShelf_same ..
  · rfl

theorem State.core_awaitFor (s : State) (sh c : Nat) (answers : Bool) (i : Nat) :
    (s.awaitFor sh c answers).core i = s.core i := by
  cases answers <;> rfl

theorem State.onlyShelf_awaitFor (s : State) (sh c : Nat) (answers : Bool) : OnlyShelf s (s.awaitFor sh c answers) sh := by
  cases answers
  · exact onlyShelf_modShelf ..
  · exact .refl ..

theorem State.Moves.awaitFor {s t : State} {sh c q : Nat} (h : s.Moves t sh c q) (answers : Bool) :
    s.Moves (t.awaitFor sh c answers) sh c q := by
  obtain ⟨others, kept, wakes⟩ := t.onlyShelf_awaitFor sh c answers
  have shelf := t.shelf_awaitFor sh c answers
  refine ⟨?_, fun k => ?_, ?_, fun i other => (others i other).trans (h.others i other), h.wakes.trans wakes, ?_⟩
  · rw [shelf]
    exact h.map
  · rw [State.trim, shelf]
    exact h.trims k
  · rw [shelf]
    exact h.shelf
  · have before := h.kept
    rw [← kept] at before
    exact before

/-- A move from a state that differs in the test's records alone. -/
theorem State.Moves.of_test {s t : State} {sh c q : Nat} {x : SelfTest} (h : State.Moves { s with test := x } t sh c q) :
    s.Moves t sh c q :=
  ⟨h.map, h.trims, h.shelf, h.others, h.wakes, congrArg (fun y : State => { y with test := s.test }) h.kept⟩

theorem State.Moves.with_test {s t : State} {sh c q : Nat} (h : s.Moves t sh c q) (x : SelfTest) :
    s.Moves { t with test := x } sh c q :=
  ⟨h.map, h.trims, h.shelf, h.others, h.wakes, h.kept⟩

/-- A number with a core has a place in the map. -/
theorem State.place_of_phys {s : State} {sh c p : Nat} (phys : s.phys sh c = some p) :
    ∃ r, r < 9 ∧ (s.shelf sh).map[c]? = some r ∧ p = 9 * sh + r := by
  unfold State.phys at phys
  split at phys
  · next r place =>
    split at phys
    · next real => exact ⟨r, real, place, (Option.some.inj phys).symm⟩
    · cases phys
  · cases phys

/-- Behind a number that has moved is the core that took it, if one did. -/
theorem State.Moves.phys {s t : State} {sh c q p : Nat} (h : s.Moves t sh c q) (before : s.phys sh c = some p) :
    t.phys sh c = if q < 9 then some (9 * sh + q) else none := by
  obtain ⟨r, -, place, -⟩ := State.place_of_phys before
  obtain ⟨inside, -⟩ := List.getElem?_eq_some_iff.1 place
  have now : (t.shelf sh).map[c]? = some q := by rw [h.map, List.getElem?_set_self inside]
  rw [State.phys, now]

/-! ### The handover (R75) -/

/-- The core that takes a number, with the job state of the core that had it and nothing else (R75). -/
def Core.heir (new old : Core) (answers : Bool) : Core :=
  { ({} : Core) with
    use := .active
    repair := new.repair
    maskTab := old.maskTab
    scale := { rowScale := old.scale.rowScale, tokScale := old.scale.tokScale, seed := old.scale.seed }
    stepf := if answers then old.stepf else 0 }

/-- With no scale load and no seed write held, the new core takes the job state and nothing lands with it. -/
theorem Core.takeJob_of_quiet (new : Core) {old : Core} (answers : Bool) (loads : old.scale.loads = [])
    (seed : old.scale.seedHeld = none) : (new.takeJob old answers).releaseLoads = (new.heir old answers, []) := by
  rw [Core.releaseLoads_of_none (by exact loads), Core.takeJob, loads, seed]
  rfl

/-- The state in which the maxima of the core that had the number have gone to SRAM, where it answers. -/
def State.maximaSaved (s : State) (sh : Nat) (k : Core) (answers : Bool) (dst : Nat) : State :=
  if answers then s.sramWrite sh dst k.maxima else s

theorem State.Flushes.maximaSaved {s t : State} {sh c : Nat} (h : s.Flushes t sh c) (k : Core) (answers : Bool) (dst : Nat) :
    s.Flushes (t.maximaSaved sh k answers dst) sh c := by
  unfold State.maximaSaved
  split
  · exact h.sramWrite dst k.maxima
  · exact h

theorem State.core_maximaSaved (s : State) (sh : Nat) (k : Core) (answers : Bool) (dst i : Nat) :
    (s.maximaSaved sh k answers dst).core i = s.core i := by
  unfold State.maximaSaved
  split
  · exact State.core_sramWrite ..
  · rfl

theorem State.sram_maximaSaved (s : State) (sh : Nat) (k : Core) (answers : Bool) (dst : Nat) :
    (s.maximaSaved sh k answers dst).sram sh = if answers then memWrite (s.sram sh) dst k.maxima else s.sram sh := by
  unfold State.maximaSaved
  split
  · exact State.sram_sramWrite ..
  · rfl

theorem State.handover_eq {s : State} {sh c p : Nat} (q : Nat) (answers : Bool) (dst : Nat) (phys : s.phys sh c = some p)
    (loads : (s.core p).scale.loads = []) (seed : (s.core p).scale.seedHeld = none) :
    s.handover sh c q answers dst =
      let t := (s.flushedFor sh c).maximaSaved sh (s.core p) answers dst
      (t.modCore (9 * sh + q) fun _ => (t.core (9 * sh + q)).heir (s.core p) answers).remap sh c q := by
  rw [State.handover, phys]
  simp only [Core.takeJob_of_quiet _ answers loads seed, seed]
  rfl

/-- What a handover of number `c` from core `p` to the shelf's core `q` makes of the module. -/
structure State.HandsOver (s t : State) (sh c q p : Nat) (answers : Bool) (dst : Nat) : Prop where
  moves : s.Moves t sh c q
  cores : ∀ i, t.core i = if i = 9 * sh + q then (s.core (9 * sh + q)).heir (s.core p) answers else s.core i
  sram : t.sram sh = if answers then memWrite (s.sram sh) dst (s.core p).maxima else s.sram sh
  awaiting : (t.shelf sh).awaiting = (s.shelf sh).awaiting
  test : t.test = s.test

theorem State.handsOver {s : State} {sh c p q : Nat} (answers : Bool) (dst : Nat) (real : q < 9) (phys : s.phys sh c = some p)
    (loads : (s.core p).scale.loads = []) (seed : (s.core p).scale.seedHeld = none) :
    s.HandsOver (s.handover sh c q answers dst) sh c q p answers dst := by
  obtain ⟨flushes, sram, cores⟩ := s.flushes_flushedFor sh c
  have saved := flushes.maximaSaved (s.core p) answers dst
  have savedCores := (s.flushedFor sh c).core_maximaSaved sh (s.core p) answers dst
  have savedSram := (s.flushedFor sh c).sram_maximaSaved sh (s.core p) answers dst
  rw [State.handover_eq q answers dst phys loads seed]
  dsimp only
  generalize (s.flushedFor sh c).maximaSaved sh (s.core p) answers dst = t at saved savedCores savedSram
  rw [savedCores, cores]
  generalize taken : (t.modCore (9 * sh + q) fun _ => (s.core (9 * sh + q)).heir (s.core p) answers) = u
  have mine : (9 * sh + q) / 9 = sh := by omega
  have moved : s.Flushes u sh c := taken ▸ saved.modCore mine _
  have shelf := u.shelf_remap sh c q
  have before := moved.shelf
  exact {
    moves := moved.remap q
    cores := fun i => by
      show u.core i = _
      rw [← taken, State.core_modCore, savedCores, cores]
    sram := by
      rw [State.sram, shelf, ← sram, ← savedSram, ← taken]
      rfl
    awaiting := by
      rw [shelf, ← before]
    test := by
      show u.test = _
      rw [← moved.kept] }

/-- Where the old core does not answer, no maxima come to SRAM, and where it does, nothing beside them (R75). -/
theorem tabGet_saved_outside {m n : Mem} {k : Core} {answers : Bool} {dst a : Nat}
    (saved : n = if answers then memWrite m dst k.maxima else m) (outside : a < dst ∨ dst + 32768 ≤ a ∨ answers = false) :
    tabGet 0 n a = tabGet 0 m a := by
  rw [saved]
  cases answers
  · rfl
  · rw [if_pos rfl, memByte_write, Core.length_maxima, if_neg (by simp at outside; omega)]

/-- Where it answers, they stand at `dst`, four bytes each. -/
theorem tabGet_saved_maxima {m n : Mem} {k : Core} {dst j b : Nat} (saved : n = memWrite m dst k.maxima) (word : j < 8192)
    (byte : b < 4) : tabGet 0 n (dst + 4 * j + b) = BitVec.ofNat 8 ((k.maximum j).toNat / 256 ^ b) := by
  rw [saved, memByte_write, Core.length_maxima, if_pos (by omega), Nat.add_assoc, Nat.add_sub_cancel_left,
    Core.getD_maxima _ word byte]

/-- The spare of a shelf is one of its nine cores, and no number's (R75). -/
theorem State.spareOf_spec {s : State} {sh q : Nat} (spare : s.spareOf sh = some q) : q < 9 ∧ q ∉ (s.shelf sh).map := by
  have found := List.find?_some spare
  have listed := List.mem_of_find?_eq_some spare
  simp only [Bool.and_eq_true, Bool.not_eq_true', ← Bool.not_eq_true, List.contains_iff_mem] at found
  exact ⟨List.mem_range.1 listed, found.2⟩

/-- A core with a number is not the spare. -/
theorem State.spare_ne_of_phys {s : State} {sh c p q : Nat} (phys : s.phys sh c = some p) (spare : s.spareOf sh = some q) :
    p ≠ 9 * sh + q := by
  obtain ⟨r, -, place, rfl⟩ := State.place_of_phys phys
  have free := (State.spareOf_spec spare).2
  have taken := List.mem_of_getElem? place
  intro same
  obtain rfl : r = q := by omega
  exact free taken

end Sys2Proof.Machine
end

section
/-!
PROOF. Cores retire (R49, R75, R76, R85, R198, R401, R405): what a retirement makes of the core, of its number, of the spare
and of the repair record, and what becomes of answers that do not come.
-/

namespace Sys2Proof.Machine

/-- A retired core: nothing is left in it (R49, R75). -/
def Core.retired : Core := { use := .retired }

/-- The repair record with one more entry, of which it holds 4,096 (R401). -/
def SelfTest.recorded (x : SelfTest) (w0 w1 : BitVec 64) : SelfTest :=
  { x with repairs := (x.repairs ++ [(⟨w0, w1⟩ : Result)]).take 4096 }

theorem State.recordRepair_eq (s : State) (w0 w1 : BitVec 64) : s.recordRepair w0 w1 = { s with test := s.test.recorded w0 w1 } :=
  rfl

/-- The first word of the entry of a retirement (R398, R401). -/
def retirementW0 (sh p : Nat) : BitVec 64 := resultW0 1 sh (p % 9) 0 2 0

theorem State.retireCore_of_spare {s : State} {sh c p q : Nat} (answers : Bool) (dst : Nat) (phys : s.phys sh c = some p)
    (idle : s.test.st = .idle) (spare : s.spareOf sh = some q) : s.retireCore sh c answers dst =
      ((({ s with test := s.test.recorded (retirementW0 sh p) (BitVec.ofNat 64 q) } : State).handover sh c q answers dst).modCore p
        fun _ => Core.retired).awaitFor sh c answers := by
  have yields : s.testYields sh = s := if_neg (fun h => h.1 idle)
  rw [State.retireCore, phys]
  simp only [yields, spare, State.recordRepair_eq]
  rfl

/-- A number without a core: its trim cores are flushed, where it is the lead core's, and the map names none (R76). -/
theorem State.uncovers {s : State} {sh c p : Nat} (phys : s.phys sh c = some p) (loads : (s.core p).scale.loads = [])
    (seed : (s.core p).scale.seedHeld = none) :
    s.Moves (s.uncover sh c) sh c 15 ∧ (∀ i, (s.uncover sh c).core i = s.core i) ∧
      ((s.uncover sh c).shelf sh).awaiting = (s.shelf sh).awaiting ∧ (s.uncover sh c).sram sh = s.sram sh ∧
      (s.uncover sh c).test = s.test := by
  have uncovered : s.uncover sh c = (s.flushedFor sh c).remap sh c 15 := by
    rw [State.uncover, State.lcore_some phys]
    simp only [loads, seed, List.foldl_nil]
    rfl
  obtain ⟨flushes, sram, cores⟩ := s.flushes_flushedFor sh c
  have shelf := (s.flushedFor sh c).shelf_remap sh c 15
  have before := flushes.shelf
  rw [uncovered]
  generalize s.flushedFor sh c = t at flushes sram cores shelf before
  refine ⟨flushes.remap 15, cores, ?_, ?_, ?_⟩
  · rw [shelf, ← before]
  · rw [State.sram, shelf]
    exact sram
  · show t.test = _
    rw [← flushes.kept]

theorem State.retireCore_of_no_spare {s : State} {sh c p : Nat} (answers : Bool) (dst : Nat) (phys : s.phys sh c = some p)
    (idle : s.test.st = .idle) (none : s.spareOf sh = none) : s.retireCore sh c answers dst =
      ((({ s with test := s.test.recorded (retirementW0 sh p) 0xF } : State).uncover sh c).modCore p
        fun _ => Core.retired).serviceEnding := by
  have yields : s.testYields sh = s := if_neg (fun h => h.1 idle)
  rw [State.retireCore, phys]
  simp only [yields, none, State.recordRepair_eq]
  rfl

/-- What a retirement with a spare makes of the module (R75). -/
structure State.RetiresTo (s t : State) (sh c q p : Nat) (answers : Bool) (dst : Nat) : Prop where
  moves : s.Moves t sh c q
  cores : ∀ i, t.core i =
    if i = p then .retired else if i = 9 * sh + q then (s.core (9 * sh + q)).heir (s.core p) answers else s.core i
  awaiting : (t.shelf sh).awaiting = (if answers then [] else [c]) ++ (s.shelf sh).awaiting
  sram : t.sram sh = if answers then memWrite (s.sram sh) dst (s.core p).maxima else s.sram sh
  test : t.test = s.test.recorded (retirementW0 sh p) (BitVec.ofNat 64 q)

theorem State.retiresTo {s : State} {sh c p q : Nat} (answers : Bool) (dst : Nat) (phys : s.phys sh c = some p)
    (idle : s.test.st = .idle) (loads : (s.core p).scale.loads = []) (seed : (s.core p).scale.seedHeld = none)
    (spare : s.spareOf sh = some q) : s.RetiresTo (s.retireCore sh c answers dst) sh c q p answers dst := by
  rw [State.retireCore_of_spare answers dst phys idle spare]
  have handed := State.handsOver (s := { s with test := s.test.recorded (retirementW0 sh p) (BitVec.ofNat 64 q) }) answers dst
    (State.spareOf_spec spare).1 phys loads seed
  generalize State.handover _ sh c q answers dst = t at handed ⊢
  have shelf := (t.modCore p fun _ => Core.retired).shelf_awaitFor sh c answers
  have only := (t.modCore p fun _ => Core.retired).onlyShelf_awaitFor sh c answers
  exact {
    moves := (handed.moves.of_test.modCore (State.phys_shelf phys) _).awaitFor answers
    cores := fun i => by
      rw [State.core_awaitFor, State.core_modCore, handed.cores]
      rfl
    awaiting := by
      rw [shelf]
      exact congrArg ((if answers then [] else [c]) ++ ·) handed.awaiting
    sram := by
      rw [State.sram, shelf]
      exact handed.sram
    test := by
      obtain ⟨-, kept, -⟩ := only
      exact (congrArg State.test kept).trans handed.test }

/-- What a retirement without a spare makes of the module (R76, R405). -/
structure State.RetiresAlone (s t : State) (sh c p : Nat) : Prop where
  moves : s.Moves t sh c 15
  cores : ∀ i, t.core i = if i = p then .retired else s.core i
  awaiting : (t.shelf sh).awaiting = (s.shelf sh).awaiting
  sram : t.sram sh = s.sram sh
  test : t.test = { s.test.recorded (retirementW0 sh p) 0xF with ending := s.test.ending + 1 }

theorem State.retiresAlone {s : State} {sh c p : Nat} (answers : Bool) (dst : Nat) (phys : s.phys sh c = some p)
    (idle : s.test.st = .idle) (loads : (s.core p).scale.loads = []) (seed : (s.core p).scale.seedHeld = none)
    (none : s.spareOf sh = none) : s.RetiresAlone (s.retireCore sh c answers dst) sh c p := by
  rw [State.retireCore_of_no_spare answers dst phys idle none]
  obtain ⟨moves, cores, awaiting, sram, test⟩ := State.uncovers
    (s := { s with test := s.test.recorded (retirementW0 sh p) 0xF }) phys loads seed
  generalize State.uncover _ sh c = t at moves cores awaiting sram test ⊢
  exact {
    moves := (moves.of_test.modCore (State.phys_shelf phys) _).with_test _
    cores := fun i => by
      show (t.modCore p fun _ => Core.retired).core i = if i = p then Core.retired else s.core i
      rw [State.core_modCore, cores]
      rfl
    awaiting := awaiting
    sram := sram
    test := by
      show { t.test with ending := t.test.ending + 1 } = _
      rw [test]
      rfl }

/-- The retired core's reads have not returned: LOST is set (R75, R198). -/
theorem exec_maximaReadTimeout {s : State} {c : CoreRef} (awaited : c.c.val ∈ (s.shelf c.sh).awaiting) :
    exec (.maximaReadTimeout c) s = .next ((s.modShelf c.sh fun h =>
      { h with awaiting := h.awaiting.filter (· ≠ c.c.val) }).flagLost (s.partOf c.sh)) := by
  show execMaximaReadTimeout c s = _
  rw [execMaximaReadTimeout, if_neg (by simpa using awaited)]
  rfl

/-- Settles O15: with a spare `State.retiresTo`, without one `State.retiresAlone`, and the reads that have not returned
`exec_maximaReadTimeout`. -/
theorem coresRetire : Obligations.CoresRetire := by
  unfold Obligations.CoresRetire
  constructor
  · intro s c answers dst combine p phys idle loads seed ends moved
    have ended : exec (.retireCore c answers dst combine) s = .next (ends (s.retireCore c.sh c.c answers dst)) := by
      show Host.Outcome.next (s.retireInService _ _ _ _ _) = _
      rw [State.retireInService, phys]
      cases combine <;> rfl
    have moves {t : State} {q : Nat} (h : s.Moves t c.sh c.c q) : moved t q :=
      ⟨h.map, h.trims, h.shelf, h.others, h.wakes, h.kept⟩
    refine ⟨fun q spare => ?_, fun none => ?_⟩
    · have retires := State.retiresTo answers dst phys idle loads seed spare
      have real := (State.spareOf_spec spare).1
      have other := State.spare_ne_of_phys phys spare
      generalize s.retireCore c.sh c.c answers dst = t at ended retires
      refine ⟨t, ended, moves retires.moves, ?_, ?_, ?_, fun i old new => ?_, retires.awaiting,
        fun a outside => tabGet_saved_outside retires.sram outside, fun yes j b word byte => ?_, ?_, ?_⟩
      · rw [retires.moves.phys phys, if_pos real]
      · rw [retires.cores, if_pos rfl]
        rfl
      · rw [retires.cores, if_neg other.symm, if_pos rfl]
        rfl
      · rw [retires.cores, if_neg old, if_neg new]
      · have saved := retires.sram
        rw [yes, if_pos rfl] at saved
        exact tabGet_saved_maxima saved word byte
      · rw [retires.test]
        rfl
      · rw [retires.test]
        rfl
    · have retires := State.retiresAlone answers dst phys idle loads seed none
      generalize s.retireCore c.sh c.c answers dst = t at ended retires
      refine ⟨t, ended, moves retires.moves, ?_, ?_, fun i other => ?_, retires.sram, retires.awaiting, ?_, ?_, ?_⟩
      · rw [retires.moves.phys phys, if_neg (by decide)]
      · rw [retires.cores, if_pos rfl]
        rfl
      · rw [retires.cores, if_neg other]
      · rw [retires.test]
        rfl
      · rw [retires.test]
      · rw [retires.test]
        rfl
  · intro s c awaited lost
    obtain ⟨others, kept, wakes⟩ := onlyShelf_modShelf s c.sh fun h => { h with awaiting := h.awaiting.filter (· ≠ c.c.val) }
    have shelf := s.shelf_modShelf_same c.sh fun h => { h with awaiting := h.awaiting.filter (· ≠ c.c.val) }
    exact ⟨_, exec_maximaReadTimeout awaited, shelf, others, rfl, wakes, rfl⟩

end Sys2Proof.Machine
end

section
/-!
PROOF. The in-service test of a core (R75, R394, R395, R398, R399, R403): when it runs and on which core, what its findings
lead to, and how the tested core takes its number back.
-/

namespace Sys2Proof.Machine

/-! ### When the test runs (R403) -/

/-- The in-service test may go on: it is not switched off, the module serves, and no core is under test. -/
def State.TestDue (s : State) : Prop :=
  s.odVal 0x703001 1 ≠ 0 ∧ s.serving = true ∧ (s.test.st = .idle ∨ s.test.st = .handover)

theorem State.testDue_iff (s : State) : s.TestDue ↔ ¬ (s.odVal 0x703001 1 = 0 ∨ (s.boot ≠ .ready ∧ s.boot ≠ .degraded) ∨
    (s.test.st ≠ .idle ∧ s.test.st ≠ .handover)) := by
  simp only [State.TestDue, State.serving, Bool.or_eq_true, decide_eq_true_eq]
  tauto

theorem exec_inServiceTest_of_not_due {s : State} (l : List TestFinding) (retestOk : Bool) (dst : Fin 12288001)
    (notDue : ¬ s.TestDue) : exec (.inServiceTest l retestOk dst) s = .next s := by
  rw [s.testDue_iff, not_not] at notDue
  exact if_pos notDue

theorem exec_inServiceTest_of_none {s : State} (l : List TestFinding) (retestOk : Bool) (dst : Fin 12288001) (due : s.TestDue)
    (none : s.nextTest = none) :
    exec (.inServiceTest l retestOk dst) s = .next { s with test := { s.test with st := .idle } } := by
  show execInServiceTest l retestOk dst s = _
  rw [execInServiceTest, if_neg (s.testDue_iff.1 due), none]

/-- The next core in turn, in shelf `sh` whose spare is `q`: the spare itself, or the core behind a number, once it stands at
a boundary. -/
theorem exec_inServiceTest_of_next {s : State} (l : List TestFinding) (retestOk : Bool) (dst : Fin 12288001) {i q : Nat}
    (due : s.TestDue) (next : s.nextTest = some i) (spare : s.spareOf (i / 9) = some q) :
    exec (.inServiceTest l retestOk dst) s =
      if i % 9 = 8 then .next (s.testSpare (i / 9) q l retestOk)
      else if s.testBoundary (i / 9) (i % 9) then .next (s.testCore (i / 9) (i % 9) q l retestOk dst)
      else .next { s with test := { s.test with
        st := .handover, shelf := i / 9, logical := i % 9, phys := (s.phys (i / 9) (i % 9)).getD 0 % 9 } } := by
  show execInServiceTest l retestOk dst s = _
  rw [execInServiceTest, if_neg (s.testDue_iff.1 due), next]
  simp only [spare]

/-! ### What the findings lead to (R394, R398 to R400) -/

/-- A test that finds nothing has nothing to repair. -/
theorem State.repairAll_of_pass (s : State) (sh p : Nat) {l : List TestFinding} (pass : ∀ f ∈ l, f = .pass) :
    s.repairAll sh p l = some s := by
  have kept : l.foldl (fun (a : Option State) f => a.bind fun s => s.repairCore sh p f) (some s) = some s := by
    induction l with
    | nil => rfl
    | cons f l ih =>
      rw [List.foldl_cons, pass f List.mem_cons_self]
      exact ih fun g listed => pass g (List.mem_cons_of_mem _ listed)
  have noRecur : l.any (s.recurs (9 * sh + p)) = false := by
    rw [List.any_eq_false]
    intro f listed
    rw [pass f listed]
    exact Bool.false_ne_true
  rw [State.repairAll, noRecur, if_neg Bool.false_ne_true, kept]

/-- A fault of the logic has no repair (R399). -/
theorem State.repairAll_of_logic (s : State) (sh p : Nat) {l : List TestFinding} (logic : .logic ∈ l) :
    s.repairAll sh p l = none := by
  have stays (l : List TestFinding) : l.foldl (fun (a : Option State) f => a.bind fun s => s.repairCore sh p f) none = none := by
    induction l with
    | nil => rfl
    | cons f l ih => exact ih
  unfold State.repairAll
  split
  · rfl
  · obtain ⟨a, b, rfl⟩ := List.append_of_mem logic
    rw [List.foldl_append, List.foldl_cons]
    cases List.foldl (fun (a : Option State) f => a.bind fun s => s.repairCore sh p f) (some s) a with
    | none => exact stays b
    | some u => exact stays b

/-- The results after a test that found nothing: an entry of each BIST, newest first (R398). -/
def SelfTest.passed (x : SelfTest) (sh p : Nat) : SelfTest :=
  let entry (test : Nat) : Result := ⟨resultW0 1 sh p test 0 0, 0⟩
  { x with serviceResults := (entry 2 :: entry 1 :: x.serviceResults).take 256 }

theorem State.noteTest_of_pass (s : State) (sh p res : Nat) {l : List TestFinding} (pass : ∀ f ∈ l, f = .pass) :
    s.noteTest sh p l res = { s with test := s.test.passed sh p } := by
  have none : l.filter (· ≠ .pass) = [] := List.filter_eq_nil_iff.2 fun f listed => by simp [pass f listed]
  rw [State.noteTest, none]
  simp only [State.recordService, SelfTest.passed, List.take_succ_cons, List.take_take]
  rfl

/-- The entries of a test are all that it notes. -/
theorem State.noteTest_spec (s : State) (sh p res : Nat) (l : List TestFinding) :
    ∃ r, s.noteTest sh p l res = { s with test := { s.test with serviceResults := r } } := by
  have fold (bad : List TestFinding) (u : State) (more : ∃ r, u = { s with test := { s.test with serviceResults := r } }) :
      ∃ r, bad.foldl (fun s f => let r := coreResult sh p f res; s.recordService r.w0 r.w1) u =
        { s with test := { s.test with serviceResults := r } } := by
    induction bad generalizing u with
    | nil => exact more
    | cons f bad ih =>
      obtain ⟨r, rfl⟩ := more
      exact ih _ ⟨_, rfl⟩
  unfold State.noteTest
  dsimp only
  split
  · exact ⟨_, rfl⟩
  · exact fold _ s ⟨_, rfl⟩

/-- A core whose test finds nothing is good, and has its repair map again. -/
theorem State.judgeCore_of_pass (s : State) (sh p spare : Nat) (retestOk : Bool) {l : List TestFinding}
    (pass : ∀ f ∈ l, f = .pass) : s.judgeCore sh p spare l retestOk =
      (({ s with test := s.test.passed sh p } : State).applyMap (9 * sh + p), true) := by
  have all : l.all (· = .pass) = true := List.all_eq_true.2 fun f listed => decide_eq_true (pass f listed)
  rw [State.judgeCore, s.repairAll_of_pass sh p pass]
  simp only [all, or_true, if_true, s.noteTest_of_pass sh p 1 pass]

/-- A core with a fault of its logic retires, its findings noted. -/
theorem State.judgeCore_of_logic (s : State) (sh p spare : Nat) (retestOk : Bool) {l : List TestFinding} (logic : .logic ∈ l) :
    ∃ t r, t = { s with test := { s.test with serviceResults := r } } ∧
      s.judgeCore sh p spare l retestOk = (t.retireIdle sh p spare, false) := by
  obtain ⟨r, noted⟩ := s.noteTest_spec sh p 2 l
  exact ⟨_, r, noted, by rw [State.judgeCore, s.repairAll_of_logic sh p logic]⟩

theorem State.core_retireIdle (s : State) (sh p spare : Nat) : (s.retireIdle sh p spare).core (9 * sh + p) = .retired :=
  State.core_modCore_same ..

/-! ### The test of the spare -/

/-- A core under test, fenced off, its contents lost (R394). -/
def Core.fenced : Core := { use := .fenced }

theorem State.fenceCore_eq (s : State) (k : Nat) : s.fenceCore k = s.modCore k fun _ => Core.fenced := rfl

/-- Core `k` of the shelf, the `p`-th, has been under test, which has found nothing: it is fenced, with its repair map. -/
def State.soundCore (s : State) (sh p : Nat) : State :=
  let t := s.modCore (9 * sh + p) fun _ => Core.fenced
  ({ t with test := t.test.passed sh p } : State).applyMap (9 * sh + p)

theorem State.soundCore_spec (s : State) (sh p : Nat) :
    (∀ j, j ≠ 9 * sh + p → (s.soundCore sh p).core j = s.core j) ∧
      (s.soundCore sh p).core (9 * sh + p) = { use := .fenced, repair := s.repairMap (9 * sh + p) } ∧
      (s.soundCore sh p).shelves = s.shelves ∧ (s.soundCore sh p).test = s.test.passed sh p := by
  have fenced j := s.core_modCore (9 * sh + p) j fun _ => Core.fenced
  unfold State.soundCore
  dsimp only
  generalize tested : s.modCore (9 * sh + p) (fun _ => Core.fenced) = t at fenced
  have test : t.test = s.test := by
    rw [← tested]
    rfl
  have shelves : t.shelves = s.shelves := by
    rw [← tested]
    rfl
  refine ⟨fun j other => ?_, ?_, shelves, ?_⟩
  · rw [State.applyMap, State.core_modCore, if_neg other]
    exact (fenced j).trans (if_neg other)
  · have maps : State.repairMap { t with test := t.test.passed sh p } (9 * sh + p) = s.repairMap (9 * sh + p) :=
      State.repairMap_congr (congrArg SelfTest.rows test) _
    rw [State.applyMap, State.core_modCore_same, maps]
    exact congrArg (fun k : Core => { k with repair := s.repairMap (9 * sh + p) }) ((fenced _).trans (if_pos rfl))
  · exact congrArg (SelfTest.passed · sh p) test

/-- A spare whose test finds nothing returns to retention with its repair map (R394, R403). -/
theorem State.testSpare_of_pass (s : State) (sh q : Nat) (retestOk : Bool) {l : List TestFinding} (pass : ∀ f ∈ l, f = .pass) :
    let t := s.testSpare sh q l retestOk
    (∀ j, j ≠ 9 * sh + q → t.core j = s.core j) ∧ t.shelves = s.shelves ∧
      t.core (9 * sh + q) = { use := .retention, repair := s.repairMap (9 * sh + q) } ∧
      t.test = { s.test.passed sh q with st := .idle, next := 9 * sh + 9 } := by
  obtain ⟨cores, core, shelves, test⟩ := s.testGrant.soundCore_spec sh q
  have tested : s.testSpare sh q l retestOk =
      let t := (s.testGrant.soundCore sh q).modCore (9 * sh + q) fun k => { k with use := .retention }
      { t with test := { t.test with st := .idle, next := 9 * sh + 9 } } := by
    rw [State.testSpare, State.judgeCore_of_pass _ sh q 0xF retestOk pass]
    rfl
  rw [tested]
  generalize s.testGrant.soundCore sh q = t at cores core shelves test
  have after j := t.core_modCore (9 * sh + q) j fun k => { k with use := .retention }
  refine ⟨fun j other => ((after j).trans (if_neg other)).trans (cores j other), shelves, ?_, ?_⟩
  · refine ((after _).trans (if_pos rfl)).trans ?_
    rw [core]
    rfl
  · exact congrArg (fun x : SelfTest => { x with st := .idle, next := 9 * sh + 9 }) test

/-! ### The test of a core behind a number -/

/-- Number `c` of a core under test is covered by the shelf's core `q` with its job state; beside the two cores, the shelf, the
test and the scan grant nothing has changed (R75, R395). -/
structure State.Covers (s t : State) (sh c q p dst : Nat) : Prop where
  phys : t.phys sh c = some (9 * sh + q)
  heir : t.core (9 * sh + q) = (s.core (9 * sh + q)).heir (s.core (9 * sh + p)) true
  cores : ∀ j, j ≠ 9 * sh + p → j ≠ 9 * sh + q → t.core j = s.core j
  shelves : ∀ j, j ≠ sh → t.shelf j = s.shelf j
  sram : ∀ a, a < dst ∨ dst + 32768 ≤ a → tabGet 0 (t.sram sh) a = tabGet 0 (s.sram sh) a
  kept : { t with cores := s.cores, shelves := s.shelves, woken := s.woken, free := s.free, sec := s.sec, test := s.test } = s

theorem State.covers_handover {s : State} {sh c q p : Nat} (dst : Nat) (real : q < 9) (phys : s.phys sh c = some (9 * sh + p))
    (loads : (s.core (9 * sh + p)).scale.loads = []) (seed : (s.core (9 * sh + p)).scale.seedHeld = none) :
    s.Covers (s.handover sh c q true dst).testGrant sh c q p dst ∧ (s.handover sh c q true dst).testGrant.test = s.test := by
  have handed := State.handsOver true dst real phys loads seed
  generalize s.handover sh c q true dst = t at handed ⊢
  refine ⟨?_, handed.test⟩
  exact {
    phys := (handed.moves.phys phys).trans (if_pos real)
    heir := (handed.cores _).trans (if_pos rfl)
    cores := fun j _ new => (handed.cores j).trans (if_neg new)
    shelves := handed.moves.others
    sram := fun a outside => tabGet_saved_outside handed.sram (outside.imp_right .inl)
    kept := congrArg (fun x : State => { x with free := s.free, sec := s.sec }) handed.moves.kept }

theorem State.Covers.modCore {s t : State} {sh c q p dst : Nat} (h : s.Covers t sh c q p dst) (other : p ≠ q) (f : Core → Core) :
    s.Covers (t.modCore (9 * sh + p) f) sh c q p dst := by
  have core j (hj : j ≠ 9 * sh + p) : (t.modCore (9 * sh + p) f).core j = t.core j := by rw [State.core_modCore, if_neg hj]
  exact {
    phys := h.phys
    heir := (core _ (by omega)).trans h.heir
    cores := fun j old new => (core j old).trans (h.cores j old new)
    shelves := h.shelves
    sram := h.sram
    kept := h.kept }

theorem State.Covers.with_test {s t : State} {sh c q p dst : Nat} (h : s.Covers t sh c q p dst) (x : SelfTest) :
    s.Covers { t with test := x } sh c q p dst :=
  ⟨h.phys, h.heir, h.cores, h.shelves, h.sram, h.kept⟩

theorem State.testCore_eq {s : State} {sh c p : Nat} (q : Nat) (l : List TestFinding) (retestOk : Bool) (dst : Nat) (real : p < 9)
    (phys : s.phys sh c = some (9 * sh + p)) : s.testCore sh c q l retestOk dst =
      let r := ((s.handover sh c q true dst).testGrant.modCore (9 * sh + p) fun _ => Core.fenced).judgeCore sh p q l retestOk
      { r.1 with test := { r.1.test with
        st := if r.2 then .returning else .idle, shelf := sh, logical := c, phys := p, next := 9 * sh + c + 1 } } := by
  have place : (9 * sh + p) % 9 = p := by omega
  rw [State.testCore, phys]
  simp only [place, State.fenceCore_eq]

/-- A core whose test finds nothing waits, with its repair map, to take its number back (R394, R403). -/
theorem State.testCore_of_pass {s : State} {sh c q p : Nat} (retestOk : Bool) (dst : Nat) {l : List TestFinding}
    (pass : ∀ f ∈ l, f = .pass) (real : p < 9) (phys : s.phys sh c = some (9 * sh + p)) (spare : s.spareOf sh = some q)
    (loads : (s.core (9 * sh + p)).scale.loads = []) (seed : (s.core (9 * sh + p)).scale.seedHeld = none) :
    let t := s.testCore sh c q l retestOk dst
    s.Covers t sh c q p dst ∧ t.core (9 * sh + p) = { use := .fenced, repair := s.repairMap (9 * sh + p) } ∧
      t.test = { s.test.passed sh p with st := .returning, shelf := sh, logical := c, phys := p, next := 9 * sh + c + 1 } := by
  have other : p ≠ q := fun same => State.spare_ne_of_phys phys spare (by rw [same])
  obtain ⟨covers, test⟩ := State.covers_handover dst (State.spareOf_spec spare).1 phys loads seed
  rw [State.testCore_eq q l retestOk dst real phys, State.judgeCore_of_pass _ sh p q retestOk pass]
  generalize (s.handover sh c q true dst).testGrant = u at covers test ⊢
  obtain ⟨-, core, -, passed⟩ := u.soundCore_spec sh p
  have sound : s.Covers (u.soundCore sh p) sh c q p dst := ((covers.modCore other _).with_test _).modCore other _
  refine ⟨sound.with_test _, core.trans ?_, ?_⟩
  · rw [State.repairMap_congr (congrArg SelfTest.rows test)]
  · rw [test] at passed
    exact congrArg
      (fun x : SelfTest => { x with st := .returning, shelf := sh, logical := c, phys := p, next := 9 * sh + c + 1 }) passed

/-- A core with a fault of its logic retires, and the spare keeps the number (R394, R399). -/
theorem State.testCore_of_logic {s : State} {sh c q p : Nat} (retestOk : Bool) (dst : Nat) {l : List TestFinding}
    (logic : .logic ∈ l) (real : p < 9) (phys : s.phys sh c = some (9 * sh + p)) (spare : s.spareOf sh = some q)
    (loads : (s.core (9 * sh + p)).scale.loads = []) (seed : (s.core (9 * sh + p)).scale.seedHeld = none) :
    let t := s.testCore sh c q l retestOk dst
    s.Covers t sh c q p dst ∧ t.core (9 * sh + p) = .retired ∧ t.test.st = .idle ∧ t.test.next = 9 * sh + c + 1 ∧
      t.test.repairs = (s.test.recorded (resultW0 1 sh p 0 2 0) (BitVec.ofNat 64 q)).repairs := by
  have other : p ≠ q := fun same => State.spare_ne_of_phys phys spare (by rw [same])
  obtain ⟨covers, test⟩ := State.covers_handover dst (State.spareOf_spec spare).1 phys loads seed
  rw [State.testCore_eq q l retestOk dst real phys]
  generalize (s.handover sh c q true dst).testGrant = u at covers test ⊢
  obtain ⟨v, r, noted, judged⟩ := (u.modCore (9 * sh + p) fun _ => Core.fenced).judgeCore_of_logic sh p q retestOk logic
  rw [judged]
  have fenced : s.Covers v sh c q p dst := noted ▸ (covers.modCore other _).with_test _
  have record : v.test.repairs = s.test.repairs := by
    rw [noted, ← test]
    rfl
  refine ⟨((fenced.with_test _).modCore other _).with_test _, v.core_retireIdle sh p q, rfl, rfl, ?_⟩
  exact congrArg (fun x => (x ++ [(⟨resultW0 1 sh p 0 2 0, BitVec.ofNat 64 q⟩ : Result)]).take 4096) record

/-! ### The number goes back (R403) -/

theorem exec_inServiceHandback_of_not_returning {s : State} (dst : Fin 12288001) (other : s.test.st ≠ .returning) :
    exec (.inServiceHandback dst) s = .next s := by
  show execInServiceHandback dst s = _
  unfold execInServiceHandback
  dsimp only
  split
  · rfl
  · exact if_pos (.inl other)

/-- The spare back in retention, with its repair map. -/
def Core.resting (k : Core) : Core := { use := .retention, repair := k.repair }

theorem exec_inServiceHandback_of_returning {s : State} (dst : Fin 12288001) {p : Nat} (returns : s.test.st = .returning)
    (phys : s.phys s.test.shelf s.test.logical = some p) (boundary : s.testBoundary s.test.shelf s.test.logical = true) :
    exec (.inServiceHandback dst) s =
      let t := (s.handover s.test.shelf s.test.logical s.test.phys true dst).modCore p Core.resting
      .next { t with test := { t.test with st := .idle } } := by
  show execInServiceHandback dst s = _
  rw [execInServiceHandback]
  simp only [phys, returns, boundary]
  rfl

/-- Settles O46: the test runs as `exec_inServiceTest_of_next` says, on the spare (`State.testSpare_of_pass`) or on the core
behind a number (`State.testCore_of_pass`, `State.testCore_of_logic`), which takes its number back by a handover
(`State.handsOver`). -/
theorem inServiceTests : Obligations.InServiceTests := by
  unfold Obligations.InServiceTests
  intro s found retest dst due run
  refine ⟨exec_inServiceTest_of_not_due found retest dst, exec_inServiceTest_of_none found retest dst, ?_, ?_⟩
  · intro i sh q isDue next shelf spare entry
    subst shelf
    have runs := exec_inServiceTest_of_next found retest dst isDue next spare
    refine ⟨fun turn pass _ => ?_, fun c p turn number phys real => ⟨fun before => ?_, fun boundary loads seed => ?_⟩⟩
    · obtain ⟨cores, shelves, core, test⟩ := s.testSpare_of_pass (i / 9) q retest pass
      rw [if_pos turn] at runs
      exact ⟨_, runs, cores, shelves, core, test⟩
    · subst turn
      rw [if_neg (by omega), before, if_neg Bool.false_ne_true, phys] at runs
      have place : (9 * (i / 9) + p) % 9 = p := by omega
      rw [Option.getD_some, place] at runs
      exact runs
    · subst turn
      intro k moved
      rw [if_neg (by omega), boundary, if_pos rfl] at runs
      refine ⟨fun pass _ => ?_, fun logic => ?_⟩
      · obtain ⟨covers, core, test⟩ := State.testCore_of_pass retest dst pass real phys spare loads seed
        exact ⟨_, runs, ⟨covers.phys, covers.heir, covers.cores, covers.shelves, covers.sram, covers.kept⟩, core, test⟩
      · obtain ⟨covers, core, idle, after, repairs⟩ := State.testCore_of_logic retest dst logic real phys spare loads seed
        exact ⟨_, runs, ⟨covers.phys, covers.heir, covers.cores, covers.shelves, covers.sram, covers.kept⟩, core, idle, after,
          repairs⟩
  · intro x sh c
    refine ⟨exec_inServiceHandback_of_not_returning dst, fun q returns phys _ real other boundary => ?_⟩
    intro k loads seed
    have handed := State.handsOver true dst real phys loads seed
    have back := exec_inServiceHandback_of_returning dst returns phys boundary
    generalize s.handover sh c x.phys true dst = t at handed back
    have after j := t.core_modCore (9 * sh + q) j Core.resting
    refine ⟨_, back, (handed.moves.phys phys).trans (if_pos real), ?_, ?_, ?_, fun j new old => ?_⟩
    · refine ((after _).trans (if_neg (by omega))).trans ((handed.cores _).trans (if_pos rfl))
    · refine ((after _).trans (if_pos rfl)).trans ?_
      rw [handed.cores, if_neg (by omega)]
      rfl
    · exact congrArg (fun y : SelfTest => { y with st := .idle }) handed.test
    · rw [← (handed.cores j).trans (if_neg new)]
      exact (after j).trans (if_neg old)

end Sys2Proof.Machine
end

section
/-!
PROOF. Writes of an engine to HBM in pieces of one page each (R313, R315, R319 to R321): where the checks pass for every
page and no uncorrectable granule is covered in part, the pieces together write what one write of the whole would.
-/

namespace Sys2Proof.Machine

/-! ### What reads and read-modify-writes correct (R319) -/

/-- The rows that a correction of granule `g` counts, with the time. -/
def State.hitsOf (s : State) (g : Nat) : List (Nat × Nat × Nat × Nat) :=
  (s.errorRows (s.stackOf (512 * g)).1 g).map fun r => (s.tsc, r)

/-- From `s` to `t` the corrections of the granules of `l` have been counted, in whatever order, and nothing else. -/
structure State.Corrects (s t : State) (l : List Nat) : Prop where
  corrected : ∀ h, tabGet 0 t.ecc.corrected h = tabGet 0 s.ecc.corrected h + l.countP fun g => (s.stackOf (512 * g)).1 = h
  hits : t.ecc.hits.Perm (s.ecc.hits ++ l.flatMap s.hitsOf)
  rest : t = { s with ecc := { s.ecc with corrected := t.ecc.corrected, hits := t.ecc.hits } }

theorem State.Corrects.refl (s : State) : s.Corrects s [] := ⟨fun _ => rfl, by simp, rfl⟩

theorem State.stackOf_congr {s t : State} (part : t.part = s.part) (mode : t.mode = s.mode) (a : Nat) :
    t.stackOf a = s.stackOf a := by
  have base : t.sysBase = s.sysBase := by rw [State.sysBase, part, State.sysBase]
  simp only [State.stackOf, State.stackIn, State.quarter, base, mode]

theorem State.hitsOf_congr {s t : State} (part : t.part = s.part) (mode : t.mode = s.mode) (tsc : t.tsc = s.tsc) {g : Nat}
    (errors : tabGet ([], 0) t.ecc.errors g = tabGet ([], 0) s.ecc.errors g) : t.hitsOf g = s.hitsOf g := by
  simp only [State.hitsOf, State.errorRows, errors, tsc, State.stackOf_congr part mode]

theorem State.corrects_countCorrected (s : State) (g : Nat) : s.Corrects (s.countCorrected g) [g] := by
  refine ⟨fun h => ?_, by simp [State.countCorrected, State.hitsOf], rfl⟩
  refine (tabGet_mod 0 s.ecc.corrected _ h (· + 1)).trans ?_
  by_cases e : h = (s.stackOf (512 * g)).1
  · rw [if_pos e, e]
    simp
  · rw [if_neg e]
    simp [Ne.symm e]

/-- Corrections of two lists of granules, the second in a state with the same errors. -/
theorem State.Corrects.trans {s t u : State} {l m : List Nat} (h : s.Corrects t l) (g : t.Corrects u m) :
    s.Corrects u (l ++ m) := by
  obtain ⟨hc, hh, hr⟩ := h
  obtain ⟨gc, gh, gr⟩ := g
  have part : t.part = s.part := by rw [hr]
  have mode : t.mode = s.mode := by rw [hr]
  have tsc : t.tsc = s.tsc := by rw [hr]
  have errors : t.ecc.errors = s.ecc.errors := by rw [hr]
  refine ⟨fun x => ?_, ?_, by rw [gr, hr]⟩
  · rw [gc, hc, List.countP_append, Nat.add_assoc]
    simp only [State.stackOf_congr part mode]
  · have rows : m.flatMap t.hitsOf = m.flatMap s.hitsOf :=
      congrArg (m.flatMap ·) (funext fun x => State.hitsOf_congr part mode tsc (by rw [errors]))
    rw [List.flatMap_append, ← List.append_assoc, ← rows]
    exact gh.trans (hh.append_right _)

theorem State.corrects_foldl (s : State) (l : List Nat) : s.Corrects (l.foldl State.countCorrected s) l := by
  induction l generalizing s with
  | nil => exact .refl s
  | cons g l ih => exact (s.corrects_countCorrected g).trans (ih _)

/-- Granule `g` holds an error that a write of [a, a + n) corrects before it writes: it is met, and not whole. -/
def State.edge (s : State) (a n g : Nat) : Bool :=
  decide (n ≠ 0 ∧ 512 * g < a + n ∧ a < 512 * g + 512 ∧ ¬ (a ≤ 512 * g ∧ 512 * g + 512 ≤ a + n)) && !s.ecc.bad.contains g

/-- The granules that a write of [a, a + n) corrects in part. -/
def State.edges (s : State) (a n : Nat) : List Nat := (s.ecc.errors.map (·.1)).filter (s.edge a n)

theorem State.noteEdges_eq (s : State) (a n : Nat) : s.noteEdges a n = (s.edges a n).foldl State.countCorrected s := by
  unfold State.noteEdges State.edges State.edge State.softGranules
  by_cases none : n = 0
  · simp [none]
  · rw [if_neg none, List.filter_filter]
    congr 2
    funext g
    rw [Bool.eq_iff_iff]
    simp only [Bool.and_eq_true, Bool.not_eq_true', Bool.and_eq_false_iff, decide_eq_true_eq, decide_eq_false_iff_not]
    tauto

theorem State.corrects_noteEdges (s : State) (a n : Nat) : s.Corrects (s.noteEdges a n) (s.edges a n) := by
  rw [State.noteEdges_eq]
  exact s.corrects_foldl _

/-! ### Two writes, the second of which begins where the first ends, at a granule -/

theorem tabSetList_append {α : Type} [DecidableEq α] (d : α) (t : Tab α) (k : Nat) (l m : List α) :
    tabSetList d t k (l ++ m) = tabSetList d (tabSetList d t k l) (k + l.length) m := by
  induction l generalizing t k with
  | nil => rfl
  | cons v l ih =>
    refine (ih _ _).trans ?_
    rw [List.length_cons, Nat.add_right_comm, Nat.add_assoc]
    rfl

theorem memWrite_append (m : Mem) (a : Nat) (bs cs : List Byte) :
    memWrite m a (bs ++ cs) = memWrite (memWrite m a bs) (a + bs.length) cs := tabSetList_append 0 m a bs cs

theorem Ecc.written_written (e : Ecc) {a n k : Nat} (aligned : (a + n) % 512 = 0) :
    (e.written a n).written (a + n) k = e.written a (n + k) := by
  have whole (g : Nat) : (a ≤ 512 * g ∧ 512 * g + 512 ≤ a + (n + k)) ↔
      (a ≤ 512 * g ∧ 512 * g + 512 ≤ a + n) ∨ (a + n ≤ 512 * g ∧ 512 * g + 512 ≤ a + n + k) := by omega
  have met (g : Nat) : (512 * g < a + (n + k) ∧ a < 512 * g + 512) ↔
      (512 * g < a + n ∧ a < 512 * g + 512) ∨ (512 * g < a + n + k ∧ a + n < 512 * g + 512) := by omega
  have bad : ((e.written a n).written (a + n) k).bad = (e.written a (n + k)).bad := by
    simp only [Ecc.written, List.filter_filter]
    congr 1
    funext g
    rw [Bool.eq_iff_iff]
    simp only [Bool.and_eq_true, Bool.not_eq_true', Bool.and_eq_false_iff, decide_eq_false_iff_not]
    have := whole g
    tauto
  have errors : ((e.written a n).written (a + n) k).errors = (e.written a (n + k)).errors := by
    simp only [Ecc.written, List.filter_filter]
    congr 1
    funext x
    rw [Bool.eq_iff_iff]
    have := whole x.1
    have := met x.1
    by_cases inBad : x.1 ∈ e.bad <;>
      simp [inBad] <;> omega
  exact congrArg₂ (fun b x => ({ e with bad := b, errors := x } : Ecc)) bad errors

/-- From `s` to `t` these bytes have been written at HBM offset `o`, as one write with no obstacle would. -/
structure State.Stores (s t : State) (o : Nat) (bs : List Byte) : Prop where
  corrected : ∀ h, tabGet 0 t.ecc.corrected h =
    tabGet 0 s.ecc.corrected h + (s.edges o bs.length).countP fun g => (s.stackOf (512 * g)).1 = h
  hits : t.ecc.hits.Perm (s.ecc.hits ++ (s.edges o bs.length).flatMap s.hitsOf)
  rest : t = { s with
    hbm := memWrite s.hbm o bs
    ecc := { s.ecc.written o bs.length with corrected := t.ecc.corrected, hits := t.ecc.hits } }

theorem State.stores_hbmStore {s : State} {o : Nat} {bs : List Byte} (whole : s.hbmBarrier o bs.length = none) :
    s.Stores (s.hbmStore o bs).1 o bs ∧ (s.hbmStore o bs).2 = St.ok := by
  obtain ⟨corrected, hits, rest⟩ := s.corrects_noteEdges o bs.length
  simp only [State.hbmStore, whole]
  exact ⟨⟨corrected, hits, by simp only [State.hbmWrite]; rw [rest]; rfl⟩, trivial⟩

theorem Ecc.mem_bad_written (e : Ecc) {a n g : Nat} :
    g ∈ (e.written a n).bad ↔ g ∈ e.bad ∧ ¬ (a ≤ 512 * g ∧ 512 * g + 512 ≤ a + n) := by
  rw [Ecc.written, List.mem_filter, Bool.not_eq_true', Bool.and_eq_false_iff, decide_eq_false_iff_not,
    decide_eq_false_iff_not, not_and_or]

theorem Ecc.mem_errors_written (e : Ecc) {a n : Nat} {x : Nat × List Nat × Nat} :
    x ∈ (e.written a n).errors ↔ x ∈ e.errors ∧ ¬ (a ≤ 512 * x.1 ∧ 512 * x.1 + 512 ≤ a + n) ∧
      ¬ (512 * x.1 < a + n ∧ a < 512 * x.1 + 512 ∧ x.1 ∉ e.bad) := by
  rw [Ecc.written, List.mem_filter]
  refine and_congr_right fun _ => ?_
  by_cases uncorrectable : x.1 ∈ e.bad <;> simp [uncorrectable] <;> omega

theorem State.Stores.hbmWrites {s t : State} {o : Nat} {bs : List Byte} (h : s.Stores t o bs) : s.HbmWrites t o bs := by
  obtain ⟨corrected, hits, rest⟩ := h
  obtain ⟨edgeCorrected, edgeHits, -⟩ := s.corrects_noteEdges o bs.length
  have bad : t.ecc.bad = (s.ecc.written o bs.length).bad := by rw [rest]
  have errors : t.ecc.errors = (s.ecc.written o bs.length).errors := by rw [rest]
  refine ⟨fun a => ?_, fun g => ?_, fun x => ?_, fun x => (corrected x).trans (edgeCorrected x).symm, hits.trans edgeHits.symm, ?_⟩
  · rw [rest]
    exact memByte_write _ _ _ _
  · rw [bad, Ecc.mem_bad_written]
  · rw [errors, Ecc.mem_errors_written]
  · rw [rest]
    rfl

theorem filter_or_perm {α : Type} (p q : α → Bool) (l : List α) (apart : ∀ x, p x = true → q x = false) :
    (l.filter fun x => p x || q x).Perm (l.filter p ++ l.filter q) := by
  have left : (l.filter fun x => p x || q x).filter p = l.filter p := by
    rw [List.filter_filter]
    exact List.filter_congr fun x _ => by cases p x <;> simp
  have right : ((l.filter fun x => p x || q x).filter fun x => !p x) = l.filter q := by
    rw [List.filter_filter]
    refine List.filter_congr fun x _ => ?_
    cases h : p x
    · simp
    · simp [apart x h]
  rw [← left, ← right]
  exact (List.filter_append_perm _ _).symm

/-- A write that ends at a granule leaves the errors of the granules behind it. -/
theorem tabGet_errors_written (e : Ecc) {a n g : Nat} (behind : a + n ≤ 512 * g) :
    tabGet ([], 0) (e.written a n).errors g = tabGet ([], 0) e.errors g := by
  refine (tabGet_clearIf ([], 0) e.errors (fun g => (decide (a ≤ 512 * g) && decide (512 * g + 512 ≤ a + n)) ||
    (decide (512 * g < a + n) && decide (a < 512 * g + 512)) && !e.bad.contains g) g).trans (if_neg ?_)
  have notWhole : ¬ 512 * g + 512 ≤ a + n := by omega
  have notMet : ¬ 512 * g < a + n := by omega
  simp [notWhole, notMet]

theorem State.behind_of_mem_edges {s : State} {a k g : Nat} (aligned : a % 512 = 0) (edge : g ∈ s.edges a k) :
    a ≤ 512 * g := by
  obtain ⟨-, edge⟩ := List.mem_filter.1 edge
  simp only [State.edge, Bool.and_eq_true, decide_eq_true_eq] at edge
  omega

/-- What two such writes correct in part is what one of the whole would. -/
theorem State.edges_append {s t : State} {a n k : Nat} (aligned : (a + n) % 512 = 0) (bad : t.ecc.bad = (s.ecc.written a n).bad)
    (errors : t.ecc.errors = (s.ecc.written a n).errors) :
    (s.edges a (n + k)).Perm (s.edges a n ++ t.edges (a + n) k) := by
  have apart : ∀ g, s.edge a n g = true → s.edge (a + n) k g = false := by
    intro g first
    simp only [State.edge, Bool.and_eq_true, decide_eq_true_eq] at first
    simp only [State.edge, Bool.and_eq_false_iff, decide_eq_false_iff_not]
    exact .inl (by omega)
  have both : s.edge a (n + k) = fun g => s.edge a n g || s.edge (a + n) k g := by
    funext g
    simp only [State.edge, ← Bool.and_or_distrib_right, ← Bool.decide_or]
    congr 1
    exact decide_eq_decide.2 (by omega)
  have second : t.edges (a + n) k = s.edges (a + n) k := by
    rw [State.edges, State.edges, errors, Ecc.written, List.filter_map, List.filter_map, List.filter_filter]
    congr 1
    refine List.filter_congr fun x _ => ?_
    by_cases uncorrectable : x.1 ∈ s.ecc.bad
    · simp [State.edge, bad, Ecc.written, uncorrectable]
    · simp [State.edge, bad, Ecc.written, uncorrectable]
      omega
  rw [second]
  refine .trans (.of_eq ?_) (filter_or_perm _ _ (s.ecc.errors.map (·.1)) apart)
  rw [← both]
  rfl

theorem State.Stores.append {s t u : State} {o : Nat} {bs cs : List Byte} (h : s.Stores t o bs)
    (g : t.Stores u (o + bs.length) cs) (aligned : (o + bs.length) % 512 = 0) : s.Stores u o (bs ++ cs) := by
  obtain ⟨hc, hh, hr⟩ := h
  obtain ⟨gc, gh, gr⟩ := g
  have part : t.part = s.part := by rw [hr]
  have mode : t.mode = s.mode := by rw [hr]
  have tsc : t.tsc = s.tsc := by rw [hr]
  have bad : t.ecc.bad = (s.ecc.written o bs.length).bad := by rw [hr]
  have errors : t.ecc.errors = (s.ecc.written o bs.length).errors := by rw [hr]
  have edges : (s.edges o (bs ++ cs).length).Perm (s.edges o bs.length ++ t.edges (o + bs.length) cs.length) := by
    rw [List.length_append]
    exact State.edges_append aligned bad errors
  refine ⟨fun x => ?_, ?_, ?_⟩
  · rw [gc, hc, edges.countP_eq, List.countP_append, Nat.add_assoc]
    simp only [State.stackOf_congr part mode]
  · refine gh.trans ((hh.append_right _).trans ?_)
    rw [List.append_assoc]
    refine .append_left _ (.trans (.of_eq ?_) (edges.flatMap_right _).symm)
    rw [List.flatMap_append]
    congr 1
    refine List.flatMap_congr fun x mem => State.hitsOf_congr part mode tsc ?_
    rw [errors]
    exact tabGet_errors_written _ (State.behind_of_mem_edges aligned mem)
  · rw [gr, hr, List.length_append, ← Ecc.written_written _ aligned, memWrite_append]
    rfl

/-! ### The pieces of a write, one for each page -/

/-- No uncorrectable granule is covered in part (R321). -/
theorem State.hbmBarrier_eq_none {s : State} {a n : Nat} : s.hbmBarrier a n = none ↔
    ∀ g ∈ s.ecc.bad, 512 * g < a + n → a < 512 * g + 512 → a ≤ 512 * g ∧ 512 * g + 512 ≤ a + n := by
  have empty : s.hbmBarrier a n = none ↔ (s.ecc.bad.filter fun g => decide (512 * g < a + n) && decide (a < 512 * g + 512) &&
      !(decide (a ≤ 512 * g) && decide (512 * g + 512 ≤ a + n))) = [] := by
    unfold State.hbmBarrier
    dsimp only
    split <;> simp_all
  rw [empty, List.filter_eq_nil_iff]
  refine forall₂_congr fun g _ => ?_
  simp

/-- Pieces that follow one another from `o` on, each that another follows up to the end of a granule. -/
def Contiguous (o : Nat) : List (Nat × List Byte) → Prop
  | [] => True
  | e :: l => e.1 = o ∧ (l ≠ [] → (o + e.2.length) % 512 = 0) ∧ Contiguous (o + e.2.length) l

theorem State.Stores.regionCheck {s t : State} {o : Nat} {bs : List Byte} (h : s.Stores t o bs) (i : Init) (a n : Nat)
    (write : Bool) : t.regionCheck i a n write = s.regionCheck i a n write := by
  rw [h.rest]
  rfl

/-- A write makes no granule uncorrectable. -/
theorem State.Stores.hbmBarrier {s t : State} {o : Nat} {bs : List Byte} (h : s.Stores t o bs) {a n : Nat}
    (whole : s.hbmBarrier a n = none) : t.hbmBarrier a n = none := by
  rw [State.hbmBarrier_eq_none] at whole ⊢
  intro g bad
  rw [h.rest] at bad
  exact whole g ((Ecc.mem_bad_written _).1 bad).1

theorem State.stores_hbmPutAll (i : Init) {l : List (Nat × List Byte)} : ∀ {s : State} {o : Nat}, Contiguous o l → l ≠ [] →
    (∀ e ∈ l, s.regionCheck i e.1 e.2.length true = none) → (∀ e ∈ l, s.hbmBarrier e.1 e.2.length = none) →
    s.Stores (s.hbmPutAll i l).1 o (l.flatMap (·.2)) ∧ (s.hbmPutAll i l).2 = St.ok := by
  induction l with
  | nil => exact fun _ none => absurd rfl none
  | cons e l ih =>
    rintro s o ⟨rfl, aligned, next⟩ - allowed whole
    have first : s.hbmPut i e.1 e.2 = s.hbmStore e.1 e.2 := by
      rw [State.hbmPut, allowed e List.mem_cons_self]
    obtain ⟨stores, ok⟩ := State.stores_hbmStore (whole e List.mem_cons_self)
    have step : s.hbmPutAll i (e :: l) = (s.hbmStore e.1 e.2).1.hbmPutAll i l := by
      have zero : (s.hbmStore e.1 e.2).2 = 0 := ok
      simp [State.hbmPutAll, first, zero]
    rw [step, List.flatMap_cons]
    by_cases last : l = []
    · subst last
      simpa [State.hbmPutAll] using stores
    · obtain ⟨rest, done⟩ := ih next last
        (fun f mem => (stores.regionCheck ..).trans (allowed f (List.mem_cons_of_mem _ mem)))
        (fun f mem => stores.hbmBarrier (whole f (List.mem_cons_of_mem _ mem)))
      exact ⟨stores.append rest (aligned last), done⟩

/-! ### Chunks -/

theorem flatten_chunks {α : Type} {n : Nat} (pos : 0 < n) {fuel : Nat} : ∀ {l : List α}, l.length < fuel →
    (chunks n fuel l).flatten = l := by
  induction fuel with
  | zero => exact fun h => absurd h (Nat.not_lt_zero _)
  | succ fuel ih =>
    intro l enough
    cases l with
    | nil => rfl
    | cons x l =>
      rw [chunks, if_neg (by simp), List.flatten_cons, ih (by simp at enough ⊢; omega), List.take_append_drop]

theorem getElem?_chunks {α : Type} {n fuel : Nat} : ∀ {l : List α} {k : Nat} {c : List α},
    (chunks n fuel l)[k]? = some c → n * k < l.length ∧ c = (l.drop (n * k)).take n := by
  induction fuel with
  | zero => exact fun h => by simp [chunks] at h
  | succ fuel ih =>
    intro l k c at_
    cases l with
    | nil => simp [chunks] at at_
    | cons x l =>
      rw [chunks, if_neg (by simp)] at at_
      cases k with
      | zero => simpa using at_.symm
      | succ k =>
        obtain ⟨low, piece⟩ := ih (by simpa using at_)
        rw [List.length_drop] at low
        refine ⟨by rw [Nat.mul_succ]; omega, ?_⟩
        rw [piece, List.drop_drop, Nat.mul_succ, Nat.add_comm]

/-- Pages behind the first piece follow one another. -/
theorem contiguous_chunks {o n : Nat} (page : n % 512 = 0) (aligned : o % 512 = 0) {fuel : Nat} :
    ∀ {l : List Byte} {k : Nat}, Contiguous (o + n * k) (((chunks n fuel l).zipIdx k).map fun e => (o + n * e.2, e.1)) := by
  induction fuel with
  | zero => exact fun {l k} => trivial
  | succ fuel ih =>
    intro l k
    cases l with
    | nil => exact trivial
    | cons x l =>
      rw [chunks, if_neg (by simp), List.zipIdx_cons, List.map_cons]
      by_cases full : n ≤ (x :: l).length
      · have len : ((x :: l).take n).length = n := by rw [List.length_take]; omega
        have next : o + n * k + n = o + n * (k + 1) := by rw [Nat.mul_succ]; omega
        refine ⟨rfl, fun _ => ?_, ?_⟩
        · rw [len, next, Nat.add_mod, Nat.mul_mod, page, aligned]
          simp
        · rw [len, next]
          exact ih
      · have none : (x :: l).drop n = [] := List.drop_eq_nil_of_le (by omega)
        rw [none]
        have empty : chunks n fuel ([] : List Byte) = [] := by cases fuel <;> rfl
        rw [empty]
        exact ⟨rfl, fun h => absurd rfl h, trivial⟩

/-- Bytes from `o` to the end of its page. -/
def pageRest (o : Nat) : Nat := 0x200000 - o % 0x200000

theorem add_pageRest_mod (o : Nat) : (o + pageRest o) % 512 = 0 := by
  unfold pageRest
  omega

theorem pagePieces_eq (o : Nat) (bs : List Byte) : pagePieces o bs = (o, bs.take (pageRest o)) ::
    (chunks 0x200000 (bs.length + 1) (bs.drop (pageRest o))).zipIdx.map fun e => (o + pageRest o + 0x200000 * e.2, e.1) := rfl

theorem contiguous_pagePieces (o : Nat) (bs : List Byte) : Contiguous o (pagePieces o bs) := by
  rw [pagePieces_eq]
  have rest := contiguous_chunks (n := 0x200000) rfl (add_pageRest_mod o) (fuel := bs.length + 1)
    (l := bs.drop (pageRest o)) (k := 0)
  by_cases long : pageRest o ≤ bs.length
  · have len : (bs.take (pageRest o)).length = pageRest o := by rw [List.length_take]; omega
    refine ⟨rfl, fun _ => ?_, ?_⟩
    · rw [len, add_pageRest_mod]
    · rw [len]
      exact rest
  · have none : bs.drop (pageRest o) = [] := List.drop_eq_nil_of_le (by omega)
    rw [none]
    exact ⟨rfl, fun h => absurd rfl h, trivial⟩

theorem flatMap_pagePieces (o : Nat) (bs : List Byte) : (pagePieces o bs).flatMap (·.2) = bs := by
  have enough : (bs.drop (pageRest o)).length < bs.length + 1 := by rw [List.length_drop]; omega
  rw [pagePieces_eq, List.flatMap_cons, List.flatMap_def, List.map_map]
  have behind := congrArg List.flatten (List.zipIdx_map_fst 0 (chunks 0x200000 (bs.length + 1) (bs.drop (pageRest o))))
  exact (congrArg (bs.take (pageRest o) ++ ·) (behind.trans (flatten_chunks (by decide) enough))).trans
    (List.take_append_drop _ _)

/-- Each piece is a page's range of the whole. -/
theorem mem_pagePieces {o : Nat} {bs : List Byte} {e : Nat × List Byte} (piece : e ∈ pagePieces o bs) :
    (e.1, e.2.length) ∈ pageRanges o bs.length ∧ (e.1 = o ∨ e.1 % 512 = 0) ∧ o ≤ e.1 ∧
      (e.1 + e.2.length = o + bs.length ∨ (e.1 + e.2.length) % 512 = 0) ∧ e.1 + e.2.length ≤ o + bs.length := by
  have ranges : pageRanges o bs.length = (o, min bs.length (pageRest o)) ::
    (List.range ((bs.length - pageRest o + 0x1FFFFF) / 0x200000)).map fun k =>
      (o + pageRest o + 0x200000 * k, min 0x200000 (bs.length - pageRest o - 0x200000 * k)) := rfl
  have aligned := add_pageRest_mod o
  rw [pagePieces_eq, List.mem_cons, List.mem_map] at piece
  rw [ranges, List.mem_cons, List.mem_map]
  rcases piece with rfl | ⟨⟨c, k⟩, at_, rfl⟩
  · have len : (bs.take (pageRest o)).length = min bs.length (pageRest o) := by rw [List.length_take, Nat.min_comm]
    refine ⟨.inl (by rw [len]), .inl rfl, Nat.le_refl _, ?_⟩
    dsimp only
    omega
  · obtain ⟨low, piece⟩ := getElem?_chunks (List.mem_zipIdx_iff_getElem?.1 at_)
    dsimp only at low piece
    subst piece
    have len : (((bs.drop (pageRest o)).drop (0x200000 * k)).take 0x200000).length =
        min 0x200000 (bs.length - pageRest o - 0x200000 * k) := by simp [Nat.sub_sub]
    rw [List.length_drop] at low
    dsimp only
    rw [len]
    refine ⟨.inr ⟨k, List.mem_range.2 (by omega), rfl⟩, .inr (by omega), by omega, ?_⟩
    omega

/-- A write whose pages all pass R315 and that covers no uncorrectable granule in part writes everything. -/
theorem State.stores_hbmPutLong {s : State} {i : Init} {o : Nat} {bs : List Byte}
    (allowed : ∀ r ∈ pageRanges o bs.length, s.regionCheck i r.1 r.2 true = none) (whole : s.hbmBarrier o bs.length = none) :
    s.Stores (s.hbmPutLong i o bs).1 o bs ∧ (s.hbmPutLong i o bs).2 = St.ok := by
  have pieces := State.stores_hbmPutAll i (s := s) (contiguous_pagePieces o bs) (List.cons_ne_nil _ _)
    (fun e mem => allowed _ (mem_pagePieces mem).1) (fun e mem => ?_)
  · rwa [flatMap_pagePieces] at pieces
  · rw [State.hbmBarrier_eq_none] at whole ⊢
    intro g bad below above
    obtain ⟨-, start, low, stop, high⟩ := mem_pagePieces mem
    have := whole g bad (by omega) (by omega)
    omega

end Sys2Proof.Machine
end

section
/-!
PROOF. Snapshots of the statistics (R98, R102, R103): what the command refuses, what it copies and clears, and the record
that its completion writes.
-/

namespace Sys2Proof.Machine

/-- A refused command leaves its snapshot FAILED. -/
def State.snapFailed (s : State) (p : Nat) : State := s.setSnap p fun q => { q with st := .failed }

/-- Only the snapshot of partition `p` differs, as `f` says. -/
theorem State.snapshot_setSnap (s : State) (p r : Nat) (f : Snapshot → Snapshot) :
    (s.setSnap p f).snapshot r = if r = p then f (s.snapshot p) else s.snapshot r := tabGet_mod _ _ _ _ _

/-- The tables after CLR where it is set. -/
def State.snapKept (s : State) (p cmd : Nat) : State := if bit cmd 27 then s.snapClear p cmd else s

/-- The snapshot that a command `v` of session `c` takes. -/
def State.taken (s : State) (c v : Nat) (a : BitVec 64) : Snapshot :=
  ⟨.busy, BitVec.ofNat 32 v, a, s.tsc, (s.ctx c).secure, s.snapBody (s.odPart c) v⟩

def State.snapAddr (s : State) (c : Nat) : BitVec 64 := BitVec.ofNat 64 (s.odVal (snapAddrKey (s.odPart c)) 0)

theorem bits_first (v : Nat) : bits v 11 0 = v % 4096 := by simp [bits]

theorem bits_last (v : Nat) : bits v 23 12 = v / 4096 % 4096 := rfl

section
variable {s : State} {c v : Nat}

theorem State.odSnapshot_busy (busy : (s.snapshot (s.odPart c)).st = .busy) : s.odSnapshot c v = (s, St.odBusy) := by
  simp [State.odSnapshot, busy]

theorem State.odSnapshot_empty (idle : (s.snapshot (s.odPart c)).st ≠ .busy) (empty : v / 4096 % 4096 < v % 4096) :
    s.odSnapshot c v = (s.snapFailed (s.odPart c), St.odValueInvalid) := by
  simp [State.odSnapshot, idle, bits_first, bits_last, empty, State.snapFailed]

/-- The bytes of the record that command `v` of session `c` asks for. -/
def State.snapLen (s : State) (c v : Nat) : Nat := 64 + (s.snapBody (s.odPart c) v).length

variable (idle : (s.snapshot (s.odPart c)).st ≠ .busy) (range : v % 4096 ≤ v / 4096 % 4096)
include idle range

theorem State.odSnapshot_remote (outside : s.localHbm (s.snapAddr c) (s.snapLen c v) = none) :
    s.odSnapshot c v = (s.snapFailed (s.odPart c), St.addressInvalid) := by
  unfold State.snapAddr State.snapLen at outside
  simp only [State.odSnapshot, if_neg idle, bits_first, bits_last, if_neg (Nat.not_lt.2 range), outside]
  rfl

variable {o : Nat} (here : s.localHbm (s.snapAddr c) (s.snapLen c v) = some o)
include here

theorem State.odSnapshot_not_owned (outside : s.sysBase < o + s.snapLen c v ∨ s.offsetPart o ≠ some (s.odPart c)) :
    s.odSnapshot c v = (s.snapFailed (s.odPart c), St.addressInvalid) := by
  unfold State.snapAddr State.snapLen at *
  simp only [State.odSnapshot, if_neg idle, bits_first, bits_last, if_neg (Nat.not_lt.2 range), here, if_pos outside]
  rfl

variable (below : o + s.snapLen c v ≤ s.sysBase) (owned : s.offsetPart o = some (s.odPart c))
include below owned

theorem State.odSnapshot_denied {st : Status}
    (denied : s.regionCheck (Init.firmware (s.odPart c)) o (s.snapLen c v) true = some st) :
    s.odSnapshot c v = (s.snapFailed (s.odPart c), if st = St.accessDenied then St.addressInvalid else st) := by
  unfold State.snapAddr State.snapLen at *
  have inside : ¬ (s.sysBase < o + (64 + (s.snapBody (s.odPart c) v).length) ∨ s.offsetPart o ≠ some (s.odPart c)) :=
    not_or.2 ⟨Nat.not_lt.2 below, not_not.2 owned⟩
  simp only [State.odSnapshot, if_neg idle, bits_first, bits_last, if_neg (Nat.not_lt.2 range), here, if_neg inside, denied]
  rfl

theorem State.odSnapshot_taken (allowed : s.regionCheck (Init.firmware (s.odPart c)) o (s.snapLen c v) true = none) :
    s.odSnapshot c v = ((s.snapKept (s.odPart c) v).setSnap (s.odPart c) fun _ => s.taken c v (s.snapAddr c), St.ok) := by
  unfold State.snapAddr State.snapLen at *
  have inside : ¬ (s.sysBase < o + (64 + (s.snapBody (s.odPart c) v).length) ∨ s.offsetPart o ≠ some (s.odPart c)) :=
    not_or.2 ⟨Nat.not_lt.2 below, not_not.2 owned⟩
  simp only [State.odSnapshot, if_neg idle, bits_first, bits_last, if_neg (Nat.not_lt.2 range), here, if_neg inside, allowed]
  unfold State.snapKept
  split <;> rfl

end

/-! ### What CLR zeroes (R102) -/

/-- A table of the statistics after command `v` of partition `p`, which selects it where `sel` holds. -/
def snapTable {α : Type} (t : Tab α) (v : Nat) (sel : Bool) (per p : Nat) : Tab α :=
  if bit v 27 = true then
    if sel = true then tabClear t (per * (4096 * p + v % 4096)) (per * (v / 4096 % 4096 + 1 - v % 4096)) else t
  else t

/-- Entry `f` of a tag, of `per`: CLR zeroes those of the selected table whose partition and tag the command names. -/
theorem tabGet_snapTable {α : Type} (d : α) (t : Tab α) {v : Nat} (sel : Bool) {per p r tag f : Nat}
    (range : v % 4096 ≤ v / 4096 % 4096) (tag_lt : tag < 4096) (f_lt : f < per) :
    tabGet d (snapTable t v sel per p) (per * (4096 * r + tag) + f) =
      if r = p ∧ (bit v 27 && sel && decide (v % 4096 ≤ tag ∧ tag ≤ v / 4096 % 4096 ∧ f < per)) = true then d
      else tabGet d t (per * (4096 * r + tag) + f) := by
  have scaled (x y : Nat) : per * x + f < per * y ↔ x < y := by
    refine ⟨fun h => ?_, fun h => ?_⟩
    · refine Nat.lt_of_not_le fun le => ?_
      have := Nat.mul_le_mul_left per le
      omega
    · have := Nat.mul_le_mul_left per (Nat.succ_le_of_lt h)
      rw [Nat.mul_succ] at this
      omega
  have inside : (per * (4096 * p + v % 4096) ≤ per * (4096 * r + tag) + f ∧ per * (4096 * r + tag) + f <
      per * (4096 * p + v % 4096) + per * (v / 4096 % 4096 + 1 - v % 4096)) ↔
      r = p ∧ v % 4096 ≤ tag ∧ tag ≤ v / 4096 % 4096 := by
    rw [← Nat.not_lt, scaled, ← Nat.mul_add, scaled]
    omega
  unfold snapTable
  cases bit v 27 with
  | false => simp
  | true =>
    cases sel with
    | false => simp
    | true =>
      rw [if_pos rfl, if_pos rfl, tabGet_clear]
      simp only [inside, Bool.true_and, decide_eq_true_eq, f_lt, and_true]

theorem State.snapKept_eq (s : State) (p v : Nat) : s.snapKept p v =
    let t := s.stats
    { s with stats := { t with
        drainMon := snapTable t.drainMon v (bit v 24) 1 p
        emitMon := snapTable t.emitMon v (bit v 25) 1 p
        skim := snapTable t.skim v (bit v 26) 16 p } } := by
  unfold State.snapKept State.snapClear snapTable
  simp only [bits_first, bits_last, Nat.one_mul]
  split <;> rfl

/-- An accepted snapshot command is answered with what `State.odSnapshot` says. -/
theorem exec_snapshotCommand {s u : State} {q : OdReq} {st : Status} (accepted : s.OdAccepts q 0x802001)
    (effect : s.odSnapshot q.ctx (leNat q.value) = (u, st)) :
    exec (.snapshotCommand q) s = .next (u.odAnswer q.ctx q.msn st []) := by
  obtain ⟨-, e⟩ := State.odCommand_of_accepts (mine := (· == 0x802001)) (fun s _ v => s.odSnapshot q.ctx v) accepted rfl
  rw [effect] at e
  exact congrArg Host.Outcome.next e

/-! ### The record (R103) -/

/-- Header and body of the record of snapshot `q`, written now. -/
def State.snapRecord (s : State) (q : Snapshot) : List Byte :=
  natLE (coarseTime q.secure q.started) 8 ++ natLE (coarseTime q.secure s.tsc) 8 ++ natLE q.cmd.toNat 8 ++ natLE 0 40 ++ q.body

theorem exec_snapshotDone {s : State} {p : Fin 4} {o : Nat} (busy : (s.snapshot p).st = .busy)
    (may : s.MayWrite (Init.firmware p) (s.snapshot p).addr (s.snapRecord (s.snapshot p)).length o) :
    ∃ t : State, s.Stores t o (s.snapRecord (s.snapshot p)) ∧
      exec (.snapshotDone p) s = .next (t.setSnap p fun q => { q with st := .done, body := [] }) := by
  obtain ⟨here, allowed, whole⟩ := may
  obtain ⟨stores, ok⟩ := State.stores_hbmPutLong allowed whole
  have written : s.engineWrite (Init.firmware p) (s.snapshot p).addr (s.snapRecord (s.snapshot p)) =
      s.hbmPutLong (Init.firmware p) o (s.snapRecord (s.snapshot p)) := by rw [State.engineWrite, here]
  refine ⟨_, stores, ?_⟩
  show execSnapshotDone p s = _
  unfold State.snapRecord at written ok ⊢
  have zero : (0 : Status) = St.ok := rfl
  simp only [execSnapshotDone, busy, ne_eq, not_true, if_false, written, ok, zero, if_true]

/-- Settles O26: the cases of the command are those of `State.odSnapshot_busy` and its fellows, and the record is written
as one store (`State.stores_hbmPutLong`). -/
theorem snapshots : Obligations.Snapshots := by
  unfold Obligations.Snapshots
  refine ⟨fun s q accepted => ?_, fun s p o busy => ?_⟩
  · intro p v first last body a answers cleared
    have answered {u : State} {st : Status} (effect : s.odSnapshot q.ctx v = (u, st)) : answers u st :=
      exec_snapshotCommand accepted effect
    refine ⟨fun busy => answered (State.odSnapshot_busy busy), ?_⟩
    intro refuses
    have refused {st : Status} (effect : s.odSnapshot q.ctx v = (s.snapFailed p, st)) : refuses st :=
      ⟨_, answered effect, (s.snapshot_setSnap p p _).trans (if_pos rfl),
        fun r other => (s.snapshot_setSnap p r _).trans (if_neg other), rfl⟩
    refine ⟨fun idle empty => refused (State.odSnapshot_empty idle empty),
      fun idle range outside => refused (State.odSnapshot_remote idle range outside),
      fun idle range o here => ⟨fun outside => refused (State.odSnapshot_not_owned idle range here (by rwa [Nat.add_assoc] at outside)),
        fun st below owned denied => refused (State.odSnapshot_denied idle range here (by rwa [Nat.add_assoc] at below) owned denied)⟩,
      fun idle range o here below owned allowed => ?_⟩
    have effect := State.odSnapshot_taken idle range here (by rwa [Nat.add_assoc] at below) owned allowed
    have kept (r) : (s.snapKept p v).snapshot r = s.snapshot r := by rw [s.snapKept_eq]; rfl
    refine ⟨_, answered effect, (State.snapshot_setSnap ..).trans (if_pos rfl),
      fun r other => ((State.snapshot_setSnap ..).trans (if_neg other)).trans (kept r), ?_, ?_, ?_, ?_⟩
    · intro r tag low
      have entry := tabGet_snapTable {} s.stats.drainMon (bit v 24) (p := p) (r := r) range low Nat.zero_lt_one
      rw [Nat.one_mul] at entry
      rw [s.snapKept_eq]
      exact entry
    · intro r tag low
      have entry := tabGet_snapTable {} s.stats.emitMon (bit v 25) (p := p) (r := r) range low Nat.zero_lt_one
      rw [Nat.one_mul] at entry
      rw [s.snapKept_eq]
      exact entry
    · intro r tag f low f_lt
      rw [s.snapKept_eq]
      exact tabGet_snapTable {} s.stats.skim (bit v 26) range low f_lt
    · rw [s.snapKept_eq]
      rfl
  · intro q bs may
    obtain ⟨t, stores, done⟩ := exec_snapshotDone busy may
    have same (r) : t.snapshot r = s.snapshot r := by rw [stores.rest]; rfl
    refine ⟨_, done, ?_, fun r other => ((State.snapshot_setSnap ..).trans (if_neg other)).trans (same r), ?_⟩
    · rw [State.snapshot_setSnap, if_pos rfl, same]
    · have stats : t.stats = s.stats := by rw [stores.rest]
      have whole : ({ t with stats := { t.stats with snap := s.stats.snap } } : State) = t := by rw [← stats]
      exact whole.symm ▸ stores.hbmWrites

end Sys2Proof.Machine
end

section
/-!
PROOF. Control messages to peers (R297, R300): a message changes the fabric alone, and one to a reachable peer goes out.
-/

namespace Sys2Proof.Machine

/-- From `s` to `t` messages have gone to peers, and nothing else has changed. -/
structure State.Sends (s t : State) : Prop where
  kept : { t with fabric := s.fabric, out := s.out } = s
  links : s.LinksKept t

theorem State.Sends.refl (s : State) : s.Sends s := ⟨rfl, .refl s⟩

theorem State.Sends.trans {s t u : State} (h : s.Sends t) (g : t.Sends u) : s.Sends u := by
  refine ⟨?_, h.links.trans g.links⟩
  have second := congrArg (fun x : State => { x with fabric := s.fabric, out := s.out }) g.kept
  exact second.trans h.kept

theorem State.Sends.mode {s t : State} (h : s.Sends t) : t.mode = s.mode := by simpa using congrArg State.mode h.kept

theorem State.Sends.mod {s t : State} (h : s.Sends t) : t.mod = s.mod := by simpa using congrArg State.mod h.kept

theorem State.Sends.replica {s t : State} (h : s.Sends t) : t.replica = s.replica := by simpa using congrArg State.replica h.kept

theorem State.sends_emit (s : State) (e : Emit) : s.Sends (s.emit e) := ⟨rfl, s.linksKept_emit e⟩

theorem State.sends_fillSlots (s : State) (p fuel : Nat) : s.Sends (s.fillSlots p fuel) := by
  refine ⟨?_, s.linksKept_fillSlots p fuel⟩
  induction fuel generalizing s with
  | zero => rfl
  | succ fuel ih =>
    have later (u : State) (own : { u with fabric := s.fabric, out := s.out } = s) :
        { u.fillSlots p fuel with fabric := s.fabric, out := s.out } = s :=
      (congrArg (fun x : State => { x with fabric := s.fabric, out := s.out }) (ih u)).trans own
    unfold State.fillSlots
    dsimp only
    split
    · rfl
    · split
      · exact later _ rfl
      · exact later _ rfl

theorem State.sends_controlOf (s : State) (part : Option Nat) (p msgt : Nat) (args : List Nat) :
    s.Sends (s.controlOf part p msgt args) := by
  refine ⟨?_, s.linksKept_controlOf part p msgt args⟩
  unfold State.controlOf
  dsimp only
  split
  · exact congrArg (fun x : State => { x with fabric := s.fabric, out := s.out }) (State.sends_fillSlots _ p _).kept
  · rfl

theorem State.sends_control (s : State) (p msgt : Nat) (args : List Nat) : s.Sends (s.control p msgt args) :=
  s.sends_controlOf none p msgt args

theorem State.mem_out_control {s : State} {p : Nat} (msgt : Nat) (args : List Nat) (up : s.reachable p = true) :
    .control p msgt args ∈ (s.control p msgt args).out := by
  unfold State.control State.controlOf
  rw [if_pos up]
  exact (State.linksKept_pumpPeer _ p).out _ (List.mem_append_right _ List.mem_cons_self)

/-- One message to each peer of a list; what it says may depend on the state, but not on what has been sent. -/
theorem State.sends_each {s : State} (l : List Nat) (msgt : Nat) {args : State → List Nat}
    (same : ∀ u, s.Sends u → args u = args s) :
    s.Sends (l.foldl (fun u p => u.control p msgt (args u)) s) ∧
      ∀ p ∈ l, s.reachable p = true → .control p msgt (args s) ∈ (l.foldl (fun u p => u.control p msgt (args u)) s).out := by
  induction l generalizing s with
  | nil => exact ⟨.refl s, fun _ h => nomatch h⟩
  | cons q l ih =>
    have first := s.sends_control q msgt (args s)
    have said := same _ first
    obtain ⟨rest, told⟩ := ih fun u h => (same u (first.trans h)).trans said.symm
    refine ⟨first.trans rest, fun p mem up => ?_⟩
    rcases List.mem_cons.1 mem with rfl | later
    · exact rest.links.out _ (State.mem_out_control msgt (args s) up)
    · rw [← said]
      exact told p later ((first.links.reachable p).trans up)

end Sys2Proof.Machine
end

section
/-!
PROOF. Mode changes (R250 to R253): the refusals of a command, the begin of a change, and what its commit changes.
-/

namespace Sys2Proof.Machine

/-! ### Refusals (R252, R358, R430) -/

/-- A mode change, a partition reset or the rollout of an update is in progress. -/
def State.ModeBusy (s : State) : Prop :=
  s.mode.st ≠ .stable ∨ s.sec.resetting ≠ [] ∨ s.fw.ust ∈ [UState.switching, .rollout, .reverting]

/-- A change of layout is staged while work is HELD or RUNNING. -/
def State.ModeActive (s : State) : Prop :=
  s.mode.staged.four ≠ s.mode.cur.four ∧ ∃ x ∈ s.work.slots, x.2.live = true

theorem State.modeBusy_iff (s : State) : (s.mode.st ≠ .stable ∨ (!s.sec.resetting.isEmpty) = true ∨
    [UState.switching, .rollout, .reverting].contains s.fw.ust = true) ↔ s.ModeBusy := by
  simp [State.ModeBusy]

section
variable {s : State} {board : Bool}

theorem State.modeRefused_of_busy (busy : s.ModeBusy) : s.modeRefused board = some St.modeBusy :=
  if_pos (s.modeBusy_iff.2 busy)

variable (free : ¬ s.ModeBusy)
include free

theorem State.modeRefused_of_not_leader (wide : board = true) (follower : s.mod.pos.val ≠ 0) :
    s.modeRefused board = some St.modeNotLeader := by
  rw [State.modeRefused, if_neg (mt s.modeBusy_iff.1 free), if_pos ⟨wide, follower⟩]

variable (own : board = false ∨ s.mod.pos.val = 0)
include own

theorem State.modeRefused_of_active (active : s.ModeActive) : s.modeRefused board = some St.modeWorkActive := by
  obtain ⟨layout, work⟩ := active
  rw [State.modeRefused, if_neg (mt s.modeBusy_iff.1 free), if_neg (by rintro ⟨rfl, h⟩; simp [h] at own),
    if_pos ⟨layout, s.workActive_iff.2 work⟩]

variable (quiet : ¬ s.ModeActive)
include quiet

theorem State.modeRefused_of_quiet : s.modeRefused board =
    if 6 < s.mode.staged.drainFmt.toNat ∨ 2 < s.mode.staged.profile then some St.odValueInvalid else none := by
  rw [State.modeRefused, if_neg (mt s.modeBusy_iff.1 free), if_neg (by rintro ⟨rfl, h⟩; simp [h] at own),
    if_neg (fun h => quiet ⟨h.1, s.workActive_iff.1 h.2⟩)]

end

/-! ### The command (R251, R252) -/

/-- The change begins as DEVICE or as BOARD number `change`. -/
def State.modeBegun (s : State) (board : Bool) (change : BitVec 32) : State :=
  { s.modeBegin board with mode := { (s.modeBegin board).mode with change := change } }

theorem State.odMode_refused {s : State} {v : Nat} {board : Bool} {st : Status} (scope : v % 4 = if board then 2 else 1)
    (refused : s.modeRefused board = some st) :
    s.odMode v (if board then 2 else 1) = ({ s with mode := { s.mode with result := st } }, st) := by
  cases board <;> simp_all [State.odMode]

theorem State.odMode_device {s : State} {v : Nat} (scope : v % 4 = 1) (accepted : s.modeRefused false = none) :
    s.odMode v 1 = (s.modeBegun false s.mode.change, St.ok) := by
  simp [State.odMode, scope, accepted, State.modeBegun]
  rfl

theorem State.odMode_board {s : State} {v : Nat} (scope : v % 4 = 2) (accepted : s.modeRefused true = none) :
    s.odMode v 2 = (s.boardPeers.foldl (fun u p => u.control p 0x20 [(s.mode.change + 1).toNat])
      (s.modeBegun true (s.mode.change + 1)), St.ok) := by
  simp [State.odMode, scope, accepted]
  rfl

theorem State.odMode_unknown {s : State} {v scope : Nat} (unknown : v % 4 = 0 ∨ v % 4 = 3) :
    s.odMode v scope = ({ s with mode := { s.mode with result := St.odValueInvalid } }, St.odValueInvalid) := by
  rcases unknown with h | h <;> simp [State.odMode, h]

theorem exec_modeCommandDevice {s u : State} {q : OdReq} {st : Status} (accepted : s.OdAccepts q 0x200003)
    (scope : leNat q.value % 4 ≠ 2) (effect : s.odMode (leNat q.value) 1 = (u, st)) :
    exec (.modeCommandDevice q) s = .next (u.odAnswer q.ctx q.msn st []) := by
  obtain ⟨-, e⟩ := State.odCommand_of_accepts (mine := fun k => k == 0x200003 && modeScope q 1)
    (fun s _ v => s.odMode v 1) accepted (by simp [modeScope, scope])
  rw [effect] at e
  exact congrArg Host.Outcome.next e

theorem exec_modeCommandBoard {s u : State} {q : OdReq} {st : Status} (accepted : s.OdAccepts q 0x200003)
    (scope : leNat q.value % 4 = 2) (effect : s.odMode (leNat q.value) 2 = (u, st)) :
    exec (.modeCommandBoard q) s = .next (u.odAnswer q.ctx q.msn st []) := by
  obtain ⟨-, e⟩ := State.odCommand_of_accepts (mine := fun k => k == 0x200003 && modeScope q 2)
    (fun s _ v => s.odMode v 2) accepted (by simp [modeScope, scope])
  rw [effect] at e
  exact congrArg Host.Outcome.next e

end Sys2Proof.Machine
end

section
/-!
PROOF. What the commit of a mode change makes of the state (R98, R253, R275, R310, R311, R372).
-/

namespace Sys2Proof.Machine

/-! ### The user area under a change of layout (R310, R311) -/

/-- Granules of the user area in each stack. -/
def State.userGranules (s : State) : Nat := s.sysBase / 6144

/-- The user area is four quarters of three stacks each. -/
theorem State.sysBase_eq (s : State) : s.sysBase = 6144 * s.userGranules ∧ s.quarter = 1536 * s.userGranules ∧
    s.sysBase / 12 / 512 = s.userGranules := by
  have sizes : s.sysBase = 0x6BA0000000 ∨ s.sysBase = 0x47A0000000 := by
    unfold State.sysBase
    split
    · exact .inl rfl
    · exact .inr rfl
  unfold State.quarter State.userGranules
  omega

section
variable {s : State} {b : Nat} (byte : b < 512)
include byte

/-- Byte `b` of granule `n` of quarter `q`, in partition mode. -/
theorem State.stackIn_four {q n : Nat} (third : n < 3 * s.userGranules) (fourth : q < 4) :
    s.stackIn true (q * s.quarter + n * 512 + b) = (3 * q + n % 3, n / 3 * 512 + b) := by
  obtain ⟨base, quarter, -⟩ := s.sysBase_eq
  have pos : 0 < s.quarter := by omega
  have below : q * s.quarter + n * 512 + b < s.sysBase := by
    have := Nat.mul_le_mul_right s.quarter (show q ≤ 3 by omega)
    omega
  have div : (q * s.quarter + n * 512 + b) / s.quarter = q := by
    rw [Nat.add_assoc, Nat.add_comm, Nat.add_mul_div_right _ _ pos, Nat.div_eq_of_lt (by omega), Nat.zero_add]
  have mod : (q * s.quarter + n * 512 + b) % 512 = b := by
    rw [quarter, show 1536 * s.userGranules = 512 * (3 * s.userGranules) by omega, Nat.mul_left_comm]
    omega
  have granule : (q * s.quarter + n * 512 + b - q * s.quarter) / 512 = n := by omega
  simp only [State.stackIn, if_neg (Nat.not_le.2 below), if_true, div, mod, granule]

/-- Byte `b` of granule `n` of the user area, in whole-device mode. -/
theorem State.stackIn_whole {n : Nat} (user : n < 12 * s.userGranules) :
    s.stackIn false (n * 512 + b) = (n % 12, n / 12 * 512 + b) := by
  obtain ⟨base, -, -⟩ := s.sysBase_eq
  have below : n * 512 + b < s.sysBase := by omega
  have mod : (n * 512 + b) % 512 = b := by omega
  have granule : (n * 512 + b) / 512 = n := by omega
  simp only [State.stackIn, if_neg (Nat.not_le.2 below), Bool.false_eq_true, if_false, mod, granule]

theorem State.remapOffset_four {q n : Nat} (third : n < 3 * s.userGranules) (fourth : q < 4) :
    s.remapOffset true false (q * s.quarter + n * 512 + b) = (n / 3 * 12 + (3 * q + n % 3)) * 512 + b := by
  obtain ⟨-, -, user⟩ := s.sysBase_eq
  have granule : (n / 3 * 512 + b) / 512 = n / 3 := by omega
  have mod : (n / 3 * 512 + b) % 512 = b := by omega
  have below : ¬ s.userGranules ≤ n / 3 := by omega
  simp only [State.remapOffset, State.stackIn_four byte third fourth, granule, mod, State.granuleIn, user, if_neg below,
    Bool.false_eq_true, if_false]

theorem State.remapOffset_whole {n : Nat} (inside : n < 12 * s.userGranules) :
    s.remapOffset false true (n * 512 + b) = n % 12 / 3 * s.quarter + (n / 12 * 3 + n % 12 % 3) * 512 + b := by
  obtain ⟨-, -, user⟩ := s.sysBase_eq
  have granule : (n / 12 * 512 + b) / 512 = n / 12 := by omega
  have mod : (n / 12 * 512 + b) % 512 = b := by omega
  have below : ¬ s.userGranules ≤ n / 12 := by omega
  simp only [State.remapOffset, State.stackIn_whole byte inside, granule, mod, State.granuleIn, user, if_neg below, if_true]

end

theorem State.offset_four {s : State} {a : Nat} (user : a < s.sysBase) : ∃ q n b, q < 4 ∧ n < 3 * s.userGranules ∧ b < 512 ∧
    a = q * s.quarter + n * 512 + b := by
  obtain ⟨base, quarter, -⟩ := s.sysBase_eq
  have split := Nat.div_add_mod a s.quarter
  have rest := Nat.mod_lt a (show 0 < s.quarter by omega)
  refine ⟨a / s.quarter, a % s.quarter / 512, a % s.quarter % 512, Nat.div_lt_of_lt_mul (by omega), by omega, by omega, ?_⟩
  rw [Nat.mul_comm] at split
  omega

/-- A change of layout keeps the user area's bytes in it, and the change back puts each back. -/
theorem State.remapOffset_spec (s : State) {four four' : Bool} (change : four' ≠ four) {a : Nat} (user : a < s.sysBase) :
    s.remapOffset four four' a < s.sysBase ∧ s.remapOffset four' four (s.remapOffset four four' a) = a := by
  obtain ⟨base, quarter, -⟩ := s.sysBase_eq
  cases four <;> cases four'
  · exact absurd rfl change
  · obtain ⟨n, b, inside, byte, rfl⟩ : ∃ n b, n < 12 * s.userGranules ∧ b < 512 ∧ a = n * 512 + b :=
      ⟨a / 512, a % 512, by omega, by omega, by omega⟩
    rw [State.remapOffset_whole byte inside, State.remapOffset_four byte (by omega) (by omega)]
    refine ⟨?_, by omega⟩
    have := Nat.mul_le_mul_right s.quarter (show n % 12 / 3 ≤ 3 by omega)
    omega
  · obtain ⟨q, n, b, fourth, third, byte, rfl⟩ := State.offset_four user
    rw [State.remapOffset_four byte third fourth, State.remapOffset_whole byte (by omega)]
    refine ⟨by omega, ?_⟩
    have quot : (n / 3 * 12 + (3 * q + n % 3)) % 12 / 3 = q := by omega
    rw [quot]
    omega
  · exact absurd rfl change

/-- Where a byte stands after a change of layout. -/
def State.movedTo (s : State) (four four' : Bool) (a : Nat) : Nat := if a < s.sysBase then s.remapOffset four four' a else a

theorem State.movedTo_injective (s : State) {four four' : Bool} (change : four' ≠ four) :
    Function.Injective (s.movedTo four four') := by
  have back (a : Nat) : s.movedTo four' four (s.movedTo four four' a) = a := by
    unfold State.movedTo
    by_cases user : a < s.sysBase
    · obtain ⟨low, back⟩ := s.remapOffset_spec change user
      rw [if_pos user, if_pos low, back]
    · rw [if_neg user, if_neg user]
  exact Function.LeftInverse.injective back

theorem nodup_keys {α : Type} [DecidableEq α] {d : α} {t : Tab α} (wf : tabWf d t = true) : (t.map (·.1)).Nodup := by
  suffices ∀ lo, tabWfFrom d lo t = true → (∀ k ∈ t.map (·.1), lo ≤ k) ∧ (t.map (·.1)).Nodup from (this 0 wf).2
  clear wf
  induction t with
  | nil => exact fun _ _ => ⟨by simp, List.nodup_nil⟩
  | cons e t ih =>
    obtain ⟨j, w⟩ := e
    intro lo wf
    simp only [tabWfFrom, Bool.and_eq_true, decide_eq_true_eq] at wf
    obtain ⟨⟨low, -⟩, rest⟩ := wf
    obtain ⟨above, distinct⟩ := ih (j + 1) rest
    refine ⟨fun k mem => ?_, List.nodup_cons.2 ⟨fun mem => ?_, distinct⟩⟩
    · rcases List.mem_cons.1 mem with rfl | mem
      · exact low
      · have := above k mem
        omega
    · exact absurd (above j mem) (Nat.not_succ_le_self j)

/-- A table whose keys move by an injective map reads at a moved key what it read before. -/
theorem tabGet_moved {α : Type} [DecidableEq α] {d : α} {t : Tab α} (wf : tabWf d t = true) {f : Nat → Nat}
    (inj : Function.Injective f) (a : Nat) :
    tabGet d (t.foldl (fun m e => tabSet d m (f e.1) e.2) []) (f a) = tabGet d t a := by
  have keys : ((t.map fun e => (f e.1, e.2)).map (·.1)) = (t.map (·.1)).map f := by simp [Function.comp_def]
  have cells := tabGet_foldl_set d (t.map fun e => (f e.1, e.2)) [] (f a)
    (by rw [keys]; exact (nodup_keys wf).map inj)
  rw [List.foldl_map] at cells
  obtain ⟨listed, unlisted⟩ := cells
  by_cases mem : a ∈ t.map (·.1)
  · exact listed _ (List.mem_map.2 ⟨_, mem_of_tabGet d mem, rfl⟩)
  · have default : tabGet d t a = d := by
      by_contra read
      exact mem (List.mem_map.2 ⟨_, mem_of_tabGet_ne read, rfl⟩)
    rw [default]
    refine unlisted ?_
    rw [keys, List.mem_map_of_injective inj]
    exact mem

theorem State.tabGet_remapUser (s : State) {four : Bool} (change : four ≠ s.mode.cur.four) (wf : tabWf 0 s.hbm = true) (a : Nat) :
    tabGet 0 (s.remapUser four).hbm (s.movedTo s.mode.cur.four four a) = tabGet 0 s.hbm a :=
  tabGet_moved wf (s.movedTo_injective change) a

/-! ### Contexts (R275) -/

theorem State.ctx_wipeContexts (s : State) (p c : Nat) : (s.wipeContexts p).ctx c =
    if (!s.mode.cur.four || c / 4096 == p) = true then {} else s.ctx c :=
  tabGet_clearIf ({} : Ctx) s.port.ctxs (fun c => !s.mode.cur.four || c / 4096 == p) c

/-- Every context of the present partitions is closed. -/
theorem State.ctx_wipeParts (s : State) {c : Nat} (low : c < 16384) : (s.parts.foldl State.wipeContexts s).ctx c = {} := by
  unfold State.parts
  cases four : s.mode.cur.four with
  | false => simp [State.ctx_wipeContexts, four]
  | true =>
    simp only [if_true, List.foldl_cons, List.foldl_nil, State.ctx_wipeContexts]
    have mode (u : State) (p : Nat) : (u.wipeContexts p).mode = u.mode := rfl
    have part : c / 4096 = 0 ∨ c / 4096 = 1 ∨ c / 4096 = 2 ∨ c / 4096 = 3 := by omega
    rcases part with h | h | h | h <;> simp [mode, four, h]

/-! ### The ceiling of a power profile (R372, R392) -/

/-- An island under a ceiling. -/
def Island.capped (d : Island) (curve : List Nat) (top : Nat) : Island :=
  if d.step ≤ top then d else { d with step := top, clk := min d.clk top, mV := curve.getD top 0, slew := none }

theorem State.island_modIsland (s : State) (i j : Nat) (f : Island → Island) :
    (s.modIsland i f).island j = if j = i then f (s.island i) else s.island j := tabGet_mod _ _ _ _ _

/-- The cap changes the first four islands alone. -/
theorem State.capSteps_spec (s : State) (top : Nat) :
    (∀ i, i < 4 → (s.capSteps top).island i = (s.island i).capped s.power.curve top) ∧
      { s.capSteps top with power := { (s.capSteps top).power with islands := s.power.islands } } = s := by
  have each (l : List Nat) (u : State) : l.Nodup →
      let t := l.foldl (fun u i => u.modIsland i fun d => d.capped u.power.curve top) u
      (∀ i, t.island i = if i ∈ l then (u.island i).capped u.power.curve top else u.island i) ∧
        { t with power := { t.power with islands := u.power.islands } } = u := by
    induction l generalizing u with
    | nil => exact fun _ => ⟨fun _ => rfl, rfl⟩
    | cons j l ih =>
      intro distinct
      obtain ⟨new, distinct⟩ := List.nodup_cons.1 distinct
      obtain ⟨islands, kept⟩ := ih (u.modIsland j fun d => d.capped u.power.curve top) distinct
      refine ⟨fun i => ?_, congrArg (fun x : State => { x with power := { x.power with islands := u.power.islands } }) kept⟩
      rw [List.foldl_cons, islands, State.island_modIsland]
      by_cases here : i = j
      · subst here
        rw [if_neg new, if_pos rfl, if_pos List.mem_cons_self]
      · simp only [List.mem_cons, here, false_or]
        rfl
  obtain ⟨islands, kept⟩ := each (List.range 4) s List.nodup_range
  exact ⟨fun i low => (islands i).trans (if_pos (List.mem_range.2 low)), kept⟩

theorem profileCeiling_eq (p : Nat) : profileCeiling p = [15, 10].getD p 5 := by
  rcases p with _ | _ | p <;> rfl

/-! ### The commit (R253, R254) -/

/-- What a change of layout makes of memory, contexts, credits and statistics. -/
def State.reshaped (s : State) (four : Bool) : State :=
  if four != s.mode.cur.four then
    { (((s.remapUser four).parts.foldl State.wipeContexts (s.remapUser four)).refillCredits four) with stats := {} }
  else s

/-- The mode after a commit (R253, R254). -/
def Mode.afterCommit (m : Mode) : Mode :=
  let change := m.pend.four != m.cur.four
  { m with
    cur := m.pend, epoch := m.epoch + 1, result := St.ok, st := if change then .scrubbing else .stable
    waiting := false, committed := m.board, asked := []
    scrub := if change then (if m.pend.four then [0, 1, 2, 3] else [0]) else [] }

/-- A commit reshapes what a new layout reshapes, takes the staged items at one epoch, and caps the islands. -/
structure State.Commits (s t : State) : Prop where
  mode : t.mode = s.mode.afterCommit
  islands : ∀ i, i < 4 → t.island i = (s.island i).capped t.power.curve (profileCeiling s.mode.pend.profile)
  rest : { t with mode := s.mode, power := s.power, odStore := s.odStore } =
    { s.reshaped s.mode.pend.four with mode := s.mode, power := s.power, odStore := s.odStore }

theorem State.frame_reshaped (s : State) (four : Bool) : { s.reshaped four with
    hbm := s.hbm, ecc := s.ecc, port := s.port, ops := s.ops, fabric := s.fabric, stats := s.stats } = s := by
  have wiped (u : State) (l : List Nat) : { l.foldl State.wipeContexts u with port := u.port, ops := u.ops } = u := by
    induction l generalizing u with
    | nil => rfl
    | cons p l ih => exact congrArg (fun x : State => { x with port := u.port, ops := u.ops }) (ih (u.wipeContexts p))
  unfold State.reshaped
  split
  · exact congrArg (fun x : State => { x with hbm := s.hbm, ecc := s.ecc, fabric := s.fabric, stats := s.stats })
      (wiped (s.remapUser four) (s.remapUser four).parts)
  · rfl

/-- A commit takes the items into the reshaped state and caps the islands. -/
theorem State.modeCommit_eq (s : State) : ∃ power items, power.islands = s.power.islands ∧ s.modeCommit =
    { s.reshaped s.mode.pend.four with mode := s.mode.afterCommit, power := power, odStore := items }.capSteps
      (profileCeiling s.mode.pend.profile) := by
  refine ⟨_, _, ?_, rfl⟩
  exact congrArg (·.power.islands) (s.frame_reshaped s.mode.pend.four)

theorem State.commits_modeCommit (s : State) : s.Commits s.modeCommit := by
  obtain ⟨power, items, same, eq⟩ := s.modeCommit_eq
  obtain ⟨islands, kept⟩ := State.capSteps_spec
    { s.reshaped s.mode.pend.four with mode := s.mode.afterCommit, power := power, odStore := items }
    (profileCeiling s.mode.pend.profile)
  rw [← eq] at islands kept
  refine ⟨congrArg (·.mode) kept, fun i low => ?_, ?_⟩
  · have curve : s.modeCommit.power.curve = power.curve := congrArg (·.power.curve) kept
    have island (i) : ({ s.reshaped s.mode.pend.four with mode := s.mode.afterCommit, power := power, odStore := items } : State).island i =
        s.island i := by rw [State.island, State.island, ← same]
    rw [islands i low, island, curve]
  · exact congrArg (fun x : State => { x with mode := s.mode, power := s.power, odStore := s.odStore }) kept

end Sys2Proof.Machine
end

section
/-!
PROOF. Mode changes (R253): what a commit leaves, field by field, and a unit at its boundary.
-/

namespace Sys2Proof.Machine

/-! ### Commands of OD 2000.03 -/

theorem exec_modeCommand {s u : State} {q : OdReq} {st : Status} {board : Bool} (accepted : s.OdAccepts q 0x200003)
    (scope : leNat q.value % 4 = if board then 2 else 1)
    (effect : s.odMode (leNat q.value) (if board then 2 else 1) = (u, st)) :
    exec (if board then .modeCommandBoard q else .modeCommandDevice q) s = .next (u.odAnswer q.ctx q.msn st []) := by
  cases board with
  | false => exact exec_modeCommandDevice accepted (by rw [scope]; decide) effect
  | true => exact exec_modeCommandBoard accepted scope effect

/-! ### What a commit leaves (R253) -/

section
variable {s t : State} (h : s.Commits t)
include h

/-- A field that no commit touches but by a change of layout. -/
theorem State.Commits.field {α : Type} (f : State → α)
    (own : ∀ x : State, f { x with mode := s.mode, power := s.power, odStore := s.odStore } = f x) :
    f t = f (s.reshaped s.mode.pend.four) := by
  rw [← own t, h.rest, own]

theorem State.Commits.kept {α : Type} (f : State → α)
    (own : ∀ x : State, f { x with mode := s.mode, power := s.power, odStore := s.odStore } = f x)
    (apart : ∀ x : State, f { x with
      hbm := s.hbm, ecc := s.ecc, port := s.port, ops := s.ops, fabric := s.fabric, stats := s.stats } = f x) : f t = f s := by
  rw [h.field f own, ← apart, s.frame_reshaped]

end

theorem State.reshaped_same {s : State} {four : Bool} (same : four = s.mode.cur.four) : s.reshaped four = s := by
  simp [State.reshaped, same]

theorem State.reshaped_changed {s : State} {four : Bool} (change : four ≠ s.mode.cur.four) : s.reshaped four =
    { (((s.remapUser four).parts.foldl State.wipeContexts (s.remapUser four)).refillCredits four) with stats := {} } := by
  simp [State.reshaped, change]

theorem Mode.afterCommit_st (m : Mode) : m.afterCommit.st = if m.pend.four = m.cur.four then .stable else .scrubbing := by
  unfold Mode.afterCommit
  by_cases same : m.pend.four = m.cur.four <;> simp [same]

theorem Mode.mem_scrub_afterCommit {m : Mode} (change : m.pend.four ≠ m.cur.four) (p : Nat) :
    p ∈ m.afterCommit.scrub ↔ if m.pend.four then p < 4 else p = 0 := by
  have scrub : m.afterCommit.scrub = if m.pend.four then [0, 1, 2, 3] else [0] :=
    if_pos (bne_iff_ne.2 change)
  rw [scrub]
  cases m.pend.four
  · simp
  · simp only [if_true, List.mem_cons, List.not_mem_nil, or_false]
    omega

/-! ### A unit at its boundary (R253) -/

/-- The mode with the bit of unit `u` set. -/
def Mode.applies (m : Mode) (u : Fin 24) : Mode := { m with applied := m.applied ||| BitVec.ofNat 24 (2 ^ u.val) }

theorem exec_unitQuiesced_of_due {s : State} {u : Fin 24} (due : s.mode.st = .transitioning) (decided : s.mode.waiting = false)
    (idle : u.val < 16 → s.shelfIdle u = true) : exec (.unitQuiesced u) s =
      if (s.mode.applies u).applied ≠ 0xFFFFFF then .next { s with mode := s.mode.applies u }
      else if (!s.mode.board) = true then .next ({ s with mode := s.mode.applies u } : State).modeCommit
      else if s.mod.pos.val = 0 then .next ({ s with mode := s.mode.applies u } : State).boardCommit
      else .next (({ s with mode := { s.mode.applies u with waiting := true } } : State).control 0 0x21 [s.mod.pos.val]) := by
  have notHeld : ¬ (s.mode.st ≠ .transitioning ∨ s.mode.waiting = true ∨ (u.val < 16 ∧ (!s.shelfIdle u) = true)) := by
    simpa [due, decided] using idle
  exact if_neg notHeld

end Sys2Proof.Machine
end

section
/-!
PROOF. Mode changes of a device and of a board (R250 to R254): what each command and each message of a change does.
-/

namespace Sys2Proof.Machine

/-! ### Commands of OD 2000.03 -/

section
variable {s : State} {q : OdReq} {board : Bool} (accepted : s.OdAccepts q 0x200003)
  (scope : leNat q.value % 4 = if board then 2 else 1)
include accepted scope

theorem exec_modeCommand_refused {st : Status} (refused : s.modeRefused board = some st) :
    exec (if board then .modeCommandBoard q else .modeCommandDevice q) s =
      .next (State.odAnswer { s with mode := { s.mode with result := st } } q.ctx q.msn st []) :=
  exec_modeCommand accepted scope (State.odMode_refused scope refused)

/-- The number of the change that a command begins (log 84). -/
def State.nextChange (s : State) (board : Bool) : BitVec 32 := if board then s.mode.change + 1 else s.mode.change

theorem exec_modeCommand_begins (free : s.modeRefused board = none) : ∃ u : State,
    exec (if board then .modeCommandBoard q else .modeCommandDevice q) s = .next (u.odAnswer q.ctx q.msn St.ok []) ∧
    u.mode = (s.modeBegun board (s.nextChange board)).mode ∧ u.replica.round = false ∧
    (board = false → { u with mode := s.mode, replica := s.replica } = s) ∧
    (board = true → ∀ p ∈ s.boardPeers, s.reachable p = true → .control p 0x20 [(s.nextChange board).toNat] ∈ u.out) := by
  cases board with
  | false =>
    exact ⟨_, exec_modeCommand accepted scope (State.odMode_device scope free), rfl, rfl, fun _ => rfl, nofun⟩
  | true =>
    obtain ⟨sent, told⟩ := State.sends_each (s := s.modeBegun true (s.mode.change + 1)) s.boardPeers 0x20
      (args := fun _ => [(s.mode.change + 1).toNat]) fun _ _ => rfl
    exact ⟨_, exec_modeCommand accepted scope (State.odMode_board scope free), sent.mode, congrArg (·.round) sent.replica,
      nofun, fun _ => told⟩

end

/-! ### A device change commits (R253) -/

theorem State.hbm_wipeParts (s : State) (l : List Nat) : (l.foldl State.wipeContexts s).hbm = s.hbm := by
  induction l generalizing s with
  | nil => rfl
  | cons p l ih => exact ih (s.wipeContexts p)

section
variable {s t : State} (h : s.Commits t)
include h

theorem State.Commits.same_layout (same : s.mode.pend.four = s.mode.cur.four) :
    t.mode.st = .stable ∧ t.port = s.port ∧ t.ops = s.ops ∧ t.hbm = s.hbm ∧ t.stats = s.stats := by
  have unshaped := State.reshaped_same same
  refine ⟨?_, ?_, ?_, ?_, ?_⟩
  · rw [h.mode, Mode.afterCommit_st, if_pos same]
  · rw [h.field State.port fun _ => rfl, unshaped]
  · rw [h.field State.ops fun _ => rfl, unshaped]
  · rw [h.field State.hbm fun _ => rfl, unshaped]
  · rw [h.field State.stats fun _ => rfl, unshaped]

/-- A change of layout closes every context, moves the user area's bytes and zeroes the statistics (R98, R275, R311). -/
theorem State.Commits.new_layout (change : s.mode.pend.four ≠ s.mode.cur.four) :
    t.mode.st = .scrubbing ∧ (∀ p, p ∈ t.mode.scrub ↔ if s.mode.pend.four then p < 4 else p = 0) ∧
      (∀ c, c < 16384 → t.ctx c = {}) ∧ t.stats = {} ∧
      (tabWf 0 s.hbm = true → ∀ a, tabGet 0 t.hbm (s.movedTo s.mode.cur.four s.mode.pend.four a) = tabGet 0 s.hbm a) := by
  have shaped := State.reshaped_changed change
  refine ⟨?_, fun p => ?_, fun c low => ?_, ?_, fun wf a => ?_⟩
  · rw [h.mode, Mode.afterCommit_st, if_neg change]
  · rw [h.mode, Mode.mem_scrub_afterCommit change]
  · rw [h.field (State.ctx · c) fun _ => rfl, shaped]
    exact State.ctx_wipeParts (s.remapUser _) low
  · rw [h.field State.stats fun _ => rfl, shaped]
  · rw [h.field State.hbm fun _ => rfl, shaped]
    exact (congrArg (tabGet 0 · _) (State.hbm_wipeParts _ _)).trans (s.tabGet_remapUser change wf a)

end

/-! ### A change that rolls back (R253) -/

/-- The mode after a roll-back. -/
def Mode.back (m : Mode) : Mode :=
  { m with st := .stable, pend := m.cur, result := St.modeRolledBack, waiting := false, asked := [] }

theorem State.boardBack_spec (s : State) : s.boardBack.mode = s.mode.back ∧
    ∀ p ∈ s.boardPeers, s.reachable p = true → .control p 0x24 [] ∈ s.boardBack.out := by
  obtain ⟨sent, told⟩ := State.sends_each (s := s) s.boardPeers 0x24 (args := fun _ => []) fun _ _ => rfl
  exact ⟨congrArg Mode.back sent.mode, told⟩

/-! ### The messages of a BOARD change (R254) -/

/-- `i` leads to mode `m` and sends message `msgt` to a reachable peer `p`. -/
def State.Tells (s : State) (i : Instr) (p msgt : Nat) (args : List Nat) (m : Mode) : Prop :=
  ∃ t, exec i s = .next t ∧ t.mode = m ∧ (s.reachable p = true → .control p msgt args ∈ t.out)

/-- `i` commits the change of a board. -/
def State.BoardCommits (s : State) (i : Instr) : Prop :=
  ∃ t, exec i s = .next t ∧ t.mode.cur = s.mode.pend ∧ t.mode.epoch = s.mode.epoch + 1 ∧ t.mode.result = St.ok ∧
    t.mode.waiting = false ∧ t.mode.committed = true ∧
    t.mode.st = if s.mode.pend.four = s.mode.cur.four then .stable else .scrubbing

theorem State.tells_control {s : State} {i : Instr} {u : State} {p msgt : Nat} {args : List Nat}
    (run : exec i s = .next (u.control p msgt args)) (links : u.reachable p = s.reachable p) :
    s.Tells i p msgt args u.mode :=
  ⟨_, run, (u.sends_control p msgt args).mode, fun up => State.mem_out_control msgt args (links.trans up)⟩

theorem State.tells_boardBack {s : State} {i : Instr} (run : exec i s = .next s.boardBack) {p : Nat} (peer : p ∈ s.boardPeers) :
    s.Tells i p 0x24 [] s.mode.back :=
  ⟨_, run, s.boardBack_spec.1, s.boardBack_spec.2 p peer⟩

theorem State.boardCommits_modeCommit {s u : State} {i : Instr} {ready : List Nat}
    (mode : u.mode = { s.mode with ready := ready }) (wide : s.mode.board = true) (run : exec i s = .next u.modeCommit) :
    s.BoardCommits i := by
  have after := u.commits_modeCommit.mode
  have st := congrArg Mode.st after
  rw [Mode.afterCommit_st, mode] at st
  rw [mode] at after
  exact ⟨_, run, by rw [after]; rfl, by rw [after]; rfl, by rw [after]; rfl, by rw [after]; rfl, by rw [after]; exact wide, st⟩

/-- D0 commits once every device of the board is ready, and otherwise waits on. -/
theorem State.boardCommit_of_ready {s : State} (wide : s.mode.board = true) (due : s.mode.st = .transitioning)
    (applied : s.mode.applied = 0xFFFFFF) (ready : ∀ p ∈ s.boardPeers, p ∈ s.mode.ready) :
    ∃ u : State, u.mode = s.mode ∧ s.boardCommit = u.modeCommit := by
  obtain ⟨sent, -⟩ := State.sends_each (s := s) s.boardPeers 0x23 (args := fun _ => []) fun _ _ => rfl
  refine ⟨_, sent.mode, if_pos ⟨wide, due, applied, ?_⟩⟩
  simpa using ready

theorem State.boardCommit_of_not_ready {s : State}
    (short : s.mode.applied ≠ 0xFFFFFF ∨ ∃ p ∈ s.boardPeers, p ∉ s.mode.ready) : s.boardCommit = s := by
  refine if_neg fun ⟨_, _, applied, ready⟩ => ?_
  rcases short with bits | ⟨p, peer, silent⟩
  · exact bits applied
  · exact silent (by simpa using List.all_eq_true.1 ready p peer)

theorem exec_modePrepare_refused {s : State} {st : Status} (follower : s.mod.pos.val ≠ 0) (refused : s.modeRefused false = some st) :
    exec .modePrepare s =
      .next (({ s with mode := { s.mode with result := st } } : State).control 0 0x22 [s.mod.pos.val]) := by
  show Host.Outcome.next (s.boardPrepare _) = _
  rw [State.boardPrepare, if_neg follower, refused]

theorem exec_modePrepare_begins {s : State} (follower : s.mod.pos.val ≠ 0) (accepted : s.modeRefused false = none) :
    exec .modePrepare s = .next (s.modeBegun true (s.mode.change + 1)) := by
  show Host.Outcome.next (s.boardPrepare _) = _
  rw [State.boardPrepare, if_neg follower, accepted]
  rfl

theorem exec_modeReady_of_changing {s : State} {from_ : Fin 8} (d0 : s.mod.pos.val = 0) (wide : s.mode.board = true)
    (due : s.mode.st = .transitioning) : exec (.modeReady from_) s =
      .next ({ s with mode := { s.mode with ready := from_.val :: s.mode.ready } } : State).boardCommit :=
  if_pos ⟨d0, wide, due⟩

theorem exec_modeTimeout_of_short {s : State} (due : s.mode.st = .transitioning) (short : s.mode.applied ≠ 0xFFFFFF) :
    exec .modeTimeout s = if (!s.mode.board) = true then .next s.modeBack else if s.mod.pos.val = 0 then .next s.boardBack
      else .next (s.modeBack.control 0 0x22 [s.mod.pos.val]) :=
  if_neg fun h => h.elim (absurd due) short

theorem exec_modeFail_of_changing {s : State} {from_ : Fin 8} (d0 : s.mod.pos.val = 0) (wide : s.mode.board = true)
    (due : s.mode.st = .transitioning) (other : from_.val ≠ 0) : exec (.modeFail from_) s = .next s.boardBack :=
  if_pos ⟨d0, wide, due, other⟩

theorem exec_boardReadyTimeout_of_changing {s : State} (d0 : s.mod.pos.val = 0) (wide : s.mode.board = true)
    (due : s.mode.st = .transitioning) : exec .boardReadyTimeout s = .next s.boardBack :=
  if_pos ⟨d0, wide, due⟩

theorem exec_modeAnswer_of_asked {s : State} {from_ : Fin 8} {committed : Bool} (waits : s.mode.waiting = true)
    (asked : from_.val ∈ s.mode.asked) : exec (.modeAnswer from_ committed) s = if committed = true then .next s.modeCommit
      else
        let left := s.mode.asked.filter (· ≠ from_.val)
        let u : State := { s with mode := { s.mode with asked := left } }
        .next (if left.isEmpty then u.modeBack else u) :=
  if_neg (by simp [waits, asked])

theorem exec_modeAnswer_last {s : State} {from_ : Fin 8} (waits : s.mode.waiting = true) (asked : s.mode.asked = [from_.val]) :
    exec (.modeAnswer from_ false) s = .next s.modeBack := by
  rw [exec_modeAnswer_of_asked waits (by rw [asked]; exact List.mem_cons_self), if_neg Bool.false_ne_true]
  simp [asked, State.modeBack]

theorem exec_modeAnswer_more {s : State} {from_ : Fin 8} (waits : s.mode.waiting = true) (asked : from_.val ∈ s.mode.asked)
    {p : Nat} (mem : p ∈ s.mode.asked) (other : p ≠ from_.val) : exec (.modeAnswer from_ false) s =
      .next { s with mode := { s.mode with asked := s.mode.asked.filter (· ≠ from_.val) } } := by
  rw [exec_modeAnswer_of_asked waits asked, if_neg Bool.false_ne_true]
  have left : p ∈ s.mode.asked.filter (· ≠ from_.val) := by simp [mem, other]
  exact congrArg Host.Outcome.next (if_neg fun none => by rw [List.isEmpty_iff.1 none] at left; exact nomatch left)

/-- A device without a decision asks each reachable peer, or rolls back. -/
theorem exec_modeDecisionTimeout_of_waiting {s : State} (waits : s.mode.waiting = true) : exec .modeDecisionTimeout s =
    if ((List.range 8).filter s.reachable).isEmpty = true then .next s.modeBack
    else .next (((List.range 8).filter s.reachable).foldl
      (fun u p => u.control p 0x25 [u.mod.pos.val, u.mode.change.toNat])
      { s with mode := { s.mode with asked := (List.range 8).filter s.reachable } }) :=
  if_neg (by simp [waits])

theorem exec_modeDecisionTimeout_alone {s : State} (waits : s.mode.waiting = true) (alone : ∀ p, p < 8 → s.reachable p = false) :
    exec .modeDecisionTimeout s = .next s.modeBack := by
  rw [exec_modeDecisionTimeout_of_waiting waits, if_pos]
  simpa using alone

theorem State.tells_modeDecisionTimeout {s : State} (waits : s.mode.waiting = true) {p : Nat} (device : p < 8)
    (up : s.reachable p = true) : s.Tells .modeDecisionTimeout p 0x25 [s.mod.pos.val, s.mode.change.toNat]
      { s.mode with asked := (List.range 8).filter s.reachable } := by
  have peer : p ∈ (List.range 8).filter s.reachable := by simp [device, up]
  obtain ⟨sent, told⟩ := State.sends_each (s := { s with mode := { s.mode with asked := (List.range 8).filter s.reachable } })
    ((List.range 8).filter s.reachable) 0x25 (args := fun u => [u.mod.pos.val, u.mode.change.toNat])
    fun u h => by rw [h.mod, h.mode]
  refine ⟨_, (exec_modeDecisionTimeout_of_waiting waits).trans (if_neg ?_), sent.mode, told p peer⟩
  intro none
  rw [List.isEmpty_iff.1 none] at peer
  exact nomatch peer

end Sys2Proof.Machine
end

section
/-!
PROOF. Mode changes of a device and of a board (R250 to R254): the statement.
-/

namespace Sys2Proof.Machine

/-- The last bit of a device change commits it (R253). -/
theorem exec_unitQuiesced_commits {s : State} {u : Fin 24} (due : s.mode.st = .transitioning) (decided : s.mode.waiting = false)
    (idle : u.val < 16 → s.shelfIdle u = true) (last : (s.mode.applies u).applied = 0xFFFFFF) (own : s.mode.board = false) :
    exec (.unitQuiesced u) s = .next ({ s with mode := s.mode.applies u } : State).modeCommit := by
  rw [exec_unitQuiesced_of_due due decided idle, if_neg (not_not.2 last), if_pos (by rw [own]; rfl)]

/-- The last bit of a follower reports READY (R254). -/
theorem exec_unitQuiesced_reports {s : State} {u : Fin 24} (due : s.mode.st = .transitioning) (decided : s.mode.waiting = false)
    (idle : u.val < 16 → s.shelfIdle u = true) (last : (s.mode.applies u).applied = 0xFFFFFF) (wide : s.mode.board = true)
    (follower : s.mod.pos.val ≠ 0) : exec (.unitQuiesced u) s =
      .next (({ s with mode := { s.mode.applies u with waiting := true } } : State).control 0 0x21 [s.mod.pos.val]) := by
  rw [exec_unitQuiesced_of_due due decided idle, if_neg (not_not.2 last), if_neg (by simp [wide]), if_neg follower]

/-- Settles O35: each command begins or refuses a change, and each event of a change does what its rule names, read off the
model's own branches; a commit is `State.Commits`, and the user area's bytes move by an injection. -/
theorem modesChange : Obligations.ModesChange := by
  refine ⟨⟨fun s q board accepted scope => ?_, fun s q accepted unknown => ?_, fun s u due decided idle => ?_,
    fun s u shelf busy => ?_, fun s due short own => ?_⟩, fun s from_ => ?_⟩
  · refine ⟨fun busy => ?_, fun free wide follower => ?_, fun free own active => ?_, fun free own quiet range => ?_,
      fun free own quiet fmt profile => ?_⟩
    · exact exec_modeCommand_refused accepted scope (State.modeRefused_of_busy busy)
    · exact exec_modeCommand_refused accepted scope (State.modeRefused_of_not_leader free wide follower)
    · exact exec_modeCommand_refused accepted scope (State.modeRefused_of_active free own active)
    · exact exec_modeCommand_refused accepted scope ((State.modeRefused_of_quiet free own quiet).trans (if_pos range))
    · exact exec_modeCommand_begins accepted scope
        ((State.modeRefused_of_quiet free own quiet).trans (if_neg (by omega)))
  · exact exec_modeCommandDevice accepted (by omega) (State.odMode_unknown unknown)
  · refine ⟨fun more => (exec_unitQuiesced_of_due due decided idle).trans (if_pos more), fun last own => ?_⟩
    let s' : State := { s with mode := s.mode.applies u }
    have h : s'.Commits s'.modeCommit := s'.commits_modeCommit
    refine ⟨_, exec_unitQuiesced_commits due decided idle last own, by rw [h.mode]; rfl, by rw [h.mode]; rfl,
      by rw [h.mode]; rfl, by rw [h.mode]; rfl, by rw [h.mode]; rfl, h.same_layout, h.new_layout, fun i low => ?_,
      h.kept State.cores (fun _ => rfl) fun _ => rfl, h.kept State.shelves (fun _ => rfl) fun _ => rfl,
      h.kept State.work (fun _ => rfl) fun _ => rfl, h.kept State.dir (fun _ => rfl) fun _ => rfl⟩
    rw [← profileCeiling_eq]
    exact h.islands i low
  · exact if_pos (.inr (.inr ⟨shelf, by rw [busy]; rfl⟩))
  · exact (exec_modeTimeout_of_short due short).trans (if_pos (by rw [own]; rfl))
  · refine ⟨fun n => ⟨fun d0 => ?_, fun follower st refused => ?_, fun follower accepted => ?_, ?_⟩, ?_⟩
    · exact congrArg Host.Outcome.next (if_pos d0)
    · exact State.tells_control (exec_modePrepare_refused follower refused) rfl
    · exact ⟨_, exec_modePrepare_begins follower accepted, rfl, rfl, rfl⟩
    · refine State.tells_control (s := s) ?_ rfl
      show Host.Outcome.next (s.control _ _ _) = _
      congr 3
      cases committed : s.mode.committed <;> by_cases same : s.mode.change = n <;> simp [same]
    refine ⟨fun u changing follower decided idle last => ?_, fun changing d0 applied ready => ?_,
      fun changing d0 short => ?_, fun changing d0 other p peer => ?_, fun changing d0 p peer => ?_,
      fun changing d0 short p peer => ?_, fun changing follower short => ?_, fun wide waits => ?_,
      fun changing follower => ?_, fun wide waits asked => ?_, fun waits asked => ?_, fun waits asked more => ?_,
      fun waits alone => ?_, fun waits p device up => State.tells_modeDecisionTimeout waits device up⟩
    · have told := State.tells_control
        (exec_unitQuiesced_reports changing.2 decided idle last changing.1 follower) rfl
      rwa [show s.mode.applies u = { s.mode with applied := 0xFFFFFF } from
        congrArg (fun bits => { s.mode with applied := bits }) last] at told
    · obtain ⟨wide, due⟩ := changing
      obtain ⟨t, mode, eq⟩ := State.boardCommit_of_ready
        (s := { s with mode := { s.mode with ready := from_.val :: s.mode.ready } }) wide due applied
        fun p peer => List.mem_cons.2 (ready p peer)
      exact State.boardCommits_modeCommit mode wide ((exec_modeReady_of_changing d0 wide due).trans (by rw [eq]))
    · obtain ⟨wide, due⟩ := changing
      rw [exec_modeReady_of_changing d0 wide due, State.boardCommit_of_not_ready]
      exact short.imp_right fun ⟨p, peer, silent⟩ => ⟨p, peer, mt List.mem_cons.1 (not_or.2 silent)⟩
    · exact State.tells_boardBack (exec_modeFail_of_changing d0 changing.1 changing.2 other) peer
    · exact State.tells_boardBack (exec_boardReadyTimeout_of_changing d0 changing.1 changing.2) peer
    · refine State.tells_boardBack ((exec_modeTimeout_of_short changing.2 short).trans ?_) peer
      rw [if_neg (by rw [changing.1]; exact Bool.false_ne_true), if_pos d0]
    · refine State.tells_control (u := s.modeBack) ((exec_modeTimeout_of_short changing.2 short).trans ?_) rfl
      rw [if_neg (by rw [changing.1]; exact Bool.false_ne_true), if_neg follower]
    · exact State.boardCommits_modeCommit (ready := s.mode.ready) rfl wide (if_pos ⟨wide, waits⟩)
    · exact if_pos ⟨changing.1, changing.2, follower⟩
    · exact State.boardCommits_modeCommit (ready := s.mode.ready) rfl wide
        ((exec_modeAnswer_of_asked waits asked).trans (if_pos rfl))
    · exact exec_modeAnswer_last waits asked
    · obtain ⟨p, mem, other⟩ := more
      exact exec_modeAnswer_more waits asked mem other
    · exact exec_modeDecisionTimeout_alone waits alone

end Sys2Proof.Machine
end

section
/-!
PROOF. Churn matrices (R92 to R95, R209): the statement fails where the codes of an EMIT cross a 2 MiB page and two entries
of the region table overlap (`overlappingRegions`, as in the refutation of O57). `State.JobDest` checks R315 once for the
whole range of codes and passes; the write checks the first page's piece by itself, which is refused, and the command ends
ACCESS_DENIED with no statistics posted. R314 admits no such table, but the statement speaks of every state.
-/

namespace Sys2Proof.Machine

/-! ### The end of an entry posts no statistics -/

theorem State.stats_noteEdges (s : State) (a n : Nat) : (s.noteEdges a n).stats = s.stats := by
  obtain ⟨-, -, rest⟩ := s.corrects_noteEdges a n
  rw [rest]

theorem State.stats_hbmStore (s : State) (a : Nat) (bs : List Byte) : (s.hbmStore a bs).1.stats = s.stats := by
  unfold State.hbmStore
  split
  · exact s.stats_noteEdges a bs.length
  · exact s.stats_noteEdges a _

theorem State.stats_hbmPut (s : State) (i : Init) (o : Nat) (bs : List Byte) : (s.hbmPut i o bs).1.stats = s.stats := by
  unfold State.hbmPut
  split
  · rfl
  · exact s.stats_hbmStore o bs

theorem State.stats_hbmPutAll (s : State) (i : Init) (l : List (Nat × List Byte)) : (s.hbmPutAll i l).1.stats = s.stats := by
  induction l generalizing s with
  | nil => rfl
  | cons e l ih =>
    rw [State.hbmPutAll]
    dsimp only
    split
    · exact s.stats_hbmPut i e.1 e.2
    · exact (ih _).trans (s.stats_hbmPut i e.1 e.2)

theorem State.stats_churnWrite (s : State) (p : Nat) (a : BitVec 64) (bs : List Byte) : (s.churnWrite p a bs).1.stats = s.stats := by
  unfold State.churnWrite
  split
  · rfl
  · split
    · rfl
    · unfold State.engineWrite
      split
      · rfl
      · exact s.stats_hbmPutAll _ _

theorem State.stats_churnDone (s : State) (sh : Nat) (c : ChurnCmd) (st : Status) (v : Nat) :
    (s.churnDone sh c st v).stats = s.stats := s.stats_churnWrite c.part c.doneAt _

/-! ### The entry -/

/-- An EMIT of partition 0 of a 2 × 1 matrix from 0x215000, ABSMAX by column, code 0: the 128 bytes of codes at 0x1FFFC0
cross from page 0 to page 1, the scale at 0x221000 and the completion word at 0x233000. -/
def crossingEmit : ChurnCmd :=
  { churnCmd 1 0 0 0 0 0 0 with
    body := BitVec.ofNat 512 (leNat (natLE 0x215000 8 ++ natLE 0x1FFFC0 8 ++ natLE 0x221000 8 ++ natLE (2 ^ 32 + 2) 8 ++
      natLE 0x10 8 ++ natLE 0 8 ++ natLE 0x233000 8)) }

/-- `overlappingRegions` with `crossingEmit` next in the ring of S0. -/
def crossingRing : State :=
  (overlappingRegions.sramWrite 0 0xBE0000 crossingEmit.bytes).sramWrite 0 0xBE1000 (natLE 1 8)

theorem crossingRing_churns : crossingRing.Churns 0 crossingEmit := ⟨by decide +kernel, by decide +kernel⟩

theorem crossingEmit_fieldsOk_addrsOk : crossingEmit.fieldsOk = true ∧ crossingRing.addrsOk crossingEmit = true := by decide +kernel

/-- The model's EMIT ends without statistics: the bytes of codes in page 0 belong to partition 1 by entry 16. -/
theorem emit_crossing_posts_nothing : (churnRow 1 emitReads emitOp (0 : Fin 16) crossingRing).stats.emitMon = [] := by decide +kernel

/-- Refutes O58: with overlapping region entries (`overlappingRegions`) the EMIT of `crossingEmit`, whose codes and scale meet
`State.JobDest`, writes no codes and posts nothing to the EMIT monitor. -/
theorem not_churnMatrices : ¬ Obligations.ChurnMatrices := by
  unfold Obligations.ChurnMatrices
  intro claim
  obtain ⟨fields, addrs⟩ := crossingEmit_fieldsOk_addrsOk
  obtain ⟨-, -, emits, -⟩ := claim crossingRing 0 crossingEmit crossingRing_churns fields addrs
  obtain ⟨u, run, -, -, -, stats, -⟩ := emits (by decide +kernel) (by decide +kernel) (by decide +kernel) (List.replicate 8 0) []
    0x1FFFC0 0x221000 (by decide +kernel) (by decide +kernel) (by unfold State.JobDest; decide +kernel)
    (by unfold State.JobDest; decide +kernel) (by decide +kernel)
  have ended := emit_crossing_posts_nothing
  rw [Host.Outcome.next.inj run] at ended
  have unposted : u.stats.emitMon = [] := (congrArg (·.emitMon) (u.stats_churnDone ..)).symm.trans ended
  rw [stats] at unposted
  exact absurd unposted (by decide +kernel)

end Sys2Proof.Machine
end

section
/-!
PROOF. Exceptions of job code (R151): the statement fails where the table of slots is not in ascending order. A discarded core
whose program has met a NaN flags the works of the shelf (`State.flagWorks`), and `tabMod` on such a table leaves a second
entry of the slot in it; the works that then end are those of the state after the discards, where that slot is listed twice,
and a part whose leader is another device reports its failure twice. The statement has the works of the state before. No run
from reset gives such a table, but the statement speaks of every state.
-/

namespace Sys2Proof.Machine

/-! ### Control messages that have gone out -/

/-- A control message. -/
def Emit.isControl : Emit → Bool
  | .control .. => true
  | _ => false

/-- How many control messages have gone out. -/
def State.controls (s : State) : Nat := s.out.countP Emit.isControl

theorem State.controls_fillSlots (s : State) (p fuel : Nat) : (s.fillSlots p fuel).controls = s.controls := by
  have flit (u : State) (b : List Byte) : (u.emit (.flit p b)).controls = u.controls := List.countP_append.trans rfl
  induction fuel generalizing s with
  | zero => rfl
  | succ fuel ih =>
    unfold State.fillSlots
    dsimp only
    split
    · rfl
    · split
      · exact (ih _).trans (flit _ _)
      · exact (ih _).trans (flit _ _)

/-- A message to a reachable peer is one more. -/
theorem State.controls_controlOf {s : State} {p : Nat} (up : s.reachable p = true) (part : Option Nat) (msgt : Nat) (args : List Nat) :
    (s.controlOf part p msgt args).controls = s.controls + 1 := by
  unfold State.controlOf
  rw [if_pos up]
  exact (State.controls_fillSlots _ p _).trans List.countP_append

/-! ### A stop sends nothing -/

theorem State.out_foldl {α : Type} (f : State → α → State) (quiet : ∀ u x, (f u x).out = u.out) (l : List α) (s : State) :
    (l.foldl f s).out = s.out := by
  induction l generalizing s with
  | nil => rfl
  | cons x l ih => exact (ih _).trans (quiet s x)

theorem State.out_flagWorks (s : State) (sh : Nat) (fl : BitVec 5) : (s.flagWorks sh fl).out = s.out := by
  unfold State.flagWorks
  split
  · rfl
  · refine State.out_foldl _ (fun _ _ => ?_) _ s
    rfl

theorem State.out_discardCore (s : State) (sh p : Nat) : (s.discardCore sh p).out = s.out := State.out_flagWorks _ sh _

theorem State.out_discardShelf (s : State) (sh : Nat) : (s.discardShelf sh).out = s.out := by
  unfold State.discardShelf
  refine State.out_foldl _ (fun u c => ?_) _ s
  split
  · exact u.out_discardCore sh _
  · rfl

theorem State.out_abandonOps (s : State) (f : RemOp → Bool) : (s.abandonOps f).out = s.out := rfl

theorem State.out_stopShelf (s : State) (sh : Nat) : (s.stopShelf sh).out = s.out :=
  (State.out_abandonOps _ _).trans (s.out_discardShelf sh)

theorem State.out_modShelf (s : State) (sh : Nat) (f : Shelf → Shelf) : (s.modShelf sh f).out = s.out := rfl

theorem State.out_dropChurn (s : State) (i : Nat) : (s.dropChurn i).out = s.out := by
  unfold State.dropChurn
  dsimp only
  exact State.out_foldl _ (fun u sh => u.out_modShelf sh _) _ s

theorem State.out_stopPrograms (s : State) (i : Nat) : (s.stopPrograms i).out = s.out := by
  unfold State.stopPrograms
  dsimp only
  rw [State.out_dropChurn]
  have alone (c : Prop) [Decidable c] (sh : Nat) : (if c then s.stopShelf sh else s).out = s.out := by
    split
    · exact s.out_stopShelf sh
    · rfl
  split
  · exact (State.out_foldl _ State.out_stopShelf _ _).trans (alone _ _)
  · exact alone _ _

theorem State.out_stopWork (s : State) (i : Nat) : (s.stopWork i).out = s.out :=
  (State.out_abandonOps _ _).trans (s.out_stopPrograms i)

/-- A part whose leader is another device that can be reached reports its failure by one message (R244). -/
theorem State.controls_workFail {s : State} {i : Nat} (st : Status) (live : (s.wk i).live = true) (going : (s.wk i).aborting = false)
    (grouped : ¬ ((s.wk i).group = 0 ∨ (s.wk i).alone = true)) (other : ghLeader (s.wk i).group ≠ s.mod.pos.val)
    (up : s.reachable (ghLeader (s.wk i).group) = true) : (s.workFail i st).controls = s.controls + 1 := by
  unfold State.workFail
  dsimp only
  rw [if_neg (by simp [live]), if_neg (by simp [going]), if_neg grouped, if_neg other, if_pos up]
  have kept : s.LinksKept ((s.stopWork i).modWork i fun w =>
      { w with stopped := true, staged := [], ready := false, copying := false }) :=
    (s.linksKept_stopWork i).trans (State.linksKept_modWork _ _ _)
  refine (State.controls_controlOf ((kept.reachable _).trans up) _ _ _).trans ?_
  exact congrArg (fun l => List.countP Emit.isControl l + 1) (s.out_stopWork i)

/-! ### The exception -/

/-- A SERVE work that runs on shelf 0, part 0 of a group that device 1 leads. -/
def ledWork : Work := { st := .running, desc := BitVec.ofNat 2048 (2 ^ 56 + 2 ^ 125) }

/-- Device 0 with a link to device 1; a program of S0.C0 has met a NaN; slot 5 stands before slot 3. -/
def unsortedSlots : State :=
  { State.reset with
    cores := [(0, { vec := { prog := some ⟨0, 0, 0, false⟩, nf := true } })]
    fabric := { State.reset.fabric with groups := [(1, { st := .up8 })] }
    work := { State.reset.work with slots := [(5, {}), (3, ledWork)] } }

/-- Job code of trim core S0.T0. -/
def jobCode : TrimBase := ⟨0, false, false, 0, 0, []⟩

/-- The state of the exception, as its trim core comes to it. -/
def unsortedEntered : State := unsortedSlots.enter ⟨0, 0⟩ jobCode

/-- The model sends two messages. -/
theorem trimException_reports_twice : ∃ t : State,
    exec (.trimException ⟨0, 0⟩ jobCode (.other 2)) unsortedSlots = .next t ∧ t.controls = 2 := by
  refine ⟨_, rfl, ?_⟩
  decide +kernel

/-- The statement's list names slot 3 once. -/
theorem unsortedEntered_worksOn : unsortedEntered.worksOn 0 = [3] := by decide +kernel

theorem unsortedEntered_wk : unsortedEntered.wk 3 = ledWork := by decide +kernel

theorem unsortedEntered_controls : unsortedEntered.controls = 0 := by decide +kernel

/-- The leader of slot 3's group is another device, and can be reached. -/
theorem unsortedEntered_leader : ghLeader ledWork.group ≠ unsortedEntered.mod.pos.val ∧
    unsortedEntered.reachable (ghLeader ledWork.group) = true := by decide +kernel

theorem ledWork_reports : ledWork.live = true ∧ ledWork.aborting = false ∧ ¬ (ledWork.group = 0 ∨ ledWork.alone = true) := by
  decide +kernel

/-- The trap and the discards leave the pins, the fabric and what was sent. -/
theorem State.sent_of_trap {s y x : State} (trap : { y with shelves := s.shelves, woken := s.woken } = s)
    (discards : { x with cores := y.cores, work := y.work, woken := y.woken } = y) :
    x.out = s.out ∧ x.mod = s.mod ∧ x.fabric = s.fabric := by
  have sent := (congrArg State.out discards).trans (congrArg State.out trap :)
  have pins := (congrArg State.mod discards).trans (congrArg State.mod trap :)
  have links := (congrArg State.fabric discards).trans (congrArg State.fabric trap :)
  exact ⟨sent, pins, links⟩

/-- Refutes O20: in `unsortedSlots` the works that run on shelf 0 are slot 3 alone, so that the statement has one message of
the failure; the model sends it twice. -/
theorem not_scaleSeedAndSummaryInstructions : ¬ Obligations.ScaleSeedAndSummaryInstructions := by
  unfold Obligations.ScaleSeedAndSummaryInstructions
  rintro ⟨-, -, -, traps⟩
  obtain ⟨-, trapped⟩ := traps unsortedSlots ⟨0, 0⟩ jobCode (.other 2) ⟨by decide +kernel, by decide +kernel⟩
  obtain ⟨-, -, -, y, ⟨⟨-, trapOwn, -⟩, -⟩, -, -, ends⟩ := trapped 2 rfl
  obtain ⟨x, run, -, -, flags, -, -, rest⟩ := ends rfl (by decide)
  obtain ⟨out, mod, fabric⟩ := State.sent_of_trap trapOwn rest
  have links : unsortedEntered.LinksKept x := .of_eq (congrArg _ fabric) (congrArg _ fabric) mod out
  have work : x.wk 3 = { ledWork with flags := (x.wk 3).flags } :=
    (flags 3).trans (congrArg (fun w : Work => { w with flags := (x.wk 3).flags }) unsortedEntered_wk)
  obtain ⟨live, going, grouped⟩ := ledWork_reports
  obtain ⟨other, up⟩ := unsortedEntered_leader
  have once : (x.workFail 3 St.trimFault).controls = 1 := by
    have one := State.controls_workFail (s := x) (i := 3) St.trimFault (by rw [work]; exact live) (by rw [work]; exact going)
      (by rw [work]; exact grouped) (by rw [work, mod]; exact other) (by rw [work, links.reachable]; exact up)
    exact one.trans (congrArg (· + 1) ((congrArg (List.countP Emit.isControl) out).trans unsortedEntered_controls))
  obtain ⟨t, ran, twice⟩ := trimException_reports_twice
  have same : t = (unsortedEntered.worksOn 0).foldl (fun u i => u.workFail i St.trimFault) x :=
    Host.Outcome.next.inj (ran.symm.trans run)
  rw [same, unsortedEntered_worksOn] at twice
  exact absurd (once.symm.trans twice) (by decide)

end Sys2Proof.Machine
end

section
/-!
PROOF. Vector programs (R106 to R114, R129, R130): what an instruction that issues can do (`vecIssue_of`), how a program starts
and ends, and the summaries.
-/

namespace Sys2Proof.Machine

/-! ### Issue (R112) -/

/-- The core after an instruction that left it as `k`: the program has passed the instruction. -/
def State.vecPassed (s : State) (p : Nat) (k : Core) : State :=
  s.modCore p fun _ => k.onVec fun v => { v with prog := (s.core p).passed }

/-- An instruction that issues is held where `act` has no effect; otherwise the program passes it, ends where the effect has
a status, and what the effect sends leaves the core. -/
theorem vecIssue_of {s : State} {c : CoreRef} {p op : Nat} {f : VF} (h : s.VIssues c p f op) (act : Core → VF → Option VEffect) :
    vecIssue c op act s = (act (s.core p) f).elim s fun e =>
      e.out (e.stop.elim (s.vecPassed p e.core) fun st => (s.vecPassed p e.core).endProgram c.sh p st) := by
  obtain ⟨g, prog, rfl, checked⟩ := h.word
  have defined : (vform (VF.of ((s.core p).vecWord g.pc)).op).isNone = false := by
    rw [Option.isNone_eq_false_iff, Option.isSome_iff_ne_none]
    intro undefined
    simp [vecCheck, undefined] at checked
  have passed : (s.core p).passed = some { g with pc := g.pc + 1 } := by rw [Core.passed, prog]; rfl
  rw [vecIssue, h.phys]
  simp only [prog, h.notHeld, h.kept, h.opcode, h.opcode ▸ defined, checked, State.vecPassed, passed]
  cases act (s.core p) (VF.of ((s.core p).vecWord g.pc)) with
  | none => simp
  | some e => cases stop : e.stop <;> simp [stop]

/-- An instruction without a status or a message: only the core has changed. -/
theorem vecIssue_acts {s : State} {c : CoreRef} {p op : Nat} {f : VF} (h : s.VIssues c p f op) {act : Core → VF → Option VEffect}
    {k : Core} (acts : act (s.core p) f = some ⟨k, none, id⟩) : vecIssue c op act s = s.vecPassed p k := by
  rw [vecIssue_of h, acts]
  rfl

theorem vecIssue_ends {s : State} {c : CoreRef} {p op : Nat} {f : VF} (h : s.VIssues c p f op) {act : Core → VF → Option VEffect}
    {k : Core} {st : Status} (acts : act (s.core p) f = some ⟨k, some st, id⟩) :
    vecIssue c op act s = (s.vecPassed p k).endProgram c.sh p st := by
  rw [vecIssue_of h, acts]
  rfl

theorem vecIssue_held {s : State} {c : CoreRef} {p op : Nat} {f : VF} (h : s.VIssues c p f op) {act : Core → VF → Option VEffect}
    (waits : act (s.core p) f = none) : vecIssue c op act s = s := by
  rw [vecIssue_of h, waits]
  rfl

theorem vecPure_of {s : State} {c : CoreRef} {p op : Nat} {f : VF} (h : s.VIssues c p f op) (act : Core → VF → Core) :
    vecPure c op act s = .next (s.vecPassed p (act (s.core p) f)) :=
  congrArg Host.Outcome.next (vecIssue_acts h rfl)

theorem State.onlyCore_vecPassed (s : State) (p : Nat) (k : Core) : OnlyCore s (s.vecPassed p k) p := onlyCore_modCore s p _

@[simp] theorem State.core_vecPassed (s : State) (p : Nat) (k : Core) :
    (s.vecPassed p k).core p = k.onVec fun v => { v with prog := (s.core p).passed } := State.core_modCore_same ..

/-- The trim cores stand as before. -/
theorem State.trim_vecPassed (s : State) (p : Nat) (k : Core) (sh j : Nat) : (s.vecPassed p k).trim sh j = s.trim sh j := rfl

/-! ### What the checks of R112 and R113 say of the fields -/

/-- The fields of an instruction whose opcode has form `o` and which passes its checks. -/
structure VF.Meets (f : VF) (o : VForm) : Prop where
  width : f.sew = 8 ∨ f.sew = 16 ∨ f.sew = 32
  word32 : o.w32 = true → f.sew = 32
  vector : o.sx = false → f.sx = false
  imm : f.sx = false → f.imm < 2 ^ o.imm
  immWord : f.imm < 2 ^ 32
  extra : vecExtra f = true

theorem VF.sew_of (w : Nat) : (VF.of w).sew = 8 ∨ (VF.of w).sew = 16 ∨ (VF.of w).sew = 32 ∨ (VF.of w).sew = 64 := by
  have range : bits w 35 34 < 4 := Nat.mod_lt _ (by decide)
  show 8 * 2 ^ bits w 35 34 = 8 ∨ 8 * 2 ^ bits w 35 34 = 16 ∨ 8 * 2 ^ bits w 35 34 = 32 ∨ 8 * 2 ^ bits w 35 34 = 64
  generalize bits w 35 34 = n at range
  interval_cases n <;> decide

theorem VF.meets_of_vecCheck {w : Nat} {o : VForm} (form : vform (VF.of w).op = some o) (checked : vecCheck w = true) :
    (VF.of w).Meets o := by
  simp only [vecCheck, form, Bool.and_eq_true, Bool.or_eq_true, Bool.not_eq_true', bne_iff_ne, beq_iff_eq,
    decide_eq_true_eq] at checked
  obtain ⟨⟨⟨⟨⟨⟨⟨⟨⟨⟨-, notWide⟩, -⟩, -⟩, -⟩, -⟩, -⟩, scalar⟩, word32⟩, imm⟩, extra⟩ := checked
  refine ⟨?_, fun wide => ?_, fun plain => ?_, fun plain => ?_, Nat.mod_lt _ (by decide), extra⟩
  · obtain w8 | w16 | w32 | w64 := VF.sew_of w
    exacts [.inl w8, .inr (.inl w16), .inr (.inr w32), absurd w64 notWide]
  · exact word32.resolve_left (by simp [wide])
  · exact scalar.resolve_left (by simp [plain])
  · exact imm.resolve_left (by simp [plain])

theorem State.VIssues.meets {s : State} {c : CoreRef} {p op : Nat} {f : VF} (h : s.VIssues c p f op) {o : VForm}
    (form : vform op = some o) : f.Meets o := by
  obtain ⟨g, -, rfl, checked⟩ := h.word
  exact VF.meets_of_vecCheck (h.opcode ▸ form) checked

/-- Every element width is that of some form. -/
theorem State.VIssues.sew {s : State} {c : CoreRef} {p op : Nat} {f : VF} (h : s.VIssues c p f op) :
    f.sew = 8 ∨ f.sew = 16 ∨ f.sew = 32 := by
  obtain ⟨g, -, rfl, checked⟩ := h.word
  cases form : vform (VF.of ((s.core p).vecWord g.pc)).op with
  | none => simp [vecCheck, form] at checked
  | some o => exact (VF.meets_of_vecCheck form checked).width

/-! ### The end of a program (R109, R110) -/

/-- Concatenation as a sum. -/
theorem toNat_append_eq_add {n m : Nat} (x : BitVec n) (y : BitVec m) : (x ++ y).toNat = x.toNat * 2 ^ m + y.toNat := by
  rw [BitVec.toNat_append, ← Nat.shiftLeft_add_eq_or_of_lt y.isLt, Nat.shiftLeft_eq]

/-- A completion record, whose bits 15 to 3 are zero (R109). -/
theorem vlast_eq (ptag : BitVec 32) (st : Status) (clip oor nf : Bool) :
    BitVec.ofNat 64 (ptag.toNat * 2 ^ 32 + st.toNat * 2 ^ 16 + (clip.toNat * 4 + oor.toNat * 2 + nf.toNat)) =
      ptag ++ st ++ (0 : BitVec 13) ++ BitVec.ofBool clip ++ BitVec.ofBool oor ++ BitVec.ofBool nf := by
  refine BitVec.eq_of_toNat_eq ?_
  simp only [toNat_append_eq_add, BitVec.toNat_ofNat, BitVec.toNat_ofBool, BitVec.ofNat_eq_ofNat, Nat.zero_mod]
  have := ptag.isLt
  have := st.isLt
  have := clip.toNat_lt
  have := oor.toNat_lt
  have := nf.toNat_lt
  omega

/-- What leaves the core of an ended program: its record, its count and its step flags. -/
theorem Core.endProgram_of {k : Core} {g : VecProg} (prog : k.vec.prog = some g) (st : Status) :
    k.endProgram st =
      (let v := k.vec
      let v' : Vec := { v with
        prog := none
        vlast := g.ptag ++ st ++ (0 : BitVec 13) ++ BitVec.ofBool v.clip ++ BitVec.ofBool v.oor ++ BitVec.ofBool v.nf
        vseq := v.vseq + 1 }
      { k with vec := v', stepf := if v.nf then stepFlagOr k.stepf 8 g.ttag.toNat else k.stepf }) := by
  rw [Core.endProgram, prog]
  simp only [vlast_eq]
  cases nf : k.vec.nf <;> simp [stepFlagOr]

/-- The works of the shelf take a program's NF, whatever the core holds by then. -/
theorem State.endProgram_eq (s : State) (sh p : Nat) (st : Status) : s.endProgram sh p st =
    { s.modCore p (·.endProgram st) with
      work := (s.flagWorks sh (recordBits false false false false ((s.core p).vec.prog.isSome && (s.core p).vec.nf))).work } :=
  s.flagWorks_modCore p sh _ _

/-- The same change of a core, in the same works. -/
theorem OnlyCore.withWork {s t : State} {p : Nat} (h : OnlyCore s t p) (w : WorkUnit) :
    OnlyCore { s with work := w } { t with work := w } p := by
  obtain ⟨others, rest, wakes⟩ := h
  exact ⟨others, congrArg (fun x : State => { x with work := w }) rest, wakes⟩

/-- A program ends in a state `u` that differs from `s` in its pc at most, and by `oor` in its flag OOR. -/
theorem State.vEnds_endProgram {s u : State} {sh p pc : Nat} {oor : Bool} {g : VecProg} (st : Status) (only : OnlyCore s u p)
    (works : ∀ fl, (u.flagWorks sh fl).work = (s.flagWorks sh fl).work) (runs : (s.core p).vec.prog = some g)
    (core : u.core p = (s.core p).onVec fun v => { v with prog := some { g with pc := pc }, oor := v.oor || oor }) :
    s.VEnds (u.endProgram sh p st) sh p st oor := by
  have ends := u.endProgram_eq sh p st
  have prog : (u.core p).vec.prog = some { g with pc := pc } := by rw [core]; rfl
  have nf : (u.core p).vec.nf = (s.core p).vec.nf := by rw [core]; rfl
  rw [prog, nf, works] at ends
  rw [ends]
  refine ⟨(only.trans (onlyCore_modCore u p _)).withWork _, rfl, fun g' runs' => ?_⟩
  cases runs.symm.trans runs'
  intro k v record v' flagged
  refine (State.core_modCore_same u p (·.endProgram st)).trans ?_
  rw [Core.endProgram_of prog, core]
  rfl

/-- An instruction that fails its checks ends the program, whichever row's opcode it has (R112). -/
theorem vecIssue_rejects {s : State} {c : CoreRef} {p op : Nat} {g : VecProg} (phys : s.phys c.sh c.c = some p)
    (notHeld : s.issueHeld c.sh = false) (kept : (s.core p).tile.discarding = false) (runs : (s.core p).vec.prog = some g)
    (bad : vecCheck ((s.core p).vecWord g.pc) = false)
    (row : (VF.of ((s.core p).vecWord g.pc)).op = op ∨ vform (VF.of ((s.core p).vecWord g.pc)).op = none)
    (act : Core → VF → Option VEffect) : s.VEnds (vecIssue c op act s) c.sh p St.vectorFieldInvalid false := by
  have rejects : vecIssue c op act s = s.endProgram c.sh p St.vectorFieldInvalid := by
    rw [vecIssue, phys]
    simp only [runs, notHeld, kept, bad]
    obtain same | undefined := row
    · simp [same]
    · simp [undefined]
  rw [rejects]
  refine State.vEnds_endProgram (pc := g.pc) _ (.refl s p) (fun _ => rfl) runs ?_
  simp only [Core.onVec, Bool.or_false, ← runs]

/-- An instruction that issues and ends the program. -/
theorem vecIssue_vEnds {s : State} {c : CoreRef} {p op : Nat} {f : VF} (h : s.VIssues c p f op) {act : Core → VF → Option VEffect}
    {st : Status} {oor : Bool}
    (acts : act (s.core p) f = some ⟨(s.core p).onVec fun v => { v with oor := v.oor || oor }, some st, id⟩) :
    s.VEnds (vecIssue c op act s) c.sh p st oor := by
  obtain ⟨g, runs, -, -⟩ := h.word
  rw [vecIssue_ends h acts]
  refine State.vEnds_endProgram (pc := g.pc + 1) _ (s.onlyCore_vecPassed p _)
    (fun fl => by rw [State.vecPassed, State.flagWorks_modCore]) runs ?_
  rw [State.core_vecPassed, Core.passed, runs]
  rfl

/-- The same where no flag rises. -/
theorem vecIssue_vEnds_as_is {s : State} {c : CoreRef} {p op : Nat} {f : VF} (h : s.VIssues c p f op)
    {act : Core → VF → Option VEffect} {st : Status} (acts : act (s.core p) f = some ⟨s.core p, some st, id⟩) :
    s.VEnds (vecIssue c op act s) c.sh p st false :=
  vecIssue_vEnds h (by simpa [Core.onVec] using acts)

/-- Every vector instruction is the issue of its own opcode. -/
theorem exec_vectorRow {c : CoreRef} (s : State) :
    ∀ e ∈ vectorRows c, ∃ act, exec e.2 s = .next (vecIssue c e.1 act s) := by
  simp only [vectorRows, List.cons_append, List.nil_append, ← List.forall_iff_forall_mem, List.Forall]
  and_intros
  all_goals exact ⟨_, rfl⟩

end Sys2Proof.Machine
end

section
/-!
PROOF. Lanes of a vector instruction (R105, R106, R114), and the values of a summary (R129).
-/

namespace Sys2Proof.Machine

/-! ### Lanes and elements (R105, R114) -/

/-- Lane i is below VLE and active. -/
def Core.active (k : Core) (f : VF) (i : Nat) : Bool := decide (i < k.vle f) && k.lane f i

/-- Lanes below VLE whose bit is set in the mask that VM selects. -/
def Core.chosen (k : Core) (f : VF) : List Nat := (List.range (k.vle f)).filter fun i => (k.mreg f.vm).getLsbD i

theorem Core.active_iff {k : Core} {f : VF} {i : Nat} : k.active f i = true ↔ i < k.vle f ∧ k.lane f i = true := by
  simp [Core.active]

/-- A range filtered by what only its first `n` numbers satisfy. -/
theorem filter_range_of_le {n m : Nat} (h : n ≤ m) (q : Nat → Bool) :
    (List.range m).filter (fun i => decide (i < n) && q i) = (List.range n).filter q := by
  obtain ⟨d, rfl⟩ := Nat.exists_eq_add_of_le h
  have above : ((List.range d).map (n + ·)).filter (fun i => decide (i < n) && q i) = [] := by simp
  rw [List.range_add, List.filter_append, above, List.append_nil]
  exact List.filter_congr fun i mem => by simp [List.mem_range.1 mem]

/-- The active lanes, listed from any bound above VLE. -/
theorem Core.actives_eq {k : Core} {f : VF} {m : Nat} (h : k.vle f ≤ m) :
    k.actives f = (List.range m).filter (k.active f) := (filter_range_of_le h _).symm

theorem Core.vle_of_sew {f : VF} (sew : f.sew = 32) (k : Core) : k.vle f = min k.vec.vl 64 := by rw [Core.vle, sew]

theorem Core.vle_le_64 {f : VF} (sew : f.sew = 32) (k : Core) : k.vle f ≤ 64 :=
  (k.vle_of_sew sew).trans_le (Nat.min_le_right ..)

/-- The same of an opcode that takes 32-bit elements only. -/
def Core.active32 (k : Core) (f : VF) (i : Nat) : Bool := decide (i < min k.vec.vl 64) && k.lane f i

theorem Core.active_of_sew {f : VF} (sew : f.sew = 32) (k : Core) : k.active f = k.active32 f := by
  unfold Core.active Core.active32
  rw [Core.vle_of_sew sew]

theorem elem_eq (k : Core) (r w i : Nat) : elem (k.vreg r) w i = (k.velem r w i).toNat := by
  rw [Core.velem, BitVec.extractLsb'_toNat, Nat.shiftRight_eq_div_pow, elem]

theorem Core.s1_eq (k : Core) (f : VF) (i : Nat) : k.s1 f i = (k.velem f.vs1 f.sew i).toNat := elem_eq ..

/-- The first source as an element of the width that the opcode takes. -/
theorem Core.s1_of_sew {f : VF} {w : Nat} (sew : f.sew = w) (k : Core) (i : Nat) : k.s1 f i = (k.velem f.vs1 w i).toNat := by
  rw [Core.s1_eq, sew]

/-! ### The greatest of a list -/

/-- Folding an operation that keeps the operand of the greater key, over values of which `ok` holds once folded. -/
theorem foldl_greatest {β : Type} [LinearOrder β] {op : Nat → Nat → Nat} {key : Nat → β} {ok : Nat → Prop}
    (choice : ∀ x y, ok x → op x y = if key x < key y then y else x) (keeps : ∀ x y, ok x → ok (op x y)) (l : List Nat) {x : Nat}
    (start : ok x) : ok (l.foldl op x) ∧ (l.foldl op x = x ∨ l.foldl op x ∈ l) ∧ key x ≤ key (l.foldl op x) ∧
      ∀ y ∈ l, key y ≤ key (l.foldl op x) := by
  induction l generalizing x with
  | nil => exact ⟨start, .inl rfl, le_rfl, fun y mem => nomatch mem⟩
  | cons z l ih =>
    obtain ⟨good, from_, above, all⟩ := ih (keeps x z start)
    have step := choice x z start
    have low : key x ≤ key (op x z) ∧ key z ≤ key (op x z) := by
      rw [step]
      split
      · exact ⟨le_of_lt ‹_›, le_rfl⟩
      · exact ⟨le_rfl, not_lt.1 ‹_›⟩
    refine ⟨good, ?_, low.1.trans above, List.forall_mem_cons.2 ⟨low.2.trans above, all⟩⟩
    rw [List.foldl_cons, List.mem_cons]
    obtain same | mem := from_
    · rw [same, step]
      split
      · exact .inr (.inl rfl)
      · exact .inl rfl
    · exact .inr (.inr mem)

/-! ### Values of a summary (R129) -/

section
variable (k : Core) (f : VF)

theorem sumValue_any : sumValue k f 0 = if k.chosen f = [] then 0 else 1 := by
  simp only [sumValue, Core.chosen, List.filter_eq_nil_iff, List.mem_range, List.any_map]
  split
  · simp_all
  · simp_all

theorem sumValue_all : sumValue k f 1 = if (k.chosen f).length = k.vle f then 1 else 0 := by
  have all := List.length_filter_eq_length_iff (l := List.range (k.vle f)) (p := fun i => (k.mreg f.vm).getLsbD i)
  rw [List.length_range] at all
  simp only [sumValue, Core.chosen, all, List.all_map]
  split
  · simp_all
  · simp_all

theorem sumValue_count : sumValue k f 2 = (k.chosen f).length := by
  simp only [sumValue, Core.chosen, List.filter_map, List.length_map]
  rfl

theorem sumValue_first : sumValue k f 3 = (k.chosen f).headD 0xFFFFFFFF := by
  have head : (k.chosen f).head? = (List.range (k.vle f)).find? fun i => (k.mreg f.vm).getLsbD i := List.head?_filter
  simp only [sumValue, List.headD_eq_head?_getD, head]
  cases first : ((List.range (k.vle f)).map fun i => (k.mreg f.vm).getLsbD i).findIdx? id with
  | none =>
    have none : (List.range (k.vle f)).find? (fun i => (k.mreg f.vm).getLsbD i) = none := by simpa using first
    rw [none]
    rfl
  | some i =>
    have some : (List.range (k.vle f)).find? (fun i => (k.mreg f.vm).getLsbD i) = some i := by
      simpa [List.findIdx?_eq_some_iff_getElem, and_comm, and_assoc] using first
    rw [some]
    rfl

/-- The greatest active element as a signed number. -/
theorem sumValue_max : (∀ i ∈ k.actives f, sext 32 (k.s1 f i) ≤ sext 32 (sumValue k f 4)) ∧
    (sumValue k f 4 = 0x80000000 ∨ ∃ i ∈ k.actives f, sumValue k f 4 = k.s1 f i) := by
  obtain ⟨-, from_, -, all⟩ := foldl_greatest (op := VRedOp.max.app 32) (key := sext 32) (ok := fun _ => True)
    (fun _ _ _ => rfl) (fun _ _ _ => trivial) ((k.actives f).map (k.s1 f)) (x := 0x80000000) trivial
  exact ⟨fun i mem => all _ (List.mem_map_of_mem mem), from_.imp_right fun mem => by
    obtain ⟨i, mem, same⟩ := List.mem_map.1 mem
    exact ⟨i, mem, same.symm⟩⟩

theorem sumValue_maxu : (∀ i ∈ k.actives f, k.s1 f i ≤ sumValue k f 5) ∧
    (sumValue k f 5 = 0 ∨ ∃ i ∈ k.actives f, sumValue k f 5 = k.s1 f i) := by
  have choice (x y : Nat) : Nat.max x y = if x < y then y else x := by
    show max x y = _
    split <;> omega
  obtain ⟨-, from_, -, all⟩ := foldl_greatest (op := Nat.max) (key := id) (ok := fun _ => True)
    (fun x y _ => choice x y) (fun _ _ _ => trivial) ((k.actives f).map (k.s1 f)) (x := 0) trivial
  exact ⟨fun i mem => all _ (List.mem_map_of_mem mem), from_.imp_right fun mem => by
    obtain ⟨i, mem, same⟩ := List.mem_map.1 mem
    exact ⟨i, mem, same.symm⟩⟩

end

/-- The order of FP32 values with NaN below all of them. -/
def f32Key (a : Nat) : WithBot Int := if f32IsNaN a then ⊥ else (f32Ord a : WithBot Int)

theorem f32MaxNum_choice {x : Nat} (y : Nat) (ok : f32IsNaN x = true → x = f32NaN) :
    f32MaxNum x y = if f32Key x < f32Key y then y else x := by
  unfold f32MaxNum f32Key
  cases nx : f32IsNaN x <;> cases ny : f32IsNaN y
  · simp
  · simp
  · simp
  · simp [ok nx]

theorem f32MaxNum_canonical (x y : Nat) : f32IsNaN (f32MaxNum x y) = true → f32MaxNum x y = f32NaN := by
  unfold f32MaxNum
  cases nx : f32IsNaN x <;> cases ny : f32IsNaN y
  · simp only [Bool.false_eq_true, if_false]
    split <;> simp [nx, ny]
  · simp [nx]
  · simp [ny]
  · simp

/-- The greatest active FP32 element, a NaN ignored. -/
theorem sumValue_fmax (k : Core) (f : VF) : (k.actives f = [] → sumValue k f 6 = 0xFF800000) ∧
    (k.actives f ≠ [] → (∀ i ∈ k.actives f, f32IsNaN (k.s1 f i) = true) → sumValue k f 6 = 0x7FC00000) ∧
    ((∃ i ∈ k.actives f, f32IsNaN (k.s1 f i) = false) →
      (∃ i ∈ k.actives f, f32IsNaN (k.s1 f i) = false ∧ sumValue k f 6 = k.s1 f i) ∧
      ∀ i ∈ k.actives f, f32IsNaN (k.s1 f i) = false → f32Ord (k.s1 f i) ≤ f32Ord (sumValue k f 6)) := by
  have folded (some : k.actives f ≠ []) : sumValue k f 6 = ((k.actives f).map (k.s1 f)).foldl f32MaxNum f32NaN := by
    unfold sumValue
    obtain ⟨i, l, cons⟩ := List.exists_cons_of_ne_nil some
    rw [cons]
    rfl
  obtain ⟨canonical, from_, -, all⟩ := foldl_greatest (key := f32Key) (ok := fun x => f32IsNaN x = true → x = f32NaN)
    (fun _ => f32MaxNum_choice) (fun x y _ => f32MaxNum_canonical x y) ((k.actives f).map (k.s1 f)) (x := f32NaN) fun _ => rfl
  refine ⟨fun none => by simp [sumValue, none], fun some nans => ?_, fun ⟨i, mem, num⟩ => ?_⟩
  · rw [folded some]
    refine from_.elim id fun mem => canonical ?_
    obtain ⟨i, mem, same⟩ := List.mem_map.1 mem
    exact same ▸ nans i mem
  · rw [folded (List.ne_nil_of_mem mem)]
    have key {j : Nat} (mem : j ∈ k.actives f) := all _ (List.mem_map_of_mem mem)
    generalize ((k.actives f).map (k.s1 f)).foldl f32MaxNum f32NaN = r at from_ key
    have number : f32IsNaN r = false := by
      have above := key mem
      cases nan : f32IsNaN r
      · rfl
      · simp [f32Key, num, nan] at above
    refine ⟨?_, fun j mem num => ?_⟩
    · obtain rfl | mem := from_
      · exact absurd number (by decide)
      · obtain ⟨j, mem, same⟩ := List.mem_map.1 mem
        exact ⟨j, mem, same ▸ number, same.symm⟩
    · simpa [f32Key, num, number] using key mem

/-- A summary's value fits its field. -/
theorem sumValue_lt {k : Core} {f : VF} (sew : f.sew = 32) (n : Fin 7) : sumValue k f n < 2 ^ 32 := by
  have lanes := k.vle_le_64 sew
  have word i : k.s1 f i < 2 ^ 32 := by rw [Core.s1_of_sew sew]; exact BitVec.isLt _
  have count : (k.chosen f).length ≤ 64 := (List.length_filter_le ..).trans (by rwa [List.length_range])
  fin_cases n
  · exact (sumValue_any k f).trans_lt (by split <;> decide)
  · exact (sumValue_all k f).trans_lt (by split <;> decide)
  · exact (sumValue_count k f).trans_lt (by omega)
  · refine (sumValue_first k f).trans_lt ?_
    cases chosen : k.chosen f with
    | nil => decide
    | cons i l =>
      have mem : i ∈ k.chosen f := chosen ▸ List.mem_cons_self
      have := List.mem_range.1 (List.mem_filter.1 mem).1
      exact this.trans (by omega)
  · obtain low | ⟨i, -, same⟩ := (sumValue_max k f).2
    · exact low.trans_lt (by decide)
    · exact same.trans_lt (word i)
  · obtain low | ⟨i, -, same⟩ := (sumValue_maxu k f).2
    · exact low.trans_lt (by decide)
    · exact same.trans_lt (word i)
  · obtain ⟨none, nans, some⟩ := sumValue_fmax k f
    by_cases empty : k.actives f = []
    · exact (none empty).trans_lt (by decide)
    by_cases number : ∃ i ∈ k.actives f, f32IsNaN (k.s1 f i) = false
    · obtain ⟨⟨i, -, -, same⟩, -⟩ := some number
      exact same.trans_lt (word i)
    · exact (nans empty (by simpa using number)).trans_lt (by decide)

/-- The fields of a summary word (R129). -/
theorem sumWord_eq {k : Core} {f : VF} (sew : f.sew = 32) (n : Fin 7) (kind : f.imm % 16 = n.val) : sumWord k f =
    BitVec.ofNat 4 n.val ++ 0#4 ++ (k.vec.vseq + 1).setWidth 8 ++ 0#16 ++ BitVec.ofNat 32 (sumValue k f n) := by
  have value := sumValue_lt (k := k) sew n
  refine BitVec.eq_of_toNat_eq ?_
  simp only [sumWord, kind, toNat_append_eq_add, BitVec.toNat_ofNat, BitVec.toNat_setWidth, BitVec.toNat_add, BitVec.ofNat_eq_ofNat,
    Nat.mod_eq_of_lt value]
  have := n.isLt
  omega

end Sys2Proof.Machine
end

section
/-!
PROOF. Vector programs and summaries (R106, R108 to R113, R129, R130): the statement.
-/

namespace Sys2Proof.Machine

theorem ofNat_bits (w : BitVec 64) (hi lo : Nat) :
    BitVec.ofNat (hi + 1 - lo) (bits w.toNat hi lo) = w.extractLsb' lo (hi + 1 - lo) :=
  BitVec.eq_of_toNat_eq (by simp [bits, Nat.shiftRight_eq_div_pow])

/-- The next queued program starts (R106). -/
theorem exec_vectorProgramStart_of_queued {s : State} {c : CoreRef} {p : Nat} {w : BitVec 64} {q : List (BitVec 64)}
    (phys : s.phys c.sh c.c = some p) (notHeld : s.issueHeld c.sh = false) (kept : (s.core p).tile.discarding = false)
    (idle : (s.core p).vec.prog = none) (queue : (s.core p).vec.queue = w :: q) :
    ∃ t, exec (.vectorProgramStart c) s = .next t ∧ OnlyCore s t p ∧ t.core p = (s.core p).onVec fun e => { e with
      queue := q, vl := 64, nf := false, oor := false, clip := false
      prog := some ⟨w.extractLsb' 32 32, w.extractLsb' 20 12, (w.extractLsb' 0 18).toNat, s.permuteTrap⟩ } := by
  refine ⟨_, if_neg (by simp [notHeld]), ?_⟩
  rw [State.onCore_some phys]
  refine ⟨onlyCore_modCore s p _, ?_⟩
  rw [State.core_modCore_same]
  have pc : bits w.toNat 17 0 = (w.extractLsb' 0 18).toNat := by simp [bits]
  simp only [idle, queue, kept, Bool.false_eq_true, if_false, ofNat_bits w 63 32, ofNat_bits w 31 20, pc]

/-- An instruction that changes VL alone. -/
theorem vecPure_setsVl {s : State} {c : CoreRef} {p op : Nat} {f : VF} (h : s.VIssues c p f op) {act : Core → VF → Core} {vl : Nat}
    (sets : act (s.core p) f = (s.core p).onVec fun v => { v with vl := vl }) : ∃ t, vecPure c op act s = .next t ∧ OnlyCore s t p ∧
      (let v : Vec := { (s.core p).vec with prog := (s.core p).passed, vl := vl }
      t.core p = { s.core p with vec := v }) := by
  refine ⟨_, vecPure_of h act, s.onlyCore_vecPassed p _, ?_⟩
  rw [State.core_vecPassed, sets]
  rfl

/-- The summary goes on its way to the port that IMM names (R130). -/
theorem exec_vsum_of_room {s : State} {c : CoreRef} {p : Nat} {f : VF} (h : s.VIssues c p f 0x04) {port : Fin 4}
    (names : f.imm / 16 % 4 = port.val) (lead : s.lead c.sh = some c.c.val)
    (room : (s.trim c.sh port).port.length + (s.trim c.sh port).coming.length < 16) :
    exec (.vsum c) s = .next ((s.vecPassed p (s.core p)).modTrim c.sh port fun r =>
      { r with coming := r.coming ++ [sumWord (s.core p) f] }) := by
  refine congrArg Host.Outcome.next ((vecIssue_of h _).trans ?_)
  simp only [names, lead, ne_eq, not_true, if_false, if_neg (not_le.2 room)]
  rfl

theorem OnlyTrim.trans {s t u : State} {sh k : Nat} (h : OnlyTrim s t sh k) (g : OnlyTrim t u sh k) : OnlyTrim s u sh k := by
  obtain ⟨shelf, trims, own⟩ := h
  obtain ⟨shelf', trims', own'⟩ := g
  refine ⟨shelf.trans shelf', fun i other => (trims' i other).trans (trims i other), ?_⟩
  rw [← own, ← own']

/-- A summary that leaves a core changes its shelf's trim core `k` alone, beside the core. -/
theorem State.onlyTrim_vecPassed (s : State) {p sh : Nat} (mine : p / 9 = sh) (core : Core) (k : Nat) (g : Trim → Trim) :
    OnlyTrim { s with cores := (s.vecPassed p core).cores } ((s.vecPassed p core).modTrim sh k g) sh k :=
  .trans (t := s.vecPassed p core)
    ⟨⟨fun _ _ => rfl, rfl, mine ▸ (s.onlyCore_vecPassed p core).2.2⟩, fun _ _ => rfl, rfl⟩ (onlyTrim_modTrim ..)

/-- The oldest summary on its way reaches the port (R130). -/
theorem exec_summaryDeliver_of_coming {s : State} {t : TrimRef} {w : BitVec 64} {l : List (BitVec 64)}
    (coming : (s.trim t.sh t.k).coming = w :: l) : ∃ s', exec (.summaryDeliver t) s = .next s' ∧ OnlyTrim s s' t.sh t.k ∧
      s'.trim t.sh t.k = { s.trim t.sh t.k with coming := l, port := (s.trim t.sh t.k).port ++ [w] } := by
  refine ⟨_, rfl, onlyTrim_modTrim s t.sh t.k _, ?_⟩
  rw [State.trim_modTrim_same]
  simp only [coming]

/-- Settles O21: an instruction acts as `vecIssue_of` says, a program ends as `State.vEnds_endProgram` says, and a summary's word
is `sumWord_eq`, with the value of its kind. -/
theorem vectorProgramsAndSummaries : Obligations.VectorProgramsAndSummaries := by
  unfold Obligations.VectorProgramsAndSummaries
  refine ⟨fun s c p phys notHeld kept => ⟨fun w q idle queue => ?_, fun f op issues => ⟨?_, ?_⟩, fun g runs bad e row opcode => ?_⟩,
    fun s c p f kind port issues imm => ?_, fun s t w l coming => exec_summaryDeliver_of_coming coming⟩
  · exact exec_vectorProgramStart_of_queued phys notHeld kept idle queue
  · refine List.forall_iff_forall_mem.1 ⟨?_, ?_, ?_⟩
    all_goals
      rintro rfl
      exact vecPure_setsVl issues rfl
  · rintro rfl
    exact ⟨_, rfl, vecIssue_vEnds_as_is issues rfl⟩
  · obtain ⟨act, run⟩ := exec_vectorRow s e row
    exact ⟨_, run, vecIssue_rejects phys notHeld kept runs bad opcode act⟩
  · intro k n active lanes a set r word
    have sew : f.sew = 32 := (issues.meets (o := { vd := .none, w32 := true, imm := 6 }) rfl).word32 rfl
    have names : f.imm / 16 % 4 = port.val := by omega
    have below : k.vle f = n := k.vle_of_sew sew
    have actives : k.actives f = lanes := by
      rw [Core.actives_eq (k.vle_le_64 sew), Core.active_of_sew sew]
      rfl
    have chosen : k.chosen f = set := by rw [Core.chosen, below]
    have element : k.s1 f = a := funext (k.s1_of_sew sew)
    refine ⟨fun lead room => ?_, fun lead full => ?_, fun follower => ?_⟩
    · refine ⟨_, sumValue k f kind, exec_vsum_of_room issues names lead room, (s.onlyCore_vecPassed p k).1,
        s.core_vecPassed p k, s.onlyTrim_vecPassed (State.phys_shelf issues.phys) k port _, ?_, ?_⟩
      · rw [State.trim_modTrim_same, State.trim_vecPassed, sumWord_eq sew kind (by omega)]
      · rw [← actives, ← chosen, ← element, ← below]
        refine ⟨fun e => ?_, fun e => ?_, fun e => ?_, fun e => ?_, fun e => ?_, fun e => ?_, fun e => ?_⟩ <;> rw [e]
        exacts [sumValue_any k f, sumValue_all k f, sumValue_count k f, sumValue_first k f, sumValue_max k f, sumValue_maxu k f,
          sumValue_fmax k f]
    · refine congrArg Host.Outcome.next (vecIssue_held issues ?_)
      simp only [names, lead, ne_eq, not_true, if_false]
      exact if_pos full
    · exact ⟨_, rfl, vecIssue_vEnds_as_is issues (if_pos follower)⟩

end Sys2Proof.Machine
end

section
/-!
PROOF. What a vector instruction writes (R105, R112 to R115): the elements of a register, the bits of a mask, and
nothing else.
-/

namespace Sys2Proof.Machine

/-! ### Elements and bits written (R105) -/

/-- Lane i of a packed list: its value, or the old lane where the list has none. -/
theorem packLanes_lane (w : Nat) (l : List (Option Nat)) (old i : Nat) : packLanes w old l / 2 ^ (w * i) % 2 ^ w =
    (((l[i]?).join).map (· % 2 ^ w)).getD (old / 2 ^ (w * i) % 2 ^ w) := by
  induction l generalizing old i with
  | nil => simp [packLanes]
  | cons o l ih =>
    have low : (o.getD (old % 2 ^ w)) % 2 ^ w < 2 ^ w := Nat.mod_lt _ (Nat.two_pow_pos w)
    cases i with
    | zero =>
      rw [packLanes, Nat.mul_zero, pow_zero, Nat.div_one, Nat.add_mul_mod_self_left, Nat.mod_eq_of_lt low]
      cases o <;> simp
    | succ i =>
      rw [packLanes, Nat.mul_succ, Nat.add_comm (w * i), pow_add, ← Nat.div_div_eq_div_mul, ← Nat.div_div_eq_div_mul,
        Nat.add_mul_div_left _ _ (Nat.two_pow_pos w), Nat.div_eq_of_lt low, Nat.zero_add, ih]
      simp

/-- The lane of a number kept in `m` bits is that of the number. -/
theorem toNat_ofNat_lane {m w i : Nat} (x : Nat) (inside : w * i + w ≤ m) :
    (BitVec.ofNat m x).toNat / 2 ^ (w * i) % 2 ^ w = x / 2 ^ (w * i) % 2 ^ w := by
  obtain ⟨d, rfl⟩ := Nat.exists_eq_add_of_le inside
  rw [BitVec.toNat_ofNat, Nat.add_assoc, pow_add, Nat.mod_mul_right_div_self, pow_add, Nat.mod_mul_right_mod]

/-- Element i of width w lies inside a register. -/
theorem lane_inside {w i : Nat} (inside : i < 2048 / w) : w * i + w ≤ 2048 :=
  (Nat.mul_le_mul_left w inside).trans (Nat.mul_div_le 2048 w)

theorem Core.vreg_setV (k : Core) (d w r : Nat) (l : List (Option Nat)) : (k.setV d w l).vreg r =
    if r = d then BitVec.ofNat 2048 (packLanes w (k.vreg d).toNat l) else k.vreg r := tabGet_set ..

theorem Core.velem_setV (k : Core) (d w : Nat) (l : List (Option Nat)) {i : Nat} (inside : i < 2048 / w) :
    (k.setV d w l).velem d w i = (((l[i]?).join).map (BitVec.ofNat w)).getD (k.velem d w i) := by
  refine BitVec.eq_of_toNat_eq ?_
  rewrite [Core.velem, Core.vreg_setV, if_pos rfl, BitVec.extractLsb'_toNat, Nat.shiftRight_eq_div_pow,
    toNat_ofNat_lane _ (lane_inside inside), packLanes_lane]
  cases (l[i]?).join with
  | none => simp [Core.velem, Nat.shiftRight_eq_div_pow]
  | some x => simp

theorem getLsbD_ofNat_packLanes (m : BitVec 256) (l : List (Option Bool)) {i : Nat} (inside : i < 256) :
    (BitVec.ofNat 256 (packLanes 1 m.toNat (l.map (·.map Bool.toNat)))).getLsbD i = ((l[i]?).join).getD (m.getLsbD i) := by
  have bit := packLanes_lane 1 (l.map (·.map Bool.toNat)) m.toNat i
  rw [BitVec.getLsbD_ofNat, Nat.testBit_eq_decide_div_mod_eq, decide_eq_true inside, Bool.true_and,
    BitVec.getLsbD, Nat.testBit_eq_decide_div_mod_eq]
  rw [one_mul, pow_one] at bit
  rw [bit, List.getElem?_map]
  rcases l[i]? with _ | _ | _ | _ <;> simp

/-! ### What an instruction that writes lanes does (R112, R114) -/

/-- The flags after an instruction that raises these. -/
def Core.flagged (k : Core) (nf oor clip : Bool) : Core :=
  k.onVec fun v => { v with nf := v.nf || nf, oor := v.oor || oor, clip := v.clip || clip }

theorem Core.flagged_false (k : Core) : k.flagged false false false = k := by simp [Core.flagged, Core.onVec]

theorem Core.vreg_congr {k k' : Core} (h : k'.vec.v = k.vec.v) (r : Nat) : k'.vreg r = k.vreg r :=
  congrArg (tabGet 0 · r) h

theorem Core.velem_congr {k k' : Core} (h : k'.vec.v = k.vec.v) (r w i : Nat) : k'.velem r w i = k.velem r w i :=
  congrArg (BitVec.extractLsb' (w * i) w) (Core.vreg_congr h r)

theorem Core.mreg_congr {k k' : Core} (h : k'.vec.m = k.vec.m) (r : Nat) : k'.mreg r = k.mreg r := congrArg (tabGet 0 · r) h

/-- A list of lanes written to a register. -/
theorem State.vWrites_setV {s : State} {p d w : Nat} {l : List (Option Nat)} {new : Nat → Option (BitVec w)} (nf oor clip : Bool)
    (lanes : ∀ i, i < 2048 / w → ((l[i]?).join).map (BitVec.ofNat w) = new i) :
    s.VWrites (s.vecPassed p (((s.core p).setV d w l).flagged nf oor clip)) p d w new nf oor clip := by
  have core := s.core_vecPassed p (((s.core p).setV d w l).flagged nf oor clip)
  have v := congrArg (·.vec.v) core
  exact {
    only := s.onlyCore_vecPassed p _
    passed := congrArg (·.vec.prog) core
    elems := fun i inside => by
      rewrite [← lanes i inside]
      exact (Core.velem_congr v d w i).trans (Core.velem_setV _ d w l inside)
    regs := fun r other => (Core.vreg_congr v r).trans ((Core.vreg_setV _ d w r l).trans (if_neg other))
    setNF := congrArg (·.vec.nf) core
    setOOR := congrArg (·.vec.oor) core
    setCLIP := congrArg (·.vec.clip) core
    rest := by
      rewrite [core]
      simp only [Core.flagged, Core.setV, Core.onVec] }

/-- A mask register written. -/
theorem State.mWrites_mask {s : State} {p d : Nat} {m : BitVec 256} {new : Nat → Option Bool}
    (bits : ∀ i, i < 256 → m.getLsbD i = (new i).getD (((s.core p).mreg d).getLsbD i)) :
    s.MWrites (s.vecPassed p ((s.core p).onVec fun v => { v with m := tabSet 0 v.m d m })) p d new := by
  have core := s.core_vecPassed p ((s.core p).onVec fun v => { v with m := tabSet 0 v.m d m })
  have mask := congrArg (·.vec.m) core
  have written r := (Core.mreg_congr mask r).trans (tabGet_set 0 (s.core p).vec.m d r m)
  exact {
    only := s.onlyCore_vecPassed p _
    passed := congrArg (·.vec.prog) core
    bits := fun i inside => by rw [written, if_pos rfl, bits i inside]
    regs := fun r other => (written r).trans (if_neg other)
    rest := by
      rewrite [core]
      simp only [Core.onVec] }

/-- A list of bits written to a mask register. -/
theorem State.mWrites_setM {s : State} {p d : Nat} {l : List (Option Bool)} {new : Nat → Option Bool}
    (lanes : ∀ i, i < 256 → (l[i]?).join = new i) : s.MWrites (s.vecPassed p ((s.core p).setM d l)) p d new :=
  State.mWrites_mask fun i inside => (getLsbD_ofNat_packLanes _ l inside).trans (by rw [lanes i inside]; rfl)

/-- An instruction that writes a list of lanes and raises flags. -/
theorem vecPure_writes {s : State} {c : CoreRef} {p op d w : Nat} {f : VF} (h : s.VIssues c p f op) {act : Core → VF → Core}
    {l : List (Option Nat)} {new : Nat → Option (BitVec w)} (nf oor clip : Bool)
    (acts : act (s.core p) f = ((s.core p).setV d w l).flagged nf oor clip)
    (lanes : ∀ i, i < 2048 / w → ((l[i]?).join).map (BitVec.ofNat w) = new i) :
    ∃ t, vecPure c op act s = .next t ∧ s.VWrites t p d w new nf oor clip :=
  ⟨_, vecPure_of h act, acts ▸ State.vWrites_setV nf oor clip lanes⟩

/-- An instruction that writes a list of lanes and leaves the flags. -/
theorem vecPure_setV {s : State} {c : CoreRef} {p op d w : Nat} {f : VF} (h : s.VIssues c p f op) {act : Core → VF → Core}
    {l : List (Option Nat)} {new : Nat → Option (BitVec w)} (acts : act (s.core p) f = (s.core p).setV d w l)
    (lanes : ∀ i, i < 2048 / w → ((l[i]?).join).map (BitVec.ofNat w) = new i) :
    ∃ t, vecPure c op act s = .next t ∧ s.VWrites t p d w new false false false :=
  vecPure_writes h false false false (acts.trans (Core.flagged_false _).symm) lanes

/-- Entry i of one value for each lane below VLE. -/
theorem getElem?_map_range {α : Type} (n i : Nat) (g : Nat → Option α) :
    (((List.range n).map g)[i]?).join = if i < n then g i else none := by
  rw [List.getElem?_map]
  split
  · rw [List.getElem?_range ‹_›]; rfl
  · rw [List.getElem?_eq_none (by simpa using ‹¬ i < n›)]; rfl

theorem Core.getElem?_lanes {α : Type} (k : Core) (f : VF) (g : Nat → α) (i : Nat) :
    ((k.lanes f g)[i]?).join = if k.active f i then some (g i) else none := by
  rw [Core.lanes, getElem?_map_range, Core.active]
  by_cases below : i < k.vle f <;> simp [below]

/-- A value for each active lane, and no flag. -/
theorem State.vWrites_lanes {s : State} {p d w : Nat} {f : VF} {x : Nat → Nat} {e : Nat → BitVec w}
    (value : ∀ i, BitVec.ofNat w (x i) = e i) :
    s.VWrites (s.vecPassed p ((s.core p).setV d w ((s.core p).lanes f x))) p d w
      (fun i => if (s.core p).active f i then some (e i) else none) false false false := by
  rw [← Core.flagged_false ((s.core p).setV d w _)]
  refine State.vWrites_setV false false false fun i _ => ?_
  rw [Core.getElem?_lanes, ← value]
  split <;> rfl

end Sys2Proof.Machine
end

section
/-!
PROOF. Integer lanes, comparisons and mask logic (R112 to R115): what each operation gives on elements, and the statement.
-/

namespace Sys2Proof.Machine

/-! ### Elements as numbers (R115) -/

section
variable {w : Nat}

theorem sext_toNat (pos : 0 < w) (a : BitVec w) : sext w a.toNat = a.toInt := by
  have half : 2 ^ w = 2 * 2 ^ (w - 1) := by rw [← pow_succ', Nat.sub_add_cancel pos]
  rw [sext, BitVec.toInt_eq_toNat_cond]
  by_cases low : a.toNat < 2 ^ (w - 1)
  · rw [if_pos low, if_pos (by omega)]
  · rw [if_neg low, if_neg (by omega)]
    norm_cast

theorem ofNat_unsext (x : Int) : BitVec.ofNat w (unsext w x) = BitVec.ofInt w x := by
  refine BitVec.eq_of_toNat_eq ?_
  have nonneg : 0 ≤ x % 2 ^ w := Int.emod_nonneg _ (by positivity)
  have below : x % 2 ^ w < 2 ^ w := Int.emod_lt_of_pos _ (by positivity)
  rw [BitVec.toNat_ofNat, BitVec.toNat_ofInt, unsext, Nat.mod_eq_of_lt]
  · norm_cast
  · zify
    rwa [Int.toNat_of_nonneg nonneg]

theorem ofNat_toNat_self (a : BitVec w) : BitVec.ofNat w a.toNat = a := by simp

theorem ofNat_sub (a b : BitVec w) : BitVec.ofNat w (a.toNat + 2 ^ w - b.toNat) = a - b := by
  refine BitVec.eq_of_toNat_eq ?_
  have := b.isLt
  rw [BitVec.toNat_ofNat, BitVec.toNat_sub]
  congr 1
  omega

theorem ofNat_ite (c : Prop) [Decidable c] (a b : BitVec w) :
    BitVec.ofNat w (if c then a.toNat else b.toNat) = if c then a else b := by
  split <;> simp

theorem ofNat_shiftLeft (a : BitVec w) (n : Nat) : BitVec.ofNat w (a.toNat * 2 ^ n) = a <<< n :=
  BitVec.eq_of_toNat_eq (by simp [Nat.shiftLeft_eq])

theorem ofNat_ushiftRight (a : BitVec w) (n : Nat) : BitVec.ofNat w (a.toNat / 2 ^ n) = a >>> n := by
  rw [← Nat.shiftRight_eq_div_pow, ← BitVec.toNat_ushiftRight, ofNat_toNat_self]

theorem ofNat_sshiftRight (pos : 0 < w) (a : BitVec w) (n : Nat) :
    BitVec.ofNat w (unsext w (sext w a.toNat / 2 ^ n)) = a.sshiftRight n := by
  rw [ofNat_unsext, sext_toNat pos, ← BitVec.ofInt_toInt (x := a.sshiftRight n), BitVec.toInt_sshiftRight,
    Int.shiftRight_eq_div_pow]
  norm_cast

/-- The saturating addition of R113. -/
theorem ofNat_clamp (x : Int) : BitVec.ofNat w (unsext w (if x > 2 ^ (w - 1) - 1 then 2 ^ (w - 1) - 1
    else if x < -(2 ^ (w - 1)) then -(2 ^ (w - 1)) else x)) =
      BitVec.ofInt w (max (-(2 ^ (w - 1))) (min (2 ^ (w - 1) - 1) x)) := by
  have positive : (0 : Int) < 2 ^ (w - 1) := by positivity
  rw [ofNat_unsext]
  congr 1
  split
  · omega
  · split <;> omega

end

/-! ### FP32 comparisons are false with a NaN (R113) -/

theorem f32Eq_of_numbers (a b : Nat) : f32Eq a b = (!f32IsNaN a && !f32IsNaN b && f32Eq a b) := by
  rw [f32Eq, ← Bool.and_assoc, Bool.and_self]

theorem f32Lt_of_numbers (a b : Nat) : f32Lt a b = (!f32IsNaN a && !f32IsNaN b && f32Lt a b) := by
  rw [f32Lt]
  cases f32IsNaN a <;> cases f32IsNaN b <;> rfl

/-! ### Element-wise instructions (R113, R114) -/

theorem State.VIssues.sew_pos {s : State} {c : CoreRef} {p op : Nat} {f : VF} (h : s.VIssues c p f op) : 0 < f.sew := by
  obtain e | e | e := h.sew <;> omega

/-- The second source as an element: VS2, or IMM (R112). -/
def Core.src2 (k : Core) (f : VF) (i : Nat) : BitVec f.sew := if f.sx then BitVec.ofNat f.sew f.imm else k.velem f.vs2 f.sew i

theorem Core.s2_eq (k : Core) (f : VF) (i : Nat) : k.s2 f i = (k.src2 f i).toNat := by
  rw [Core.s2, Core.src2]
  split
  · rw [BitVec.toNat_ofNat]
  · exact elem_eq ..

/-- An instruction `i`, the function `run` of the model, that gives each active lane its own value. -/
theorem vecPure_lanes {s : State} {c : CoreRef} {p op w : Nat} {f : VF} {i : Instr} {run : Out} {act : Core → VF → Core}
    {x : Nat → Nat} {e : Nat → BitVec w} (h : s.VIssues c p f op) (row : exec i s = run) (pure : run = vecPure c op act s)
    (acts : act (s.core p) f = (s.core p).setV f.vd w ((s.core p).lanes f x)) (value : ∀ j, BitVec.ofNat w (x j) = e j) :
    ∃ t, exec i s = .next t ∧
      s.VWrites t p f.vd w (fun j => if (s.core p).active f j then some (e j) else none) false false false := by
  rw [row, pure]
  exact ⟨_, vecPure_of h act, acts ▸ State.vWrites_lanes value⟩

theorem vecMap_writes {s : State} {c : CoreRef} {p op : Nat} {f : VF} {i : Instr} {run : Out} {g : VF → Nat → Nat → Nat}
    (h : s.VIssues c p f op) (row : exec i s = run) (map : run = vecMap c op g s) (e : BitVec f.sew → BitVec f.sew → BitVec f.sew)
    (value : ∀ a b : BitVec f.sew, BitVec.ofNat f.sew (g f a.toNat b.toNat) = e a b) :
    ∃ t, exec i s = .next t ∧ s.VWrites t p f.vd f.sew
      (fun i => if (s.core p).active f i then some (e ((s.core p).velem f.vs1 f.sew i) ((s.core p).src2 f i)) else none)
      false false false :=
  vecPure_lanes h row map rfl fun j => by rw [Core.s1_eq, Core.s2_eq, value]

theorem vecCmp_writes {s : State} {c : CoreRef} {p op : Nat} {f : VF} {i : Instr} {run : Out} {g : VF → Nat → Nat → Bool}
    (h : s.VIssues c p f op) (row : exec i s = run) (cmp : run = vecCmp c op g s) (e : BitVec f.sew → BitVec f.sew → Bool)
    (value : ∀ a b : BitVec f.sew, g f a.toNat b.toNat = e a b) :
    ∃ t, exec i s = .next t ∧ s.MWrites t p f.vd
      (fun i => if (s.core p).active f i then some (e ((s.core p).velem f.vs1 f.sew i) ((s.core p).src2 f i)) else none) := by
  rw [row, cmp]
  refine ⟨_, vecPure_of h _, State.mWrites_setM fun i _ => ?_⟩
  rw [Core.getElem?_lanes, Core.s1_eq, Core.s2_eq, value]

/-- Mask logic, and any instruction that writes every bit below VLE. -/
theorem vecPure_setM {s : State} {c : CoreRef} {p op : Nat} {f : VF} (h : s.VIssues c p f op) {act : Core → VF → Core}
    (e : Nat → Bool) (acts : act (s.core p) f = (s.core p).setM f.vd ((List.range ((s.core p).vle f)).map fun i => some (e i))) :
    ∃ t, vecPure c op act s = .next t ∧ s.MWrites t p f.vd (fun i => if i < (s.core p).vle f then some (e i) else none) :=
  ⟨_, vecPure_of h act, acts ▸ State.mWrites_setM fun i _ => getElem?_map_range _ i _⟩

/-- Settles O22: each operation on elements read as numbers is the operation on the elements, and `vecMap_writes`, `vecCmp_writes`
and `vecPure_setM` say where it is written. -/
theorem vectorIntegersAndMasks : Obligations.VectorIntegersAndMasks := by
  unfold Obligations.VectorIntegersAndMasks
  refine ⟨fun s c p f op issues => ?_, fun s c p f op issues => ?_⟩
  · have pos := issues.sew_pos
    have signed (a : BitVec f.sew) : f.signed a.toNat = a.toInt := sext_toNat pos a
    intro k w n active a b clamp
    simp only [← List.forall_iff_forall_mem, List.Forall]
    refine ⟨?_, ?_, ?_, ?_, ?_, ?_, ?_, ?_, ?_, ?_, ?_, ?_, ?_, ?_, ?_, ?_, ?_⟩ <;> rintro rfl
    · exact vecMap_writes (run := execVadd c s) issues rfl rfl (· + ·) fun a b => by simp [BitVec.ofNat_add]
    · exact vecMap_writes (run := execVsub c s) issues rfl rfl (· - ·) ofNat_sub
    · exact vecMap_writes (run := execVmul c s) issues rfl rfl (· * ·) fun a b => by simp [BitVec.ofNat_mul]
    · exact vecMap_writes (run := execVmin c s) issues rfl rfl (fun a b => if a.toInt ≤ b.toInt then a else b)
        fun a b => by simp only [signed, ofNat_ite]
    · exact vecMap_writes (run := execVmax c s) issues rfl rfl (fun a b => if a.toInt ≤ b.toInt then b else a)
        fun a b => by simp only [signed, ofNat_ite]
    · exact vecMap_writes (run := execVminu c s) issues rfl rfl (fun a b => if a ≤ b then a else b)
        fun a b => by simp only [min_def, ofNat_ite, BitVec.le_def]
    · exact vecMap_writes (run := execVmaxu c s) issues rfl rfl (fun a b => if a ≤ b then b else a)
        fun a b => by simp only [max_def, ofNat_ite, BitVec.le_def]
    · exact vecMap_writes (run := execVand c s) issues rfl rfl (· &&& ·) fun a b => ofNat_toNat_self (a &&& b)
    · exact vecMap_writes (run := execVor c s) issues rfl rfl (· ||| ·) fun a b => ofNat_toNat_self (a ||| b)
    · exact vecMap_writes (run := execVxor c s) issues rfl rfl (· ^^^ ·) fun a b => ofNat_toNat_self (a ^^^ b)
    · exact vecMap_writes (run := execVsll c s) issues rfl rfl (fun a b => a <<< (b.toNat % f.sew)) fun a b => ofNat_shiftLeft a _
    · exact vecMap_writes (run := execVsrl c s) issues rfl rfl (fun a b => a >>> (b.toNat % f.sew)) fun a b => ofNat_ushiftRight a _
    · exact vecMap_writes (run := execVsra c s) issues rfl rfl (fun a b => a.sshiftRight (b.toNat % f.sew))
        fun a b => ofNat_sshiftRight pos a _
    · exact vecMap_writes (run := execVsadd c s) issues rfl rfl (fun a b => clamp (a.toInt + b.toInt))
        fun a b => by simp only [signed, ofNat_clamp, clamp, w]
    · exact vecPure_lanes (run := execVmerge c s) issues rfl rfl rfl fun i => by rw [Core.s1_eq, Core.s2_eq, ofNat_ite]; rfl
    · exact vecMap_writes (run := execVmv c s) issues rfl rfl (fun _ b => b) fun _ b => ofNat_toNat_self b
    · exact vecPure_lanes (run := execVid c s) issues rfl rfl rfl fun i => rfl
  · have signed (a : BitVec f.sew) : f.signed a.toNat = a.toInt := sext_toNat issues.sew_pos a
    intro k w n active a b nan m m2
    simp only [← List.forall_iff_forall_mem, List.Forall]
    refine ⟨⟨?_, ?_, ?_, ?_, ?_, ?_, ?_, ?_, ?_, ?_⟩, ?_, ?_, ?_, ?_, ?_⟩ <;> rintro rfl
    · exact vecCmp_writes (run := execVcmpEq c s) issues rfl rfl (fun a b => decide (a = b)) fun a b => by
        simp [BitVec.toNat_eq, beq_eq_decide]
    · exact vecCmp_writes (run := execVcmpNe c s) issues rfl rfl (fun a b => decide (a ≠ b)) fun a b => by
        simp [BitVec.toNat_eq, bne, beq_eq_decide]
    · exact vecCmp_writes (run := execVcmpLt c s) issues rfl rfl (fun a b => decide (a.toInt < b.toInt)) fun a b => by
        simp only [signed]
    · exact vecCmp_writes (run := execVcmpLtu c s) issues rfl rfl (fun a b => decide (a < b)) fun a b => rfl
    · exact vecCmp_writes (run := execVcmpLe c s) issues rfl rfl (fun a b => decide (a.toInt ≤ b.toInt)) fun a b => by
        simp only [signed]
    · exact vecCmp_writes (run := execVcmpLeu c s) issues rfl rfl (fun a b => decide (a ≤ b)) fun a b => rfl
    · exact vecCmp_writes (run := execVfcmpEq c s) issues rfl rfl (fun a b => !nan a && !nan b && f32Eq a.toNat b.toNat)
        fun a b => f32Eq_of_numbers ..
    · exact vecCmp_writes (run := execVfcmpLt c s) issues rfl rfl (fun a b => !nan a && !nan b && f32Lt a.toNat b.toNat)
        fun a b => f32Lt_of_numbers ..
    · exact vecCmp_writes (run := execVfcmpLe c s) issues rfl rfl
        (fun a b => !nan a && !nan b && (f32Lt a.toNat b.toNat || f32Eq a.toNat b.toNat)) fun a b =>
          (congrArg₂ (· || ·) (f32Lt_of_numbers ..) (f32Eq_of_numbers ..)).trans (Bool.and_or_distrib_left ..).symm
    · exact vecCmp_writes (run := execVfcmpUno c s) issues rfl rfl (fun a b => nan a || nan b) fun a b => rfl
    · exact vecPure_setM issues (fun i => m i && m2 i) rfl
    · exact vecPure_setM issues (fun i => m i || m2 i) rfl
    · exact vecPure_setM issues (fun i => m i != m2 i) rfl
    · exact vecPure_setM issues (fun i => m i && !m2 i) rfl
    · exact vecPure_setM issues (fun _ => decide (f.imm % 2 = 1)) (by rw [← Nat.testBit_zero]; rfl)

end Sys2Proof.Machine
end

section
/-!
PROOF. FP32 lanes and conversions (R112 to R114, R117, R118).
-/

namespace Sys2Proof.Machine

/-! ### Lanes that raise a flag (R117) -/

theorem Core.any_lanes {α : Type} (k : Core) (f : VF) (x : Nat → α) {q : Option α → Bool} (kept : q none = false) {m : Nat}
    (below : k.vle f ≤ m) : (k.lanes f x).any q = (List.range m).any fun i => k.active f i && q (some (x i)) := by
  rw [Bool.eq_iff_iff, List.any_eq_true, List.any_eq_true]
  constructor
  · rintro ⟨o, mem, holds⟩
    obtain ⟨i, inside, rfl⟩ := List.mem_map.1 mem
    rw [List.mem_range] at inside
    by_cases lane : k.lane f i = true
    · exact ⟨i, List.mem_range.2 (inside.trans_le below), by simpa [Core.active, inside, lane] using holds⟩
    · simp [lane, kept] at holds
  · rintro ⟨i, -, both⟩
    obtain ⟨active, holds⟩ := Bool.and_eq_true_iff.1 both
    obtain ⟨inside, lane⟩ := Core.active_iff.1 active
    exact ⟨some (x i), List.mem_map.2 ⟨i, List.mem_range.2 inside, if_pos lane⟩, holds⟩

theorem Core.map_lanes {α β : Type} (k : Core) (f : VF) (x : Nat → α) (g : α → β) :
    (k.lanes f x).map (·.map g) = k.lanes f fun i => g (x i) := by
  rw [Core.lanes, List.map_map]
  exact List.map_congr_left fun i _ => by
    simp only [Function.comp]
    split <;> rfl

/-! ### Element-wise FP32 (R117, R118) -/

/-- The second source as an FP32 pattern: VS2, or IMM (R112). -/
def Core.fsrc2 (k : Core) (f : VF) (i : Nat) : Nat := if f.sx then f.imm else (k.velem f.vs2 32 i).toNat

theorem Core.s2_of_sew {f : VF} (sew : f.sew = 32) (imm : f.imm < 2 ^ 32) (k : Core) (i : Nat) : k.s2 f i = k.fsrc2 f i := by
  rw [Core.s2, Core.fsrc2, sew, Nat.mod_eq_of_lt imm, elem_eq]

/-- An instruction `i`, the function `run` of the model, that gives each active lane its FP32 value and raises NF where one is
a NaN or infinite. -/
theorem vecPure_fpLanes {s : State} {c : CoreRef} {p op : Nat} {f : VF} {i : Instr} {run : Out} {act : Core → VF → Core}
    {l : List (Option Nat)} {y : Nat → Nat} (h : s.VIssues c p f op) (sew : f.sew = 32) (row : exec i s = run)
    (pure : run = vecPure c op act s) (acts : act (s.core p) f = ((s.core p).setV f.vd 32 l).orNF (anyNonFinite l))
    (lanes : l = (s.core p).lanes f y) :
    let k := s.core p
    ∃ t, exec i s = .next t ∧ s.VWrites t p f.vd 32 (fun i => if k.active f i then some (BitVec.ofNat 32 (y i)) else none)
      ((List.range 64).any fun i => k.active f i && f32NonFinite (y i)) false false := by
  intro k
  have flag : anyNonFinite (k.lanes f y) = (List.range 64).any fun i => k.active f i && f32NonFinite (y i) :=
    Core.any_lanes k f y rfl (k.vle_le_64 sew)
  rw [row, pure, ← flag, ← lanes]
  refine vecPure_writes h (l := l) _ false false ?_ fun i _ => ?_
  · simp only [acts, Core.orNF, Core.flagged, Core.onVec, Bool.or_false]
  · rw [lanes, Core.getElem?_lanes]
    split <;> rfl

/-- An FP32 instruction on the patterns of its sources and its old destination. -/
theorem vecFp_writes {s : State} {c : CoreRef} {p op : Nat} {f : VF} {i : Instr} {run : Out} {g : Nat → Nat → Nat → Nat}
    (h : s.VIssues c p f op) {o : VForm} (form : vform op = some o) (w32 : o.w32 = true) (row : exec i s = run)
    (fp : run = vecFp c op g s) (e : Nat → Nat → Nat → Nat) (value : ∀ a b d, a < 2 ^ 32 → g a b d = e a b d) :
    let k := s.core p
    let y (i : Nat) : Nat := e (k.velem f.vs1 32 i).toNat (k.fsrc2 f i) (k.velem f.vd 32 i).toNat
    ∃ t, exec i s = .next t ∧ s.VWrites t p f.vd 32 (fun i => if k.active32 f i then some (BitVec.ofNat 32 (y i)) else none)
      ((List.range 64).any fun i => k.active32 f i && f32NonFinite (y i)) false false := by
  intro k y
  have meets := h.meets form
  have sew : f.sew = 32 := meets.word32 w32
  rw [← Core.active_of_sew sew]
  refine vecPure_fpLanes h sew row fp rfl (congrArg (k.lanes f) (funext fun i => ?_))
  rw [Core.s1_of_sew sew, Core.s2_of_sew sew meets.immWord, Core.sd, elem_eq, sew]
  exact value _ _ _ (BitVec.isLt _)

theorem f32Neg_eq {a : Nat} (word : a < 2 ^ 32) : f32Neg a = (a + 2 ^ 31) % 2 ^ 32 := by
  rw [f32Neg]
  split <;> omega

/-! ### Conversions (R118) -/

/-- A conversion gives each active lane its bits, and raises NF and CLIP where a lane does. -/
theorem vcvt_writes {s : State} {c : CoreRef} {p dst : Nat} {f : VF} (h : s.VIssues c p f 0x51)
    (target : f.imm % 16 = dst) {y : Nat → Nat × Bool × Bool}
    (value : ∀ i, (let x := ((s.core p).velem f.vs1 (cvtWidth (f.imm / 16)) i).toNat
      if f.imm / 16 = 0 then cvtFrom32 dst x else ((cvtTo32 (f.imm / 16) x).1, false, (cvtTo32 (f.imm / 16) x).2)) = y i) :
    let k := s.core p
    ∃ t, exec (.vcvt c) s = .next t ∧
      s.VWrites t p f.vd (cvtWidth dst) (fun i => if k.active32 f i then some (BitVec.ofNat _ (y i).1) else none)
        ((List.range 64).any fun i => k.active32 f i && (y i).2.2) false
        ((List.range 64).any fun i => k.active32 f i && (y i).2.1) := by
  intro k
  have sew : f.sew = 32 := (h.meets (o := { w32 := true, imm := 8 }) rfl).word32 rfl
  have flag (q : Nat × Bool × Bool → Bool) := Core.any_lanes k f y (q := fun o => (o.map q).getD false) rfl (k.vle_le_64 sew)
  have writes l (same : l = k.lanes f y) :
      ((k.setV f.vd (cvtWidth dst) (l.map (·.map (·.1)))).onVec fun e =>
        { e with clip := e.clip || l.any fun o => (o.map (·.2.1)).getD false }).orNF (l.any fun o => (o.map (·.2.2)).getD false) =
      (k.setV f.vd (cvtWidth dst) (k.lanes f fun i => (y i).1)).flagged
        ((List.range 64).any fun i => k.active f i && (y i).2.2) false
        ((List.range 64).any fun i => k.active f i && (y i).2.1) := by
    rw [same, Core.map_lanes, flag (·.2.2), flag (·.2.1)]
    simp only [Core.flagged, Core.orNF, Core.onVec, Bool.or_false, Option.map_some, Option.getD_some]
  subst target
  rw [← Core.active_of_sew sew]
  refine vecPure_writes h (l := k.lanes f fun i => (y i).1) _ false _ (writes _ (congrArg (k.lanes f) (funext fun i => ?_)))
    fun i _ => ?_
  · rw [← value, elem_eq]
  · rw [Core.getElem?_lanes]
    split <;> rfl

/-- Settles O23: `vecFp_writes` with the function of each opcode, and `vcvt_writes` for the conversions. -/
theorem vectorFloatLanes : Obligations.VectorFloatLanes := by
  unfold Obligations.VectorFloatLanes
  intro s c p f op issues k active a b d src dst x
  refine ⟨?_, ?_, ?_⟩
  · simp only [← List.forall_iff_forall_mem, List.Forall]
    refine ⟨?_, ?_, ?_, ?_, ?_, ?_, ?_, ?_, ?_, ?_, ?_, ?_, ?_, ?_, ?_, ?_, ?_⟩ <;> rintro rfl
    · exact vecFp_writes (run := execVfadd c s) issues rfl rfl rfl rfl (fun a b _ => f32Add a b) fun _ _ _ _ => rfl
    · exact vecFp_writes (run := execVfsub c s) issues rfl rfl rfl rfl (fun a b _ => f32Sub a b) fun _ _ _ _ => rfl
    · exact vecFp_writes (run := execVfmul c s) issues rfl rfl rfl rfl (fun a b _ => f32Mul a b) fun _ _ _ _ => rfl
    · exact vecFp_writes (run := execVfma c s) issues rfl rfl rfl rfl f32Fma fun _ _ _ _ => rfl
    · exact vecFp_writes (run := execVfmin c s) issues rfl rfl rfl rfl (fun a b _ => f32MinNum a b) fun _ _ _ _ => rfl
    · exact vecFp_writes (run := execVfmax c s) issues rfl rfl rfl rfl (fun a b _ => f32MaxNum a b) fun _ _ _ _ => rfl
    · exact vecFp_writes (run := execVfabs c s) issues rfl rfl rfl rfl (fun a _ _ => a % 2 ^ 31) fun _ _ _ _ => rfl
    · exact vecFp_writes (run := execVfneg c s) issues rfl rfl rfl rfl (fun a _ _ => (a + 2 ^ 31) % 2 ^ 32) fun _ _ _ word => f32Neg_eq word
    · exact vecFp_writes (run := execVfdiv c s) issues rfl rfl rfl rfl (fun a b _ => f32Div a b) fun _ _ _ _ => rfl
    · exact vecFp_writes (run := execVfsqrt c s) issues rfl rfl rfl rfl (fun a _ _ => f32Sqrt a) fun _ _ _ _ => rfl
    · exact vecFp_writes (run := execVfexp2 c s) issues rfl rfl rfl rfl (fun a _ _ => f32Exp2 a) fun _ _ _ _ => rfl
    · exact vecFp_writes (run := execVfexp c s) issues rfl rfl rfl rfl (fun a _ _ => f32Exp a) fun _ _ _ _ => rfl
    · exact vecFp_writes (run := execVflog2 c s) issues rfl rfl rfl rfl (fun a _ _ => f32Log2 a) fun _ _ _ _ => rfl
    · exact vecFp_writes (run := execVfrcp c s) issues rfl rfl rfl rfl (fun a _ _ => f32Rcp a) fun _ _ _ _ => rfl
    · exact vecFp_writes (run := execVfrsqrt c s) issues rfl rfl rfl rfl (fun a _ _ => f32Rsqrt a) fun _ _ _ _ => rfl
    · exact vecFp_writes (run := execVftanh c s) issues rfl rfl rfl rfl (fun a _ _ => f32Tanh a) fun _ _ _ _ => rfl
    · exact vecFp_writes (run := execVfsigm c s) issues rfl rfl rfl rfl (fun a _ _ => f32Sigm a) fun _ _ _ _ => rfl
  · rintro rfl fromFp32
    exact vcvt_writes issues rfl fun i => if_pos fromFp32
  · rintro rfl toFp32
    have other : f.imm / 16 ≠ 0 := toFp32
    obtain ⟨-, known⟩ : _ ∧ (f.imm < 16 ∨ f.imm % 16 = 0) := by
      simpa [vecExtra, issues.opcode] using (issues.meets (o := { w32 := true, imm := 8 }) rfl).extra
    have target : f.imm % 16 = 0 := by omega
    obtain ⟨t, run, writes⟩ := vcvt_writes issues target fun i => if_neg other
    simp only [Bool.and_false, List.any_eq_false.2 fun _ _ => Bool.false_ne_true] at writes
    exact ⟨t, run, writes⟩

end Sys2Proof.Machine
end

section
/-!
PROOF. Reductions and scans (R120 to R122).
-/

namespace Sys2Proof.Machine

/-! ### Integer operations on elements (R120) -/

/-- The integer operation as one on elements. -/
def VRedOp.onElems (o : VRedOp) {w : Nat} (a b : BitVec w) : BitVec w :=
  match o with
  | .add => a + b
  | .max => if a.toInt < b.toInt then b else a
  | .maxu => if a < b then b else a
  | .min => if b.toInt < a.toInt then b else a
  | .minu => if b < a then b else a

/-- Its identity. -/
def VRedOp.idElem (o : VRedOp) (w : Nat) : BitVec w :=
  match o with
  | .add | .maxu => 0#w
  | .max => BitVec.ofInt w (-(2 ^ (w - 1)))
  | .min => BitVec.ofInt w (2 ^ (w - 1) - 1)
  | .minu => BitVec.allOnes w

theorem VRedOp.app_toNat {w : Nat} (pos : 0 < w) (o : VRedOp) (a b : BitVec w) :
    o.app w a.toNat b.toNat = (o.onElems a b).toNat := by
  cases o with
  | add => exact (BitVec.toNat_add a b).symm
  | max =>
    simp only [VRedOp.app, VRedOp.onElems, sext_toNat pos]
    split <;> rfl
  | maxu =>
    simp only [VRedOp.app, VRedOp.onElems, BitVec.lt_def]
    show Max.max a.toNat b.toNat = _
    split <;> omega
  | min =>
    simp only [VRedOp.app, VRedOp.onElems, sext_toNat pos]
    split <;> rfl
  | minu =>
    simp only [VRedOp.app, VRedOp.onElems, BitVec.lt_def]
    show Min.min a.toNat b.toNat = _
    split <;> omega

theorem VRedOp.id_eq {w : Nat} (pos : 0 < w) (o : VRedOp) : o.id w = (o.idElem w).toNat := by
  have whole : (2 : Int) ^ w = 2 * 2 ^ (w - 1) := by rw [← pow_succ', Nat.sub_add_cancel pos]
  have half : (0 : Int) < 2 ^ (w - 1) := by positivity
  have toNat : ((2 : Int) ^ (w - 1)).toNat = 2 ^ (w - 1) := by norm_cast
  cases o with
  | add => rfl
  | maxu => rfl
  | max =>
    have lowest : -(2 : Int) ^ (w - 1) % 2 ^ w = 2 ^ (w - 1) := by
      rw [← Int.add_emod_right, Int.emod_eq_of_lt] <;> omega
    rw [VRedOp.idElem, BitVec.toNat_ofInt, Nat.cast_pow, Nat.cast_ofNat, lowest, toNat, VRedOp.id]
  | min =>
    have highest : ((2 : Int) ^ (w - 1) - 1) % 2 ^ w = 2 ^ (w - 1) - 1 := Int.emod_eq_of_lt (by omega) (by omega)
    rw [VRedOp.idElem, BitVec.toNat_ofInt, Nat.cast_pow, Nat.cast_ofNat, highest, VRedOp.id]
    omega
  | minu => exact (BitVec.toNat_allOnes ..).symm

/-- A fold over elements, as the model folds their numbers. -/
theorem VRedOp.foldl_toNat {w : Nat} (pos : 0 < w) (o : VRedOp) (l : List Nat) (x : Nat → BitVec w) (acc : BitVec w) :
    l.foldl (fun y i => o.app w y (x i).toNat) acc.toNat = ((l.map x).foldl o.onElems acc).toNat := by
  induction l generalizing acc with
  | nil => rfl
  | cons i l ih => exact (congrArg (l.foldl _) (o.app_toNat pos acc (x i))).trans (ih _)

/-! ### Reductions (R120, R121) -/

theorem State.VIssues.vle_le_256 {s : State} {c : CoreRef} {p op : Nat} {f : VF} (h : s.VIssues c p f op) :
    (s.core p).vle f ≤ 256 := by
  rw [Core.vle]
  obtain e | e | e := h.sew <;> rw [e] <;> omega

/-- One value given is element 0. -/
theorem getElem?_singleton {w : Nat} (x : Nat) (i : Nat) :
    (([some x][i]?).join).map (BitVec.ofNat w) = if i = 0 then some (BitVec.ofNat w x) else none := by
  cases i <;> rfl

/-- An integer reduction combines the active lanes in their order. -/
theorem vecRed_writes {s : State} {c : CoreRef} {p op : Nat} {f : VF} {i : Instr} {run : Out} {o : VRedOp}
    (h : s.VIssues c p f op) (row : exec i s = run) (red : run = vecRed c op o s) :
    let lanes := (List.range 256).filter ((s.core p).active f)
    ∃ t, exec i s = .next t ∧ s.VWrites t p f.vd f.sew
      (fun i => if i = 0 then some ((lanes.map ((s.core p).velem f.vs1 f.sew)).foldl o.onElems (o.idElem f.sew)) else none)
      false false false := by
  intro lanes
  rw [row, red]
  refine vecPure_setV h rfl fun i _ => ?_
  rw [getElem?_singleton, Core.actives_eq h.vle_le_256, o.id_eq h.sew_pos]
  simp only [Core.s1_eq, o.foldl_toNat h.sew_pos, ofNat_toNat_self, lanes]

theorem pairUp_range (op : Nat → Nat → Nat) (t : Nat → Nat) (n : Nat) : pairUp op ((List.range (2 * n)).map t) =
    (List.range n).map fun i => op (t (2 * i)) (t (2 * i + 1)) := by
  induction n generalizing t with
  | zero => rfl
  | succ n ih =>
    have shifted := ih fun i => t (i + 2)
    rw [Nat.mul_succ, List.range_succ_eq_map, List.range_succ_eq_map, List.range_succ_eq_map]
    simp only [List.map_cons, List.map_map, pairUp]
    exact congrArg (op (t 0) (t 1) :: ·) shifted

/-- Levels of the tree, from the lanes up. -/
theorem repeat_pairUp (op : Nat → Nat → Nat) (t : Nat → Nat) (n m : Nat) :
    Nat.repeat (pairUp op) n ((List.range (2 ^ n * m)).map t) = (List.range m).map (treeLane op t n) := by
  induction n generalizing m with
  | zero => rw [pow_zero, one_mul]; rfl
  | succ n ih => rw [pow_succ, mul_assoc, Nat.repeat, ih, pairUp_range]; rfl

/-- An FP32 reduction is the fixed tree over 64 lanes, an inactive one being the identity. -/
theorem fred_eq {k : Core} {f : VF} (sew : f.sew = 32) (op : Nat → Nat → Nat) (ident empty : Nat) :
    fred k f op ident empty = if k.actives f = [] then empty
      else treeLane op (fun i => if k.active f i then (k.velem f.vs1 32 i).toNat else ident) 6 0 := by
  have tree := repeat_pairUp op (fun i => if k.active f i then (k.velem f.vs1 32 i).toNat else ident) 6 1
  simp only [fred, List.isEmpty_iff, Core.s1_of_sew sew]
  exact if_congr Iff.rfl rfl (congrArg (·.headD ident) tree)

theorem vecFred_writes {s : State} {c : CoreRef} {p op : Nat} {f : VF} {i : Instr} {run : Out} {g : Nat → Nat → Nat} {ident empty : Nat}
    (h : s.VIssues c p f op) {o : VForm} (form : vform op = some o) (w32 : o.w32 = true) (row : exec i s = run)
    (red : run = vecFred c op g ident empty s) :
    let k := s.core p
    let r := if (List.range 256).filter (k.active f) = [] then empty
      else treeLane g (fun i => if k.active f i then (k.velem f.vs1 32 i).toNat else ident) 6 0
    ∃ t, exec i s = .next t ∧ s.VWrites t p f.vd 32 (fun i => if i = 0 then some (BitVec.ofNat 32 r) else none)
      (f32NonFinite r) false false := by
  intro k r
  have value : fred k f g ident empty = r := by
    rw [fred_eq ((h.meets form).word32 w32), Core.actives_eq h.vle_le_256]
  rw [row, red]
  refine vecPure_writes h (l := [some r]) _ false false ?_ fun i _ => getElem?_singleton r i
  simp only [k] at value
  simp only [value, Core.orNF, Core.flagged, Core.onVec, Bool.or_false]

/-! ### Scans (R122) -/

/-- Lanes of `lane` before lane i in its segment; `start` begins one. -/
def segBefore (lane start : Nat → Bool) : Nat → List Nat
  | 0 => []
  | i + 1 => if start (i + 1) then [] else segBefore lane start i ++ if lane i then [i] else []

/-- The lanes that lane i of a scan combines. -/
def segLanes (lane start : Nat → Bool) (excl : Bool) (i : Nat) : List Nat :=
  segBefore lane start i ++ if !excl && lane i then [i] else []

/-- A scan over lanes: `step` combines one lane more, and `out` is what a lane is given. -/
def scanWith {σ : Type} (lane start : Nat → Bool) (init : σ) (step : σ → Nat → σ) (out : σ → Nat) (excl : Bool) :
    List Nat → σ → List (Option Nat)
  | [], _ => []
  | i :: l, acc =>
    let acc := if start i then init else acc
    if lane i then some (out (if excl then acc else step acc i)) :: scanWith lane start init step out excl l (step acc i)
    else none :: scanWith lane start init step out excl l acc

theorem scanLanes_eq (k : Core) (f : VF) (o : VRedOp) (excl : Bool) (start : Nat → Bool) (l : List Nat) (acc : Nat) :
    scanLanes k f o excl start l acc =
      scanWith (k.lane f) start (o.id f.sew) (fun y i => o.app f.sew y (k.s1 f i)) id excl l acc := by
  induction l generalizing acc with
  | nil => rfl
  | cons i l ih => simp only [scanLanes, scanWith, ih, id]

/-- The sum of an FP32 scan with one element more; none where its segment had none (R122). -/
def fsumStep (x : Nat → Nat) (acc : Option Nat) (i : Nat) : Option Nat := some (acc.elim (x i) (f32Add · (x i)))

theorem fscanLanes_eq (k : Core) (f : VF) (excl : Bool) (start : Nat → Bool) (l : List Nat) (acc : Option Nat) :
    fscanLanes k f excl start l acc = scanWith (k.lane f) start none (fsumStep (k.s1 f)) (·.getD 0) excl l acc := by
  induction l generalizing acc with
  | nil => rfl
  | cons i l ih =>
    simp only [fscanLanes, scanWith, ih, fsumStep]
    cases (if start i = true then none else acc) <;> cases excl <;> rfl

/-- Each lane of a scan has what its lanes combine to. -/
theorem scanWith_eq {σ : Type} (lane start : Nat → Bool) (init : σ) (step : σ → Nat → σ) (out : σ → Nat) (excl : Bool)
    (m i : Nat) {acc : σ} (carried : (if start i then init else acc) = (segBefore lane start i).foldl step init) :
    scanWith lane start init step out excl (List.range' i m) acc = (List.range' i m).map fun j =>
      if lane j then some (out ((segLanes lane start excl j).foldl step init)) else none := by
  induction m generalizing i acc with
  | zero => rfl
  | succ m ih =>
    have next (acc' : σ) (h : acc' = (segBefore lane start i ++ if lane i then [i] else []).foldl step init) :
        (if start (i + 1) then init else acc') = (segBefore lane start (i + 1)).foldl step init := by
      rw [segBefore]
      split
      · rfl
      · exact h
    rw [List.range'_succ, List.map_cons, scanWith]
    simp only [carried]
    cases active : lane i
    · rw [if_neg Bool.false_ne_true, if_neg Bool.false_ne_true, ih (i + 1) (next _ (by simp [active]))]
    · rw [if_pos rfl, if_pos rfl, ih (i + 1) (next _ (by simp [active]))]
      cases excl <;> simp [segLanes, active]

/-- Some lane after j, up to lane i, begins a segment. -/
def segCut (start : Nat → Bool) (i j : Nat) : Bool := (List.range 256).any fun b => start b && decide (j < b ∧ b ≤ i)

theorem segCut_succ {start : Nat → Bool} {i j : Nat} (inside : i + 1 < 256) (before : j ≤ i) :
    segCut start (i + 1) j = (start (i + 1) || segCut start i j) := by
  rw [Bool.eq_iff_iff]
  simp only [segCut, Bool.or_eq_true, List.any_eq_true, List.mem_range, Bool.and_eq_true, decide_eq_true_eq]
  constructor
  · rintro ⟨b, low, begins, after, upto⟩
    obtain rfl | below := Nat.eq_or_lt_of_le upto
    · exact .inl begins
    · exact .inr ⟨b, low, begins, after, by omega⟩
  · rintro (begins | ⟨b, low, begins, after, upto⟩)
    · exact ⟨i + 1, inside, begins, by omega, le_rfl⟩
    · exact ⟨b, low, begins, after, by omega⟩

theorem segCut_self (start : Nat → Bool) (i : Nat) : segCut start i i = false := by
  simp only [segCut, List.any_eq_false, Bool.and_eq_true, decide_eq_true_eq]
  omega

/-- The lanes of a segment before lane i, in closed form. -/
theorem segBefore_eq {lane start : Nat → Bool} {i : Nat} (inside : i < 256) :
    segBefore lane start i = (List.range i).filter fun j => lane j && !segCut start i j := by
  induction i with
  | zero => rfl
  | succ i ih =>
    have cuts j (mem : j ∈ List.range (i + 1)) := segCut_succ (start := start) inside (Nat.lt_succ_iff.1 (List.mem_range.1 mem))
    rw [segBefore, List.filter_congr fun j mem => by rw [cuts j mem]]
    cases start (i + 1)
    · rw [if_neg Bool.false_ne_true, ih (by omega), List.range_succ, List.filter_append]
      simp [List.filter_cons, segCut_self]
    · simp

/-- The active lanes that lane i of a scan combines: those before it in its segment, and itself in an inclusive form. -/
def Core.scanSet (k : Core) (f : VF) (seg excl : Bool) (i : Nat) : List Nat :=
  ((List.range 256).filter (k.active f)).filter fun j => (decide (j < i) || (!excl && decide (j = i))) &&
    !(seg && (List.range 256).any fun b => (decide (b = 0) || (k.mreg f.imm).getLsbD b) && decide (j < b ∧ b ≤ i))

theorem segCut_segStart (k : Core) (f : VF) (seg : Bool) (i j : Nat) : segCut (segStart k f seg) i j =
    (seg && (List.range 256).any fun b => (decide (b = 0) || (k.mreg f.imm).getLsbD b) && decide (j < b ∧ b ≤ i)) := by
  cases seg
  · simp [segCut, segStart]
  · simp only [segCut, segStart, Bool.true_and, beq_eq_decide]

theorem Core.scanSet_eq {k : Core} {f : VF} (below : k.vle f ≤ 256) (seg excl : Bool) {i : Nat} (active : k.active f i = true) :
    k.scanSet f seg excl i = segLanes (k.lane f) (segStart k f seg) excl i := by
  obtain ⟨inside, lane⟩ := Core.active_iff.1 active
  have upTo (n : Nat) (le : n ≤ i + 1) : ((List.range 256).filter fun j =>
      decide (j < n) && (k.lane f j && !segCut (segStart k f seg) i j)) =
      (List.range n).filter fun j => k.lane f j && !segCut (segStart k f seg) i j := filter_range_of_le (by omega) _
  have lanes (n : Nat) (le : n ≤ i + 1) (range : ∀ j, (decide (j < i) || (!excl && decide (j = i))) = decide (j < n)) :
      k.scanSet f seg excl i = (List.range n).filter fun j => k.lane f j && !segCut (segStart k f seg) i j := by
    rw [← upTo n le, Core.scanSet, List.filter_filter]
    refine List.filter_congr fun j _ => ?_
    rw [range, segCut_segStart, Core.active]
    by_cases before : j < n
    · rw [decide_eq_true (show j < k.vle f by omega), Bool.true_and, Bool.and_assoc, Bool.and_comm (k.lane f j)]
    · simp [before]
  rw [segLanes, segBefore_eq (by omega)]
  cases excl
  · rw [lanes (i + 1) le_rfl fun j => by simp [Nat.le_iff_lt_or_eq], List.range_succ, List.filter_append]
    simp [segCut_self, lane]
  · rw [lanes i (by omega) fun j => by simp]
    simp

/-- A scan gives each active lane what its set of lanes combines to. -/
theorem scanWith_lanes {σ : Type} {k : Core} {f : VF} (below : k.vle f ≤ 256) (seg excl : Bool) (init : σ) (step : σ → Nat → σ)
    (out : σ → Nat) : scanWith (k.lane f) (segStart k f seg) init step out excl (List.range (k.vle f)) init =
      k.lanes f fun j => out ((k.scanSet f seg excl j).foldl step init) := by
  rw [List.range_eq_range', scanWith_eq _ _ _ _ _ _ _ _ (by rw [ite_self]; rfl), Core.lanes, List.range_eq_range']
  refine List.map_congr_left fun j mem => ?_
  have inside : j < k.vle f := by simpa using mem
  split
  · rw [Core.scanSet_eq below seg excl (Core.active_iff.2 ⟨inside, ‹_›⟩)]
  · rfl

/-- An integer scan. -/
theorem vecScan_writes {s : State} {c : CoreRef} {p op : Nat} {f : VF} {i : Instr} {run : Out} {o : VRedOp} {excl seg : Bool}
    (h : s.VIssues c p f op) (row : exec i s = run) (scan : run = vecScan c op o excl seg s) :
    let k := s.core p
    ∃ t, exec i s = .next t ∧ s.VWrites t p f.vd f.sew (fun i => if k.active f i then
      some (((k.scanSet f seg excl i).map (k.velem f.vs1 f.sew)).foldl o.onElems (o.idElem f.sew)) else none) false false false := by
  intro k
  refine vecPure_lanes h row scan
    (congrArg (k.setV f.vd f.sew) ((scanLanes_eq ..).trans (scanWith_lanes h.vle_le_256 seg excl _ _ id))) fun j => ?_
  rw [o.id_eq h.sew_pos]
  simp only [Core.s1_eq, o.foldl_toNat h.sew_pos, id, ofNat_toNat_self, k]

/-- What an FP32 scan gives for a list of lanes: their sum in order, 0 for none. -/
def Core.fsum (k : Core) (f : VF) (l : List Nat) : Nat :=
  (l.foldl (fsumStep fun i => (k.velem f.vs1 32 i).toNat) none).getD 0

theorem foldl_fsumStep (x : Nat → Nat) (l : List Nat) (y : Nat) :
    l.foldl (fsumStep x) (some y) = some ((l.map x).foldl f32Add y) := by
  induction l generalizing y with
  | nil => rfl
  | cons i l ih => exact ih _

theorem Core.fsum_cons (k : Core) (f : VF) (i : Nat) (l : List Nat) : k.fsum f (i :: l) =
    (l.map fun j => (k.velem f.vs1 32 j).toNat).foldl f32Add (k.velem f.vs1 32 i).toNat :=
  congrArg (·.getD 0) (foldl_fsumStep _ l _)

/-- An FP32 scan. -/
theorem vecFscan_writes {s : State} {c : CoreRef} {p op : Nat} {f : VF} {i : Instr} {run : Out} {excl seg : Bool}
    (h : s.VIssues c p f op) {o : VForm} (form : vform op = some o) (w32 : o.w32 = true) (row : exec i s = run)
    (scan : run = vecFscan c op excl seg s) :
    let k := s.core p
    let y (i : Nat) : Nat := k.fsum f (k.scanSet f seg excl i)
    ∃ t, exec i s = .next t ∧ s.VWrites t p f.vd 32 (fun i => if k.active f i then some (BitVec.ofNat 32 (y i)) else none)
      ((List.range 64).any fun i => k.active f i && f32NonFinite (y i)) false false := by
  intro k y
  have sew := (h.meets form).word32 w32
  have element : k.s1 f = fun i => (k.velem f.vs1 32 i).toNat := funext (k.s1_of_sew sew)
  refine vecPure_fpLanes h sew row scan rfl ((fscanLanes_eq ..).trans ?_)
  rw [scanWith_lanes h.vle_le_256, element]
  rfl

end Sys2Proof.Machine
end

section
/-!
PROOF. Compress, expand, permute, rank and draws (R119, R123 to R125), and the statement of reductions, scans and moves.
-/

namespace Sys2Proof.Machine

/-- An instruction that may be held or end the program, where it writes a list of lanes. -/
theorem vecIssue_writes {s : State} {c : CoreRef} {p op d w : Nat} {f : VF} (h : s.VIssues c p f op)
    {act : Core → VF → Option VEffect} {l : List (Option Nat)} {new : Nat → Option (BitVec w)} (nf oor clip : Bool)
    (acts : act (s.core p) f = some ⟨((s.core p).setV d w l).flagged nf oor clip, none, id⟩)
    (lanes : ∀ i, i < 2048 / w → ((l[i]?).join).map (BitVec.ofNat w) = new i) :
    s.VWrites (vecIssue c op act s) p d w new nf oor clip :=
  vecIssue_acts h acts ▸ State.vWrites_setV nf oor clip lanes

/-! ### Compress and expand (R123) -/

theorem vcompress_writes {s : State} {c : CoreRef} {p : Nat} {f : VF} (h : s.VIssues c p f 0x90) :
    let k := s.core p
    ∃ t, exec (.vcompress c) s = .next t ∧
      s.VWrites t p f.vd f.sew (fun i => ((k.chosen f)[i]?).map (k.velem f.vs1 f.sew)) false false false := by
  intro k
  refine vecPure_setV h (l := (k.chosen f).map fun i => some (k.s1 f i)) rfl fun i _ => ?_
  rw [List.getElem?_map]
  cases (k.chosen f)[i]? <;> simp [Core.s1_eq]

/-- The n-th selected lane takes element n. -/
theorem expandLanes_eq (k : Core) (f : VF) (m i : Nat) :
    expandLanes k f (List.range' i m) ((List.range i).filter fun j => (k.mreg f.vm).getLsbD j).length =
      (List.range' i m).map fun j => if (k.mreg f.vm).getLsbD j then
        some (k.s1 f ((List.range j).filter fun j => (k.mreg f.vm).getLsbD j).length) else none := by
  induction m generalizing i with
  | zero => rfl
  | succ m ih =>
    have next := ih (i + 1)
    rw [List.range_succ, List.filter_append, List.length_append] at next
    rw [List.range'_succ, List.map_cons, expandLanes, ← next]
    cases chosen : (k.mreg f.vm).getLsbD i <;> simp [chosen]

theorem vexpand_writes {s : State} {c : CoreRef} {p : Nat} {f : VF} (h : s.VIssues c p f 0x91) :
    let k := s.core p
    ∃ t, exec (.vexpand c) s = .next t ∧ s.VWrites t p f.vd f.sew
      (fun i => if i ∈ k.chosen f then some (k.velem f.vs1 f.sew ((k.chosen f).filter (· < i)).length) else none)
      false false false := by
  intro k
  have lanes := expandLanes_eq k f (k.vle f) 0
  rw [← List.range_eq_range'] at lanes
  refine vecPure_setV h (congrArg (k.setV f.vd f.sew) lanes) fun i _ => ?_
  rw [getElem?_map_range]
  have mem : i ∈ k.chosen f ↔ i < k.vle f ∧ (k.mreg f.vm).getLsbD i = true := by simp [Core.chosen]
  by_cases inside : i < k.vle f
  · have before : (k.chosen f).filter (· < i) = (List.range i).filter fun j => (k.mreg f.vm).getLsbD j := by
      rw [Core.chosen, List.filter_filter, filter_range_of_le inside.le]
    simp only [inside, if_true, before, mem, true_and]
    split <;> simp [Core.s1_eq]
  · simp [inside, mem]

/-! ### Permute (R124) -/

section
variable {s : State} {c : CoreRef} {p : Nat} {f : VF} (h : s.VIssues c p f 0x92)
include h

theorem State.VIssues.vperm_index (i : Nat) : (s.core p).s2 f i = ((s.core p).velem f.vs2 f.sew i).toNat := by
  rw [Core.s2, if_neg, elem_eq]
  rw [(h.meets (o := { vs2 := true }) rfl).vector rfl]
  exact Bool.false_ne_true

/-- Some active lane takes an element at or above VLE. -/
theorem State.VIssues.vperm_outOfRange : ((s.core p).actives f).any (fun i => decide ((s.core p).vle f ≤ (s.core p).s2 f i)) =
    (List.range ((s.core p).vle f)).any fun i =>
      (s.core p).active f i && decide ((s.core p).vle f ≤ ((s.core p).velem f.vs2 f.sew i).toNat) := by
  simp only [Core.actives_eq le_rfl, List.any_filter, h.vperm_index]

theorem vperm_writes :
    let k := s.core p
    let idx (i : Nat) : Nat := (k.velem f.vs2 f.sew i).toNat
    let out : Bool := (List.range (k.vle f)).any fun i => k.active f i && decide (k.vle f ≤ idx i)
    (out && (k.vec.prog.map (·.trap)).getD false) = false → ∃ t, exec (.vperm c) s = .next t ∧ s.VWrites t p f.vd f.sew
      (fun i => if k.active f i then some (if idx i < k.vle f then k.velem f.vs1 f.sew (idx i) else 0) else none)
      false out false := by
  intro k idx out passes
  have outOfRange : ((s.core p).actives f).any _ = out := h.vperm_outOfRange
  refine ⟨_, rfl, vecIssue_writes h (l := k.lanes f fun i => if k.s2 f i < k.vle f then k.s1 f (k.s2 f i) else 0)
    false out false ?_ fun i _ => ?_⟩
  · simp only [outOfRange]
    rw [if_neg (by rw [passes]; exact Bool.false_ne_true)]
    simp only [Core.flagged, Core.setV, Core.onVec, Bool.or_false, k]
  · rw [Core.getElem?_lanes, h.vperm_index, Core.s1_eq]
    split
    · rw [Option.map_some, apply_ite (BitVec.ofNat f.sew), ofNat_toNat_self]
      rfl
    · rfl

theorem vperm_traps :
    let k := s.core p
    let out : Bool := (List.range (k.vle f)).any fun i => k.active f i && decide (k.vle f ≤ (k.velem f.vs2 f.sew i).toNat)
    (out && (k.vec.prog.map (·.trap)).getD false) = true →
      ∃ t, exec (.vperm c) s = .next t ∧ s.VEnds t c.sh p St.permuteOutOfRange true := by
  intro k out traps
  have outOfRange : ((s.core p).actives f).any _ = out := h.vperm_outOfRange
  have rises : out = true := (Bool.and_eq_true_iff.1 traps).1
  refine ⟨_, rfl, vecIssue_vEnds h ?_⟩
  simp only [outOfRange]
  rw [if_pos traps, rises]

end

/-! ### Rank and draws (R119, R125) -/

/-- The active lanes before lane i that hold its value. -/
theorem Core.rank_lanes (k : Core) (f : VF) (i : Nat) : ((k.actives f).filter fun j => decide (j < i) && k.s1 f j == k.s1 f i) =
    (List.range i).filter fun j => k.active f j && decide (k.velem f.vs1 f.sew j = k.velem f.vs1 f.sew i) := by
  have below := filter_range_of_le (le_max_left (k.vle f) i) fun j => (decide (j < i) && k.s1 f j == k.s1 f i) && k.lane f j
  have before := filter_range_of_le (le_max_right (k.vle f) i) fun j =>
    k.active f j && decide (k.velem f.vs1 f.sew j = k.velem f.vs1 f.sew i)
  rw [Core.actives, List.filter_filter, ← below, ← before]
  refine List.filter_congr fun j _ => ?_
  simp only [Core.active, Core.s1_eq, beq_eq_decide, BitVec.toNat_inj]
  ac_rfl

theorem vrank_writes {s : State} {c : CoreRef} {p : Nat} {f : VF} (h : s.VIssues c p f 0x93) :
    let k := s.core p
    let a := k.velem f.vs1 f.sew
    ∃ t, exec (.vrank c) s = .next t ∧ s.VWrites t p f.vd f.sew (fun i => if k.active f i then
      some (BitVec.ofNat f.sew ((List.range i).filter fun j => k.active f j && decide (a j = a i)).length) else none)
      false false false :=
  vecPure_lanes h (run := execVrank c s) rfl rfl rfl fun i =>
    congrArg (fun l : List Nat => BitVec.ofNat f.sew l.length) (Core.rank_lanes (s.core p) f i)

/-- A draw for every lane, active or not. -/
theorem randLanes_eq (k : Core) (f : VF) (x m i : Nat) : randLanes k f (List.range' i m) (Nat.repeat srNext i x) =
    (List.range' i m).map fun j => if k.lane f j then some (srDraw (Nat.repeat srNext (j + 1) x)) else none := by
  induction m generalizing i with
  | zero => rfl
  | succ m ih => rw [List.range'_succ, List.map_cons, ← ih (i + 1)]; rfl

theorem vrand_writes {s : State} {c : CoreRef} {p : Nat} {f : VF} (h : s.VIssues c p f 0x05) (free : (s.core p).scale.seedHeld = none) :
    let k := s.core p
    ∃ t, exec (.vrand c) s = .next t ∧ s.VWrites t p f.vd 32 (fun i => if k.active f i then
      some (BitVec.ofNat 32 (srDraw (Nat.repeat srNext (i + 1) (srStart k.scale.seed.toNat f.imm)))) else none)
      false false false := by
  intro k
  have draws := randLanes_eq k f (srStart k.scale.seed.toNat f.imm) (k.vle f) 0
  rw [← List.range_eq_range'] at draws
  refine ⟨_, rfl, vecIssue_acts h (k := k.setV f.vd 32 (k.lanes f _)) ?_ ▸ State.vWrites_lanes fun _ => rfl⟩
  rw [free]
  exact congrArg (fun l => some (VEffect.mk (k.setV f.vd 32 l) none id)) draws

/-- Settles O24: each group of opcodes by its own lemma, the integer operations read as operations on elements. -/
theorem vectorReductionsScansAndMoves : Obligations.VectorReductionsScansAndMoves := by
  unfold Obligations.VectorReductionsScansAndMoves
  constructor
  · intro s c p f op issues k w n active a x lanes lo hi max maxu min minu start before sum
    have sums : sum = k.fsum f := funext fun l => by
      cases l with
      | nil => rfl
      | cons i l => exact (k.fsum_cons f i l).symm
    rw [sums]
    refine ⟨?_, ?_, ?_, ?_⟩
    · refine List.forall_iff_forall_mem.1 ⟨?_, ?_, ?_, ?_, ?_⟩ <;> rintro rfl
      · exact vecRed_writes (run := execVredAdd c s) issues rfl rfl
      · exact vecRed_writes (run := execVredMax c s) issues rfl rfl
      · exact vecRed_writes (run := execVredMaxu c s) issues rfl rfl
      · exact vecRed_writes (run := execVredMin c s) issues rfl rfl
      · exact vecRed_writes (run := execVredMinu c s) issues rfl rfl
    · refine List.forall_iff_forall_mem.1 ⟨?_, ?_, ?_⟩ <;> rintro rfl
      · exact vecFred_writes (run := execVfredAdd c s) issues rfl rfl rfl rfl
      · exact vecFred_writes (run := execVfredMax c s) issues rfl rfl rfl rfl
      · exact vecFred_writes (run := execVfredMin c s) issues rfl rfl rfl rfl
    · refine List.forall_iff_forall_mem.1 ⟨?_, ?_, ?_, ?_, ?_, ?_, ?_⟩ <;> rintro rfl
      · exact vecScan_writes (run := execVscanAdd c s) issues rfl rfl
      · exact vecScan_writes (run := execVscanxAdd c s) issues rfl rfl
      · exact vecScan_writes (run := execVscanMax c s) issues rfl rfl
      · exact vecScan_writes (run := execVscanMaxu c s) issues rfl rfl
      · exact vecScan_writes (run := execVsscanAdd c s) issues rfl rfl
      · exact vecScan_writes (run := execVsscanxAdd c s) issues rfl rfl
      · exact vecScan_writes (run := execVsscanMax c s) issues rfl rfl
    · refine List.forall_iff_forall_mem.1 ⟨?_, ?_, ?_⟩ <;> rintro rfl
      · exact vecFscan_writes (run := execVfscanAdd c s) issues rfl rfl rfl rfl
      · exact vecFscan_writes (run := execVfscanxAdd c s) issues rfl rfl rfl rfl
      · exact vecFscan_writes (run := execVfsscanAdd c s) issues rfl rfl rfl rfl
  · intro s c p f op issues
    refine ⟨?_, ?_, ?_, ?_, ?_, ?_, ?_⟩ <;> rintro rfl
    · exact vcompress_writes issues
    · exact vexpand_writes issues
    · exact vperm_writes issues
    · exact vperm_traps issues
    · exact vrank_writes issues
    · exact vrand_writes issues
    · exact fun held => congrArg Host.Outcome.next (vecIssue_held issues (if_pos (Option.isSome_iff_ne_none.2 held)))

end Sys2Proof.Machine
end

section
/-!
PROOF. Vector memory instructions (R127, R128): bytes as numbers, what a run of stores leaves, and the statement.
-/

namespace Sys2Proof.Machine

/-! ### Bytes as numbers (R5) -/

theorem memNat_succ (m : Mem) (a n : Nat) : memNat m a (n + 1) = (tabGet 0 m a).toNat + 256 * memNat m (a + 1) n := rfl

theorem memNat_congr {m m' : Mem} {a n : Nat} (same : ∀ x, a ≤ x → x < a + n → tabGet 0 m' x = tabGet 0 m x) :
    memNat m' a n = memNat m a n := by
  induction n generalizing a with
  | zero => rfl
  | succ n ih =>
    rw [memNat_succ, memNat_succ, same a le_rfl (by omega), ih fun x low high => same x (by omega) (by omega)]

/-- Bytes that spell a number. -/
theorem memNat_of_bytes {m : Mem} {a v n : Nat} (bytes : ∀ b, b < n → tabGet 0 m (a + b) = BitVec.ofNat 8 (v / 256 ^ b)) :
    memNat m a n = v % 256 ^ n := by
  induction n generalizing a v with
  | zero => rw [pow_zero, Nat.mod_one]; rfl
  | succ n ih =>
    have first : tabGet 0 m a = BitVec.ofNat 8 v := by simpa using bytes 0 (by omega)
    have others : memNat m (a + 1) n = v / 256 % 256 ^ n := ih fun b inside => by
      rw [Nat.add_assoc, Nat.add_comm 1 b, bytes (b + 1) (by omega), Nat.div_div_eq_div_mul, pow_succ']
    rw [memNat_succ, first, others, BitVec.toNat_ofNat, pow_succ' 256 n, Nat.mod_mul]

theorem memByte_putNat (m : Mem) (a v n x : Nat) : tabGet 0 (memPutNat m a v n) x =
    if a ≤ x ∧ x < a + n then BitVec.ofNat 8 (v / 256 ^ (x - a)) else tabGet 0 m x := by
  rw [memPutNat, memByte_write, length_natLE]
  split
  · rw [getD_natLE (by omega)]
  · rfl

theorem memNat_putNat_same (m : Mem) (a v n : Nat) : memNat (memPutNat m a v n) a n = v % 256 ^ n :=
  memNat_of_bytes fun b inside => by rw [memByte_putNat, if_pos (by omega), Nat.add_sub_cancel_left]

theorem memNat_putNat_other (m : Mem) {a b n : Nat} (v : Nat) (apart : a + n ≤ b ∨ b + n ≤ a) :
    memNat (memPutNat m a v n) b n = memNat m b n :=
  memNat_congr fun x low high => by rw [memByte_putNat, if_neg (by omega)]

/-- Bit i of bytes read as a number. -/
theorem testBit_memNat (m : Mem) (a n i : Nat) (inside : i < 8 * n) :
    bit (memNat m a n) i = bit (memNat m (a + i / 8) 1) (i % 8) := by
  induction n generalizing a i with
  | zero => omega
  | succ n ih =>
    have split : memNat m a (n + 1) = 2 ^ 8 * memNat m (a + 1) n + (tabGet 0 m a).toNat := Nat.add_comm ..
    rw [bit, split, Nat.testBit_two_pow_mul_add _ (BitVec.isLt _)]
    by_cases low : i < 8
    · rw [if_pos low, Nat.div_eq_of_lt low, Nat.mod_eq_of_lt low, Nat.add_zero]
      rfl
    · obtain ⟨j, rfl⟩ := Nat.exists_eq_add_of_le (not_lt.1 low)
      have next := ih (a + 1) j (by omega)
      rw [if_neg low, Nat.add_sub_cancel_left, Nat.add_div_left _ (by decide), Nat.add_mod_left]
      rw [bit] at next
      rw [next, Nat.add_right_comm, Nat.add_assoc]

/-- Byte b of a word. -/
theorem ofNat_byte {w : Nat} (v : BitVec w) (b : Nat) : BitVec.ofNat 8 (v.toNat / 256 ^ b) = (v >>> (8 * b)).setWidth 8 := by
  refine BitVec.eq_of_toNat_eq ?_
  rw [BitVec.toNat_ofNat, BitVec.toNat_setWidth, BitVec.toNat_ushiftRight, Nat.shiftRight_eq_div_pow, pow_mul, show 2 ^ 8 = 256 from rfl]

/-! ### Runs of stores (R127) -/

/-- A run of stores of n bytes, each value from the memory before it, leaves the bytes that none of them meets. -/
theorem memByte_stores_other {n x : Nat} {at_ : Nat → Nat} {v : Mem → Nat → Nat} {l : List Nat} (m : Mem)
    (missed : ∀ i ∈ l, ¬ (at_ i ≤ x ∧ x < at_ i + n)) :
    tabGet 0 (l.foldl (fun m i => memPutNat m (at_ i) (v m i) n) m) x = tabGet 0 m x := by
  induction l generalizing m with
  | nil => rfl
  | cons i l ih =>
    obtain ⟨first, rest⟩ := List.forall_mem_cons.1 missed
    rw [List.foldl_cons, ih _ rest, memByte_putNat, if_neg first]

/-- Of the stores of a run, the last that meets a byte leaves its own there. -/
theorem memByte_stores_last {n b : Nat} {at_ : Nat → Nat} {v : Nat → Nat} {l l' : List Nat} {i : Nat} (m : Mem) (inside : b < n)
    (last : ∀ j ∈ l', ¬ (at_ j ≤ at_ i + b ∧ at_ i + b < at_ j + n)) :
    tabGet 0 ((l ++ i :: l').foldl (fun m i => memPutNat m (at_ i) (v i) n) m) (at_ i + b) = BitVec.ofNat 8 (v i / 256 ^ b) := by
  rw [List.foldl_append, List.foldl_cons, memByte_stores_other (v := fun _ => v) _ last, memByte_putNat, if_pos (by omega),
    Nat.add_sub_cancel_left]

/-- A run of additions to words that are equal or apart adds up, at each word, what is meant for it. -/
theorem memNat_additions {at_ : Nat → Nat} {x : Nat → BitVec 32} {a : Nat} {l : List Nat} (m : Mem)
    (apart : ∀ j ∈ l, at_ j ≠ a → at_ j + 4 ≤ a ∨ a + 4 ≤ at_ j) :
    BitVec.ofNat 32 (memNat (l.foldl (fun m i => memPutNat m (at_ i) (memNat m (at_ i) 4 + (x i).toNat) 4) m) a 4) =
      (l.filter fun j => at_ j = a).foldl (fun y j => y + x j) (BitVec.ofNat 32 (memNat m a 4)) := by
  induction l generalizing m with
  | nil => rfl
  | cons i l ih =>
    obtain ⟨first, rest⟩ := List.forall_mem_cons.1 apart
    rw [List.foldl_cons, ih _ rest]
    by_cases same : at_ i = a
    · have added : BitVec.ofNat 32 ((memNat m a 4 + (x i).toNat) % 256 ^ 4) = BitVec.ofNat 32 (memNat m a 4) + x i :=
        BitVec.eq_of_toNat_eq (by simp)
      rw [same, memNat_putNat_same, added, List.filter_cons_of_pos (by simpa using same), List.foldl_cons]
    · rw [memNat_putNat_other _ _ (first same), List.filter_cons_of_neg (by simpa using same)]

/-! ### Addresses (R127) -/

/-- The address of lane i. -/
def Core.vaddr (k : Core) (f : VF) (indexed : Bool) (i : Nat) : Nat :=
  f.imm + (if indexed then (k.velem f.vs2 f.sew i).toNat else f.sew / 8 * i)

/-- Every active lane's address is aligned and lies in the operand buffer, and so does a contiguous access's own. -/
def Core.fits (k : Core) (f : VF) (indexed : Bool) : Bool :=
  (indexed || decide (f.imm % (f.sew / 8) = 0)) && ((List.range 256).filter (k.active f)).all fun i =>
    decide (k.vaddr f indexed i % (f.sew / 8) = 0 ∧ k.vaddr f indexed i + f.sew / 8 ≤ 0x180000)

theorem vecAddr_eq (k : Core) (f : VF) (indexed : Bool) : vecAddr k f indexed = k.vaddr f indexed := by
  funext i
  rw [vecAddr, Core.vaddr, elem_eq]

section
variable {s : State} {c : CoreRef} {p op : Nat} {f : VF} (h : s.VIssues c p f op)
include h

theorem vecMem_check_eq (indexed : Bool) : ((indexed || f.imm % (f.sew / 8) == 0) &&
    addrsOk (f.sew / 8) (((s.core p).actives f).map (vecAddr (s.core p) f indexed))) = (s.core p).fits f indexed := by
  rw [Core.fits, addrsOk, List.all_map, vecAddr_eq, Core.actives_eq h.vle_le_256, beq_eq_decide]
  simp only [Function.comp_def, beq_eq_decide, Bool.decide_and, opbufSize]
  rfl

/-- Where the addresses fit, a memory instruction acts. -/
theorem vecMem_fits {i : Instr} {run : Out} {indexed : Bool} {act : Core → VF → (Nat → Nat) → Core} (row : exec i s = run)
    (mem : run = vecMem c op indexed act s) (fits : (s.core p).fits f indexed = true) :
    exec i s = .next (s.vecPassed p (act (s.core p) f ((s.core p).vaddr f indexed))) := by
  rw [row, mem, ← vecAddr_eq]
  refine congrArg Host.Outcome.next (vecIssue_acts h ?_)
  simp only [vecMem_check_eq h, fits, if_true]

/-- One address that does not fit moves nothing and ends the program. -/
theorem vecMem_misfits {i : Instr} {run : Out} {indexed : Bool} {act : Core → VF → (Nat → Nat) → Core} (row : exec i s = run)
    (mem : run = vecMem c op indexed act s) (misfits : (s.core p).fits f indexed = false) :
    ∃ t, exec i s = .next t ∧ s.VEnds t c.sh p St.addressInvalid false := by
  rw [row, mem]
  refine ⟨_, rfl, vecIssue_vEnds_as_is h ?_⟩
  simp only [vecMem_check_eq h, misfits, Bool.false_eq_true, if_false]

theorem vecLoad_writes {i : Instr} {run : Out} {indexed : Bool} (row : exec i s = run) (mem : run = vecMem c op indexed vecLoad s)
    (fits : (s.core p).fits f indexed = true) :
    let k := s.core p
    ∃ t, exec i s = .next t ∧ s.VWrites t p f.vd f.sew (fun i => if k.active f i then
      some (BitVec.ofNat f.sew (memNat k.opbuf (k.vaddr f indexed i) (f.sew / 8))) else none) false false false := by
  intro k
  exact ⟨_, vecMem_fits h row mem fits, State.vWrites_lanes fun _ => rfl⟩

end

/-- The program has passed an instruction that writes the operand buffer alone. -/
def State.VStores (s t : State) (p : Nat) : Prop :=
  OnlyCore s t p ∧ (t.core p).vec = { (s.core p).vec with prog := (s.core p).passed } ∧
    { t.core p with opbuf := (s.core p).opbuf, vec := (s.core p).vec } = s.core p

theorem State.vStores_vecPassed (s : State) (p : Nat) (m : Mem) : s.VStores (s.vecPassed p { s.core p with opbuf := m }) p := by
  refine ⟨s.onlyCore_vecPassed p _, ?_, ?_⟩ <;> rw [State.core_vecPassed] <;> rfl

end Sys2Proof.Machine
end

section
/-!
PROOF. Vector memory instructions (R127, R128): stores, scatter-adds and masks, and the statement.
-/

namespace Sys2Proof.Machine

/-! ### Stores and scatter-adds (R127) -/

/-- Byte x is byte b of the n-byte element at `a`. -/
def Hits (a n x b : Nat) : Prop := b < n ∧ x = a + b

theorem not_inside_of_not_hits {a n x : Nat} (missed : ∀ b, ¬ Hits a n x b) : ¬ (a ≤ x ∧ x < a + n) :=
  fun ⟨low, high⟩ => missed (x - a) ⟨by omega, by omega⟩

/-- Aligned elements at different addresses share no byte. -/
theorem apart_of_aligned {n a b : Nat} (ha : a % n = 0) (hb : b % n = 0) (other : a ≠ b) : a + n ≤ b ∨ b + n ≤ a := by
  obtain less | less := Nat.lt_or_gt_of_ne other
  · have := Nat.le_of_dvd (by omega) (Nat.dvd_sub (Nat.dvd_of_mod_eq_zero hb) (Nat.dvd_of_mod_eq_zero ha))
    omega
  · have := Nat.le_of_dvd (by omega) (Nat.dvd_sub (Nat.dvd_of_mod_eq_zero ha) (Nat.dvd_of_mod_eq_zero hb))
    omega

theorem Core.aligned_of_fits {k : Core} {f : VF} {indexed : Bool} (fits : k.fits f indexed = true) {i : Nat}
    (mem : i ∈ (List.range 256).filter (k.active f)) : k.vaddr f indexed i % (f.sew / 8) = 0 :=
  (of_decide_eq_true (List.all_eq_true.1 (Bool.and_eq_true_iff.1 fits).2 i mem)).1

@[simp] theorem State.opbuf_vecPassed (s : State) (p : Nat) (k : Core) : ((s.vecPassed p k).core p).opbuf = k.opbuf := by
  rw [State.core_vecPassed]
  rfl

section
variable {s : State} {c : CoreRef} {p op : Nat} {f : VF} (h : s.VIssues c p f op) {i : Instr} {run : Out} {indexed : Bool}
include h

/-- Of the lanes of one address the highest stays. -/
theorem vecStore_stores (row : exec i s = run) (mem : run = vecMem c op indexed vecStore s)
    (fits : (s.core p).fits f indexed = true) :
    let k := s.core p
    let lanes := (List.range 256).filter (k.active f)
    let at_ := k.vaddr f indexed
    ∃ t, exec i s = .next t ∧ s.VStores t p ∧
      (∀ i ∈ lanes, (∀ j ∈ lanes, i < j → at_ j ≠ at_ i) → ∀ b x, Hits (at_ i) (f.sew / 8) x b →
        tabGet 0 (t.core p).opbuf x = (k.velem f.vs1 f.sew i >>> (8 * b)).setWidth 8) ∧
      (∀ x, (∀ i ∈ lanes, ∀ b, ¬ Hits (at_ i) (f.sew / 8) x b) → tabGet 0 (t.core p).opbuf x = tabGet 0 k.opbuf x) := by
  intro k lanes at_
  have actives : (s.core p).actives f = lanes := Core.actives_eq h.vle_le_256
  refine ⟨_, vecMem_fits h row mem fits, s.vStores_vecPassed p _, fun i inside highest b x ⟨below, same⟩ => ?_, fun x missed => ?_⟩
  · obtain ⟨l, l', split⟩ := List.append_of_mem inside
    have sorted : lanes.Pairwise (· < ·) := List.pairwise_lt_range.filter _
    rw [split, List.pairwise_append, List.pairwise_cons] at sorted
    obtain ⟨-, ⟨after, -⟩, -⟩ := sorted
    rw [State.opbuf_vecPassed, same, ← ofNat_byte, ← Core.s1_eq, vecStore, actives, split]
    refine memByte_stores_last _ below fun j mem => ?_
    have later : j ∈ lanes := split ▸ List.mem_append_right l (List.mem_cons_of_mem i mem)
    have := apart_of_aligned (Core.aligned_of_fits fits later) (Core.aligned_of_fits fits inside) (highest j later (after j mem))
    omega
  · rw [State.opbuf_vecPassed, vecStore, actives]
    exact memByte_stores_other _ fun i inside => not_inside_of_not_hits (missed i inside)

theorem vecScatterAdd_adds (sew : f.sew = 32) (row : exec i s = run) (mem : run = vecMem c op indexed vecScatterAdd s)
    (fits : (s.core p).fits f indexed = true) :
    let k := s.core p
    let lanes := (List.range 256).filter (k.active f)
    let at_ := k.vaddr f indexed
    ∃ t, exec i s = .next t ∧ s.VStores t p ∧
      (∀ i ∈ lanes, BitVec.ofNat 32 (memNat (t.core p).opbuf (at_ i) 4) =
        (lanes.filter fun j => at_ j = at_ i).foldl (fun y j => y + k.velem f.vs1 32 j) (BitVec.ofNat 32 (memNat k.opbuf (at_ i) 4))) ∧
      (∀ x, (∀ i ∈ lanes, ∀ b, ¬ Hits (at_ i) (f.sew / 8) x b) → tabGet 0 (t.core p).opbuf x = tabGet 0 k.opbuf x) := by
  intro k lanes at_
  have actives : (s.core p).actives f = lanes := Core.actives_eq h.vle_le_256
  have element : (s.core p).s1 f = fun i => (k.velem f.vs1 32 i).toNat := funext (k.s1_of_sew sew)
  have stored := vecMem_fits h row mem fits
  refine ⟨_, stored, s.vStores_vecPassed p _, fun i inside => ?_, fun x missed => ?_⟩
  · rw [State.opbuf_vecPassed, vecScatterAdd, actives, element]
    refine memNat_additions _ fun j mem other => ?_
    have apart := apart_of_aligned (Core.aligned_of_fits fits mem) (Core.aligned_of_fits fits inside) other
    rw [sew] at apart
    exact apart
  · rw [State.opbuf_vecPassed, vecScatterAdd, actives]
    rw [sew] at missed
    exact memByte_stores_other _ fun i inside => not_inside_of_not_hits (missed i inside)

/-! ### Masks -/

theorem vecMaskMem_fits {act : Core → VF → Core} (row : exec i s = run) (mem : run = vecMaskMem c op act s)
    (fits : f.imm % 32 = 0 ∧ f.imm + 32 ≤ 0x180000) : exec i s = .next (s.vecPassed p (act (s.core p) f)) := by
  rw [row, mem]
  exact congrArg Host.Outcome.next (vecIssue_acts h (if_pos (by simpa [addrsOk, opbufSize] using fits)))

theorem vecMaskMem_misfits {act : Core → VF → Core} (row : exec i s = run) (mem : run = vecMaskMem c op act s)
    (misfits : ¬ (f.imm % 32 = 0 ∧ f.imm + 32 ≤ 0x180000)) :
    ∃ t, exec i s = .next t ∧ s.VEnds t c.sh p St.addressInvalid false := by
  rw [row, mem]
  exact ⟨_, rfl, vecIssue_vEnds_as_is h (if_neg (by simpa [addrsOk, opbufSize] using misfits))⟩

end

/-- Settles O25: an access acts where its addresses fit (`vecMem_fits`) and ends the program otherwise (`vecMem_misfits`); what a
run of stores leaves is `memByte_stores_last` and `memNat_additions`. -/
theorem vectorMemory : Obligations.VectorMemory := by
  unfold Obligations.VectorMemory
  intro s c p f op issues
  refine ⟨?_, ?_, ?_, ?_, ?_, ?_, ?_⟩
  · refine List.forall_iff_forall_mem.1 ⟨?_, ?_⟩ <;> rintro rfl fits
    · exact vecLoad_writes (run := execVld c s) issues rfl rfl fits
    · exact vecLoad_writes (run := execVldx c s) issues rfl rfl fits
  · refine List.forall_iff_forall_mem.1 ⟨?_, ?_⟩ <;> rintro rfl fits
    · exact vecStore_stores (run := execVst c s) issues rfl rfl fits
    · exact vecStore_stores (run := execVstx c s) issues rfl rfl fits
  · rintro rfl fits
    have sew : f.sew = 32 := (issues.meets (o := { vd := .none, vs2 := true, w32 := true, imm := 32 }) rfl).word32 rfl
    exact vecScatterAdd_adds (run := execVsxadd c s) issues sew rfl rfl fits
  · rintro rfl fits
    refine ⟨_, vecMaskMem_fits (run := execVmld c s) issues rfl rfl (of_decide_eq_true fits), State.mWrites_mask fun i inside => ?_⟩
    rw [BitVec.getLsbD_ofNat, decide_eq_true inside, Bool.true_and]
    exact testBit_memNat _ _ 32 i (by omega)
  · rintro rfl fits
    refine ⟨_, vecMaskMem_fits (run := execVmst c s) issues rfl rfl (of_decide_eq_true fits), s.vStores_vecPassed p _, fun x => ?_⟩
    show tabGet 0 ((s.vecPassed p _).core p).opbuf x = _
    rw [State.opbuf_vecPassed, memByte_putNat, ofNat_byte]
  · refine List.forall_iff_forall_mem.1 ⟨?_, ?_, ?_, ?_, ?_⟩ <;> rintro rfl misfits
    · exact vecMem_misfits (run := execVld c s) issues rfl rfl misfits
    · exact vecMem_misfits (run := execVst c s) issues rfl rfl misfits
    · exact vecMem_misfits (run := execVldx c s) issues rfl rfl misfits
    · exact vecMem_misfits (run := execVstx c s) issues rfl rfl misfits
    · exact vecMem_misfits (run := execVsxadd c s) issues rfl rfl misfits
  · refine List.forall_iff_forall_mem.1 ⟨?_, ?_⟩ <;> rintro rfl misfits
    · exact vecMaskMem_misfits (run := execVmld c s) issues rfl rfl (of_decide_eq_false misfits)
    · exact vecMaskMem_misfits (run := execVmst c s) issues rfl rfl (of_decide_eq_false misfits)

end Sys2Proof.Machine
end

section
/-!
PROOF. Trim cores at an extension instruction (R137, R139): how one comes to it, completes it, and is woken from a wait.
-/

namespace Sys2Proof.Machine

/-! ### An instruction of a running core -/

/-- The instruction acts on the state in which the core has come to it. -/
theorem State.onTrim_of_running {s s0 : State} {t : TrimRef} {b : TrimBase} (running : s0.Running t) (entered : s = s0.enter t b)
    (act : State → State) : (s0.onTrim t b fun s _ => act s) = act s := by
  obtain ⟨on, awake⟩ := running
  rw [State.onTrim, if_neg (by simp [on, awake]), entered]

/-- The same for an instruction that a management core does not have. -/
theorem State.onShelfTrim_of_running {s s0 : State} {t : TrimRef} {b : TrimBase} (running : s0.Running t)
    (entered : s = s0.enter t b) (shelf : t.sh.val < 16) (act : State → State) :
    (s0.onShelfTrim t b fun s _ => act s) = act s :=
  (State.onTrim_of_running running entered _).trans (if_pos shelf)

theorem State.illegalOnManagement_of_onShelfTrim {s0 : State} {t : TrimRef} {b : TrimBase} {i : Instr} {act : State → State}
    (running : s0.Running t) (row : exec i s0 = .next (s0.onShelfTrim t b fun s _ => act s)) : s0.IllegalOnManagement t b i := by
  intro management
  have traps : (s0.onShelfTrim t b fun s _ => act s) = (s0.enter t b).modTrim t.sh t.k (·.trap causeIllegal) :=
    (State.onTrim_of_running running rfl _).trans (if_neg (by omega))
  exact ⟨_, row.trans (congrArg _ traps), onlyTrim_modTrim .., State.trim_modTrim_same ..⟩

/-! ### Completion (R139) -/

theorem Trim.completes_retire (r : Trim) (rd : Nat) (v : BitVec 64) : r.Completes (r.retire rd v) rd v := by
  refine ⟨rfl, rfl, fun i => ?_, rfl⟩
  rw [Trim.retire]
  by_cases zero : rd = 0
  · simp [zero]
  · simp [zero, tabGet_set]

theorem State.completesWith_ret (s : State) (t : TrimRef) (rd : Nat) (v : BitVec 64) : s.CompletesWith (s.ret t rd v) t rd v := by
  refine ⟨onlyTrim_modTrim .., ?_⟩
  rw [State.ret, State.trim_modTrim_same]
  exact Trim.completes_retire _ rd v

/-- An instruction that answers with `ret` completes. -/
theorem State.completes_of_ret {s s0 : State} {t : TrimRef} {rd : Nat} {v : BitVec 64} {i : Instr}
    (row : exec i s0 = .next (s.ret t rd v)) : ∃ s', exec i s0 = .next s' ∧ s.CompletesWith s' t rd v :=
  ⟨_, row, s.completesWith_ret t rd v⟩

/-! ### Who is woken (R143, R151) -/

/-- After a change of a shelf, the cores are woken that were, and those that now see their condition. -/
theorem State.mem_woken_modShelf (s : State) (sh : Nat) (f : Shelf → Shelf) (i : Nat) :
    i ∈ (s.modShelf sh f).woken ↔ i ∈ s.woken ∨ ∃ k < 4, (s.modShelf sh f).sees sh k = true ∧ 4 * sh + k = i := by
  show i ∈ s.woken ++ List.filter _ (List.map _ (List.filter (fun k => (s.modShelf sh f).sees sh k) _)) ↔ _
  simp only [List.mem_append, List.mem_filter, List.mem_map, List.mem_range, List.contains_eq_mem, Bool.not_eq_true',
    decide_eq_false_iff_not, and_assoc]
  by_cases woken : i ∈ s.woken <;> simp [woken]

theorem State.sees_of_wait {s : State} {sh k cond a rd : Nat} {cmp : BitVec 64}
    (waits : (s.trim sh k).wait = some (.word cond a cmp rd)) :
    s.sees sh k = (s.localWord sh k a).any fun w => waitHolds cond w cmp.toNat := by
  rw [State.sees, waits]

/-- The word that a core watches does not depend on its wait. -/
theorem State.localWord_modTrim_wait (s : State) (sh k a : Nat) (w : Option Wait) :
    (s.modTrim sh k fun r => { r with wait := w }).localWord sh k a = s.localWord sh k a := by
  have shelf : (s.modTrim sh k fun r => { r with wait := w }).shelf sh =
      { s.shelf sh with trims := tabMod {} (s.shelf sh).trims k fun r => { r with wait := w } } := State.shelf_modShelf_same ..
  have sram : (s.modTrim sh k fun r => { r with wait := w }).sram sh = s.sram sh := by rw [State.sram, shelf]; rfl
  have owns c : (s.modTrim sh k fun r => { r with wait := w }).owns sh k c = s.owns sh k c := by rw [State.owns, shelf]; rfl
  have window c off : (s.modTrim sh k fun r => { r with wait := w }).windowWord sh c off = s.windowWord sh c off := by
    rw [State.windowWord, State.phys, shelf]
    rfl
  simp only [State.localWord, State.trim_modTrim_same, sram, owns, window, Trim.sramOk]

end Sys2Proof.Machine
end

section
/-!
PROOF. wait.w (R143): how it issues, and what ends its wait.
-/

namespace Sys2Proof.Machine

/-- The three forms of wait.w, each with its condition. -/
theorem exec_waitIssue_of_form {t : TrimRef} {o : TrimOps} {cond : Nat} {holds : Nat → Nat → Prop} {i : Instr}
    (form : (cond, holds, i) = (0, (fun w c => w ≠ c), .waitWNe t o) ∨ (cond, holds, i) = (1, (fun w c => w = c), .waitWEq t o) ∨
      (cond, holds, i) = (2, (fun w c => c ≤ w), .waitWGeu t o)) :
    (∀ s0, exec i s0 = .next (waitIssue cond t o s0)) ∧ ∀ w c, waitHolds cond w c = true ↔ holds w c := by
  obtain ne | eq | geu := form
  · cases ne
    exact ⟨fun _ => rfl, fun w c => bne_iff_ne⟩
  · cases eq
    exact ⟨fun _ => rfl, fun w c => beq_iff_eq⟩
  · cases geu
    exact ⟨fun _ => rfl, fun w c => decide_eq_true_iff⟩

section
variable {s s0 : State} {t : TrimRef} {o : TrimOps} {cond w : Nat} (running : s0.Running t) (entered : s = s0.enter t o.base)
include running entered

theorem waitIssue_of_no_word (none : s.localWord t.sh t.k o.rs1.toNat = none) :
    waitIssue cond t o s0 = s.modTrim t.sh t.k (·.trap 5) := by
  refine (State.onTrim_of_running running entered _).trans ?_
  simp only [none]

theorem waitIssue_of_holds (word : s.localWord t.sh t.k o.rs1.toNat = some w) (holds : waitHolds cond w o.rs2.toNat = true) :
    waitIssue cond t o s0 = s.ret t o.rd (BitVec.ofNat 64 w) := by
  refine (State.onTrim_of_running running entered _).trans ?_
  simp only [word, holds, if_true]

theorem waitIssue_of_not_holds (word : s.localWord t.sh t.k o.rs1.toNat = some w) (fails : waitHolds cond w o.rs2.toNat = false) :
    waitIssue cond t o s0 = { s with woken := s.woken.filter (· ≠ 4 * t.sh.val + t.k.val) : State }.modTrim t.sh t.k fun r =>
      { r with wait := some (.word cond o.rs1.toNat o.rs2 o.rd) } := by
  refine (State.onTrim_of_running running entered _).trans ?_
  simp only [word, fails, Bool.false_eq_true, if_false]

end

/-- A core whose word does not meet its condition is not woken by its own wait. -/
theorem State.not_mem_woken_of_gated {s : State} {sh k cond a w rd : Nat} {cmp : BitVec 64} (asleep : 4 * sh + k ∉ s.woken)
    (word : s.localWord sh k a = some w) (fails : waitHolds cond w cmp.toNat = false) :
    4 * sh + k ∉ (s.modTrim sh k fun r => { r with wait := some (.word cond a cmp rd) }).woken := by
  have waits : ((s.modTrim sh k fun r => { r with wait := some (.word cond a cmp rd) }).trim sh k).wait =
      some (.word cond a cmp rd) := by rw [State.trim_modTrim_same]
  have blind := State.sees_of_wait waits
  rw [State.localWord_modTrim_wait, word, Option.any_some, fails] at blind
  rw [State.modTrim, State.mem_woken_modShelf]
  rintro (was | ⟨j, -, sees, same⟩)
  · exact asleep was
  · obtain rfl : j = k := by omega
    exact Bool.false_ne_true (blind.symm.trans sees)

/-- A write to a shelf wakes a core whose word then meets its condition. -/
theorem State.mem_woken_sramWrite {s : State} {sh k a cond b rd w : Nat} {bs : List Byte} {cmp : BitVec 64} (low : k < 4)
    (waits : (s.trim sh k).wait = some (.word cond b cmp rd)) (word : (s.sramWrite sh a bs).localWord sh k b = some w)
    (holds : waitHolds cond w cmp.toNat = true) : 4 * sh + k ∈ (s.sramWrite sh a bs).woken := by
  have shelf : (s.sramWrite sh a bs).shelf sh = { s.shelf sh with sram := memWrite (s.shelf sh).sram a bs } :=
    State.shelf_modShelf_same ..
  have still : ((s.sramWrite sh a bs).trim sh k).wait = some (.word cond b cmp rd) := by
    rw [State.trim, shelf]
    exact waits
  refine (State.mem_woken_modShelf ..).2 (.inr ⟨k, low, (State.sees_of_wait still).trans ?_, rfl⟩)
  rw [word]
  exact holds

/-! ### The end of a wait -/

section
variable {s : State} {t : TrimRef} {cond a rd w : Nat} {cmp : BitVec 64}
  (waits : (s.trim t.sh t.k).wait = some (.word cond a cmp rd))
include waits

theorem exec_waitWake_of_met (word : s.localWord t.sh t.k a = some w)
    (met : 4 * t.sh.val + t.k.val ∈ s.woken ∨ waitHolds cond w cmp.toNat = true) :
    exec (.waitWake t) s = .next (s.ret t rd (BitVec.ofNat 64 w)) := by
  show execWaitWake t s = _
  simp only [execWaitWake, waits, word, List.contains_eq_mem, decide_eq_true_eq, if_pos met]

theorem exec_waitWake_of_not_met (word : s.localWord t.sh t.k a = some w) (asleep : 4 * t.sh.val + t.k.val ∉ s.woken)
    (fails : waitHolds cond w cmp.toNat = false) : exec (.waitWake t) s = .next s := by
  show execWaitWake t s = _
  simp [execWaitWake, waits, word, asleep, fails]

theorem exec_waitTimeout_of_word (word : s.localWord t.sh t.k a = some w) (set : (s.trim t.sh t.k).twtmo ≠ 0) :
    exec (.waitTimeout t) s = .next (s.ret t rd (BitVec.ofNat 64 w)) := by
  show execWaitTimeout t s = _
  simp only [execWaitTimeout, if_neg set, waits, word, Option.getD_some]

theorem exec_waitInterrupt_of_enabled {cause : BitVec 64}
    (enabled : (s.trim t.sh t.k).machine = false ∨ (s.trim t.sh t.k).mie = true) :
    exec (.waitInterrupt t cause) s = .next (s.modTrim t.sh t.k (·.trap (cause ||| 0x8000000000000000))) := by
  show execWaitInterrupt t cause s = _
  simp only [execWaitInterrupt, waits]
  rw [if_pos ⟨trivial, by simpa using enabled⟩]

end

end Sys2Proof.Machine
end

section
/-!
PROOF. Remote commands (R140 to R142): how an rm.cmd issues, what a completed operation leaves, and stores to its counts.
-/

namespace Sys2Proof.Machine

/-! ### Issue (R141) -/

section
variable {s s0 : State} {t : TrimRef} {o : TrimOps} (running : s0.Running t) (entered : s = s0.enter t o.base)
include running entered

theorem exec_rmCmd_of_running : exec (.rmCmd t o) s0 = .next (s.rmCmd t o.rd o.rs1 o.rs2) :=
  congrArg Host.Outcome.next (State.onTrim_of_running running entered _)

theorem exec_rmCmd_of_error {st : Status} (bad : s.rmOp t o.rs1.toNat (bits o.rs2.toNat 3 0) = .error st) :
    exec (.rmCmd t o) s0 = .next (s.ret t o.rd (st.setWidth 64)) := by
  rw [exec_rmCmd_of_running running entered, State.rmCmd, bad]
  rfl

theorem exec_rmCmd_of_room {q : RemOp} (good : s.rmOp t o.rs1.toNat (bits o.rs2.toNat 3 0) = .ok q)
    (room : s.outstanding t < 64) : exec (.rmCmd t o) s0 = .next ((s.issue q).ret t o.rd 0) := by
  rw [exec_rmCmd_of_running running entered, State.rmCmd, good]
  exact congrArg Host.Outcome.next (if_neg (Nat.not_le.2 room))

theorem exec_rmCmd_of_full {q : RemOp} (good : s.rmOp t o.rs1.toNat (bits o.rs2.toNat 3 0) = .ok q)
    (full : 64 ≤ s.outstanding t) :
    exec (.rmCmd t o) s0 = .next (s.modTrim t.sh t.k fun r => { r with wait := some (.cmd o.rd o.rs1 o.rs2) }) := by
  rw [exec_rmCmd_of_running running entered, State.rmCmd, good]
  exact congrArg Host.Outcome.next (if_pos full)

end

/-! ### Flags of a TALLY_ADD (R82, R198) -/

/-- The jobs after a TALLY_ADD of the shelf. -/
def State.talliedJobs (s : State) (sh : Nat) (o : RemOp) (sat : Bool) : List Job :=
  s.work.jobs.map fun j =>
    if (s.worksOn sh).contains j.slot then { j with flags := j.flags ||| tallyFlags (s.inGarea j o.remote) sat o.cfl } else j

/-- The works' slots after it. -/
def State.talliedSlots (s : State) (sh : Nat) (sat : Bool) : Tab Work :=
  (s.worksOn sh).foldl
    (fun w i => if sat ∧ (tabGet {} w i).kind = 1 then tabMod {} w i fun w => { w with flags := w.flags ||| 1 } else w) s.work.slots

theorem State.flagTally_eq (s : State) (sh : Nat) (o : RemOp) (sat : Bool) : s.flagTally sh o sat =
    { s with work := { s.work with jobs := s.talliedJobs sh o sat, slots := s.talliedSlots sh sat } } := by
  have fold (l : List Nat) (u : State) :
      l.foldl (fun s i => if sat ∧ (s.wk i).kind = 1 then s.modWork i fun w => { w with flags := w.flags ||| 1 } else s) u =
        { u with work := { u.work with slots := l.foldl (fun w i => if sat ∧ (tabGet {} w i).kind = 1 then
          tabMod {} w i fun w => { w with flags := w.flags ||| 1 } else w) u.work.slots } } := by
    induction l generalizing u with
    | nil => rfl
    | cons i l ih =>
      rw [List.foldl_cons, List.foldl_cons, ih, State.wk]
      split <;> rfl
  exact fold _ _

/-- The flags go by the works, the partitions and the device's position. -/
theorem State.work_flagTally_congr {s u : State} (work : u.work = s.work) (mode : u.mode = s.mode) (mod : u.mod = s.mod)
    (sh : Nat) (o : RemOp) (sat : Bool) : (u.flagTally sh o sat).work = (s.flagTally sh o sat).work := by
  have parts i : u.slotPart i = s.slotPart i := by rw [State.slotPart, mode]; rfl
  have shelves : u.partOf sh = s.partOf sh := by rw [State.partOf, mode]; rfl
  have works : u.worksOn sh = s.worksOn sh := by simp only [State.worksOn, work, parts, shelves]
  have areas j a : u.inGarea j a = s.inGarea j a := by rw [State.inGarea, mod]; rfl
  rw [State.flagTally_eq, State.flagTally_eq]
  simp only [State.talliedJobs, State.talliedSlots, works, areas, work]

/-! ### Returned data (R142) -/

/-- A write to HBM touches its bytes, the error counts and the log. -/
theorem State.hbmStore_kept (s : State) (a : Nat) (bs : List Byte) :
    { (s.hbmStore a bs).1 with hbm := s.hbm, ecc := s.ecc, out := s.out } = s := by
  have edges n : { s.noteEdges a n with hbm := s.hbm, ecc := s.ecc, out := s.out } = s := by
    rw [(s.corrects_noteEdges a n).rest]
  unfold State.hbmStore
  split
  · exact edges _
  · exact edges _

/-- The bytes of a response that go to LOCAL (R140, R142). -/
def RemOp.returned (o : RemOp) (a : Answer) : List Byte := if a.status = 0 then a.data.take (rmLocalLen o.opc o.len) else []

/-- The state in which they stand there. -/
def State.opLanded (s : State) (o : RemOp) (t : TrimRef) (a : Answer) : State :=
  if a.status = 0 ∧ !a.data.isEmpty then s.localWrite t o.local_ (a.data.take (rmLocalLen o.opc o.len)) else s

/-- From `s` to `u` bytes have been written at local address `addr` of trim core `t`: in its shelf's SRAM, or, on a management
core, in HBM, which `stored` shows. -/
structure State.Lands (s u : State) (t : TrimRef) (addr : Nat) (bs : List Byte) (stored : State) : Prop where
  bytes : ∀ b, tabGet 0 (u.sram t.sh) b =
    if t.sh.val < 16 ∧ addr ≤ b ∧ b < addr + bs.length then bs.getD (b - addr) 0 else tabGet 0 (s.sram t.sh) b
  trims : ∀ j, u.trim t.sh j = s.trim t.sh j
  shelf : { u.shelf t.sh with sram := (s.shelf t.sh).sram } = s.shelf t.sh
  others : ∀ h, h ≠ t.sh.val → u.shelf h = s.shelf h
  wakes : s.Wakes u t.sh
  kept : { u with hbm := s.hbm, ecc := s.ecc, out := s.out, shelves := s.shelves, woken := s.woken } = s
  rest : { u with shelves := s.shelves, woken := s.woken } = stored

theorem State.lands_nothing (s : State) (t : TrimRef) (addr : Nat) : s.Lands s t addr [] s :=
  ⟨fun b => by simp, fun _ => rfl, rfl, fun _ _ => rfl, .refl s _, rfl, rfl⟩

theorem State.lands_sramWrite (s : State) {t : TrimRef} (addr : Nat) (bs : List Byte) (shelf : t.sh.val < 16) :
    s.Lands (s.sramWrite t.sh addr bs) t addr bs s := by
  have own : (s.sramWrite t.sh addr bs).shelf t.sh = { s.shelf t.sh with sram := memWrite (s.shelf t.sh).sram addr bs } :=
    State.shelf_modShelf_same ..
  obtain ⟨others, kept, wakes⟩ := onlyShelf_modShelf s t.sh fun h => { h with sram := memWrite h.sram addr bs }
  refine ⟨fun b => ?_, fun j => ?_, ?_, others, wakes, kept, kept⟩
  · rw [State.sram_sramWrite, memByte_write]
    simp only [shelf, true_and]
  · rw [State.trim, own]
    rfl
  · rw [own]

theorem State.lands_hbmStore (s : State) {t : TrimRef} (addr a : Nat) (bs : List Byte) (management : ¬ t.sh.val < 16) :
    s.Lands (s.hbmStore a bs).1 t addr bs (s.hbmStore a bs).1 := by
  have kept := s.hbmStore_kept a bs
  generalize (s.hbmStore a bs).1 = u at kept
  have shelves : u.shelves = s.shelves := by rw [← kept]
  have woken : u.woken = s.woken := by rw [← kept]
  have shelf h : u.shelf h = s.shelf h := by rw [State.shelf, shelves]; rfl
  refine ⟨fun b => ?_, fun j => congrArg (Shelf.trim · j) (shelf _), ?_, fun h _ => shelf h, ?_, ?_, ?_⟩
  · rw [if_neg fun h => management h.1, State.sram, shelf]
    rfl
  · rw [shelf]
  · exact ⟨fun i m => woken ▸ m, fun i m => .inl (woken ▸ m)⟩
  · exact congrArg (fun x : State => { x with shelves := s.shelves, woken := s.woken }) kept
  · rw [← shelves, ← woken]

/-- What returns stands in LOCAL. -/
theorem State.lands_opLanded (s : State) (o : RemOp) (t : TrimRef) (a : Answer) :
    s.Lands (s.opLanded o t a) t o.local_ (o.returned a)
      (if t.sh.val = 16 ∧ a.status = 0 ∧ a.data ≠ [] then
        (s.hbmStore (s.mgmtData t.k + (o.local_ - 0x50000000)) (o.returned a)).1 else s) := by
  by_cases filled : a.status = 0 ∧ a.data ≠ []
  · have returned : o.returned a = a.data.take (rmLocalLen o.opc o.len) := if_pos filled.1
    have landed : s.opLanded o t a = s.localWrite t o.local_ (o.returned a) := by
      rw [returned]
      exact if_pos (by simpa using filled)
    rw [landed, State.localWrite]
    by_cases shelf : t.sh.val < 16
    · rw [if_pos shelf, if_neg (by omega)]
      exact s.lands_sramWrite _ _ shelf
    · rw [if_neg shelf, if_pos ⟨by omega, filled⟩]
      exact s.lands_hbmStore _ _ _ shelf
  · have returned : o.returned a = [] := by
      rw [RemOp.returned]
      split
      · next ok => simp [not_not.1 fun full => filled ⟨ok, full⟩]
      · rfl
    have landed : s.opLanded o t a = s := if_neg (by simpa using filled)
    rw [landed, returned, if_neg fun h => filled h.2]
    exact s.lands_nothing t _

/-! ### The end of an operation (R142) -/

/-- The core's counts after the operation. -/
def Trim.opCounted (r : Trim) (i : Nat) (st : Status) : Trim :=
  { r.countError i st with counters := tabMod 0 r.counters i (· + 1) }

/-- The state in which the operation has counted, and its flags have gone to the works. -/
def State.opFlagged (s : State) (o : RemOp) (t : TrimRef) (i : Nat) (a : Answer) : State :=
  let u := (s.opLanded o t a).modTrim t.sh t.k (·.opCounted i a.status)
  if o.opc = 6 ∧ (a.sat ∨ a.status = 0) then u.flagTally t.sh { o with cfl := if a.status = 0 then o.cfl else 0 } a.sat else u

/-- The state in which the operation has left the list. -/
def State.opEnded (s : State) (o : RemOp) (t : TrimRef) (i : Nat) (a : Answer) : State :=
  { s.opFlagged o t i a with ops := (s.opFlagged o t i a).ops.filter (·.id ≠ o.id) }

theorem Trim.counters_opCounted (r : Trim) (i : Nat) (st : Status) (j : Nat) :
    tabGet 0 (r.opCounted i st).counters j = tabGet 0 r.counters j + (if j = i then 1 else 0) := by
  refine (tabGet_mod 0 r.counters i j (· + 1)).trans ?_
  by_cases own : j = i <;> simp [own]

theorem Trim.errors_opCounted (r : Trim) (i : Nat) (st : Status) (j : Nat) :
    tabGet 0 (r.opCounted i st).errors j =
      if j = i ∧ st ≠ 0 then errorNext (r.failed.getLsbD i) (tabGet 0 r.errors i) st else tabGet 0 r.errors j := by
  show tabGet 0 (r.countError i st).errors j = _
  rw [Trim.countError]
  split
  · next ok => rw [if_neg fun h => h.2 ok]
  · next bad => simp only [tabGet_mod, bad, ne_eq, not_false_iff, and_true]

theorem Trim.failed_opCounted (r : Trim) (i : Nat) (st : Status) :
    (r.opCounted i st).failed = if st = 0 then r.failed else r.failed ||| ((1 : BitVec 16) <<< i) := by
  show (r.countError i st).failed = _
  rw [Trim.countError]
  split <;> rfl

theorem Trim.kept_opCounted (r : Trim) (i : Nat) (st : Status) :
    { r.opCounted i st with counters := r.counters, errors := r.errors, failed := r.failed } = r := by
  rw [Trim.opCounted, Trim.countError]
  split <;> rfl

theorem Trim.wait_opCounted (r : Trim) (i : Nat) (st : Status) : (r.opCounted i st).wait = r.wait :=
  (congrArg Trim.wait (r.kept_opCounted i st) :)

section
variable {s u : State} {t : TrimRef} {addr : Nat} {bs : List Byte} {stored : State} (lands : s.Lands u t addr bs stored)
include lands

theorem State.Lands.work : u.work = s.work := by rw [← lands.kept]

theorem State.Lands.ops : u.ops = s.ops := by rw [← lands.kept]

theorem State.Lands.work_flagTally (o : RemOp) (sat : Bool) : (u.flagTally t.sh o sat).work = (s.flagTally t.sh o sat).work :=
  State.work_flagTally_congr lands.work (by rw [← lands.kept]) (by rw [← lands.kept]) _ o sat

end

/-- The works after the operation. -/
def State.opWork (s : State) (o : RemOp) (t : TrimRef) (a : Answer) : WorkUnit :=
  if o.opc = 6 ∧ (a.sat = true ∨ a.status = 0) then
    (s.flagTally t.sh { o with cfl := if a.status = 0 then o.cfl else 0 } a.sat).work
  else s.work

/-- The state with the operation's data in LOCAL, its flags with the works, and the operation off the list. -/
def State.opCollected (s : State) (o : RemOp) (t : TrimRef) (a : Answer) : State :=
  { s.opLanded o t a with work := s.opWork o t a, ops := s.ops.filter (·.id ≠ o.id) }

/-- Beside that, an ended operation has changed its core's counts alone. -/
theorem State.opEnded_eq (s : State) (o : RemOp) (t : TrimRef) (i : Nat) (a : Answer) :
    s.opEnded o t i a = (s.opCollected o t a).modTrim t.sh t.k (·.opCounted i a.status) := by
  have lands := s.lands_opLanded o t a
  rw [State.opEnded, State.opFlagged, State.opCollected, State.opWork]
  generalize s.opLanded o t a = u at lands
  split
  · rw [State.flagTally_eq, ← lands.work_flagTally, State.flagTally_eq, ← lands.ops]
    rfl
  · rw [← lands.work, ← lands.ops]
    rfl

theorem State.trim_opCollected (s : State) (o : RemOp) (t : TrimRef) (a : Answer) (j : Nat) :
    (s.opCollected o t a).trim t.sh j = s.trim t.sh j := (s.lands_opLanded o t a).trims j

theorem State.onlyTrim_opEnded (s : State) (o : RemOp) (t : TrimRef) (i : Nat) (a : Answer) :
    OnlyTrim (s.opCollected o t a) (s.opEnded o t i a) t.sh t.k := by
  rw [State.opEnded_eq]
  exact onlyTrim_modTrim ..

theorem State.trim_opEnded (s : State) (o : RemOp) (t : TrimRef) (i : Nat) (a : Answer) :
    (s.opEnded o t i a).trim t.sh t.k = (s.trim t.sh t.k).opCounted i a.status := by
  rw [State.opEnded_eq, State.trim_modTrim_same, State.trim_opCollected]

theorem State.ops_opEnded (s : State) (o : RemOp) (t : TrimRef) (i : Nat) (a : Answer) :
    (s.opEnded o t i a).ops = s.ops.filter (·.id ≠ o.id) := by
  rw [State.opEnded_eq]
  rfl

theorem State.work_opEnded (s : State) (o : RemOp) (t : TrimRef) (i : Nat) (a : Answer) :
    (s.opEnded o t i a).work = s.opWork o t a := by
  rw [State.opEnded_eq]
  rfl

theorem State.sram_opEnded (s : State) (o : RemOp) (t : TrimRef) (i : Nat) (a : Answer) :
    (s.opEnded o t i a).sram t.sh = (s.opLanded o t a).sram t.sh := by
  obtain ⟨-, -, own⟩ := s.onlyTrim_opEnded o t i a
  exact (congrArg Shelf.sram own :)

/-- Of the shelf, the end of an operation changes the SRAM and a trim core. -/
theorem State.shelf_opEnded (s : State) (o : RemOp) (t : TrimRef) (i : Nat) (a : Answer) :
    let h := s.shelf t.sh
    { (s.opEnded o t i a).shelf t.sh with trims := h.trims, sram := h.sram } = h := by
  intro h
  obtain ⟨-, -, own⟩ := s.onlyTrim_opEnded o t i a
  have landed := (s.lands_opLanded o t a).shelf
  have other (x y : Shelf) (same : { x with trims := y.trims } = y) :
      { x with trims := h.trims, sram := h.sram } = { y with trims := h.trims, sram := h.sram } := by rw [← same]
  refine (other _ _ own).trans ?_
  exact (congrArg (fun x : Shelf => { x with trims := h.trims }) landed :)

/-- Outside the shelves, the works and the list, it changes what the data's landing did. -/
theorem State.kept_opEnded (s : State) (o : RemOp) (t : TrimRef) (i : Nat) (a : Answer) :
    { s.opEnded o t i a with ops := s.ops, shelves := s.shelves, work := s.work, woken := s.woken } =
      { s.opLanded o t a with shelves := s.shelves, woken := s.woken } := by
  have lands := s.lands_opLanded o t a
  rw [State.opEnded_eq, ← lands.ops, ← lands.work]
  rfl

/-- A completed operation ends, and then an rm.cmd that waited for room goes on. -/
theorem exec_rmCompletion_of_done {s : State} {op i : Nat} {t : TrimRef} {o : RemOp} {a : Answer}
    (listed : s.ops.find? (·.id = op) = some o) (who : o.who = .trim t.sh t.k i) (answered : o.answered = some a)
    (done : o.done = true) :
    exec (.rmCompletion op) s = .next (match (s.trim t.sh t.k).wait with
      | some (.cmd rd rs1 rs2) => (s.opEnded o t i a).rmCmd t rd rs1 rs2
      | _ => s.opEnded o t i a) := by
  have issuer : (⟨Fin.ofNat 17 t.sh, Fin.ofNat 4 t.k⟩ : TrimRef) = t := by simp
  show execRmCompletion op s = _
  simp only [execRmCompletion, listed, who, answered, done, issuer]
  have waits : ((s.opEnded o t i a).trim t.sh t.k).wait = (s.trim t.sh t.k).wait := by
    rw [State.trim_opEnded, Trim.wait_opCounted]
  rw [← waits]
  rfl

/-! ### Stores to counters and error words (R142) -/

/-- The core after the store. -/
def Trim.counterStored (r : Trim) (err : Bool) (i : Fin 16) (v : BitVec 64) : Trim :=
  if err then { r with errors := tabSet 0 r.errors i v, failed := r.failed &&& ~~~((1 : BitVec 16) <<< i.val) }
  else { r with counters := tabSet 0 r.counters i v }

section
variable (r : Trim) (err : Bool) (i : Fin 16) (v : BitVec 64)

theorem Trim.counters_counterStored (j : Nat) :
    tabGet 0 (r.counterStored err i v).counters j = if j = i.val ∧ err = false then v else tabGet 0 r.counters j := by
  cases err <;> simp [Trim.counterStored, tabGet_set]

theorem Trim.errors_counterStored (j : Nat) :
    tabGet 0 (r.counterStored err i v).errors j = if j = i.val ∧ err = true then v else tabGet 0 r.errors j := by
  cases err <;> simp [Trim.counterStored, tabGet_set]

theorem Trim.failed_counterStored {j : Nat} (low : j < 16) :
    (r.counterStored err i v).failed.getLsbD j = if j = i.val ∧ err = true then false else r.failed.getLsbD j := by
  cases err
  · simp [Trim.counterStored]
  · have bit : ((1 : BitVec 16) <<< i.val).getLsbD j = decide (j = i.val) := by
      rw [show (1 : BitVec 16) <<< i.val = BitVec.twoPow 16 i.val from (BitVec.twoPow_eq ..).symm, BitVec.getLsbD_twoPow]
      simp only [i.isLt, decide_true, Bool.true_and, eq_comm]
    show (r.failed &&& ~~~((1 : BitVec 16) <<< i.val)).getLsbD j = _
    rw [BitVec.getLsbD_and, BitVec.getLsbD_not, bit]
    by_cases own : j = i.val <;> simp [own, low]

theorem Trim.kept_counterStored :
    { r.counterStored err i v with counters := r.counters, errors := r.errors, failed := r.failed } = r := by
  cases err <;> rfl

end

end Sys2Proof.Machine
end

section
/-!
PROOF. Tile programs from trim cores (R144 to R146), and the statement of the trim cores' waits, commands and tile programs.
-/

namespace Sys2Proof.Machine

section
variable {s s0 : State} {t : TrimRef} {o : TrimOps} (running : s0.Running t) (entered : s = s0.enter t o.base)
  (shelf : t.sh.val < 16)
include running entered shelf

theorem exec_tpIssue_of_error {st : Status} (bad : s.tpCheck t o.rs1.toNat o.rs2.toNat = .error st) :
    exec (.tpIssue t o) s0 = .next (s.ret t o.rd (BitVec.ofNat 64 (st.toNat * 2 ^ 48))) := by
  refine congrArg Host.Outcome.next ((State.onShelfTrim_of_running running entered shelf _).trans ?_)
  rw [bad]

/-- The instructions that fit are placed behind those in the queue (R144). -/
theorem exec_tpIssue_of_ok {p : Nat} (good : s.tpCheck t o.rs1.toNat o.rs2.toNat = .ok p) :
    let n := min (bits o.rs2.toNat 6 0) (64 - (s.core p).tile.queue.length)
    let ws := (List.range n).map fun i => BitVec.ofNat 128 (memNat (s.sram t.sh) (o.rs1.toNat + 16 * i) 16)
    exec (.tpIssue t o) s0 = .next ((s.modCore p fun k => { k with tile := { k.tile with queue := k.tile.queue ++ ws } }).ret t
      o.rd (BitVec.ofNat 64 n)) := by
  refine congrArg Host.Outcome.next ((State.onShelfTrim_of_running running entered shelf _).trans ?_)
  rw [good]

theorem exec_tpStat_of_running : exec (.tpStat t o) s0 = .next (s.ret t o.rd (BitVec.ofNat 64
    (if o.rs1.toNat < 8 ∧ o.rs2.toNat < 4 then s.windowWord t.sh o.rs1.toNat (0x100 + 8 * o.rs2.toNat) else 0))) :=
  congrArg Host.Outcome.next (State.onShelfTrim_of_running running entered shelf _)

theorem exec_tpDiscard_of_error {st : Status} (bad : s.ownedCore t o.rs1.toNat = .error st) :
    exec (.tpDiscard t o) s0 = .next (s.ret t o.rd (st.setWidth 64)) := by
  refine congrArg Host.Outcome.next ((State.onShelfTrim_of_running running entered shelf _).trans ?_)
  rw [bad]
  rfl

theorem exec_tpDiscard_of_ok {p : Nat} (good : s.ownedCore t o.rs1.toNat = .ok p) :
    exec (.tpDiscard t o) s0 = .next ((s.discardCore t.sh p).ret t o.rd 0) := by
  refine congrArg Host.Outcome.next ((State.onShelfTrim_of_running running entered shelf _).trans ?_)
  rw [good]

end

/-- A core that has changed, and then the completion of the instruction that changed it. -/
theorem State.changesCore_ret {s x : State} {p rd : Nat} {k : Core} (t : TrimRef) (v : BitVec 64) (only : OnlyCore s x p)
    (core : x.core p = k) : s.ChangesCore (x.ret t rd v) p k t rd v := ⟨x, only, core, x.completesWith_ret t rd v⟩

/-! ### Discards (R132, R146) -/

/-- A discard order empties both queues and ends the vector program. -/
theorem Core.discard_endProgram (k : Core) (st : Status) :
    let k' := k.discard.endProgram st
    k'.tile.discarding = true ∧ k'.tile.queue = [] ∧ k'.vec.queue = [] ∧ k'.vec.prog = none := by
  cases prog : k.vec.prog with
  | none =>
    have idle : k.discard.endProgram st = k.discard := by simp only [Core.endProgram, Core.discard, Core.onVec, prog]
    simp only [idle]
    exact ⟨rfl, rfl, rfl, prog⟩
  | some g =>
    simp only [Core.endProgram_of (k := k.discard) (g := g) prog]
    exact ⟨rfl, rfl, rfl, trivial⟩

/-- The order acts on its core; the works of the shelf take the ended program's NF. -/
theorem State.onlyCore_discardCore (s : State) (sh p : Nat) :
    let v := (s.core p).vec
    OnlyCore { s with work := (s.flagWorks sh (recordBits false false false false (v.prog.isSome && v.nf))).work }
      (s.discardCore sh p) p := by
  intro v
  have vec : ((s.modCore p Core.discard).core p).vec = { v with queue := [] } := by rw [State.core_modCore_same]; rfl
  rw [State.discardCore, State.endProgram_eq, vec, State.flagWorks_modCore]
  exact ((onlyCore_modCore s p _).trans (onlyCore_modCore _ p _)).withWork _

theorem State.core_discardCore (s : State) (sh p : Nat) :
    (s.discardCore sh p).core p = (s.core p).discard.endProgram St.aborted := by
  rw [State.discardCore, State.endProgram_eq]
  refine (State.core_modCore_same (s.modCore p Core.discard) p (·.endProgram St.aborted)).trans ?_
  rw [State.core_modCore_same]

/-! ### The statement -/

/-- Settles O19: a wait.w issues as `waitIssue_of_holds` and its like say, an rm.cmd by `exec_rmCmd_of_room`, an operation ends in
`State.opEnded`, and the tile-program instructions answer by the lemmas named after them. -/
theorem trimCoreInstructions : Obligations.TrimCoreInstructions := by
  unfold Obligations.TrimCoreInstructions
  refine ⟨fun s t => ?_, fun s t => ⟨fun o s0 running entered => ?_, ?_, fun i v err => ?_⟩, fun s t o s0 running entered => ?_⟩
  · refine ⟨fun o cond holds i s0 running entered form => ?_, fun cond a cmp rd w waits word => ?_, ?_⟩
    · obtain ⟨row, means⟩ := exec_waitIssue_of_form form
      refine ⟨fun w word met => ?_, fun w word fails => ?_, fun none => ?_⟩
      · exact State.completes_of_ret ((row s0).trans
          (congrArg _ (waitIssue_of_holds running entered word ((means w _).2 met))))
      · have unmet : waitHolds cond w o.rs2.toNat = false := Bool.eq_false_iff.2 fun met => fails ((means w _).1 met)
        exact ⟨_, (row s0).trans (congrArg _ (waitIssue_of_not_holds running entered word unmet)), onlyTrim_modTrim ..,
          State.not_mem_woken_of_gated (by simp) word unmet, State.trim_modTrim_same ..⟩
      · exact ⟨_, (row s0).trans (congrArg _ (waitIssue_of_no_word running entered none)), onlyTrim_modTrim ..,
          State.trim_modTrim_same ..⟩
    · refine ⟨fun met => ?_, exec_waitWake_of_not_met waits word, fun set => ?_, fun cause enabled => ?_⟩
      · exact State.completes_of_ret (exec_waitWake_of_met waits word met)
      · exact State.completes_of_ret (exec_waitTimeout_of_word waits word set)
      · refine ⟨_, exec_waitInterrupt_of_enabled waits enabled, onlyTrim_modTrim .., ?_⟩
        rw [State.trim_modTrim_same]
        exact ⟨rfl, rfl, rfl⟩
    · rintro sh a bs k cond b cmp rd low waits ⟨w, word, holds⟩
      exact State.mem_woken_sramWrite low waits word holds
  · refine ⟨fun st bad => ?_, fun q good room => ?_, fun q good full => ?_⟩
    · exact State.completes_of_ret (exec_rmCmd_of_error running entered bad)
    · exact exec_rmCmd_of_room running entered good room
    · exact ⟨_, exec_rmCmd_of_full running entered good full, onlyTrim_modTrim .., State.trim_modTrim_same ..⟩
  · intro op i o a listed who answered done data r counted
    have lands := s.lands_opLanded o t a
    obtain ⟨⟨others, -, wakes⟩, trims, -⟩ := s.onlyTrim_opEnded o t i a
    refine ⟨s.opEnded o t i a, exec_rmCompletion_of_done listed who answered done, s.ops_opEnded o t i a, ?_, fun b => ?_,
      fun j other => (trims j other).trans (lands.trims j), s.shelf_opEnded o t i a,
      fun h other => (others h other).trans (lands.others h other), lands.wakes.trans wakes, s.work_opEnded o t i a,
      (s.kept_opEnded o t i a).trans lands.rest⟩
    · rw [State.trim_opEnded]
      exact ⟨r.counters_opCounted i a.status, r.errors_opCounted i a.status, r.failed_opCounted i a.status,
        r.kept_opCounted i a.status⟩
    · rw [State.sram_opEnded]
      exact lands.bytes b
  · refine ⟨s.modTrim t.sh t.k (·.counterStored err i v), rfl, onlyTrim_modTrim .., ?_⟩
    rw [State.trim_modTrim_same]
    exact ⟨Trim.counters_counterStored _ err i v, Trim.errors_counterStored _ err i v,
      fun j => Trim.failed_counterStored _ err i v, Trim.kept_counterStored _ err i v⟩
  · intro placed
    refine ⟨?_, fun shelf => ⟨fun st bad => ?_, fun p good => ?_, ?_, fun st bad => ?_, fun p good => ?_⟩⟩
    · refine List.forall_iff_forall_mem.1 ⟨?_, ?_, ?_⟩
      · exact State.illegalOnManagement_of_onShelfTrim running rfl
      · exact State.illegalOnManagement_of_onShelfTrim running rfl
      · exact State.illegalOnManagement_of_onShelfTrim running rfl
    · exact State.completes_of_ret (exec_tpIssue_of_error running entered shelf bad)
    · exact ⟨_, exec_tpIssue_of_ok running entered shelf good,
        State.changesCore_ret t _ (onlyCore_modCore s p _) (s.core_modCore_same p _)⟩
    · exact State.completes_of_ret (exec_tpStat_of_running running entered shelf)
    · exact State.completes_of_ret (exec_tpDiscard_of_error running entered shelf bad)
    · obtain ⟨ordered, queue, launches, ended⟩ := (s.core p).discard_endProgram St.aborted
      exact ⟨ordered, queue, launches, ended, _, exec_tpDiscard_of_ok running entered shelf good,
        State.changesCore_ret t 0 (s.onlyCore_discardCore t.sh p) (s.core_discardCore t.sh p)⟩

end Sys2Proof.Machine
end

section
/-!
PROOF. Directory commands (R158 to R168): the rules of an entry, of the works that carry commands and of the slots that name
an entry, how a command comes to its action, and the statement on directory commands.
-/

namespace Sys2Proof.Machine

/-! ### Entries and works -/

theorem State.entry_modEntry (s : State) (d j : Nat) (f : DirEntry → DirEntry) :
    (s.modEntry d f).entry j = if j = d then f (s.entry d) else s.entry j := tabGet_mod _ _ _ _ _

@[simp] theorem State.entry_modEntry_same (s : State) (d : Nat) (f : DirEntry → DirEntry) :
    (s.modEntry d f).entry d = f (s.entry d) := tabGet_mod_same _ _ _ _

theorem State.entry_modEntry_other (s : State) {d j : Nat} (f : DirEntry → DirEntry) (other : j ≠ d) :
    (s.modEntry d f).entry j = s.entry j := tabGet_mod_other _ _ _ _ _ other

theorem State.wk_modWork (s : State) (i j : Nat) (f : Work → Work) :
    (s.modWork i f).wk j = if j = i then f (s.wk i) else s.wk j := tabGet_mod _ _ _ _ _

@[simp] theorem State.wk_modWork_same (s : State) (i : Nat) (f : Work → Work) :
    (s.modWork i f).wk i = f (s.wk i) := tabGet_mod_same _ _ _ _

theorem State.wk_modWork_other (s : State) {i j : Nat} (f : Work → Work) (other : j ≠ i) :
    (s.modWork i f).wk j = s.wk j := tabGet_mod_other _ _ _ _ _ other

/-! ### VALUE of the work that carries a command (R161) -/

/-- VALUE of the work takes the entry's GEN, and nothing else changes. -/
theorem State.wk_noteGen (s : State) (c : DirCmd) (d i : Nat) : (s.noteGen c d).wk i =
    if c.slot.map (·.val) = some i then { s.wk i with value := (s.entry d).gen.setWidth 64 } else s.wk i := by
  cases slot : c.slot with
  | none => simp [State.noteGen, slot]
  | some k =>
    rw [State.noteGen, slot]
    refine (s.wk_modWork k i _).trans ?_
    by_cases here : i = k.val
    · simp [here]
    · simp [here, Ne.symm here]

/-- What `State.noteGen` leaves as it is: all but the slots of the works. -/
theorem State.noteGen_kept (s : State) (c : DirCmd) (d : Nat) :
    s.noteGen c d = { s with work := { s.work with slots := (s.noteGen c d).work.slots } } := by
  unfold State.noteGen
  split <;> rfl

@[simp] theorem State.cores_noteGen (s : State) (c : DirCmd) (d : Nat) : (s.noteGen c d).cores = s.cores := by
  rw [State.noteGen_kept]

@[simp] theorem State.woken_noteGen (s : State) (c : DirCmd) (d : Nat) : (s.noteGen c d).woken = s.woken := by
  rw [State.noteGen_kept]

@[simp] theorem State.dir_noteGen (s : State) (c : DirCmd) (d : Nat) : (s.noteGen c d).dir = s.dir := by
  rw [State.noteGen_kept]

@[simp] theorem State.entry_noteGen (s : State) (c : DirCmd) (d j : Nat) : (s.noteGen c d).entry j = s.entry j := by
  rw [State.entry, State.dir_noteGen, ← State.entry]

@[simp] theorem State.mode_noteGen (s : State) (c : DirCmd) (d : Nat) : (s.noteGen c d).mode = s.mode := by
  rw [State.noteGen_kept]

@[simp] theorem State.hbm_noteGen (s : State) (c : DirCmd) (d : Nat) : (s.noteGen c d).hbm = s.hbm := by
  rw [State.noteGen_kept]

@[simp] theorem State.part_noteGen (s : State) (c : DirCmd) (d : Nat) : (s.noteGen c d).part = s.part := by
  rw [State.noteGen_kept]

@[simp] theorem State.training_noteGen (s : State) (c : DirCmd) (d j : Nat) : (s.noteGen c d).training j = s.training j := by
  rw [State.noteGen_kept]
  rfl

@[simp] theorem State.didxPart_noteGen (s : State) (c : DirCmd) (d j : Nat) : (s.noteGen c d).didxPart j = s.didxPart j := by
  rw [State.didxPart, State.mode_noteGen, State.didxPart]

@[simp] theorem State.waitOver_noteGen (s : State) (c' : DirCmd) (k : Nat) (c : DirCmd) (d : Nat) :
    (s.noteGen c' k).waitOver c d = s.waitOver c d := by
  rw [State.waitOver, State.entry_noteGen, State.waitOver]

/-! ### Slots that name an entry (R168) -/

/-- A slot that names entry d, and gathers no other, is EMPTY. -/
def AdptSlot.emptied (d : Nat) (a : AdptSlot) : AdptSlot :=
  if a.didx = d ∧ a.gth = false ∧ a.st ≠ .empty then { a with st := .empty, buf0 := none, buf1 := none } else a

/-- A core whose first `n` slots are emptied. -/
def Core.emptied (d n : Nat) (k : Core) : Core := (List.range n).foldl (fun k i => k.modSlotA i (·.emptied d)) k

theorem Core.slotA_modSlotA (k : Core) (i j : Nat) (f : AdptSlot → AdptSlot) :
    (k.modSlotA i f).slotA j = if j = i then f (k.slotA i) else k.slotA j := tabGet_mod _ _ _ _ _

theorem Core.emptied_succ (d n : Nat) (k : Core) : k.emptied d (n + 1) = (k.emptied d n).modSlotA n (·.emptied d) := by
  simp [Core.emptied, List.range_succ]

theorem Core.slotA_emptied (d n : Nat) (k : Core) (j : Nat) :
    (k.emptied d n).slotA j = if j < n then (k.slotA j).emptied d else k.slotA j := by
  induction n with
  | zero => rfl
  | succ n ih =>
    rw [Core.emptied_succ, Core.slotA_modSlotA]
    split
    · next last =>
      subst last
      rw [ih, if_neg (lt_irrefl _), if_pos (Nat.lt_succ_self _)]
    · rw [ih]
      congr 1
      exact propext (by omega)

theorem Core.emptied_kept (d n : Nat) (k : Core) : { k.emptied d n with aslot := k.aslot } = k := by
  induction n with
  | zero => rfl
  | succ n ih =>
    rw [Core.emptied_succ]
    exact ih

/-- From `s` to `t` only cores have changed, those of the listed shelves as `g` says, and which waits there have been met. -/
structure State.ShelvesBecome (s t : State) (l : List Nat) (g : Core → Core) : Prop where
  kept : t = { s with cores := t.cores, woken := t.woken }
  cores : ∀ k, t.core k = if k / 9 ∈ l then g (s.core k) else s.core k
  stay : ∀ i ∈ s.woken, i ∈ t.woken
  woken : ∀ i ∈ t.woken, i ∈ s.woken ∨ i / 4 ∈ l

theorem State.shelvesBecome_shelf (s : State) (sh n : Nat) (g : Core → Core) (few : n ≤ 9) :
    let t := (List.range n).foldl (fun s q => s.modCore (9 * sh + q) g) s
    t = { s with cores := t.cores, woken := t.woken } ∧
      (∀ k, t.core k = if 9 * sh ≤ k ∧ k < 9 * sh + n then g (s.core k) else s.core k) ∧ s.Wakes t sh := by
  induction n with
  | zero => exact ⟨rfl, fun k => by rw [if_neg (by omega)]; rfl, .refl s sh⟩
  | succ n ih =>
    have before := ih (by omega)
    simp only [List.range_succ, List.foldl_append, List.foldl_cons, List.foldl_nil]
    revert before
    generalize (List.range n).foldl (fun s q => s.modCore (9 * sh + q) g) s = t
    rintro ⟨kept, cores, wakes⟩
    have next := (onlyCore_modCore t (9 * sh + n) g).2.2
    rw [show (9 * sh + n) / 9 = sh by omega] at next
    refine ⟨by rw [kept]; rfl, fun k => ?_, wakes.trans next⟩
    rw [State.core_modCore]
    by_cases last : k = 9 * sh + n
    · rw [if_pos last, cores, if_neg (by omega), if_pos (by omega), last]
    · rw [if_neg last, cores]
      congr 1
      exact propext (by omega)

theorem State.shelvesBecome_foldl (s : State) (l : List Nat) (g : Core → Core) (once : l.Nodup) :
    s.ShelvesBecome (l.foldl (fun s sh => (List.range 9).foldl (fun s q => s.modCore (9 * sh + q) g) s) s) l g := by
  induction l generalizing s with
  | nil => exact ⟨rfl, fun k => by simp, fun _ => id, fun _ => .inl⟩
  | cons sh l ih =>
    obtain ⟨kept, cores, wakes⟩ := s.shelvesBecome_shelf sh 9 g le_rfl
    obtain ⟨fresh, once⟩ := List.nodup_cons.1 once
    rw [List.foldl_cons]
    generalize (List.range 9).foldl (fun s q => s.modCore (9 * sh + q) g) s = t at kept cores wakes
    obtain ⟨kept', cores', stay', woken'⟩ := ih t once
    refine ⟨?_, fun k => ?_, fun i m => stay' i (wakes.1 i m), fun i m => ?_⟩
    · rw [kept', kept]
    · rw [cores', cores]
      by_cases here : k / 9 = sh
      · subst here
        rw [if_neg fresh, if_pos (by omega), if_pos List.mem_cons_self]
      · rw [if_neg (c := 9 * sh ≤ k ∧ _) (by omega)]
        simp [here]
    · rcases woken' i m with old | later
      · rcases wakes.2 i old with old | here
        · exact .inl old
        · exact .inr (here ▸ List.mem_cons_self)
      · exact .inr (List.mem_cons_of_mem _ later)

theorem State.nodup_shelvesOf (s : State) (p : Nat) : (s.shelvesOf p).Nodup := by
  unfold State.shelvesOf
  split
  · simp
  · exact List.nodup_range

theorem State.emptySlots_eq (s : State) (p d : Nat) : s.emptySlots p d =
    (s.shelvesOf p).foldl (fun s sh => (List.range 9).foldl (fun s q => s.modCore (9 * sh + q) (Core.emptied d 8)) s) s := by
  have slot : (fun a : AdptSlot => if a.didx = d ∧ !a.gth ∧ a.st ≠ .empty then
      { a with st := .empty, buf0 := none, buf1 := none } else a) = AdptSlot.emptied d := by
    funext a
    simp only [AdptSlot.emptied, Bool.not_eq_true']
  rw [State.emptySlots, slot]
  rfl

theorem State.shelvesBecome_emptySlots (s : State) (p d : Nat) :
    s.ShelvesBecome (s.emptySlots p d) (s.shelvesOf p) (Core.emptied d 8) := by
  rw [State.emptySlots_eq]
  exact s.shelvesBecome_foldl _ _ (s.nodup_shelvesOf p)

/-- What `State.emptySlots` leaves as it is: all but the cores and the waits that have been met. -/
theorem State.emptySlots_kept (s : State) (p d : Nat) :
    s.emptySlots p d = { s with cores := (s.emptySlots p d).cores, woken := (s.emptySlots p d).woken } :=
  (s.shelvesBecome_emptySlots p d).kept

/-- A state with the cores and the met waits of `u'` has the slots of `u'`. -/
theorem State.SlotsEmptied.congr {s u u' : State} {d : Nat} (h : s.SlotsEmptied u' d) (cores : u.cores = u'.cores)
    (woken : u.woken = u'.woken) : s.SlotsEmptied u d := by
  obtain ⟨slots, kept, others, stay, met⟩ := h
  have read (k : Nat) : u.core k = u'.core k := by rw [State.core, cores, ← State.core]
  exact ⟨fun sh m q hq k hk => by rw [read]; exact slots sh m q hq k hk, fun p => by rw [read]; exact kept p,
    fun sh m q hq => (read _).trans (others sh m q hq), fun i m => woken ▸ stay i m, fun i m => met i (woken ▸ m)⟩

/-- The slots of the entry's partition that name the entry are emptied, in a state whose cores, layout and met waits are those of
`s`. -/
theorem State.slotsEmptied_emptySlots {s t : State} (d : Nat) (cores : t.cores = s.cores) (woken : t.woken = s.woken)
    (mode : t.mode = s.mode) : s.SlotsEmptied (t.emptySlots (t.didxPart d) d) d := by
  obtain ⟨-, become, stay, met⟩ := t.shelvesBecome_emptySlots (t.didxPart d) d
  have read (k : Nat) : t.core k = s.core k := by rw [State.core, cores, ← State.core]
  have shelves : t.shelvesOf (t.didxPart d) = s.shelvesOf (s.didxPart d) := by
    simp only [State.shelvesOf, State.didxPart, mode]
  rw [shelves] at become met
  simp only [read] at become
  refine ⟨fun sh m q hq k hk => ?_, fun p => ?_, fun sh m q hq => ?_, fun i m => stay i (woken ▸ m), fun i m => woken ▸ met i m⟩
  · rw [become, if_pos (by rwa [show (9 * sh + q) / 9 = sh by omega]), Core.slotA_emptied, if_pos hk, AdptSlot.emptied]
  · rw [become]
    split
    · exact Core.emptied_kept d 8 _
    · rfl
  · rw [become, if_neg (by rwa [show (9 * sh + q) / 9 = sh by omega])]

/-! ### What an action makes of its entry -/

/-- From `s` to `u` entry d has become `e`, and otherwise only VALUE of the work that carries `c`, the rest of the directory,
cores and met waits may differ. -/
structure State.OnlyEntry (s u : State) (c : DirCmd) (d : Nat) (e : DirEntry) : Prop where
  entry : u.entry d = e
  others : ∀ j, j ≠ d → u.entry j = s.entry j
  works : ∀ i, u.wk i = s.wk i ∨ c.slot.map (·.val) = some i ∧ { u.wk i with value := (s.wk i).value } = s.wk i
  rest : u = { s with
    dir := u.dir, work := { s.work with slots := u.work.slots }, cores := u.cores, woken := u.woken }

theorem State.onlyEntry_refl (s : State) (c : DirCmd) (d : Nat) : s.OnlyEntry s c d (s.entry d) :=
  ⟨rfl, fun _ _ => rfl, fun _ => .inl rfl, rfl⟩

namespace State.OnlyEntry

variable {s u : State} {c : DirCmd} {d : Nat} {e : DirEntry} (h : s.OnlyEntry u c d e)
include h

theorem modEntry (f : DirEntry → DirEntry) : s.OnlyEntry (u.modEntry d f) c d (f e) := by
  obtain ⟨entry, others, works, rest⟩ := h
  exact ⟨by rw [State.entry_modEntry_same, entry], fun j other => (u.entry_modEntry_other f other).trans (others j other), works,
    by rw [rest]; rfl⟩

/-- The rest of the directory may change beside its entries. -/
theorem withDir {r : Directory} (entries : r.entries = u.dir.entries) : s.OnlyEntry { u with dir := r } c d e := by
  obtain ⟨entry, others, works, rest⟩ := h
  have read (j : Nat) : State.entry { u with dir := r } j = u.entry j := by
    show tabGet {} r.entries j = _
    rw [entries]
    rfl
  exact ⟨(read d).trans entry, fun j other => (read j).trans (others j other), works, by rw [rest]⟩

theorem freeAlloc (keep : Nat × Nat × Nat → Bool) : s.OnlyEntry (u.freeAlloc keep) c d e :=
  h.withDir (r := { u.dir with alloc := u.dir.alloc.filter keep }) rfl

theorem noteGen {c' : DirCmd} (slot : c'.slot = c.slot) : s.OnlyEntry (u.noteGen c' d) c d e := by
  obtain ⟨entry, others, works, rest⟩ := h
  refine ⟨(u.entry_noteGen c' d d).trans entry, fun j other => (u.entry_noteGen c' d j).trans (others j other), fun i => ?_, ?_⟩
  · rw [State.wk_noteGen, slot]
    split
    · next carrier =>
      refine .inr ⟨carrier, ?_⟩
      obtain same | ⟨-, same⟩ := works i
      · rw [same]
      · exact same
    · exact works i
  · rw [State.noteGen_kept, rest]

theorem emptySlots (p : Nat) : s.OnlyEntry (u.emptySlots p d) c d e := by
  obtain ⟨entry, others, works, rest⟩ := h
  have kept := u.emptySlots_kept p d
  have dir : (u.emptySlots p d).dir = u.dir := by rw [kept]
  have read (j : Nat) : (u.emptySlots p d).entry j = u.entry j := by rw [State.entry, dir, ← State.entry]
  have slots (i : Nat) : (u.emptySlots p d).wk i = u.wk i := by rw [kept]; rfl
  exact ⟨(read d).trans entry, fun j other => (read j).trans (others j other), fun i => by rw [slots]; exact works i,
    by rw [kept, rest]⟩

/-- Where VALUE of the work holds the entry's GEN, that is all that a command has to have done. -/
theorem becomes_of_value (value : ∀ i, c.slot.map (·.val) = some i → (u.wk i).value = e.gen.setWidth 64) :
    s.EntryBecomes { u with cores := s.cores, woken := s.woken } c d e := by
  obtain ⟨entry, others, works, rest⟩ := h
  refine ⟨entry, others, fun i => ?_, by rw [rest]⟩
  split
  · next carrier =>
    show u.wk i = _
    rw [← value i carrier]
    obtain same | ⟨-, same⟩ := works i
    · rw [same]
    · rw [← same]
  · next other => exact (works i).resolve_right fun carrier => other carrier.1

/-- A command that completes notes the GEN. -/
theorem becomes {c' : DirCmd} (slot : c'.slot = c.slot) :
    s.EntryBecomes { u.noteGen c' d with cores := s.cores, woken := s.woken } c d e := by
  refine (h.noteGen slot).becomes_of_value fun i carrier => ?_
  rw [State.wk_noteGen, slot, if_pos carrier, h.entry]

end State.OnlyEntry

/-- Cores and met waits that have not changed need no change back. -/
theorem State.EntryBecomes.of_cores {s u : State} {c : DirCmd} {d : Nat} {e : DirEntry}
    (h : s.EntryBecomes { u with cores := s.cores, woken := s.woken } c d e) (cores : u.cores = s.cores)
    (woken : u.woken = s.woken) : s.EntryBecomes u c d e := by
  rw [← cores, ← woken] at h
  exact h

/-! ### How a command comes to its action (R160, R161) -/

@[simp] theorem State.slot_carried (s : State) (c : DirCmd) : (s.carried c).slot = c.slot := by
  unfold State.carried
  split
  · rfl
  · next slot => exact slot.symm

@[simp] theorem State.block_carried (s : State) (c : DirCmd) : (s.carried c).block = c.block := by
  unfold State.carried
  split <;> rfl

@[simp] theorem State.dcOp_carried (s : State) (c : DirCmd) : dcOp (s.carried c) = dcOp c := by simp [dcOp]
@[simp] theorem State.dcGen_carried (s : State) (c : DirCmd) : dcGen (s.carried c) = dcGen c := by simp [dcGen]
@[simp] theorem State.dcDidx_carried (s : State) (c : DirCmd) : dcDidx (s.carried c) = dcDidx c := by simp [dcDidx]
@[simp] theorem State.dcTenant_carried (s : State) (c : DirCmd) : dcTenant (s.carried c) = dcTenant c := by simp [dcTenant]
@[simp] theorem State.dcTmo_carried (s : State) (c : DirCmd) : dcTmo (s.carried c) = dcTmo c := by simp [dcTmo]
@[simp] theorem State.dcSrc_carried (s : State) (c : DirCmd) : dcSrc (s.carried c) = dcSrc c := by simp [dcSrc]
@[simp] theorem State.dcLen_carried (s : State) (c : DirCmd) : dcLen (s.carried c) = dcLen c := by simp [dcLen]
@[simp] theorem State.dcDigest_carried (s : State) (c : DirCmd) : dcDigest (s.carried c) = dcDigest c := by simp [dcDigest]

/-- The commands of the rows, by operation. -/
def dirRows (c : DirCmd) : List (Nat × Instr) :=
  [(1, .create c), (2, .load c), (3, .park c), (4, .pin c), (5, .unpin c), (6, .trainBegin c), (7, .trainEnd c), (8, .revoke c),
    (9, .revokeTenant c), (10, .free c)]

theorem exec_of_mem_dirRows {c : DirCmd} {i : Nat × Instr} (row : i ∈ dirRows c) (s : State) :
    exec i.2 s = .next (dirRow i.1 c s) := by
  simp only [dirRows, List.mem_cons, List.not_mem_nil, or_false] at row
  obtain rfl | rfl | rfl | rfl | rfl | rfl | rfl | rfl | rfl | rfl := row <;> rfl

/-- The work that carries a command runs, and nothing else has changed. -/
theorem State.started_kept {s t : State} {c : DirCmd} (started : s.started c = some t) :
    t = { s with work := { s.work with slots := t.work.slots } } := by
  unfold State.started at started
  split at started
  · cases started
    rfl
  · split at started
    · cases started
      rfl
    · cases started

theorem dirRow_of_started {s t : State} {c : DirCmd} (started : s.started c = some t) :
    dirRow (dcOp c) c s = t.dirRun (s.carried c) := by
  rw [dirRow, if_neg (not_not_intro rfl)]
  cases slot : c.slot with
  | none =>
    have same : t = s := by simpa [State.started, slot, eq_comm] using started
    simp only [same, State.carried, slot]
  | some i =>
    simp only [State.started, slot, Option.ite_none_right_eq_some, Option.some.injEq] at started
    obtain ⟨⟨held, kind, block, up, first⟩, run⟩ := started
    simp only [State.carried, slot, ← run]
    exact if_pos ⟨held, kind, block, by simp [up], first⟩

/-- The action of operation `op` on an entry in a line (R161). -/
def State.dirAct (s : State) (op : Nat) (c : DirCmd) (d : Nat) : State :=
  match op with
  | 1 => s.dirCreate c d
  | 2 => s.dirLoad c d
  | 3 => s.dirPark c d
  | 4 => s.dirPin c d
  | 5 => s.dirUnpin c d
  | 6 => s.dirTrainBegin c d
  | 7 => s.dirTrainEnd c d
  | 8 => s.dirRevoke c d
  | _ => s.dirFree c d

/-- The restart of a record that is COMMITTED changes nothing. -/
theorem State.restartRecord_of_committed {s : State} {p a : Nat} (notOpen : s.recState a ≠ 1) (notPrepared : s.recState a ≠ 2) :
    (s.restartRecord p a).1 = s := by
  unfold State.restartRecord
  dsimp only
  split
  · rfl
  · split
    · next h => exact absurd h notOpen
    · next h => exact absurd h notPrepared
    · rfl

theorem State.recState_noteGen {s : State} {a : Nat} (user : a + 8 ≤ s.sysBase) (c : DirCmd) (d : Nat) :
    (s.noteGen c d).recState a = s.recState a := by
  have base : (s.noteGen c d).sysBase = s.sysBase := by rw [State.sysBase, State.part_noteGen, State.sysBase]
  simp only [State.recState, State.hbmNat, State.hbmRead, base, if_pos user, State.hbm_noteGen]

/-- A commit of the entry's adaptation that was interrupted is restarted (R224). -/
def State.recovered (s : State) (d : Nat) : State :=
  match (s.entry d).area with
  | some a => if s.training d then s else (s.restartRecord (s.didxPart d) a).1
  | none => s

theorem State.dirOn_eq (s : State) (c : DirCmd) (d : Nat) :
    let n := s.noteGen c d
    let r := n.recovered d
    s.dirOn c d =
      if dcOp c ≠ 1 ∧ (n.entry d).gen.toNat ≠ dcGen c then r.doneCmd c d St.adapterStale
      else if (n.entry d).wait ∧ dcOp c ≠ 8 then r.doneCmd c d St.adapterBusy
      else if !dirAllowed (dcOp c) (n.entry d).st then r.doneCmd c d St.adapterStateInvalid
      else r.dirAct (dcOp c) c d := rfl

theorem State.recovered_of_whole {s : State} {c : DirCmd} {d : Nat}
    (whole : ∀ a, (s.entry d).area = some a →
      s.training d = true ∨ (a + 8 ≤ s.sysBase ∧ s.recState a ≠ 1 ∧ s.recState a ≠ 2)) :
    (s.noteGen c d).recovered d = s.noteGen c d := by
  unfold State.recovered
  split
  · next a area =>
    rw [State.entry_noteGen] at area
    split
    · rfl
    · next dead =>
      obtain live | ⟨user, notOpen, notPrepared⟩ := whole a area
      · exact absurd ((s.training_noteGen c d d).trans live) dead
      · rw [← State.recState_noteGen user c d] at notOpen notPrepared
        exact State.restartRecord_of_committed notOpen notPrepared
  · rfl

/-- A command acts at once where nothing is to be restarted and the checks of R161 pass. -/
theorem State.dirOn_of {s : State} {c : DirCmd} {d : Nat}
    (whole : ∀ a, (s.entry d).area = some a →
      s.training d = true ∨ (a + 8 ≤ s.sysBase ∧ s.recState a ≠ 1 ∧ s.recState a ≠ 2))
    (gen : dcOp c = 1 ∨ (s.entry d).gen.toNat = dcGen c) (idle : dcOp c = 8 ∨ (s.entry d).wait = false)
    (allowed : dirAllowed (dcOp c) (s.entry d).st = true) : s.dirOn c d = (s.noteGen c d).dirAct (dcOp c) c d := by
  have fresh : ¬ (dcOp c ≠ 1 ∧ (s.entry d).gen.toNat ≠ dcGen c) := fun h => gen.elim h.1 h.2
  have free : ¬ ((s.entry d).wait = true ∧ dcOp c ≠ 8) := fun h => idle.elim h.2 fun i => by simp [i] at h
  rw [State.dirOn_eq]
  simp only [State.recovered_of_whole whole, State.entry_noteGen, if_neg fresh, if_neg free, allowed, Bool.not_true,
    Bool.false_eq_true, if_false]

/-- A command of the statement acts in its state. -/
theorem dirRow_of_directs {s s1 : State} {c : DirCmd} {op : Nat} (h : s.Directs c op s1) (other : op ≠ 9) :
    dirRow op c s = (s1.noteGen (s.carried c) (dcDidx c)).dirAct op (s.carried c) (dcDidx c) := by
  obtain ⟨rfl, block, index, begins, whole, gen, idle, allowed⟩ := h
  obtain ⟨t, started, begins⟩ := Option.bind_eq_some_iff.1 begins
  obtain ⟨walked, line⟩ : t.walkFails (dcDidx c) = false ∧ t.takeLine (dcDidx c) = some s1 := by
    split at begins
    · cases begins
    · next readable => exact ⟨by simpa using readable, begins⟩
  have index' : t.didxOk (s.carried c).part (dcDidx c) = true := by
    rw [State.started_kept started]
    exact index
  rw [dirRow_of_started started, State.dirRun]
  simp only [State.block_carried, block, State.dcOp_carried, other, State.dcDidx_carried, index', walked, line, Bool.not_true,
    Bool.false_eq_true, if_false]
  rw [State.dirOn_of whole (by simpa using gen) (by simpa using idle) (by simpa using allowed), State.dcOp_carried]

/-! ### Actions that end their command (R161) -/

/-- A field of the command block as bits of the block. -/
theorem ofNat_bits_eq_ofNat_div (n : Nat) {hi lo w : Nat} (width : hi + 1 - lo = w) :
    BitVec.ofNat w (bits n hi lo) = BitVec.ofNat w (n / 2 ^ lo) := by
  apply BitVec.eq_of_toNat_eq
  rw [BitVec.toNat_ofNat, BitVec.toNat_ofNat, bits, width, Nat.mod_mod]

section
variable (s : State) {c c' : DirCmd} (slot : c'.slot = c.slot) (d : Nat) (st : Status)
include slot

/-- A command that changes its entry and ends. -/
theorem State.ends_modEntry (f : DirEntry → DirEntry) : ∃ u : State,
    ((s.noteGen c' d).modEntry d f).doneCmd c' d st = u.endCmd c' st ∧ s.EntryBecomes u c d (f (s.entry d)) ∧
      { u.dir with entries := s.dir.entries } = s.dir := by
  refine ⟨((s.noteGen c' d).modEntry d f).noteGen c' d, rfl, ?_, ?_⟩
  · refine ((((s.onlyEntry_refl c d).noteGen slot).modEntry f).becomes slot).of_cores ?_ ?_
    · exact (State.cores_noteGen ..).trans (s.cores_noteGen c' d)
    · exact (State.woken_noteGen ..).trans (s.woken_noteGen c' d)
  · rw [State.dir_noteGen]
    show { (s.noteGen c' d).dir with entries := s.dir.entries } = s.dir
    rw [State.dir_noteGen]

/-- A command that is refused leaves its entry as it is. -/
theorem State.ends_refused : ∃ u : State, (s.noteGen c' d).doneCmd c' d st = u.endCmd c' st ∧
    s.EntryBecomes u c d (s.entry d) ∧ { u.dir with entries := s.dir.entries } = s.dir := by
  refine ⟨(s.noteGen c' d).noteGen c' d, rfl, (((s.onlyEntry_refl c d).noteGen slot).becomes slot).of_cores ?_ ?_, ?_⟩
  · simp
  · simp
  · simp

/-- A command whose load, wait or build goes on notes the GEN as it begins. -/
theorem State.EntryBecomes.of_noted {u : State} {e : DirEntry} (h : s.OnlyEntry u c d e) (gen : e.gen = (s.entry d).gen)
    (works : u.work = (s.noteGen c' d).work) : s.EntryBecomes { u with cores := s.cores, woken := s.woken } c d e := by
  refine h.becomes_of_value fun i carrier => ?_
  have same : u.wk i = (s.noteGen c' d).wk i := by rw [State.wk, works, ← State.wk]
  rw [same, State.wk_noteGen, slot, if_pos carrier, gen]

theorem State.entryBecomes_startLoad (cmd : Option DirCmd) :
    s.EntryBecomes ((s.noteGen c' d).startLoad d cmd) c d { s.entry d with st := .loading } := by
  refine (State.EntryBecomes.of_noted s slot d (u := (s.noteGen c' d).startLoad d cmd)
    ((((s.onlyEntry_refl c d).noteGen slot).modEntry fun e => { e with st := .loading }).withDir rfl) rfl rfl).of_cores ?_ ?_
  · exact s.cores_noteGen c' d
  · exact s.woken_noteGen c' d

omit slot in
theorem State.dir_startLoad (cmd : Option DirCmd) : { (s.startLoad d cmd).dir with entries := s.dir.entries } =
    { s.dir with loads := s.dir.loads ++ [⟨d, cmd⟩] } := rfl

/-- A command that waits for its entry's references (R166). -/
def State.waits (s : State) (c : DirCmd) (d : Nat) : State :=
  let t := s.modEntry d fun e => { e with wait := true }
  { t with dir := { t.dir with waits := t.dir.waits ++ [⟨d, c⟩] } }

omit slot in
theorem State.dir_waits : { (s.waits c d).dir with entries := s.dir.entries } =
    { s.dir with waits := s.dir.waits ++ [⟨d, c⟩] } := rfl

theorem State.entryBecomes_waits :
    s.EntryBecomes ((s.noteGen c' d).waits c' d) c d { s.entry d with wait := true } := by
  refine (State.EntryBecomes.of_noted s slot d (u := (s.noteGen c' d).waits c' d)
    ((((s.onlyEntry_refl c d).noteGen slot).modEntry fun e => { e with wait := true }).withDir rfl) rfl rfl).of_cores ?_ ?_
  · exact s.cores_noteGen c' d
  · exact s.woken_noteGen c' d

end

/-- Act at once, end ADAPTER_BUSY, or wait (R161, R166). -/
theorem State.orWait_eq (s : State) (c : DirCmd) (d : Nat) : s.orWait c d =
    if s.waitOver c d then s.finishWait c d else if dcTmo c = 0 then s.doneCmd c d St.adapterBusy else s.waits c d := rfl

theorem State.waitOver_iff (s : State) (c : DirCmd) (d : Nat) :
    s.waitOver c d = true ↔ (s.entry d).refcnt = 0 ∨ (dcOp c = 7 ∧ (s.entry d).pub = false) := by
  simp [State.waitOver, or_comm]

theorem State.waitOver_carried (s t : State) (c : DirCmd) (d : Nat) : s.waitOver (t.carried c) d = s.waitOver c d := by
  simp [State.waitOver]

/-! ### PARK, FREE and the build of TRAIN_END after their wait (R161, R162, R168) -/

theorem DirEntry.parkedBy_of_block {c c' : DirCmd} (block : c'.block = c.block) (e : DirEntry) : e.parkedBy c' = e.parkedBy c := by
  have src : dcSrc c' = dcSrc c := by simp [dcSrc, block]
  have len : dcLen c' = dcLen c := by simp [dcLen, block]
  have digest : dcDigest c' = dcDigest c := by simp [dcDigest, block]
  rw [DirEntry.parkedBy, DirEntry.parkedBy, src, len, digest]

/-- PARK empties the entry's slots, gives its pool space back and parks it. -/
theorem State.finishPark_eq (s : State) (c : DirCmd) (d : Nat) :
    let x := s.emptySlots (s.didxPart d) d
    s.finishPark c d = ((x.freeAlloc fun a => a.2.2 ≠ d || (dcSrc c = 0 && a.1 ≠ 4096 * (x.entry d).loc)).modEntry d
      (·.parkedBy c)).doneCmd c d St.ok := by
  unfold State.finishPark
  by_cases src : dcSrc c = 0 <;> simp [src, DirEntry.parkedBy]

/-- PARK from a state `t` whose entries, slots, works and pool are those of `s`, but for VALUE of the work that carries it. -/
theorem State.parks_finishPark {s t : State} {c c' : DirCmd} {d : Nat} (slot : c'.slot = c.slot) (block : c'.block = c.block)
    (entry : s.OnlyEntry t c d (s.entry d)) (dir : t.dir = s.dir) (cores : t.cores = s.cores) (woken : t.woken = s.woken) :
    ∃ u : State, t.finishPark c' d = u.endCmd c' St.ok ∧ s.Parks u c d := by
  have src : dcSrc c' = dcSrc c := by simp [dcSrc, block]
  have mode : t.mode = s.mode := by rw [entry.rest]
  have dirX : (t.emptySlots (t.didxPart d) d).dir = s.dir := by rw [t.emptySlots_kept]; exact dir
  have emptied := State.slotsEmptied_emptySlots d cores woken mode
  have only := entry.emptySlots (t.didxPart d)
  rw [State.finishPark_eq]
  generalize t.emptySlots (t.didxPart d) d = x at dirX emptied only
  refine ⟨_, rfl, ?_, emptied.congr (State.cores_noteGen ..) (State.woken_noteGen ..), fun a => ?_⟩
  · rw [← DirEntry.parkedBy_of_block block]
    exact ((only.freeAlloc _).modEntry (·.parkedBy c')).becomes slot
  · rw [State.dir_noteGen]
    show a ∈ (x.dir.alloc.filter _) ↔ _
    rw [List.mem_filter, dirX, only.entry, src]
    simp

/-- A build begins in a state `t` whose entries, slots and works are those of `s`, but for VALUE of the work, which holds the
GEN. -/
theorem State.builds_beginBuild {s t : State} {c : DirCmd} (c' : DirCmd) {d : Nat}
    (entry : s.OnlyEntry t c d (s.entry d)) (dir : t.dir = s.dir) (cores : t.cores = s.cores) (woken : t.woken = s.woken)
    (value : ∀ i, c.slot.map (·.val) = some i → (t.wk i).value = (s.entry d).gen.setWidth 64) :
    s.Builds (t.beginBuild c' d) c d c' := by
  have mode : t.mode = s.mode := by rw [entry.rest]
  have kept := t.emptySlots_kept (t.didxPart d) d
  have dirX : (t.emptySlots (t.didxPart d) d).dir = s.dir := by rw [kept]; exact dir
  have works : (t.emptySlots (t.didxPart d) d).work = t.work := by rw [kept]
  have emptied := State.slotsEmptied_emptySlots d cores woken mode
  have only := entry.emptySlots (t.didxPart d)
  unfold State.beginBuild
  generalize t.emptySlots (t.didxPart d) d = x at dirX works emptied only
  have marked := only.modEntry fun e => { e with wait := true }
  refine ⟨(marked.withDir (r := { (x.modEntry d _).dir with builds := x.dir.builds ++ [⟨d, c'⟩] }) rfl).becomes_of_value
    fun i carrier => ?_, emptied.congr rfl rfl, ?_⟩
  · rw [← value i carrier, State.wk, State.wk, ← works]
    rfl
  · show ({ x.dir with entries := s.dir.entries, builds := x.dir.builds ++ [⟨d, c'⟩] } : Directory) = _
    rw [dirX]

/-! ### FREE zeroes what its entry held (R161) -/

/-- From `s` to `t` HBM bytes have become zero, with fresh check bytes, and nothing else has changed. -/
structure State.Zeroes (s t : State) : Prop where
  bytes : ∀ x, tabGet 0 t.hbm x = 0 ∨ tabGet 0 t.hbm x = tabGet 0 s.hbm x
  rest : t = { s with hbm := t.hbm, ecc := { s.ecc with bad := t.ecc.bad, errors := t.ecc.errors } }

theorem State.Zeroes.refl (s : State) : s.Zeroes s := ⟨fun _ => .inr rfl, rfl⟩

theorem State.Zeroes.trans {s t u : State} (h : s.Zeroes t) (g : t.Zeroes u) : s.Zeroes u := by
  refine ⟨fun x => ?_, by rw [g.rest, h.rest]⟩
  rcases g.bytes x with zero | same
  · exact .inl zero
  · rw [same]
    exact h.bytes x

theorem State.Zeroes.foldl {α : Type} {s t : State} {f : State → α → State} {l : List α} (h : s.Zeroes t)
    (step : ∀ (t : State) a, t.Zeroes (f t a)) : s.Zeroes (l.foldl f t) := by
  induction l generalizing t with
  | nil => exact h
  | cons a l ih => exact ih (h.trans (step t a))

theorem State.zeroes_hbmZero (s : State) (a n : Nat) : s.Zeroes (s.hbmZero a n) := by
  refine ⟨fun x => ?_, rfl⟩
  show tabGet 0 (tabClear s.hbm a n) x = 0 ∨ tabGet 0 (tabClear s.hbm a n) x = _
  rw [tabGet_clear]
  split
  · exact .inl rfl
  · exact .inr rfl

theorem State.hbm_foldl_hbmZero {α : Type} (range : α → Nat × Nat) (l : List α) (s : State) :
    (l.foldl (fun s a => s.hbmZero (range a).1 (range a).2) s).hbm =
      l.foldl (fun m a => tabClear m (range a).1 (range a).2) s.hbm := by
  induction l generalizing s with
  | nil => rfl
  | cons a l ih => exact ih _

/-- The entry's share of the pools as zeros. -/
def State.scrubPool (s : State) (d : Nat) : State :=
  (s.dir.alloc.filter (·.2.2 = d)).foldl (fun s a => s.hbmZero a.1 a.2.1) s

theorem State.zeroes_scrubPool (s : State) (d : Nat) : s.Zeroes (s.scrubPool d) :=
  (State.Zeroes.refl s).foldl fun t _ => t.zeroes_hbmZero _ _

/-- A byte of the entry's pool space is zero; any other is as before. -/
theorem State.hbm_scrubPool (s : State) (d x : Nat) :
    ((∃ a ∈ s.dir.alloc, a.2.2 = d ∧ a.1 ≤ x ∧ x < a.1 + a.2.1) → tabGet 0 (s.scrubPool d).hbm x = 0) ∧
      ((¬ ∃ a ∈ s.dir.alloc, a.2.2 = d ∧ a.1 ≤ x ∧ x < a.1 + a.2.1) →
        tabGet 0 (s.scrubPool d).hbm x = tabGet 0 s.hbm x) := by
  have cleared := tabGet_foldl_clear 0 (fun a : Nat × Nat × Nat => (a.1, a.2.1)) (s.dir.alloc.filter (·.2.2 = d)) s.hbm x
  rw [← State.hbm_foldl_hbmZero (fun a : Nat × Nat × Nat => (a.1, a.2.1))] at cleared
  simpa only [List.mem_filter, decide_eq_true_eq, and_assoc, State.scrubPool] using cleared

/-- The entry's training state as zeros. -/
def State.scrubArea (s : State) (d : Nat) : State :=
  match (s.entry d).area with
  | none => s
  | some a =>
    ((s.shardTable a).foldl (fun s q => s.hbmZero (gaOff (BitVec.ofNat 64 q))
      (Shard.mk (gaOff (BitVec.ofNat 64 q)) (s.hbmNat (gaOff (BitVec.ofNat 64 q)) 128) 0).size) s).hbmZero a 64

theorem State.zeroes_scrubArea (s : State) (d : Nat) : s.Zeroes (s.scrubArea d) := by
  unfold State.scrubArea
  split
  · exact .refl s
  · exact ((State.Zeroes.refl s).foldl fun t _ => t.zeroes_hbmZero _ _).trans (State.zeroes_hbmZero _ _ _)

theorem State.scrubEntry_eq (s : State) (d : Nat) : s.scrubEntry d = (s.scrubPool d).scrubArea d := rfl

/-- What FREE zeroes: the entry's pool space whole, and nothing beside it where no training state is its own. -/
theorem State.scrubEntry_spec (s : State) (d : Nat) : s.Zeroes (s.scrubEntry d) ∧
    (∀ a ∈ s.dir.alloc, a.2.2 = d → ∀ x, a.1 ≤ x → x < a.1 + a.2.1 → tabGet 0 (s.scrubEntry d).hbm x = 0) ∧
    ((s.entry d).area = none → ∀ x, (∀ a ∈ s.dir.alloc, a.2.2 = d → ¬ (a.1 ≤ x ∧ x < a.1 + a.2.1)) →
      tabGet 0 (s.scrubEntry d).hbm x = tabGet 0 s.hbm x) := by
  have pool := s.zeroes_scrubPool d
  have area := (s.scrubPool d).zeroes_scrubArea d
  rw [State.scrubEntry_eq]
  refine ⟨pool.trans area, fun a listed own x low high => ?_, fun untrained x outside => ?_⟩
  · have zero := (s.hbm_scrubPool d x).1 ⟨a, listed, own, low, high⟩
    rcases area.bytes x with now | same
    · exact now
    · rw [same, zero]
  · have entry : ((s.scrubPool d).entry d).area = none := by
      rw [pool.rest]
      exact untrained
    rw [State.scrubArea, entry]
    exact (s.hbm_scrubPool d x).2 fun ⟨a, listed, own, inside⟩ => outside a listed own inside

/-- The entry is EMPTY with the next generation; its pool space and its cache line are free. -/
def State.vacated (s : State) (d : Nat) : State :=
  let t := (s.freeAlloc fun a => a.2.2 ≠ d).modEntry d fun e => { gen := e.gen + 1 }
  { t with dir := { t.dir with lines := t.dir.lines.filter (·.didx ≠ d) } }

theorem State.vacated_kept (s : State) (d : Nat) : s.vacated d = { s with dir := (s.vacated d).dir } := rfl

theorem State.finishFree_eq (s : State) (c : DirCmd) (d : Nat) :
    s.finishFree c d = (((s.emptySlots (s.didxPart d) d).scrubEntry d).vacated d).doneCmd c d St.ok := rfl

theorem State.entry_vacated (s : State) (d j : Nat) :
    (s.vacated d).entry j = if j = d then { gen := (s.entry d).gen + 1 } else s.entry j :=
  (s.freeAlloc fun a => a.2.2 ≠ d).entry_modEntry d j fun e => { gen := e.gen + 1 }

/-- FREE from a state `t` that is `s` but for VALUE of the work that carries it. -/
theorem State.frees_finishFree {s t : State} {c c' : DirCmd} {d : Nat} (slot : c'.slot = c.slot)
    (only : s.OnlyEntry t c d (s.entry d)) (dir : t.dir = s.dir) (cores : t.cores = s.cores) (woken : t.woken = s.woken) :
    ∃ u : State, t.finishFree c' d = u.endCmd c' St.ok ∧ s.Frees u c d := by
  have mode : t.mode = s.mode := by rw [only.rest]
  have emptied := State.slotsEmptied_emptySlots d cores woken mode
  have same := only.emptySlots (t.didxPart d)
  have dirX : (t.emptySlots (t.didxPart d) d).dir = s.dir := by rw [t.emptySlots_kept]; exact dir
  rw [State.finishFree_eq]
  generalize t.emptySlots (t.didxPart d) d = x at emptied same dirX
  obtain ⟨zeroes, inside, outside⟩ := x.scrubEntry_spec d
  have hbmX : x.hbm = s.hbm := by rw [same.rest]
  rw [dirX] at inside outside
  rw [hbmX, same.entry] at outside
  generalize x.scrubEntry d = y at zeroes inside outside
  have dirY : y.dir = s.dir := by rw [zeroes.rest]; exact dirX
  have entryY (j : Nat) : y.entry j = s.entry j := by rw [State.entry, dirY, ← State.entry]
  have entry : (y.vacated d).entry d = { gen := (s.entry d).gen + 1 } := by rw [State.entry_vacated, if_pos rfl, entryY]
  have hbm : ((y.vacated d).noteGen c' d).hbm = y.hbm := State.hbm_noteGen ..
  refine ⟨(y.vacated d).noteGen c' d, rfl, ?_, fun j other => ?_, emptied.congr ?_ ?_, fun a => ?_, fun l => ?_, ?_, ?_,
    fun i => ?_, ?_⟩
  · rw [State.entry_noteGen, entry]
  · rw [State.entry_noteGen, State.entry_vacated, if_neg other, entryY]
  · rw [State.cores_noteGen]
    show y.cores = x.cores
    rw [zeroes.rest]
  · rw [State.woken_noteGen]
    show y.woken = x.woken
    rw [zeroes.rest]
  · rw [State.dir_noteGen, ← dirY]
    show a ∈ y.dir.alloc.filter _ ↔ _
    simp
  · rw [State.dir_noteGen, ← dirY]
    show l ∈ y.dir.lines.filter _ ↔ _
    simp
  · rw [hbm]
    exact inside
  · rw [hbm]
    exact outside
  · rw [State.wk_noteGen, slot, entry]
    have wk : (y.vacated d).wk i = x.wk i := by
      show y.wk i = _
      rw [zeroes.rest]
      rfl
    rw [wk]
    by_cases carrier : c.slot.map (·.val) = some i
    · rw [if_pos carrier, if_pos carrier]
      obtain old | ⟨-, old⟩ := same.works i
      · rw [old]
      · rw [← old]
    · rw [if_neg carrier, if_neg carrier]
      exact (same.works i).resolve_right fun h => carrier h.1
  · rw [State.noteGen_kept, State.vacated_kept, zeroes.rest, same.rest]

/-! ### REVOKE (R162, R166, R167) -/

/-- The entry is REVOKED, and no command waits, builds or loads on it. -/
def State.revoked (s : State) (d : Nat) : State :=
  (((s.dropWait d).dropBuild d).modEntry d fun e => { e with st := .revoked }).dropLoad d |>.1

/-- Commands that wait or build on an entry, then those that load it. -/
def State.cmdsOn (s : State) (d : Nat) : List DirCmd :=
  ((s.dir.waits ++ s.dir.builds).filter (·.didx = d)).map (·.cmd) ++ (s.dir.loads.filter (·.didx = d)).filterMap (·.cmd)

theorem State.revokeEntry_eq (s : State) (d : Nat) : s.revokeEntry d =
    (s.cmdsOn d).foldl (fun s c => s.doneCmd c d St.adapterRevoked)
      ((if (s.entry d).st = .loading then s.loadWaiters d else []).foldl (fun s i => s.workFail i St.adapterRevoked)
        (s.revoked d)) := rfl

theorem State.OnlyEntry.revoked {s u : State} {c : DirCmd} {d : Nat} {e : DirEntry} (h : s.OnlyEntry u c d e) :
    s.OnlyEntry (u.revoked d) c d { e with st := .revoked, wait := false } :=
  (((((h.modEntry fun e => { e with wait := false }).withDir rfl).modEntry fun e => { e with wait := false }).withDir
    rfl).modEntry fun e => { e with st := .revoked }).withDir rfl

theorem State.dir_revoked (s : State) (d : Nat) : { (s.revoked d).dir with entries := s.dir.entries } = { s.dir with
    waits := s.dir.waits.filter (fun w => w.didx ≠ d), builds := s.dir.builds.filter (fun w => w.didx ≠ d)
    loads := s.dir.loads.filter fun l => l.didx ≠ d } := rfl

/-- From `s` to `t` the directory alone has changed. -/
def State.DirOnly (s t : State) : Prop := t = { s with dir := t.dir }

theorem State.DirOnly.trans {s t u : State} (h : s.DirOnly t) (g : t.DirOnly u) : s.DirOnly u := by
  unfold State.DirOnly at *
  rw [g, h]

theorem State.dirOnly_modEntry (s : State) (d : Nat) (f : DirEntry → DirEntry) : s.DirOnly (s.modEntry d f) := rfl

theorem State.dirOnly_dropWait (s : State) (d : Nat) : s.DirOnly (s.dropWait d) := rfl

theorem State.dirOnly_dropBuild (s : State) (d : Nat) : s.DirOnly (s.dropBuild d) := rfl

theorem State.dirOnly_dropLoad (s : State) (d : Nat) : s.DirOnly (s.dropLoad d).1 := rfl

theorem State.dirOnly_revoked (s : State) (d : Nat) : s.DirOnly (s.revoked d) :=
  (((s.dirOnly_dropWait d).trans (State.dirOnly_dropBuild _ d)).trans (State.dirOnly_modEntry _ d _)).trans
    (State.dirOnly_dropLoad _ d)

/-! ### Commands that act at once (R161) -/

/-- The entry that CREATE makes. -/
def DirEntry.created (e : DirEntry) (c : DirCmd) : DirEntry :=
  let n := c.block.toNat
  { st := if dcSrc c = 0 then .training else .parked, owner := c.part.val, tenant := BitVec.ofNat 24 (dcTenant c), gen := e.gen,
    lmask := BitVec.ofNat 64 (n / 2 ^ 64), ranks := BitVec.ofNat 24 (n / 2 ^ 168), acode := bits n 167 164, bcode := bits n 163 160,
    src := BitVec.ofNat 64 (n / 2 ^ 192), len := BitVec.ofNat 64 (n / 2 ^ 256), digest := BitVec.ofNat 256 (n / 2 ^ 320) }

theorem State.dirCreate_eq (s : State) (c : DirCmd) (d : Nat) :
    s.dirCreate c d = (s.modEntry d (·.created c)).doneCmd c d St.ok := by
  unfold State.dirCreate DirEntry.created dcSrc dcLen dcDigest
  simp only [ofNat_bits_eq_ofNat_div]

/-- PIN keeps to the limit. -/
theorem State.dirPin_eq (s : State) (c : DirCmd) (d : Nat) : s.dirPin c d =
    if s.pinned d < (if s.mode.cur.four then 2048 else 8192) then
      (s.modEntry d fun e => { e with st := .pinned }).doneCmd c d St.ok
    else s.doneCmd c d St.adapterPinLimit := rfl

theorem State.pinned_noteGen (s : State) (c : DirCmd) (k d : Nat) : (s.noteGen c k).pinned d = s.pinned d := by
  simp only [State.pinned, State.inRange, State.dir_noteGen, State.mode_noteGen, State.didxPart_noteGen]

/-- What reads have corrected is counted, and nothing else changes. -/
theorem State.noteCorrected_kept (s : State) (l : List (Nat × Nat)) : s.noteCorrected l = { s with
    ecc := { s.ecc with corrected := (s.noteCorrected l).ecc.corrected, hits := (s.noteCorrected l).ecc.hits } } :=
  (s.corrects_foldl _).rest

/-- Bringing an entry into a line changes the directory and what was corrected alone. -/
theorem State.takeLine_kept {s t : State} {i : Nat} (line : s.takeLine i = some t) :
    t = { s with dir := t.dir, ecc := { s.ecc with corrected := t.ecc.corrected, hits := t.ecc.hits } } := by
  have read : (if s.dir.lines.any (·.didx = i) then s else s.noteCorrected [(s.dirBase + 32 * i, 32)]) = { s with
      ecc := { s.ecc with
        corrected := (if s.dir.lines.any (·.didx = i) then s else s.noteCorrected [(s.dirBase + 32 * i, 32)]).ecc.corrected
        hits := (if s.dir.lines.any (·.didx = i) then s else s.noteCorrected [(s.dirBase + 32 * i, 32)]).ecc.hits } } := by
    split
    · rfl
    · exact s.noteCorrected_kept _
  unfold State.takeLine at line
  dsimp only at line
  rw [read] at line
  split at line
  · cases line
    rfl
  · split at line
    · cases line
      rfl
    · split at line
      · cases line
      · cases line
        rfl

theorem State.mode_of_directs {s s1 : State} {c : DirCmd} {op : Nat} (h : s.Directs c op s1) : s1.mode = s.mode := by
  obtain ⟨t, started, begins⟩ := Option.bind_eq_some_iff.1 h.begins
  split at begins
  · cases begins
  · rw [State.takeLine_kept begins, State.started_kept started]

/-! ### The rows of commands that act -/

/-- A command of the statement acts, and its row answers what `act` makes of the state. -/
theorem exec_of_directs {s s1 t : State} {c : DirCmd} {op : Nat} {i : Instr} (h : s.Directs c op s1) (row : (op, i) ∈ dirRows c)
    (other : op ≠ 9) (act : (s1.noteGen (s.carried c) (dcDidx c)).dirAct op (s.carried c) (dcDidx c) = t) :
    exec i s = .next t := by
  rw [exec_of_mem_dirRows row, dirRow_of_directs h other, act]

section
variable {s s1 : State} {c : DirCmd}

theorem exec_create_of_directs (h : s.Directs c 1 s1) : ∃ u : State,
    exec (.create c) s = .next (u.endCmd (s.carried c) St.ok) ∧
      s1.EntryBecomes u c (dcDidx c) ((s1.entry (dcDidx c)).created (s.carried c)) ∧
      { u.dir with entries := s1.dir.entries } = s1.dir := by
  obtain ⟨u, act, becomes⟩ := s1.ends_modEntry (s.slot_carried c) (dcDidx c) St.ok (·.created (s.carried c))
  exact ⟨u, exec_of_directs h (by simp [dirRows]) (by simp) ((State.dirCreate_eq ..).trans act), becomes⟩

theorem exec_load_of_directs (h : s.Directs c 2 s1) : exec (.load c) s = .next
    ((s1.noteGen (s.carried c) (dcDidx c)).startLoad (dcDidx c) (some (s.carried c))) :=
  exec_of_directs h (by simp [dirRows]) (by simp) rfl

theorem exec_pin_of_directs (h : s.Directs c 4 s1) : exec (.pin c) s = .next
    (if s1.pinned (dcDidx c) < (if s.mode.cur.four then 2048 else 8192) then
      ((s1.noteGen (s.carried c) (dcDidx c)).modEntry (dcDidx c) fun e => { e with st := .pinned }).doneCmd (s.carried c)
        (dcDidx c) St.ok
    else (s1.noteGen (s.carried c) (dcDidx c)).doneCmd (s.carried c) (dcDidx c) St.adapterPinLimit) := by
  refine exec_of_directs h (by simp [dirRows]) (by simp) ((State.dirPin_eq ..).trans ?_)
  rw [State.pinned_noteGen, State.mode_noteGen, State.mode_of_directs h]

theorem exec_unpin_of_directs (h : s.Directs c 5 s1) : exec (.unpin c) s = .next
    (((s1.noteGen (s.carried c) (dcDidx c)).modEntry (dcDidx c) fun e => { e with st := .resident }).doneCmd (s.carried c)
      (dcDidx c) St.ok) :=
  exec_of_directs h (by simp [dirRows]) (by simp) rfl

theorem exec_revoke_of_directs (h : s.Directs c 8 s1) : exec (.revoke c) s = .next
    (((s1.noteGen (s.carried c) (dcDidx c)).revokeEntry (dcDidx c)).doneCmd (s.carried c) (dcDidx c) St.ok) :=
  exec_of_directs h (by simp [dirRows]) (by simp) rfl

/-- PARK, TRAIN_END and FREE act at once, wait, or end ADAPTER_BUSY. -/
theorem exec_orWait_of_directs {op : Nat} {i : Instr} (h : s.Directs c op s1)
    (row : (op, i) ∈ [(3, Instr.park c), (7, .trainEnd c), (10, .free c)]) :
    exec i s = .next ((s1.noteGen (s.carried c) (dcDidx c)).orWait (s.carried c) (dcDidx c)) := by
  simp only [List.mem_cons, Prod.mk.injEq, List.not_mem_nil, or_false] at row
  obtain ⟨rfl, rfl⟩ | ⟨rfl, rfl⟩ | ⟨rfl, rfl⟩ := row <;>
    exact exec_of_directs h (by simp [dirRows]) (by simp) rfl

end

/-! ### A command that has waited (R166) -/

theorem exec_refcntZero_of_waiting {s : State} {d : Nat} {w : DirWait} (waiting : s.dir.waits.find? (fun x => x.didx = d) = some w) :
    exec (.refcntZero d) s = .next (if s.waitOver w.cmd d then (s.dropWait d).finishWait w.cmd d else s) := by
  show execRefcntZero d s = _
  rw [execRefcntZero, waiting]

theorem exec_commandTmoExpiry_of_waiting {s : State} {d : Nat} {w : DirWait}
    (waiting : s.dir.waits.find? (fun x => x.didx = d) = some w) :
    exec (.commandTmoExpiry d) s = .next ((s.dropWait d).doneCmd w.cmd d St.adapterBusy) := by
  show execCommandTmoExpiry d s = _
  rw [execCommandTmoExpiry, waiting]

theorem State.entryBecomes_dropWait (s : State) (c : DirCmd) (d : Nat) :
    s.EntryBecomes (s.dropWait d) { c with slot := none } d { s.entry d with wait := false } :=
  ((((s.onlyEntry_refl { c with slot := none } d).modEntry fun e => { e with wait := false }).withDir
    (r := (s.dropWait d).dir) rfl).becomes_of_value (fun i carrier => by cases carrier)).of_cores rfl rfl

/-! ### Refusals (R159, R160) -/

/-- The block of a PARK names all of SRC, LEN and DIGEST or none. -/
theorem dirBlockOk_of_park {c : DirCmd} (op : dcOp c = 3)
    (partly : ¬ ((dcSrc c = 0 ↔ dcLen c = 0) ∧ (dcLen c = 0 ↔ dcDigest c = 0))) : dirBlockOk c.block = false := by
  by_contra ok
  rw [Bool.not_eq_false, dirBlockOk] at ok
  rw [dcOp] at op
  dsimp only at ok
  simp only [op, Bool.and_eq_true] at ok
  obtain ⟨⟨-, whole⟩, -⟩ := ok
  refine partly ?_
  obtain ⟨len, digest⟩ : (dcSrc c == 0) = (dcLen c == 0) ∧ (dcLen c == 0) = (dcDigest c == 0) := by
    simpa only [bne_self_eq_false, Bool.false_or, Bool.and_eq_true, beq_iff_eq, dcSrc, dcLen, dcDigest] using whole
  rw [Bool.eq_iff_iff, beq_iff_eq, beq_iff_eq] at len digest
  exact ⟨len, digest⟩

/-- A command whose block is not valid ends ADAPTER_CMD_INVALID; one whose index is not the partition's, ADAPTER_INDEX_INVALID. -/
theorem dirRow_of_refused {s t : State} {c : DirCmd} (started : s.started c = some t) :
    (dirBlockOk c.block = false → dirRow (dcOp c) c s = t.endCmd (s.carried c) St.adapterCmdInvalid) ∧
      (dirBlockOk c.block = true → dcOp c ≠ 9 → s.didxOk (s.carried c).part (dcDidx c) = false →
        dirRow (dcOp c) c s = t.endCmd (s.carried c) St.adapterIndexInvalid) := by
  rw [dirRow_of_started started, State.dirRun]
  refine ⟨fun bad => ?_, fun good other outside => ?_⟩
  · simp [bad]
  · have outside' : t.didxOk (s.carried c).part (dcDidx c) = false := by
      rw [State.started_kept started]
      exact outside
    simp [good, other, outside']

/-- Settles O27: a command comes to its action by `dirRow_of_directs`; the actions that end it are `State.ends_modEntry` and
`State.ends_refused`, REVOKE's is `State.revokeEntry_eq`, and those after a wait are `State.parks_finishPark`,
`State.builds_beginBuild` and `State.frees_finishFree`. -/
theorem directoryCommands : Obligations.DirectoryCommands := by
  unfold Obligations.DirectoryCommands
  refine ⟨fun s c op s1 h => ?_, fun s c op s1 h => ?_, fun s d w waiting => ?_, fun s s1 c started i row op => ?_⟩
  · intro d e n tenant fresh ends
    have slot := s.slot_carried c
    refine ⟨?_, ?_, ?_, ?_, ?_, ?_⟩
    · rintro rfl
      obtain ⟨u, run, becomes⟩ := exec_create_of_directs h
      refine ⟨u, run, ?_⟩
      simpa only [DirEntry.created, State.dcSrc_carried, State.dcTenant_carried, State.block_carried] using becomes
    · rintro rfl
      refine ⟨_, exec_load_of_directs h, s1.entryBecomes_startLoad slot d _, ?_⟩
      rw [← State.dir_noteGen s1 (s.carried c) d]
      exact State.dir_startLoad ..
    · rintro rfl room
      obtain ⟨u, act, becomes⟩ := s1.ends_modEntry slot d St.ok fun e => { e with st := .pinned }
      exact ⟨u, by rw [exec_pin_of_directs h, if_pos room, act], becomes⟩
    · rintro rfl full
      obtain ⟨u, act, becomes⟩ := s1.ends_refused slot d St.adapterPinLimit
      exact ⟨u, by rw [exec_pin_of_directs h, if_neg (not_lt.2 full), act], becomes⟩
    · rintro rfl
      obtain ⟨u, act, becomes⟩ := s1.ends_modEntry slot d St.ok fun e => { e with st := .resident }
      exact ⟨u, by rw [exec_unpin_of_directs h, act], becomes⟩
    · rintro rfl
      have noted := (s1.onlyEntry_refl (s.carried c) d).noteGen (c' := s.carried c) rfl
      have kept := (s1.noteGen (s.carried c) d).dirOnly_revoked d
      have becomes := (State.EntryBecomes.of_noted s1 rfl d noted.revoked rfl (by rw [kept])).of_cores
        (by rw [kept, State.cores_noteGen]) (by rw [kept, State.woken_noteGen])
      refine ⟨(s1.noteGen (s.carried c) d).revoked d, becomes, ?_, ?_⟩
      · rw [← State.dir_noteGen s1 (s.carried c) d]
        exact State.dir_revoked ..
      · rw [exec_revoke_of_directs h, State.revokeEntry_eq, State.cmdsOn, State.dir_noteGen, State.entry_noteGen]
  · intro d c' e
    have slot := s.slot_carried c
    have noted := (s1.onlyEntry_refl c d).noteGen slot
    have done : (s1.noteGen c' d).waitOver c' d = s1.waitOver c d := by rw [State.waitOver_noteGen, State.waitOver_carried]
    refine ⟨?_, ?_, ?_, ?_, ?_⟩
    · rintro ⟨op, i⟩ row rfl busy
      rw [exec_orWait_of_directs h row, State.orWait_eq, done, if_neg (by simp [busy]), State.dcTmo_carried]
      refine ⟨fun now => ?_, fun later => ?_⟩
      · obtain ⟨u, act, becomes⟩ := s1.ends_refused slot d St.adapterBusy
        exact ⟨u, by rw [if_pos now, act], becomes⟩
      · refine ⟨_, by rw [if_neg later], s1.entryBecomes_waits slot d, ?_⟩
        rw [← State.dir_noteGen s1 c' d]
        exact State.dir_waits ..
    · rw [State.waitOver_iff, h.opcode]
    · rintro rfl none
      obtain ⟨u, act, parks⟩ := State.parks_finishPark slot (s.block_carried c) noted (s1.dir_noteGen ..) (s1.cores_noteGen ..)
        (s1.woken_noteGen ..)
      refine ⟨u, ?_, parks⟩
      rw [exec_orWait_of_directs h (by simp), State.orWait_eq, done, if_pos ((State.waitOver_iff ..).2 (.inl none)),
        State.finishWait, s.dcOp_carried, h.opcode]
      exact congrArg _ act
    · rintro rfl free
      refine ⟨_, ?_, State.builds_beginBuild c' noted (s1.dir_noteGen ..) (s1.cores_noteGen ..) (s1.woken_noteGen ..) ?_⟩
      · rw [exec_orWait_of_directs h (by simp), State.orWait_eq, done, if_pos ((State.waitOver_iff ..).2
          (free.imp_right fun unpublished => ⟨h.opcode, unpublished⟩)), State.finishWait, s.dcOp_carried, h.opcode]
        rfl
      · intro i carrier
        rw [State.wk_noteGen, slot, if_pos carrier]
    · rintro rfl none
      obtain ⟨u, act, frees⟩ := State.frees_finishFree slot noted (s1.dir_noteGen ..) (s1.cores_noteGen ..)
        (s1.woken_noteGen ..)
      refine ⟨u, ?_, frees⟩
      rw [exec_orWait_of_directs h (by simp), State.orWait_eq, done, if_pos ((State.waitOver_iff ..).2 (.inl none)),
        State.finishWait, s.dcOp_carried, h.opcode]
      exact congrArg _ act
  · intro woken
    have wakes : woken (s.dropWait d) := ⟨s.entryBecomes_dropWait w.cmd d, rfl⟩
    have only := (s.dropWait d).onlyEntry_refl w.cmd d
    have run (met : s.waitOver w.cmd d = true) : exec (.refcntZero d) s = .next ((s.dropWait d).finishWait w.cmd d) := by
      rw [exec_refcntZero_of_waiting waiting, if_pos met]
    refine ⟨⟨_, (s.dropWait d).noteGen w.cmd d, wakes, exec_commandTmoExpiry_of_waiting waiting,
      ((only.becomes rfl).of_cores (State.cores_noteGen ..) (State.woken_noteGen ..)), by rw [State.dir_noteGen]⟩,
      fun busy => ?_, fun met op => ?_, fun met op => ?_, fun met op => ?_⟩
    · rw [exec_refcntZero_of_waiting waiting, if_neg (by simp [busy])]
    · obtain ⟨u, act, parks⟩ := State.parks_finishPark rfl rfl only rfl rfl rfl
      exact ⟨_, u, wakes, by rw [run met, State.finishWait, op]; exact congrArg _ act, parks⟩
    · refine ⟨_, _, wakes, (run met).trans (by rw [State.finishWait, op]; rfl), State.builds_beginBuild w.cmd
        ((s.dropWait d).onlyEntry_refl { w.cmd with slot := none } d) rfl rfl rfl fun i carrier => by cases carrier⟩
    · obtain ⟨u, act, frees⟩ := State.frees_finishFree rfl only rfl rfl rfl
      exact ⟨_, u, wakes, by rw [run met, State.finishWait, op]; exact congrArg _ act, frees⟩
  · obtain ⟨block, index⟩ := dirRow_of_refused started
    have run : exec i.2 s = .next (dirRow (dcOp c) c s) := by rw [op, exec_of_mem_dirRows row]
    refine ⟨fun bad => by rw [run, block bad], fun park partly => dirBlockOk_of_park (op.trans park) partly,
      fun good other outside => by rw [run, index good (by rwa [op]) outside]⟩

end Sys2Proof.Machine
end

section
/-!
PROOF. Adapter slots fill (R159, R171 to R173): a fill that starts, its copy, and the chunks that follow.
-/

namespace Sys2Proof.Machine

/-! ### What is counted beside cores -/

/-- Counting what reads met takes no notice of cores and met waits, and leaves them as they are. -/
def CoreFree (note : State → State) : Prop :=
  ∀ (s : State) (x : Tab Core) (w : List Nat), note { s with cores := x, woken := w } = { note s with cores := x, woken := w }

theorem coreFree_noteCorrected (l : List (Nat × Nat)) : CoreFree (·.noteCorrected l) := by
  intro s x w
  show (l.flatMap fun r => s.softGranules r.1 r.2).foldl State.countCorrected { s with cores := x, woken := w } =
    { (l.flatMap fun r => s.softGranules r.1 r.2).foldl State.countCorrected s with cores := x, woken := w }
  generalize l.flatMap _ = g
  induction g generalizing s with
  | nil => rfl
  | cons i g ih => exact ih (s.countCorrected i)

theorem coreFree_noteReads (l : List (Nat × Nat)) : CoreFree (·.noteReads l) := by
  intro s x w
  have bad : ({ s with cores := x, woken := w } : State).firstBadByte l = s.firstBadByte l := rfl
  simp only [State.noteReads, bad]
  split <;> rfl

theorem coreFree_noteFail (st : Status) (l : List (Nat × Nat)) : CoreFree (·.noteFail st l) := by
  intro s x w
  simp only [State.noteFail]
  split
  · exact coreFree_noteReads l s x w
  · exact coreFree_noteCorrected l s x w

theorem coreFree_noteWalk (i : Nat) : CoreFree (·.noteWalk i) := fun s x w =>
  coreFree_noteReads [(s.dirBase + 32 * i, 32)] s x w

theorem CoreFree.kept {note : State → State} (free : CoreFree note) (s : State) :
    note s = { note s with cores := s.cores, woken := s.woken } := free s s.cores s.woken

theorem CoreFree.cores {note : State → State} (free : CoreFree note) (s : State) : (note s).cores = s.cores := by
  rw [free.kept s]

theorem CoreFree.woken {note : State → State} (free : CoreFree note) (s : State) : (note s).woken = s.woken := by
  rw [free.kept s]

/-- A change of one core, and then what reads met. -/
theorem OnlyCore.note {s t : State} {p : Nat} (h : OnlyCore s t p) {note : State → State} (free : CoreFree note) :
    OnlyCore (note s) (note t) p := by
  obtain ⟨others, kept, stay, met⟩ := h
  have read (u : State) (q : Nat) : (note u).core q = u.core q := by rw [State.core, free.cores, ← State.core]
  refine ⟨fun q other => by rw [read, read, others q other], ?_, ?_⟩
  · rw [free.cores, free.woken, ← free, kept]
  · unfold State.Wakes
    rw [free.woken, free.woken]
    exact ⟨stay, met⟩

/-! ### One slot of one core -/

/-- From `x`, whose cores are those of `s`, to `t` slot `k` of core `p` has become `b`, and nothing else has changed. -/
structure State.SlotBecomes (s x t : State) (p k : Nat) (b : AdptSlot) : Prop where
  only : OnlyCore x t p
  slot : (t.core p).slotA k = b
  others : ∀ i, i ≠ k → (t.core p).slotA i = (s.core p).slotA i
  rest : { t.core p with aslot := (s.core p).aslot } = s.core p

theorem State.slotBecomes_refl {s x : State} (cores : x.cores = s.cores) (p k : Nat) :
    s.SlotBecomes x x p k ((s.core p).slotA k) := by
  have read : x.core p = s.core p := by rw [State.core, cores, ← State.core]
  exact ⟨.refl x p, by rw [read], fun _ _ => by rw [read], by rw [read]⟩

/-- A slot that has changed changes once more. -/
theorem State.SlotBecomes.modSlot {s x t : State} {p k : Nat} {b : AdptSlot} (h : s.SlotBecomes x t p k b)
    (f : AdptSlot → AdptSlot) : s.SlotBecomes x (t.modCore p fun q => q.modSlotA k f) p k (f b) := by
  obtain ⟨only, slot, others, rest⟩ := h
  refine ⟨only.trans (onlyCore_modCore ..), ?_, fun i other => ?_, ?_⟩
  · rw [State.core_modCore_same, Core.slotA_modSlotA, if_pos rfl, slot]
  · rw [State.core_modCore_same, Core.slotA_modSlotA, if_neg other, others i other]
  · rw [State.core_modCore_same]
    exact rest

theorem State.SlotBecomes.note {s x t : State} {p k : Nat} {b : AdptSlot} (h : s.SlotBecomes x t p k b)
    {note : State → State} (free : CoreFree note) : s.SlotBecomes (note x) (note t) p k b := by
  obtain ⟨only, slot, others, rest⟩ := h
  have read : (note t).core p = t.core p := by rw [State.core, free.cores, ← State.core]
  exact ⟨only.note free, by rw [read, slot], fun i other => by rw [read, others i other], by rw [read, rest]⟩

theorem State.SlotBecomes.tuple {s x t : State} {p k : Nat} {b : AdptSlot} (h : s.SlotBecomes x t p k b) :
    OnlyCore x t p ∧ (t.core p).slotA k = b ∧ (∀ i, i ≠ k → (t.core p).slotA i = (s.core p).slotA i) ∧
      { t.core p with aslot := (s.core p).aslot } = s.core p := ⟨h.only, h.slot, h.others, h.rest⟩

/-! ### A fill starts (R171) -/

/-- The outcome of the checks of R171 on a descriptor. -/
def State.fillResult (s : State) (sh : Nat) (d : BitVec 256) : Except Status Rec :=
  s.fillCheck (s.partOf sh) (fdDidx d) (fdGen d) d (bits (fdW1 d) 31 16) (if bit (fdW1 d) 7 then 128 else 64)

/-- What the checks read from HBM. -/
def State.fillHeader (s : State) (d : BitVec 256) : List (Nat × Nat) :=
  s.recReads (s.fillImage d (fdDidx d)) (fdLayer d) (fdGroup d)

/-- The reads of the checks are noted. -/
def State.fillNoted (s : State) (sh : Nat) (d : BitVec 256) : State :=
  match s.fillResult sh d with
  | .error st => if fdGth d ∨ st ≠ St.memoryUncorrectable then s else s.noteReads (s.fillHeader d)
  | .ok _ => if fdGth d then s else s.noteCorrected (s.fillHeader d)

/-- A slot that takes a descriptor, before its checks. -/
def AdptSlot.taken (a : AdptSlot) (d : BitVec 256) : AdptSlot := { a with
  st := .filling, held := none, desc := d, gth := fdGth d, gen := BitVec.ofNat 8 (fdGen d), didx := fdDidx d
  rank := 0, cursor := bits (fdW1 d) 31 16, bound := false, buf0 := none, buf1 := none, fault := 0, nch := 0
  acode := 0, bcode := 0, record := 0 }

/-- The slot after the checks, of which a gather context has none. -/
def AdptSlot.checked (b : AdptSlot) : Except Status Rec → AdptSlot
  | .error st => { b with fault := st }
  | .ok r => { b with rank := r.rank, acode := r.acode, bcode := r.bcode, record := r.off, nch := ceilDiv r.dIn b.rows }

/-- A slot whose fill has started. -/
def AdptSlot.filling (a : AdptSlot) (d : BitVec 256) (res : Except Status Rec) : AdptSlot :=
  if fdGth d then a.taken d else (a.taken d).checked res

theorem State.fillBegin_eq (s : State) (sh c k : Nat) (d : BitVec 256) : s.fillBegin sh c k d =
    (s.fillNoted sh d).onCore sh c fun q => q.modSlotA k fun a => a.filling d (s.fillResult sh d) := rfl

theorem coreFree_fillNoted (s : State) (sh : Nat) (d : BitVec 256) : ∃ note, CoreFree note ∧ s.fillNoted sh d = note s := by
  unfold State.fillNoted
  have keep : CoreFree (fun s => s) := fun _ _ _ => rfl
  split <;> split
  · exact ⟨_, keep, rfl⟩
  · exact ⟨_, coreFree_noteReads (s.fillHeader d), rfl⟩
  · exact ⟨_, keep, rfl⟩
  · exact ⟨_, coreFree_noteCorrected (s.fillHeader d), rfl⟩

/-- What reads met leaves all but the error state and what is sent. -/
theorem State.noteReads_kept (s : State) (l : List (Nat × Nat)) :
    s.noteReads l = { s with ecc := (s.noteReads l).ecc, out := (s.noteReads l).out } := by
  unfold State.noteReads
  split <;> rfl

theorem State.fillNoted_kept (s : State) (sh : Nat) (d : BitVec 256) :
    s.fillNoted sh d = { s with ecc := (s.fillNoted sh d).ecc, out := (s.fillNoted sh d).out } := by
  unfold State.fillNoted
  split <;> split
  · rfl
  · exact s.noteReads_kept _
  · rfl
  · rw [s.noteCorrected_kept]

theorem State.shelves_fillNoted (s : State) (sh : Nat) (d : BitVec 256) : (s.fillNoted sh d).shelves = s.shelves := by
  rw [s.fillNoted_kept]

/-- A fill that starts on a core that is there. -/
theorem State.slotBecomes_fillBegin {s x : State} (cores : x.cores = s.cores) {sh c p : Nat} (phys : x.phys sh c = some p)
    (k : Nat) (d : BitVec 256) : s.SlotBecomes (x.fillNoted sh d) (x.fillBegin sh c k d) p k
      (((s.core p).slotA k).filling d (x.fillResult sh d)) := by
  obtain ⟨note, free, noted⟩ := coreFree_fillNoted x sh d
  have shelves : (x.fillNoted sh d).phys sh c = some p := by
    rw [← phys]
    exact State.phys_congr (x.shelves_fillNoted sh d) sh c
  rw [x.fillBegin_eq, State.onCore_some shelves]
  exact (State.slotBecomes_refl (by rw [noted, free.cores, cores]) p k).modSlot _

theorem State.fillCheck_noteCorrected (s : State) (l : List (Nat × Nat)) (p didx gen : Nat) (d : BitVec 256) (chunk rows : Nat) :
    (s.noteCorrected l).fillCheck p didx gen d chunk rows = s.fillCheck p didx gen d chunk rows := by
  rw [s.noteCorrected_kept l]
  rfl

/-- Slot `k` of core `p` takes descriptor `d`; its fill will end with fault `f` unless its copy meets one. What reads
met, and the line taken, stand in `x`. -/
def State.FillTaken (s x t : State) (c : CoreRef) (k : Fin 8) (p : Nat) (d : BitVec 256) (f : Status) (b : AdptSlot) : Prop :=
  (OnlyCore x t p ∧ (t.core p).slotA k = b ∧ (∀ i, i ≠ k.val → (t.core p).slotA i = (s.core p).slotA i) ∧
    { t.core p with aslot := (s.core p).aslot } = s.core p) ∧
  b.st = .filling ∧ b.held = none ∧ b.desc = d ∧ b.gth = fdGth d ∧ b.didx = fdDidx d ∧ b.gen.toNat = fdGen d ∧
  b.cursor = (d.toNat / 2 ^ 80) % 2 ^ 16 ∧ b.bound = false ∧ b.fault = f ∧ b.bytes = ((s.core p).slotA k).bytes ∧
  ∀ m, fdGth d = false → f = 0 → x.fillCheck (s.partOf c.sh) (fdDidx d) (fdGen d) d b.cursor b.rows = .ok m →
    b.rank = m.rank ∧ b.acode = m.acode ∧ b.bcode = m.bcode ∧ b.record = m.off ∧ b.nch = (m.dIn + b.rows - 1) / b.rows

theorem fdCh0_eq (d : BitVec 256) : bits (fdW1 d) 31 16 = (d.toNat / 2 ^ 80) % 2 ^ 16 := by
  simp only [bits, fdW1]
  omega

theorem toNat_fdGen (d : BitVec 256) : (BitVec.ofNat 8 (fdGen d)).toNat = fdGen d := by
  simp only [BitVec.toNat_ofNat, fdGen, bits]
  omega

/-- The fault that the checks leave in a slot. -/
def faultOf (gth : Bool) : Except Status Rec → Status
  | .error st => if gth then 0 else st
  | .ok _ => 0

theorem AdptSlot.filling_cases (a : AdptSlot) (d : BitVec 256) (res : Except Status Rec) :
    (fdGth d = true ∧ a.filling d res = a.taken d) ∨
    (fdGth d = false ∧ ∃ st, res = .error st ∧ a.filling d res = { a.taken d with fault := st }) ∨
    (fdGth d = false ∧ ∃ r, res = .ok r ∧ a.filling d res = { a.taken d with
      rank := r.rank, acode := r.acode, bcode := r.bcode, record := r.off, nch := ceilDiv r.dIn (a.taken d).rows }) := by
  unfold AdptSlot.filling
  cases gth : fdGth d with
  | true => exact .inl ⟨rfl, if_pos rfl⟩
  | false =>
    cases res with
    | error st => exact .inr (.inl ⟨rfl, st, rfl, if_neg Bool.false_ne_true⟩)
    | ok r => exact .inr (.inr ⟨rfl, r, rfl, if_neg Bool.false_ne_true⟩)

/-- A slot that has taken its descriptor, whatever the checks found. -/
theorem State.SlotBecomes.fillTaken {s x t : State} {c : CoreRef} {k : Fin 8} {p : Nat} {d : BitVec 256} {f : Status}
    {res : Except Status Rec}
    (slot : s.SlotBecomes x t p k { ((s.core p).slotA k).filling d res with fault := f })
    (checks : fdGth d = false → f = 0 → res = x.fillCheck (s.partOf c.sh) (fdDidx d) (fdGen d) d (bits (fdW1 d) 31 16)
      (if bit (fdW1 d) 7 then 128 else 64)) :
    s.FillTaken x t c k p d f { ((s.core p).slotA k).filling d res with fault := f } := by
  refine ⟨slot.tuple, ?_⟩
  obtain ⟨gth, same⟩ | ⟨gth, st, found, same⟩ | ⟨gth, r, found, same⟩ := AdptSlot.filling_cases ((s.core p).slotA k) d res <;>
    rw [same]
  · exact ⟨rfl, rfl, rfl, rfl, rfl, toNat_fdGen d, fdCh0_eq d, rfl, rfl, rfl, fun m no => by simp [gth] at no⟩
  · refine ⟨rfl, rfl, rfl, rfl, rfl, toNat_fdGen d, fdCh0_eq d, rfl, rfl, rfl, fun m no clean ok => ?_⟩
    cases found.symm.trans ((checks no clean).trans ok)
  · refine ⟨rfl, rfl, rfl, rfl, rfl, toNat_fdGen d, fdCh0_eq d, rfl, rfl, rfl, fun m no clean ok => ?_⟩
    cases found.symm.trans ((checks no clean).trans ok)
    exact ⟨rfl, rfl, rfl, rfl, rfl⟩

theorem AdptSlot.filling_fault (a : AdptSlot) (d : BitVec 256) (res : Except Status Rec) :
    { a.filling d res with fault := faultOf (fdGth d) res } = a.filling d res := by
  unfold AdptSlot.filling faultOf
  cases fdGth d <;> cases res <;> rfl

theorem State.fillNoted_error {s : State} {sh : Nat} {d : BitVec 256} {st : Status} (checked : s.fillResult sh d = .error st)
    (clean : fdGth d = true ∨ st ≠ St.memoryUncorrectable) : s.fillNoted sh d = s := by
  rw [State.fillNoted, checked]
  exact if_pos clean

theorem State.fillNoted_failed {s : State} {sh : Nat} {d : BitVec 256} {st : Status} (gth : fdGth d = false)
    (checked : s.fillResult sh d = .error st) :
    s.fillNoted sh d = if st = St.memoryUncorrectable then s.noteReads (s.fillHeader d) else s := by
  rw [State.fillNoted, checked]
  by_cases bad : st = St.memoryUncorrectable
  · rw [if_pos bad]
    exact if_neg (by simp [gth, bad])
  · rw [if_neg bad]
    exact if_pos (.inr bad)

theorem State.fillNoted_ok {s : State} {sh : Nat} {d : BitVec 256} {r : Rec} (gth : fdGth d = false)
    (checked : s.fillResult sh d = .ok r) : s.fillNoted sh d = s.noteCorrected (s.fillHeader d) := by
  rw [State.fillNoted, checked]
  exact if_neg (by simp [gth])

theorem State.fillNoted_gather {s : State} {sh : Nat} {d : BitVec 256} (gth : fdGth d = true) : s.fillNoted sh d = s := by
  unfold State.fillNoted
  split
  · exact if_pos (.inl gth)
  · exact if_pos gth

/-- A fill that starts in a state with the cores of `s`: the descriptor is taken, and the checks decide the fault. -/
theorem State.fillTaken_fillBegin {s x : State} (cores : x.cores = s.cores) {c : CoreRef} {p : Nat}
    (phys : x.phys c.sh c.c = some p) (part : x.partOf c.sh = s.partOf c.sh) (k : Fin 8) (d : BitVec 256) :
    s.FillTaken (x.fillNoted c.sh d) (x.fillBegin c.sh c.c k d) c k p d (faultOf (fdGth d) (x.fillResult c.sh d))
      (((s.core p).slotA k).filling d (x.fillResult c.sh d)) := by
  have slot := State.slotBecomes_fillBegin cores phys k d
  rw [← AdptSlot.filling_fault] at slot ⊢
  refine slot.fillTaken fun gth clean => ?_
  cases checked : x.fillResult c.sh d with
  | error st =>
    rw [checked, gth] at clean
    have none : x.fillNoted c.sh d = x :=
      State.fillNoted_error checked (.inr (by rw [show st = 0 from clean]; decide))
    rw [none, ← checked, State.fillResult, part]
  | ok r => rw [State.fillNoted_ok gth checked, State.fillCheck_noteCorrected, ← checked, State.fillResult, part]

theorem faultOf_gather (res : Except Status Rec) : faultOf true res = 0 := by
  cases res <;> rfl

theorem State.fillCheck_unknown {s : State} {p didx : Nat} (range : s.didxOk p didx = false) (gen : Nat) (d : BitVec 256)
    (chunk rows : Nat) : s.fillCheck p didx gen d chunk rows = .error St.adapterIndexInvalid := by
  unfold State.fillCheck
  exact if_pos (by simp [range])

theorem State.fillStart_none {s : State} {c : CoreRef} {k : Fin 8} {p : Nat} (phys : s.phys c.sh c.c = some p)
    (none : ((s.core p).slotA k).held = none) : exec (.fillStart c k) s = .next s := by
  show execFillStart c k s = _
  simp [execFillStart, State.lcore_some phys, none]

theorem State.fillStart_busy {s : State} {c : CoreRef} {k : Fin 8} {p : Nat} {d : BitVec 256}
    (phys : s.phys c.sh c.c = some p) (held : ((s.core p).slotA k).held = some d) (busy : 0 < (s.core p).runsNaming k) :
    exec (.fillStart c k) s = .next s := by
  show execFillStart c k s = _
  simp [execFillStart, State.lcore_some phys, held, busy]

/-- The fill of a gather context. -/
theorem State.fillStart_gather {s : State} {c : CoreRef} {k : Fin 8} {p : Nat} {d : BitVec 256}
    (phys : s.phys c.sh c.c = some p) (held : ((s.core p).slotA k).held = some d) (idle : (s.core p).runsNaming k = 0)
    (gth : fdGth d = true) : exec (.fillStart c k) s = .next (s.fillBegin c.sh c.c k d) := by
  show execFillStart c k s = _
  simp [execFillStart, State.lcore_some phys, held, idle, gth]

theorem State.fillStart_unknown {s : State} {c : CoreRef} {k : Fin 8} {p : Nat} {d : BitVec 256}
    (phys : s.phys c.sh c.c = some p) (held : ((s.core p).slotA k).held = some d) (idle : (s.core p).runsNaming k = 0)
    (range : s.didxOk (s.partOf c.sh) (fdDidx d) = false) :
    exec (.fillStart c k) s = .next (s.fillBegin c.sh c.c k d) := by
  show execFillStart c k s = _
  simp [execFillStart, State.lcore_some phys, held, idle, range]

section
variable {s : State} {c : CoreRef} {k : Fin 8} {p : Nat} {d : BitVec 256} (phys : s.phys c.sh c.c = some p)
  (held : ((s.core p).slotA k).held = some d) (idle : (s.core p).runsNaming k = 0) (gth : fdGth d = false)
  (range : s.didxOk (s.partOf c.sh) (fdDidx d) = true)
include phys held idle gth range

theorem State.fillStart_unread (fails : s.walkFails (fdDidx d) = true) :
    exec (.fillStart c k) s = .next (s.fillUnread c.sh c.c k d) := by
  show execFillStart c k s = _
  simp [execFillStart, State.lcore_some phys, held, idle, gth, range, fails]

theorem State.fillStart_line {x : State} (walks : s.walkFails (fdDidx d) = false) (line : s.takeLine (fdDidx d) = some x) :
    exec (.fillStart c k) s = .next (x.fillBegin c.sh c.c k d) := by
  show execFillStart c k s = _
  simp [execFillStart, State.lcore_some phys, held, idle, gth, range, walks, line]

theorem State.fillStart_waits (walks : s.walkFails (fdDidx d) = false) (line : s.takeLine (fdDidx d) = none) :
    exec (.fillStart c k) s = .next { s with dir := { s.dir with
      lineWaits := if s.dir.lineWaits.contains (.fill (8 * c.sh.val + c.c.val) k) then s.dir.lineWaits
        else s.dir.lineWaits ++ [.fill (8 * c.sh.val + c.c.val) k] } } := by
  show execFillStart c k s = _
  simp only [execFillStart, State.lcore_some phys, held, idle, gth, range, walks, line]
  simp only [Nat.lt_irrefl, ↓reduceIte, Bool.not_true, Bool.false_eq_true, or_self]
  split <;> rfl

end

theorem State.shelves_fillBegin (s : State) (sh c k : Nat) (d : BitVec 256) : (s.fillBegin sh c k d).shelves = s.shelves := by
  rw [s.fillBegin_eq, ← s.shelves_fillNoted sh d, State.onCore]
  split <;> rfl

/-- A fill whose entry cannot be read ends MEMORY_UNCORRECTABLE, whatever its checks would find. -/
theorem State.fillTaken_fillUnread {s : State} {c : CoreRef} {p : Nat} (phys : s.phys c.sh c.c = some p) (k : Fin 8)
    (d : BitVec 256) : s.FillTaken ((s.fillNoted c.sh d).noteWalk (fdDidx d)) (s.fillUnread c.sh c.c k d) c k p d
      St.memoryUncorrectable
      { ((s.core p).slotA k).filling d (s.fillResult c.sh d) with fault := St.memoryUncorrectable } := by
  have here : (s.fillBegin c.sh c.c k d).phys c.sh c.c = some p :=
    (State.phys_congr (s.shelves_fillBegin ..) _ _).trans phys
  have slot := ((State.slotBecomes_fillBegin rfl phys k d).modSlot
    fun a => { a with fault := St.memoryUncorrectable }).note (coreFree_noteWalk (fdDidx d))
  rw [← State.onCore_some here] at slot
  rw [State.fillUnread]
  exact slot.fillTaken fun _ no => absurd no (by decide)

/-! ### A fill's copy, and the chunks that follow (R172, R173) -/

/-- What the end of a copy makes of a slot of partition `q`. -/
def State.fillEnd (s : State) (q : Nat) (a : AdptSlot) : AdptSlot :=
  if a.st ≠ .filling then a
  else if a.fault ≠ 0 then { a with st := .fault }
  else match s.fillContents q a with
    | .ok a => { a with st := .ready }
    | .error st => { a with st := .fault, fault := st }

/-- A slot whose copy reads HBM. -/
def AdptSlot.copies (a : AdptSlot) : Bool := a.st = .filling && a.fault == 0 && !a.gth

theorem AdptSlot.copies_iff (a : AdptSlot) : a.copies = true ↔ a.st = .filling ∧ a.fault = 0 ∧ a.gth = false := by
  simp [AdptSlot.copies, and_assoc]

theorem State.fillCopyDone_eq {s : State} {c : CoreRef} {k : Fin 8} {p : Nat} (phys : s.phys c.sh c.c = some p) :
    exec (.fillCopyDone c k) s = .next
      (if ((s.core p).slotA k).copies then
        (s.modCore p fun q => q.modSlotA k (s.fillEnd (s.partOf c.sh))).noteFail
          (s.fillEnd (s.partOf c.sh) ((s.core p).slotA k)).fault (s.fillReads ((s.core p).slotA k))
      else s.modCore p fun q => q.modSlotA k (s.fillEnd (s.partOf c.sh))) := by
  have here (f : Core → Core) : (s.modCore p f).phys c.sh c.c = some p := phys
  have same : (fun a => s.fillEnd (s.partOf c.sh) a) = s.fillEnd (s.partOf c.sh) := rfl
  show execFillCopyDone c k s = _
  simp only [execFillCopyDone, State.lcore_some phys, State.onCore_some phys, phys, Option.isSome_some, Bool.and_true,
    State.lcore_some (here _), State.core_modCore_same, Core.slotA_modSlotA, ↓reduceIte]
  rfl

theorem State.slotBecomes_fillCopyDone {s : State} {c : CoreRef} {k : Fin 8} {p : Nat} (phys : s.phys c.sh c.c = some p)
    (still : ¬ ((s.core p).slotA k).copies = true) : ∃ t, exec (.fillCopyDone c k) s = .next t ∧
      s.SlotBecomes s t p k (s.fillEnd (s.partOf c.sh) ((s.core p).slotA k)) := by
  refine ⟨_, ?_, (State.slotBecomes_refl rfl p k).modSlot (s.fillEnd (s.partOf c.sh))⟩
  rw [State.fillCopyDone_eq phys, if_neg still]

theorem State.slotBecomes_fillCopyDone_of_copies {s : State} {c : CoreRef} {k : Fin 8} {p : Nat}
    (phys : s.phys c.sh c.c = some p) (copies : ((s.core p).slotA k).copies = true) :
    ∃ t, exec (.fillCopyDone c k) s = .next t ∧
      s.SlotBecomes (s.noteFail (s.fillEnd (s.partOf c.sh) ((s.core p).slotA k)).fault (s.fillReads ((s.core p).slotA k))) t p k
        (s.fillEnd (s.partOf c.sh) ((s.core p).slotA k)) := by
  refine ⟨_, ?_, ((State.slotBecomes_refl rfl p k).modSlot (s.fillEnd (s.partOf c.sh))).note (coreFree_noteFail _ _)⟩
  rw [State.fillCopyDone_eq phys, if_pos copies]

/-- Bytes 0 to 21 of a slot: its descriptor, rank, codes and number of chunks (R172). -/
def AdptSlot.head (a : AdptSlot) : List Byte :=
  natLE (bits a.desc.toNat 127 0) 16 ++ natLE a.rank 1 ++ natLE a.acode 1 ++ natLE a.bcode 1 ++ natLE 0 1 ++ natLE a.nch 2

theorem AdptSlot.length_head (a : AdptSlot) : a.head.length = 22 := by
  simp only [AdptSlot.head, List.length_append, length_natLE]

/-- The record that a slot was filled from, as its header in HBM says. -/
def State.fillRec (s : State) (a : AdptSlot) : Rec :=
  ⟨a.record, leNat (s.hbmRead a.record 4), leNat (s.hbmRead (a.record + 4) 4), a.rank, a.acode, a.bcode, 0, 0⟩

theorem State.fillContents_gather (s : State) (q : Nat) {a : AdptSlot} (gth : a.gth = true) :
    s.fillContents q a = .ok { a with bytes := memWrite [] 0 a.head } := by
  simp only [State.fillContents, gth, ↓reduceIte]
  rfl

/-- The bytes of a slot whose exponents, B codes and first chunk have come. -/
def AdptSlot.copied (a : AdptSlot) (eb b ck : List Byte) : AdptSlot :=
  { a with bytes := memWrite (memWrite (memWrite [] 0 a.head) 0x40 eb) 0x80 b }.putChunk a.ch0 ck

theorem State.fillContents_ok (s : State) (q : Nat) {a : AdptSlot} (gth : a.gth = false) {eb b ck : List Byte}
    (ebs : s.hbmGet (Init.job q false) ((s.fillRec a).ebOff (64 * fdOblk a.desc)) 64 = .ok eb)
    (bs : s.hbmGet (Init.job q false) ((s.fillRec a).bRow (64 * fdOblk a.desc)) (64 * rankOf a.rank) = .ok b)
    (cks : s.chunkBytes q a a.ch0 = .ok ck) : s.fillContents q a = .ok (a.copied eb b ck) := by
  simp only [State.fillRec, Rec.ebOff, Rec.bRow, Rec.r] at ebs bs
  have no : ¬ a.gth = true := by simp [gth]
  simp only [State.fillContents, if_neg no, Rec.ebOff, Rec.bRow, Rec.r, ebs, bs, cks]
  rfl

theorem State.fillContents_error (s : State) (q : Nat) {a : AdptSlot} (gth : a.gth = false) {st : Status}
    (reads : s.hbmGet (Init.job q false) ((s.fillRec a).ebOff (64 * fdOblk a.desc)) 64 = .error st ∨
      ((∃ l, s.hbmGet (Init.job q false) ((s.fillRec a).ebOff (64 * fdOblk a.desc)) 64 = .ok l) ∧
        (s.hbmGet (Init.job q false) ((s.fillRec a).bRow (64 * fdOblk a.desc)) (64 * rankOf a.rank) = .error st ∨
          ((∃ l, s.hbmGet (Init.job q false) ((s.fillRec a).bRow (64 * fdOblk a.desc)) (64 * rankOf a.rank) = .ok l) ∧
            s.chunkBytes q a a.ch0 = .error st)))) : s.fillContents q a = .error st := by
  simp only [State.fillRec, Rec.ebOff, Rec.bRow, Rec.r] at reads
  obtain eb | ⟨⟨l, eb⟩, b | ⟨⟨l', b⟩, ck⟩⟩ := reads
  · simp only [State.fillContents, gth, Bool.false_eq_true, ↓reduceIte, Rec.ebOff, Rec.bRow, Rec.r, eb]
  · simp only [State.fillContents, gth, Bool.false_eq_true, ↓reduceIte, Rec.ebOff, Rec.bRow, Rec.r, eb, b]
  · simp only [State.fillContents, gth, Bool.false_eq_true, ↓reduceIte, Rec.ebOff, Rec.bRow, Rec.r, eb, b, ck]

theorem State.fillEnd_of_not_filling {s : State} {q : Nat} {a : AdptSlot} (still : a.st ≠ .filling) : s.fillEnd q a = a :=
  if_pos still

section
variable {s : State} {q : Nat} {a : AdptSlot} (filling : a.st = .filling)
include filling

theorem State.fillEnd_of_fault (bad : a.fault ≠ 0) : s.fillEnd q a = { a with st := .fault } := by
  rw [State.fillEnd, if_neg (not_not.2 filling), if_pos bad]

theorem State.fillEnd_of_ok (clean : a.fault = 0) {b : AdptSlot} (contents : s.fillContents q a = .ok b) :
    s.fillEnd q a = { b with st := .ready } := by
  rw [State.fillEnd, if_neg (not_not.2 filling), if_neg (not_not.2 clean), contents]

theorem State.fillEnd_of_error (clean : a.fault = 0) {st : Status} (contents : s.fillContents q a = .error st) :
    s.fillEnd q a = { a with st := .fault, fault := st } := by
  rw [State.fillEnd, if_neg (not_not.2 filling), if_neg (not_not.2 clean), contents]

end

/-! ### The bytes of a slot -/

theorem AdptSlot.putChunk_bytes (a : AdptSlot) (ch : Nat) (bs : List Byte) :
    (a.putChunk ch bs).bytes = memWrite (tabClear a.bytes (a.bufOf ch) 0x2000) (a.bufOf ch) bs := by
  unfold AdptSlot.putChunk
  split <;> rfl

theorem AdptSlot.putChunk_first {a : AdptSlot} {ch : Nat} (first : a.bufOf ch = 0x1080) (bs : List Byte) :
    a.putChunk ch bs = { a with bytes := memWrite (tabClear a.bytes 0x1080 0x2000) 0x1080 bs, buf0 := some ch } := by
  unfold AdptSlot.putChunk
  rw [first]
  rfl

theorem AdptSlot.putChunk_rest (a : AdptSlot) (ch : Nat) (bs : List Byte) :
    { a.putChunk ch bs with bytes := a.bytes, buf0 := a.buf0, buf1 := a.buf1 } = a := by
  unfold AdptSlot.putChunk
  split <;> rfl

theorem AdptSlot.holds_putChunk (a : AdptSlot) (ch : Nat) (bs : List Byte) : (a.putChunk ch bs).holds ch = true := by
  unfold AdptSlot.putChunk AdptSlot.holds
  split <;> simp

theorem AdptSlot.byte_putChunk_inside (a : AdptSlot) (ch : Nat) {bs : List Byte} {i : Nat} (inside : i < bs.length) :
    tabGet 0 (a.putChunk ch bs).bytes (a.bufOf ch + i) = bs.getD i 0 := by
  rw [AdptSlot.putChunk_bytes, memByte_write, if_pos (by omega), Nat.add_sub_cancel_left]

theorem AdptSlot.byte_putChunk_outside (a : AdptSlot) (ch : Nat) {bs : List Byte} {x : Nat} (short : bs.length ≤ 0x2000)
    (outside : x < a.bufOf ch ∨ a.bufOf ch + 0x2000 ≤ x) : tabGet 0 (a.putChunk ch bs).bytes x = tabGet 0 a.bytes x := by
  rw [AdptSlot.putChunk_bytes, memByte_write, if_neg (by omega), tabGet_clear, if_neg (by omega)]

theorem State.length_hbmRead (s : State) (a n : Nat) : (s.hbmRead a n).length = n := by
  unfold State.hbmRead
  split
  · exact length_tabGetList ..
  · rw [List.length_map, List.length_range]

theorem length_hbmGet {s : State} {i : Init} {o n : Nat} {l : List Byte} (read : s.hbmGet i o n = .ok l) : l.length = n := by
  unfold State.hbmGet at read
  split at read
  · cases read
  · split at read
    · next loaded =>
      cases read
      simp only [State.hbmLoad] at loaded
      split at loaded
      · cases loaded
      · cases loaded
        exact s.length_hbmRead o n
    · cases read

/-- Byte `i` of a descriptor. -/
theorem ofNat_low_div (d : BitVec 256) {i : Nat} (inside : i < 16) :
    BitVec.ofNat 8 (bits d.toNat 127 0 / 256 ^ i) = (d >>> (8 * i)).setWidth 8 := by
  have power : (256 : Nat) ^ i = 2 ^ (8 * i) := by rw [Nat.pow_mul]
  apply BitVec.eq_of_getLsbD_eq
  intro j low
  have low : j < 8 := low
  rw [power, BitVec.getLsbD_ofNat, BitVec.getLsbD_setWidth, BitVec.getLsbD_ushiftRight, ← Nat.shiftRight_eq_div_pow,
    Nat.testBit_shiftRight, bits, Nat.testBit_mod_two_pow, Nat.pow_zero, Nat.div_one]
  simp only [low, show 8 * i + j < 127 + 1 - 0 by omega, decide_true, Bool.true_and]
  rfl

/-- The head of a slot as its first 22 bytes read. -/
theorem AdptSlot.head_getD (a : AdptSlot) :
    (∀ i, i < 16 → a.head.getD i 0 = (a.desc >>> (8 * i)).setWidth 8) ∧ (a.head.getD 16 0).toNat = a.rank % 256 ∧
      (a.head.getD 17 0).toNat = a.acode % 256 ∧ (a.head.getD 18 0).toNat = a.bcode % 256 ∧
      (a.head.getD 20 0).toNat + 256 * (a.head.getD 21 0).toNat = a.nch % 65536 := by
  have desc : (natLE (bits a.desc.toNat 127 0) 16).length = 16 := length_natLE ..
  have head : a.head = natLE (bits a.desc.toNat 127 0) 16 ++ [BitVec.ofNat 8 a.rank, BitVec.ofNat 8 a.acode,
      BitVec.ofNat 8 a.bcode, 0, BitVec.ofNat 8 a.nch, BitVec.ofNat 8 (a.nch / 256)] := by
    simp only [AdptSlot.head, natLE, List.cons_append, List.nil_append]
    rfl
  have tail {i : Nat} (h : 16 ≤ i) (l : List Byte) :
      (natLE (bits a.desc.toNat 127 0) 16 ++ l).getD i 0 = l.getD (i - 16) 0 := by
    rw [List.getD_append_right _ _ _ _ (by omega), desc]
  rw [head]
  refine ⟨fun i inside => ?_, ?_, ?_, ?_, ?_⟩
  · rw [List.getD_append _ _ _ _ (by omega), getD_natLE inside, ofNat_low_div _ inside]
  · rw [tail (by omega)]
    rfl
  · rw [tail (by omega)]
    rfl
  · rw [tail (by omega)]
    rfl
  · rw [tail (by omega), tail (by omega)]
    show a.nch % 256 + 256 * (a.nch / 256 % 256) = a.nch % 65536
    omega

/-- Bytes 0 to 21 of a slot's contents are its head. -/
def AdptSlot.HeadIn (a : AdptSlot) (m : Mem) : Prop := ∀ i, i < 22 → tabGet 0 m i = a.head.getD i 0

theorem AdptSlot.HeadIn.header {a : AdptSlot} {m : Mem} (h : a.HeadIn m) :
    (∀ i, i < 16 → tabGet 0 m i = (a.desc >>> (8 * i)).setWidth 8) ∧ (tabGet 0 m 16).toNat = a.rank % 256 ∧
      (tabGet 0 m 17).toNat = a.acode % 256 ∧ (tabGet 0 m 18).toNat = a.bcode % 256 ∧
      (tabGet 0 m 20).toNat + 256 * (tabGet 0 m 21).toNat = a.nch % 65536 := by
  obtain ⟨desc, rank, acode, bcode, nch⟩ := a.head_getD
  rw [h 16 (by omega), h 17 (by omega), h 18 (by omega), h 20 (by omega), h 21 (by omega)]
  exact ⟨fun i inside => (h i (by omega)).trans (desc i inside), rank, acode, bcode, nch⟩

theorem AdptSlot.headIn_gather (a : AdptSlot) : a.HeadIn (memWrite [] 0 a.head) := by
  intro i inside
  rw [memByte_write, a.length_head, if_pos (by omega), Nat.sub_zero]

theorem AdptSlot.gather_beyond (a : AdptSlot) {i : Nat} (beyond : 22 ≤ i) : tabGet 0 (memWrite [] 0 a.head) i = 0 := by
  rw [memByte_write, a.length_head, if_neg (by omega)]
  rfl

theorem AdptSlot.bufOf_ch0 (a : AdptSlot) : a.bufOf a.ch0 = 0x1080 := by simp [AdptSlot.bufOf]

theorem AdptSlot.copied_eq (a : AdptSlot) (eb b ck : List Byte) : a.copied eb b ck = { a with
    bytes := memWrite (tabClear (memWrite (memWrite (memWrite [] 0 a.head) 0x40 eb) 0x80 b) 0x1080 0x2000) 0x1080 ck
    buf0 := some a.ch0 } := AdptSlot.putChunk_first (AdptSlot.bufOf_ch0 _) ck

section
variable {a : AdptSlot} {eb b ck : List Byte} {r : Nat} (ebs : eb.length = 64) (bs : b.length = 64 * r) (rank : r ≤ 64)
include ebs bs rank

/-- Where each byte of a slot's contents comes from. -/
theorem AdptSlot.byte_copied (i : Nat) : tabGet 0 (a.copied eb b ck).bytes i =
    if 0x1080 ≤ i ∧ i < 0x1080 + ck.length then ck.getD (i - 0x1080) 0
    else if 0x80 ≤ i ∧ i < 0x80 + 64 * r then b.getD (i - 0x80) 0
    else if 0x40 ≤ i ∧ i < 0x80 then eb.getD (i - 0x40) 0
    else if i < 22 then a.head.getD i 0 else 0 := by
  rw [AdptSlot.copied_eq, memByte_write, tabGet_clear, memByte_write, memByte_write, memByte_write,
    ebs, bs, a.length_head, show tabGet (0 : Byte) ([] : Mem) i = 0 from rfl]
  by_cases chunk : 0x1080 ≤ i ∧ i < 0x1080 + ck.length
  · rw [if_pos chunk, if_pos chunk]
  rw [if_neg chunk, if_neg chunk]
  by_cases buffer : 0x1080 ≤ i ∧ i < 0x1080 + 0x2000
  · rw [if_pos buffer, if_neg (by omega), if_neg (by omega), if_neg (by omega)]
  rw [if_neg buffer]
  by_cases codes : 0x80 ≤ i ∧ i < 0x80 + 64 * r
  · rw [if_pos codes, if_pos codes]
  rw [if_neg codes, if_neg codes]
  by_cases exps : 0x40 ≤ i ∧ i < 0x80
  · rw [if_pos (by omega), if_pos exps]
  rw [if_neg (by omega), if_neg exps]
  by_cases head : i < 22
  · rw [if_pos (by omega), if_pos head, Nat.sub_zero]
  · rw [if_neg (by omega), if_neg head]

theorem AdptSlot.headIn_copied : a.HeadIn (a.copied eb b ck).bytes := by
  intro i inside
  rw [AdptSlot.byte_copied ebs bs rank, if_neg (by omega), if_neg (by omega), if_neg (by omega), if_pos inside]

end

theorem AdptSlot.copied_rest (a : AdptSlot) (eb b ck : List Byte) :
    { a.copied eb b ck with bytes := a.bytes, buf0 := a.buf0, buf1 := a.buf1 } = a := by
  rw [a.copied_eq]

theorem AdptSlot.copied_buf0 (a : AdptSlot) (eb b ck : List Byte) : (a.copied eb b ck).buf0 = some a.ch0 := by
  rw [a.copied_eq]

/-- The checks in the state whose entry is in a line. -/
theorem State.fillResult_line {s : State} {c : CoreRef} {d : BitVec 256} {i : Nat} {x : State}
    (line : s.takeLine i = some x) : x.fillResult c.sh d =
    x.fillCheck (s.partOf c.sh) (fdDidx d) (fdGen d) d ((d.toNat / 2 ^ 80) % 2 ^ 16) (if bit (fdW1 d) 7 then 128 else 64) := by
  have part : x.partOf c.sh = s.partOf c.sh := by
    rw [State.takeLine_kept line]
    rfl
  rw [State.fillResult, part, fdCh0_eq]

/-! ### O30 -/

section
variable {s : State} {c : CoreRef} {k : Fin 8} {p : Nat} (phys : s.phys c.sh c.c = some p)
include phys

theorem State.chunkFetchDone_none (none : (s.core p).nextChunk k = none) : exec (.chunkFetchDone c k) s = .next s := by
  show execChunkFetchDone c k s = _
  simp only [execChunkFetchDone, phys, none]

theorem State.chunkFetchDone_ok {n : Nat} (next : (s.core p).nextChunk k = some n) {ck : List Byte}
    (read : s.chunkBytes (s.partOf c.sh) ((s.core p).slotA k) n = .ok ck) : ∃ t, exec (.chunkFetchDone c k) s = .next t ∧
      s.SlotBecomes (s.noteCorrected [(((s.core p).slotA k).record + 16 + n * ((s.core p).slotA k).rows *
        rankOf ((s.core p).slotA k).rank, ((s.core p).slotA k).rows * rankOf ((s.core p).slotA k).rank)]) t p k
        (((s.core p).slotA k).putChunk n ck) := by
  refine ⟨_, ?_, ((State.slotBecomes_refl rfl p k).modSlot (·.putChunk n ck)).note (coreFree_noteCorrected _)⟩
  show execChunkFetchDone c k s = _
  simp only [execChunkFetchDone, phys, next, read]

theorem State.chunkFetchDone_error {n : Nat} (next : (s.core p).nextChunk k = some n) {st : Status}
    (read : s.chunkBytes (s.partOf c.sh) ((s.core p).slotA k) n = .error st) : ∃ t, exec (.chunkFetchDone c k) s = .next t ∧
      s.SlotBecomes (s.noteFail st [(((s.core p).slotA k).record + 16 + n * ((s.core p).slotA k).rows *
        rankOf ((s.core p).slotA k).rank, ((s.core p).slotA k).rows * rankOf ((s.core p).slotA k).rank)]) t p k
        { ((s.core p).slotA k) with st := .fault, fault := st } := by
  refine ⟨_, ?_, ((State.slotBecomes_refl rfl p k).modSlot ({ · with st := .fault, fault := st })).note
    (coreFree_noteFail _ _)⟩
  show execChunkFetchDone c k s = _
  simp only [execChunkFetchDone, phys, next, read]

/-- A fill that starts on an entry that the walker cannot read. -/
theorem State.fills_unread {d : BitVec 256} (held : ((s.core p).slotA k).held = some d) (idle : (s.core p).runsNaming k = 0)
    (gth : fdGth d = false) (range : s.didxOk (s.partOf c.sh) (fdDidx d) = true) (fails : s.walkFails (fdDidx d) = true) :
    ∃ x : State, { x with ecc := s.ecc, out := s.out } = s ∧ ∃ t b, exec (.fillStart c k) s = .next t ∧
      s.FillTaken x t c k p d St.memoryUncorrectable b := by
  refine ⟨(s.fillNoted c.sh d).noteWalk (fdDidx d), ?_, _, _, State.fillStart_unread phys held idle gth range fails,
    State.fillTaken_fillUnread phys k d⟩
  rw [State.noteWalk, State.noteReads_kept, State.fillNoted_kept]

/-- A fill that starts on an entry in a line. -/
theorem State.fills_line {d : BitVec 256} (held : ((s.core p).slotA k).held = some d) (idle : (s.core p).runsNaming k = 0)
    (gth : fdGth d = false) (range : s.didxOk (s.partOf c.sh) (fdDidx d) = true) (walks : s.walkFails (fdDidx d) = false)
    {x : State} (line : s.takeLine (fdDidx d) = some x) : ∃ t b, exec (.fillStart c k) s = .next t ∧
      s.FillTaken (x.fillNoted c.sh d) t c k p d (faultOf false (x.fillResult c.sh d)) b := by
  have kept := State.takeLine_kept line
  have taken := State.fillTaken_fillBegin (s := s) (x := x) (c := c) (p := p) (by rw [kept]) (by rw [kept]; exact phys)
    (by rw [kept]; rfl) k d
  rw [gth] at taken
  exact ⟨_, _, State.fillStart_line phys held idle gth range walks line, taken⟩

end

/-- Settles O30, one lemma per command and case. -/
theorem fillsRun : Obligations.FillsRun := by
  intro s c k p phys a part slotOnly byte r dIn dOut eb bc rows chunkAt get reads header fills
  have filled {d x t f b} (step : exec (.fillStart c k) s = .next t) (taken : s.FillTaken x t c k p d f b) : fills x d f :=
    ⟨t, b, step, taken⟩
  refine ⟨fun none => ?_, fun d held busy => ?_, fun d held idle => ⟨fun gth => ?_, fun gth range => ?_,
    fun gth range fails => ?_, fun gth range walks => ⟨fun none => ?_, fun x line => ⟨fun m ok => ?_, fun st err => ?_⟩⟩⟩,
    fun still => ?_, fun filling bad => ?_, fun filling clean gth => ?_, fun filling clean gth =>
      ⟨fun ebs bcs ck ebOk bcOk ckOk rank short => ?_, fun st failed => ?_⟩, fun none => ?_, fun n next =>
      ⟨fun ck ok short => ?_, fun st err => ?_⟩⟩
  · exact State.fillStart_none phys none
  · exact State.fillStart_busy phys held busy
  · have taken := State.fillTaken_fillBegin rfl phys rfl k d
    rw [State.fillNoted_gather gth, gth, faultOf_gather] at taken
    exact filled (State.fillStart_gather phys held idle gth) taken
  · have taken := State.fillTaken_fillBegin rfl phys rfl k d
    have result : s.fillResult c.sh d = .error St.adapterIndexInvalid :=
      State.fillCheck_unknown range _ _ _ _
    rw [State.fillNoted_error result (.inr (by decide)), gth, result] at taken
    exact filled (State.fillStart_unknown phys held idle range) taken
  · obtain ⟨x, rest, t, b, step, taken⟩ := State.fills_unread phys held idle gth range fails
    exact ⟨x, rest, filled step taken⟩
  · exact State.fillStart_waits phys held idle gth range walks none
  · obtain ⟨t, b, step, taken⟩ := State.fills_line phys held idle gth range walks line
    have result : x.fillResult c.sh d = .ok m := (State.fillResult_line line).trans ok
    rw [State.fillNoted_ok gth result, result] at taken
    exact filled step taken
  · obtain ⟨t, b, step, taken⟩ := State.fills_line phys held idle gth range walks line
    have result : x.fillResult c.sh d = .error st := (State.fillResult_line line).trans err
    rw [State.fillNoted_failed gth result, result] at taken
    exact filled step taken
  · obtain ⟨t, step, slot⟩ := State.slotBecomes_fillCopyDone (s := s) (k := k) phys
      fun copies => still (a.copies_iff.1 copies).1
    rw [State.fillEnd_of_not_filling still] at slot
    exact ⟨t, step, slot.tuple⟩
  · obtain ⟨t, step, slot⟩ := State.slotBecomes_fillCopyDone (s := s) (k := k) phys
      fun copies => bad (a.copies_iff.1 copies).2.1
    rw [State.fillEnd_of_fault filling bad] at slot
    exact ⟨t, step, slot.tuple⟩
  · obtain ⟨t, step, slot⟩ := State.slotBecomes_fillCopyDone (s := s) (k := k) phys
      fun copies => by simp [(a.copies_iff.1 copies).2.2] at gth
    rw [State.fillEnd_of_ok filling clean (s.fillContents_gather part gth)] at slot
    exact ⟨t, _, step, slot.tuple, rfl, (AdptSlot.headIn_gather a).header, fun i beyond => AdptSlot.gather_beyond a beyond⟩
  · obtain ⟨t, step, slot⟩ := State.slotBecomes_fillCopyDone_of_copies (s := s) (k := k) phys
      (a.copies_iff.2 ⟨filling, clean, gth⟩)
    rw [State.fillEnd_of_ok filling clean (s.fillContents_ok part gth ebOk bcOk ckOk)] at slot
    have ebLen := length_hbmGet ebOk
    have bcLen := length_hbmGet bcOk
    have ckLen := length_hbmGet ckOk
    have read := AdptSlot.byte_copied (a := a) (ck := ck) ebLen bcLen rank
    refine ⟨t, { a.copied ebs bcs ck with st := .ready }, step, ?_, ?_, AdptSlot.copied_buf0 a ebs bcs ck, ?_,
      fun i inside => ?_, fun i inside => ?_,
      fun i inside => ?_, fun i beyond => ?_⟩
    · have noted (l : List (Nat × Nat)) : s.noteFail (a.copied ebs bcs ck).fault l = s.noteCorrected l := by
        rw [AdptSlot.copied_eq]
        exact if_neg (by rw [clean]; decide)
      rw [noted] at slot
      exact slot.tuple
    · rw [AdptSlot.copied_eq]
    · exact (AdptSlot.headIn_copied (ck := ck) ebLen bcLen rank).header
    · exact (read _).trans (by rw [if_neg (by omega), if_neg (by omega), if_pos (by omega), Nat.add_sub_cancel_left])
    · exact (read _).trans (by rw [if_neg (by omega), if_pos (by omega), Nat.add_sub_cancel_left])
    · exact (read _).trans (by rw [if_pos (by omega), Nat.add_sub_cancel_left])
    · exact (read _).trans (by rw [if_neg (by omega), if_neg (by omega), if_neg (by omega), if_neg (by omega)])
  · obtain ⟨t, step, slot⟩ := State.slotBecomes_fillCopyDone_of_copies (s := s) (k := k) phys
      (a.copies_iff.2 ⟨filling, clean, gth⟩)
    rw [State.fillEnd_of_error filling clean (s.fillContents_error part gth failed)] at slot
    exact ⟨t, step, slot.tuple⟩
  · exact State.chunkFetchDone_none phys none
  · obtain ⟨t, step, slot⟩ := State.chunkFetchDone_ok phys next ok
    refine ⟨t, _, step, slot.tuple, AdptSlot.holds_putChunk .., AdptSlot.putChunk_rest .., fun i inside => ?_,
      fun x outside => ?_⟩
    · exact AdptSlot.byte_putChunk_inside _ _ (by rw [length_hbmGet ok]; exact inside)
    · exact AdptSlot.byte_putChunk_outside _ _ (by rw [length_hbmGet ok]; exact short) outside
  · obtain ⟨t, step, slot⟩ := State.chunkFetchDone_error phys next err
    exact ⟨t, step, slot.tuple⟩

end Sys2Proof.Machine
end

section
/-!
PROOF. Loads finish, tenants are revoked, cache lines are had (R159, R163, R164, R167, R321).
-/

namespace Sys2Proof.Machine

/-! ### A load finishes (R163) -/

/-- A change of works that does nothing the second time, made for each slot of a list. -/
theorem State.wk_foldl_modWork {f : Work → Work} (twice : ∀ w, f (f w) = f w) (l : List Nat) (s : State) (i : Nat) :
    (l.foldl (fun s j => s.modWork j f) s).wk i = if i ∈ l then f (s.wk i) else s.wk i := by
  induction l generalizing s with
  | nil => rfl
  | cons j l ih =>
    rw [List.foldl_cons, ih, State.wk_modWork]
    by_cases here : i = j
    · subst here
      simp [twice]
    · simp [here]

theorem State.foldl_modWork_kept (f : Work → Work) (l : List Nat) (s : State) : l.foldl (fun s j => s.modWork j f) s =
    { s with work := { s.work with slots := (l.foldl (fun s j => s.modWork j f) s).work.slots } } := by
  induction l generalizing s with
  | nil => rfl
  | cons j l ih => exact ih (s.modWork j f)

/-- The load of an entry is off the list. -/
def State.unloaded (s : State) (d : Nat) : State := (s.dropLoad d).1

/-- An entry whose load has ended without an image, before anyone is told. -/
def State.loadLost (s : State) (d : Nat) : State := (s.unloaded d).modEntry d fun e => { e with st := .parked }

/-- An entry whose load has ended with its image at HBM offset `q`, before anyone is told. -/
def State.loadKept (s : State) (d q n : Nat) : State :=
  ({ s.unloaded d with dir := { (s.unloaded d).dir with alloc := s.dir.alloc ++ [(q, n, d)] } } : State).modEntry d
    fun e => { e with st := .resident, pub := true, loc := q / 4096 }

/-- The command that started a load, if one did, ends. -/
def State.loadAnswered (s : State) (cmd : Option DirCmd) (d : Nat) (st : Status) : State :=
  match cmd with
  | some c => s.doneCmd c d st
  | none => s

section
variable {s : State} {d : Nat} {cmd : Option DirCmd}

theorem State.dropLoad_cmds (one : s.dir.loads.filter (fun l => l.didx = d) = [⟨d, cmd⟩]) (t : State) (st : Status) :
    (s.dropLoad d).2.foldl (fun s c => s.doneCmd c d st) t = t.loadAnswered cmd d st := by
  rw [State.dropLoad, one]
  cases cmd <;> rfl

theorem State.failLoad_eq (one : s.dir.loads.filter (fun l => l.didx = d) = [⟨d, cmd⟩]) (st : Status) : s.failLoad d st =
    ((s.loadWaiters d).foldl (fun s i => s.workFail i st) (s.loadLost d)).loadAnswered cmd d st :=
  State.dropLoad_cmds one _ _

theorem State.publishLoad_eq (one : s.dir.loads.filter (fun l => l.didx = d) = [⟨d, cmd⟩]) (q n : Nat) : s.publishLoad d q n =
    ((s.loadWaiters d).foldl (fun s i => s.modWork i fun w => { w with waitLoad := false }) (s.loadKept d q n)).loadAnswered cmd d
      St.ok :=
  State.dropLoad_cmds one _ _

theorem State.mem_loads_unloaded (s : State) (d : Nat) (l : LoadRec) :
    l ∈ (s.unloaded d).dir.loads ↔ l ∈ s.dir.loads ∧ l.didx ≠ d := by
  simp [State.unloaded, State.dropLoad]

end

/-- Two long writes of firmware that nothing stops. -/
theorem State.copyAndImage_of_stores {s t x u : State} {o q : Nat} {copy img : List Byte} (first : s.Stores t o copy)
    (hbm : x.hbm = t.hbm) (second : x.Stores u q img) : s.CopyAndImage u o copy q img := by
  have read (a : Nat) : tabGet 0 u.hbm a = if q ≤ a ∧ a < q + img.length then img.getD (a - q) 0
      else if o ≤ a ∧ a < o + copy.length then copy.getD (a - o) 0 else tabGet 0 s.hbm a := by
    rw [second.rest]
    show tabGet 0 (memWrite x.hbm q img) a = _
    rw [hbm, first.rest, memByte_write]
    exact if_congr Iff.rfl rfl (memByte_write ..)
  refine ⟨fun i inside => ?_, fun i inside apart => ?_, fun a image copied => ?_⟩
  · rw [read, if_pos (by omega), Nat.add_sub_cancel_left]
  · rw [read, if_neg (by omega), if_pos (by omega), Nat.add_sub_cancel_left]
  · rw [read, if_neg (by omega), if_neg (by omega)]

/-- A write that firmware may make is made. -/
theorem State.FirmwareMay.stores {s : State} {p o : Nat} {bs : List Byte} (may : s.FirmwareMay p o bs.length) :
    ∃ t, s.hbmPutLong (Init.firmware p) o bs = (t, St.ok) ∧ s.Stores t o bs := by
  obtain ⟨stores, ok⟩ := State.stores_hbmPutLong may.1 may.2
  exact ⟨_, Prod.ext rfl ok, stores⟩

theorem State.Stores.firmwareMay {s t : State} {o : Nat} {bs : List Byte} (h : s.Stores t o bs) {p a n : Nat}
    (may : s.FirmwareMay p a n) : t.FirmwareMay p a n :=
  ⟨fun r mem => (h.regionCheck ..).trans (may.1 r mem), h.hbmBarrier may.2⟩

theorem State.FirmwareMay.noteCorrected {s : State} {p a n : Nat} (may : s.FirmwareMay p a n) (l : List (Nat × Nat)) :
    (s.noteCorrected l).FirmwareMay p a n := by
  rw [s.noteCorrected_kept]
  exact may

theorem State.FirmwareMay.countSkim {s : State} {p a n q : Nat} (may : s.FirmwareMay p a n) (code cl fl : Nat) :
    (s.countSkim q code cl fl).FirmwareMay p a n := may

/-- A load whose copy and image are built and may be written publishes them. -/
theorem execLoadComplete_ok {s : State} {d : Nat} {fetched : Answer} (loading : (s.entry d).st = .loading)
    (idle : s.dir.builds.find? (fun x => x.didx = d) = none) (load : ∃ l ∈ s.dir.loads, l.didx = d)
    {copy img : List Byte} {o q cl fl : Nat}
    (built : s.loadBuild (s.didxPart d) (s.entry d) fetched = .ok (copy, o, img, q, cl, fl))
    (mayCopy : s.FirmwareMay (s.didxPart d) o copy.length) (mayImage : s.FirmwareMay (s.didxPart d) q img.length) :
    ∃ t : State, exec (.loadComplete d fetched) s = .next (t.publishLoad d q img.length) ∧
      s.CopyAndImage t o copy q img ∧ t = { s with hbm := t.hbm, ecc := t.ecc, stats := t.stats } := by
  let x := s.noteCorrected (s.hbmRange (s.entry d).src (s.entry d).len.toNat ++ s.baseReads (s.didxPart d) (s.entry d).pairs)
  have kept : x = { s with ecc := x.ecc } := by
    rw [show x = _ from s.noteCorrected_kept _]
  have may {n a : Nat} (h : s.FirmwareMay (s.didxPart d) a n) : x.FirmwareMay (s.didxPart d) a n := h.noteCorrected _
  obtain ⟨t, wroteCopy, first⟩ := (may mayCopy).stores
  obtain ⟨u, wroteImage, second⟩ :=
    (State.FirmwareMay.countSkim (first.firmwareMay (may mayImage)) (s.entry d).bcode cl fl).stores
  refine ⟨u, ?_, ?_, ?_⟩
  · show execLoadComplete d fetched s = _
    rw [execLoadComplete, idle]
    dsimp only
    rw [if_neg (by simp [loading, load]), built]
    dsimp only
    rw [show s.noteCorrected _ = x from rfl, wroteCopy]
    dsimp only
    rw [if_neg (by decide), wroteImage]
    rfl
  · have stores := State.copyAndImage_of_stores first
      (x := t.countSkim (s.didxPart d) (s.entry d).bcode cl fl) rfl second
    rw [kept] at stores
    exact stores
  · rw [second.rest, State.countSkim, first.rest, kept]

/-- A load that fails is noted by what it read, and then failed. -/
theorem execLoadComplete_error {s : State} {d : Nat} {fetched : Answer} (loading : (s.entry d).st = .loading)
    (idle : s.dir.builds.find? (fun x => x.didx = d) = none) (load : ∃ l ∈ s.dir.loads, l.didx = d) {st : Status}
    (failed : s.loadBuild (s.didxPart d) (s.entry d) fetched = .error st) : exec (.loadComplete d fetched) s = .next
      (State.failLoad (if st = St.adapterFetchFailed then s.noteReads (s.hbmRange (s.entry d).src (s.entry d).len.toNat)
        else s.noteFail st (s.baseReads (s.didxPart d) (s.entry d).pairs)) d st) := by
  show execLoadComplete d fetched s = _
  rw [execLoadComplete, idle]
  dsimp only
  rw [if_neg (by simp [loading, load]), failed]

/-- What a failed load counts leaves all but the error state and what is sent; only an uncorrectable granule or a failed
fetch is reported. -/
theorem State.loadNoted_kept (s : State) (st : Status) (fetch base : List (Nat × Nat)) : ∃ t : State,
    (if st = St.adapterFetchFailed then s.noteReads fetch else s.noteFail st base) = t ∧
    t = { s with ecc := t.ecc, out := t.out } ∧
    (st ≠ St.memoryUncorrectable → st ≠ St.adapterFetchFailed → t.out = s.out ∧ t.ecc.bad = s.ecc.bad) := by
  refine ⟨_, rfl, ?_, fun clean fetched => ?_⟩
  · split
    · exact s.noteReads_kept _
    · unfold State.noteFail
      split
      · exact s.noteReads_kept _
      · rw [s.noteCorrected_kept]
  · rw [if_neg fetched, State.noteFail, if_neg clean, s.noteCorrected_kept]
    exact ⟨rfl, rfl⟩

/-- The load of an entry is off the list, and no other entry has changed. -/
def State.Unloads (s u : State) (d : Nat) : Prop :=
  (∀ l, l ∈ u.dir.loads ↔ l ∈ s.dir.loads ∧ l.didx ≠ d) ∧ ∀ j, j ≠ d → u.entry j = s.entry j

theorem State.wk_of_work {s t : State} (work : t.work = s.work) (i : Nat) : t.wk i = s.wk i := by
  rw [State.wk, work, ← State.wk]

section
variable {s t : State} {d : Nat} (dir : t.dir = s.dir)
include dir

theorem State.entry_of_dir (j : Nat) : t.entry j = s.entry j := by rw [State.entry, dir, ← State.entry]

theorem State.unloads_loadLost : s.Unloads (t.loadLost d) d ∧ (t.loadLost d).entry d = { s.entry d with st := .parked } ∧
    (t.loadLost d).dir.alloc = s.dir.alloc := by
  refine ⟨⟨fun l => ?_, fun j other => ?_⟩, ?_, ?_⟩
  · rw [← dir]
    exact t.mem_loads_unloaded d l
  · exact ((t.unloaded d).entry_modEntry_other _ other).trans (State.entry_of_dir dir j)
  · rw [← State.entry_of_dir dir d]
    exact (t.unloaded d).entry_modEntry_same d _
  · rw [← dir]
    rfl

theorem State.unloads_loadKept (q n : Nat) : s.Unloads (t.loadKept d q n) d ∧
    (t.loadKept d q n).entry d = { s.entry d with st := .resident, pub := true, loc := q / 4096 } ∧
    (t.loadKept d q n).dir.alloc = s.dir.alloc ++ [(q, n, d)] := by
  refine ⟨⟨fun l => ?_, fun j other => ?_⟩, ?_, ?_⟩
  · rw [← dir]
    exact t.mem_loads_unloaded d l
  · exact (State.entry_modEntry_other _ _ other).trans (State.entry_of_dir dir j)
  · rw [← State.entry_of_dir dir d]
    exact State.entry_modEntry_same _ d _
  · rw [← dir]
    rfl

end

section
variable {s : State} {d : Nat} {fetched : Answer} {cmd : Option DirCmd} (loading : (s.entry d).st = .loading)
  (idle : s.dir.builds.find? (fun x => x.didx = d) = none)
  (one : s.dir.loads.filter (fun l => l.didx = d) = [⟨d, cmd⟩])
include one

theorem State.exists_load : ∃ l ∈ s.dir.loads, l.didx = d := by
  have mem : (⟨d, cmd⟩ : LoadRec) ∈ s.dir.loads.filter (fun l => l.didx = d) := by simp [one]
  exact ⟨_, (List.mem_filter.1 mem).1, rfl⟩

include loading idle

theorem exec_loadComplete_of_built {copy img : List Byte} {o q cl fl : Nat}
    (built : s.loadBuild (s.didxPart d) (s.entry d) fetched = .ok (copy, o, img, q, cl, fl))
    (mayCopy : s.FirmwareMay (s.didxPart d) o copy.length) (mayImage : s.FirmwareMay (s.didxPart d) q img.length) :
    ∃ u : State, exec (.loadComplete d fetched) s = .next (u.loadAnswered cmd d St.ok) ∧ s.Unloads u d ∧
      u.entry d = { s.entry d with st := .resident, pub := true, loc := q / 4096 } ∧
      (∀ x, x ∈ u.dir.alloc ↔ x ∈ s.dir.alloc ∨ x = (q, img.length, d)) ∧ s.CopyAndImage u o copy q img ∧
      (∀ i, u.wk i = if i ∈ s.loadWaiters d then { s.wk i with waitLoad := false } else s.wk i) ∧
      { u.work with slots := s.work.slots } = s.work ∧
      { u with dir := s.dir, hbm := s.hbm, ecc := s.ecc, work := s.work, stats := s.stats } = s := by
  obtain ⟨t, step, written, kept⟩ := execLoadComplete_ok loading idle (State.exists_load one) built mayCopy mayImage
  have dir : t.dir = s.dir := by rw [kept]
  have work : t.work = s.work := by rw [kept]
  have waiters : t.loadWaiters d = s.loadWaiters d := by rw [State.loadWaiters, work, State.loadWaiters]
  rw [State.publishLoad_eq (by rw [dir, one]), waiters] at step
  obtain ⟨unloads, entry, alloc⟩ := State.unloads_loadKept (d := d) dir q img.length
  have wk := State.wk_foldl_modWork (f := fun w => { w with waitLoad := false }) (fun _ => rfl) (s.loadWaiters d)
    (t.loadKept d q img.length)
  refine ⟨_, step, ?_⟩
  rw [State.foldl_modWork_kept] at wk ⊢
  refine ⟨unloads, entry, fun x => ?_, written, fun i => (wk i).trans ?_, ?_, ?_⟩
  · show x ∈ (t.loadKept d q img.length).dir.alloc ↔ _
    rw [alloc]
    simp
  · rw [show (t.loadKept d q img.length).wk i = s.wk i from State.wk_of_work work i]
  · rw [← work]
    rfl
  · show { t with dir := s.dir, hbm := s.hbm, ecc := s.ecc, work := s.work, stats := s.stats } = s
    rw [kept]

theorem exec_loadComplete_of_failed {st : Status} (failed : s.loadBuild (s.didxPart d) (s.entry d) fetched = .error st) :
    ∃ u : State, exec (.loadComplete d fetched) s =
        .next (((s.loadWaiters d).foldl (fun x i => x.workFail i st) u).loadAnswered cmd d st) ∧ s.Unloads u d ∧
      u.entry d = { s.entry d with st := .parked } ∧ u.dir.alloc = s.dir.alloc ∧
      { u with dir := s.dir, ecc := s.ecc, out := s.out } = s ∧
      (st ≠ St.memoryUncorrectable → st ≠ St.adapterFetchFailed → u.out = s.out ∧ u.ecc.bad = s.ecc.bad) := by
  obtain ⟨t, noted, kept, clean⟩ := s.loadNoted_kept st (s.hbmRange (s.entry d).src (s.entry d).len.toNat)
    (s.baseReads (s.didxPart d) (s.entry d).pairs)
  have dir : t.dir = s.dir := by rw [kept]
  have work : t.work = s.work := by rw [kept]
  have step := execLoadComplete_error (fetched := fetched) loading idle (State.exists_load one) failed
  rw [noted, State.failLoad_eq (by rw [dir, one]), State.loadWaiters, work, ← State.loadWaiters] at step
  obtain ⟨unloads, entry, alloc⟩ := State.unloads_loadLost (d := d) dir
  refine ⟨_, step, unloads, entry, alloc, ?_, clean⟩
  show { t with dir := s.dir, ecc := s.ecc, out := s.out } = s
  rw [kept]

end

/-! ### REVOKE_TENANT (R167) -/

/-- From `s` to `t` only entries have changed. -/
def State.EntriesOnly (s t : State) : Prop := t = { s with dir := { s.dir with entries := t.dir.entries } }

theorem State.EntriesOnly.trans {s t u : State} (h : s.EntriesOnly t) (g : t.EntriesOnly u) : s.EntriesOnly u := by
  unfold State.EntriesOnly at *
  rw [g, h]

/-- No command waits, builds or loads on an entry, and no work waits for its load. -/
structure State.Quiet (s : State) (d : Nat) : Prop where
  waits : ∀ w ∈ s.dir.waits ++ s.dir.builds, w.didx ≠ d
  loads : ∀ l ∈ s.dir.loads, l.didx ≠ d
  waiters : (s.entry d).st = .loading → s.loadWaiters d = []

section
variable {s : State} {d : Nat} (quiet : s.Quiet d)
include quiet

theorem State.revokeEntry_of_quiet : s.revokeEntry d = s.revoked d := by
  have cmds : s.cmdsOn d = [] := by
    rw [State.cmdsOn, List.filter_eq_nil_iff.2 (fun w mem => by simp [quiet.waits w mem]),
      List.filter_eq_nil_iff.2 (fun l mem => by simp [quiet.loads l mem])]
    rfl
  have waiters : (if (s.entry d).st = .loading then s.loadWaiters d else []) = [] := by
    split
    · next loading => exact quiet.waiters loading
    · rfl
  rw [State.revokeEntry_eq, cmds, waiters]
  rfl

theorem State.entriesOnly_revokeEntry : s.EntriesOnly (s.revokeEntry d) := by
  have keep {α : Type} (l : List α) (f : α → Nat) (none : ∀ x ∈ l, f x ≠ d) : l.filter (fun x => f x ≠ d) = l :=
    List.filter_eq_self.2 fun x mem => by simpa using none x mem
  have waits := keep s.dir.waits (·.didx) fun w mem => quiet.waits w (List.mem_append_left _ mem)
  have builds := keep s.dir.builds (·.didx) fun w mem => quiet.waits w (List.mem_append_right _ mem)
  have dir := s.dir_revoked d
  rw [waits, builds, keep s.dir.loads (·.didx) quiet.loads] at dir
  have same : (s.revoked d).dir = { s.dir with entries := (s.revoked d).dir.entries } :=
    congrArg (fun r : Directory => { r with entries := (s.revoked d).dir.entries }) dir
  rw [State.revokeEntry_of_quiet quiet]
  have only : s.revoked d = { s with dir := (s.revoked d).dir } := s.dirOnly_revoked d
  exact only.trans (congrArg (fun r : Directory => { s with dir := r }) same)

theorem State.entry_revokeEntry (j : Nat) : (s.revokeEntry d).entry j =
    if j = d then { s.entry d with st := .revoked, wait := false } else s.entry j := by
  rw [State.revokeEntry_of_quiet quiet]
  have only := ((s.onlyEntry_refl ⟨none, 0, 0⟩ d).revoked)
  split
  · next here => rw [here, only.entry]
  · next other => exact only.others j other

theorem State.Quiet.revokeEntry {j : Nat} (h : s.Quiet j) : (s.revokeEntry d).Quiet j := by
  have only : s.revokeEntry d = _ := State.entriesOnly_revokeEntry quiet
  have waits : (s.revokeEntry d).dir.waits ++ (s.revokeEntry d).dir.builds = s.dir.waits ++ s.dir.builds := by rw [only]
  have loads : (s.revokeEntry d).dir.loads = s.dir.loads := by rw [only]
  have waiters : (s.revokeEntry d).loadWaiters j = s.loadWaiters j := by rw [State.loadWaiters, only, State.loadWaiters]
  refine ⟨by rw [waits]; exact h.waits, by rw [loads]; exact h.loads, fun loading => ?_⟩
  rw [State.entry_revokeEntry quiet] at loading
  rw [waiters]
  split at loading
  · cases loading
  · exact h.waiters loading

end

theorem State.foldl_revokeEntry {l : List Nat} {s : State} (quiet : ∀ d ∈ l, s.Quiet d) :
    s.EntriesOnly (l.foldl State.revokeEntry s) ∧ ∀ j, (l.foldl State.revokeEntry s).entry j =
      if j ∈ l then { s.entry j with st := .revoked, wait := false } else s.entry j := by
  induction l generalizing s with
  | nil => exact ⟨rfl, fun _ => rfl⟩
  | cons d l ih =>
    have first := quiet d List.mem_cons_self
    obtain ⟨only, entry⟩ := ih fun j mem => (first.revokeEntry (quiet j (List.mem_cons_of_mem _ mem)))
    refine ⟨(State.entriesOnly_revokeEntry first).trans only, fun j => ?_⟩
    rw [List.foldl_cons, entry, State.entry_revokeEntry first]
    by_cases here : j = d
    · subst here
      simp
    · simp [here]

/-- The entries that REVOKE_TENANT revokes. -/
def State.tenantHit (s : State) (p tenant j : Nat) : Prop :=
  ∃ x ∈ s.dir.entries, x.1 = j ∧ x.2.st.revocable = true ∧ x.2.tenant.toNat = tenant ∧ s.inRange p j = true

theorem exec_revokeTenant_of_started {s t : State} {c : DirCmd} (op : dcOp c = 9) (block : dirBlockOk c.block = true)
    (started : s.started c = some t)
    (quiet : ∀ j, t.tenantHit (s.carried c).part (dcTenant c) j → t.Quiet j) :
    ∃ u : State, exec (.revokeTenant c) s = .next (u.endCmd (s.carried c) St.ok) ∧
      (∀ j, t.tenantHit (s.carried c).part (dcTenant c) j → u.entry j = { t.entry j with st := .revoked, wait := false }) ∧
      (∀ j, ¬ t.tenantHit (s.carried c).part (dcTenant c) j → u.entry j = t.entry j) ∧ t.EntriesOnly u := by
  let hits := (t.dir.entries.filter fun e =>
    t.inRange (s.carried c).part e.1 && e.2.st.revocable && e.2.tenant.toNat == dcTenant c).map (·.1)
  have mem (j : Nat) : j ∈ hits ↔ t.tenantHit (s.carried c).part (dcTenant c) j := by
    simp only [hits, State.tenantHit, List.mem_map, List.mem_filter, Bool.and_eq_true, beq_iff_eq]
    constructor
    · rintro ⟨x, ⟨mem, ⟨range, state⟩, tenant⟩, rfl⟩
      exact ⟨x, mem, rfl, state, tenant, range⟩
    · rintro ⟨x, mem, rfl, state, tenant, range⟩
      exact ⟨x, ⟨mem, ⟨range, state⟩, tenant⟩, rfl⟩
  obtain ⟨only, entry⟩ := State.foldl_revokeEntry fun j hit => quiet j ((mem j).1 hit)
  refine ⟨hits.foldl State.revokeEntry t, ?_, fun j hit => (entry j).trans (if_pos ((mem j).2 hit)),
    fun j miss => (entry j).trans (if_neg fun hit => miss ((mem j).1 hit)), only⟩
  have row := exec_of_mem_dirRows (c := c) (i := (9, .revokeTenant c)) (by simp [dirRows]) s
  rw [← op] at row
  refine row.trans ?_
  rw [dirRow_of_started started, State.dirRun]
  simp [block, op, State.dirRevokeTenant, hits]

/-! ### Cache lines (R159, R321) -/

/-- A walk that fails meets its event in the entry itself, and logs it. -/
theorem State.noteWalk_of_fails {s : State} {d : Nat} (fails : s.walkFails d = true) :
    s.noteWalk d = { s with ecc := (s.noteWalk d).ecc, out := (s.noteWalk d).out } ∧
      (s.noteWalk d).ecc.losses.length = s.ecc.losses.length + 1 := by
  refine ⟨s.noteReads_kept _, ?_⟩
  have met : ∃ a, s.firstBadByte [(s.dirBase + 32 * d, 32)] = some a := by
    rw [State.walkFails, Bool.and_eq_true, State.hbmBad, List.any_eq_true] at fails
    obtain ⟨-, g, bad, inside⟩ := fails
    have mem : g ∈ s.ecc.bad.filter fun g =>
        decide (512 * g < s.dirBase + 32 * d + 32) && decide (s.dirBase + 32 * d < 512 * g + 512) :=
      List.mem_filter.2 ⟨bad, inside⟩
    obtain ⟨x, xs, cons⟩ := List.exists_cons_of_ne_nil (List.ne_nil_of_mem mem)
    rw [State.firstBadByte, List.findSome?_cons]
    dsimp only
    rw [cons]
    exact ⟨_, rfl⟩
  obtain ⟨a, met⟩ := met
  rw [State.noteWalk, State.noteReads, met]
  show (s.ecc.losses ++ [(s.tsc, (s.stackOf a).1)]).length = _
  rw [List.length_append]
  rfl

/-- A free line is one that the index may use. -/
theorem freeLine_range {l : List Line} {lo n num : Nat} (free : freeLine l lo n = some num) : lo ≤ num ∧ num < lo + n := by
  unfold freeLine at free
  dsimp only at free
  split at free
  · cases free
  · obtain ⟨i, mem, found⟩ := List.exists_of_findSome?_eq_some free
    have few := List.mem_range.1 mem
    split at found
    · cases found
    · cases found
      omega

theorem mem_foldl_oldest (xs : List Line) (x : Line) :
    xs.foldl (fun a b => if b.used < a.used then b else a) x ∈ x :: xs := by
  induction xs generalizing x with
  | nil => exact List.mem_cons_self
  | cons y ys ih =>
    rw [List.foldl_cons]
    have later := ih (if y.used < x.used then y else x)
    grind

/-- A victim holds an entry that is neither referenced nor PINNED, in a line of the index. -/
theorem State.victim_spec {s : State} {lo n : Nat} {v : Line} (h : s.victim lo n = some v) :
    v ∈ s.dir.lines ∧ lo ≤ v.num ∧ v.num < lo + n ∧ (s.entry v.didx).refcnt = 0 ∧ (s.entry v.didx).st ≠ .pinned := by
  unfold State.victim at h
  dsimp only at h
  split at h
  · cases h
  · next x xs found =>
    cases h
    have mem := mem_foldl_oldest xs x
    rw [← found, List.mem_filter] at mem
    obtain ⟨line, usable⟩ := mem
    simp only [Bool.and_eq_true, decide_eq_true_eq, beq_iff_eq, bne_iff_ne] at usable
    obtain ⟨⟨⟨low, high⟩, refs⟩, pinned⟩ := usable
    exact ⟨line, low, high, refs, pinned⟩

/-- The line that an entry gets, and whom it may have been taken from. -/
theorem State.takeLine_lines {s t : State} {i : Nat} (line : s.takeLine i = some t)
    (new : s.dir.lines.find? (fun l => l.didx = i) = none) :
    (∃ n, t.dir.lines.head? = some ⟨n, i, s.dir.clock⟩ ∧ (s.linesFor i).1 ≤ n ∧ n < (s.linesFor i).1 + (s.linesFor i).2) ∧
      ∀ l ∈ s.dir.lines, l ∉ t.dir.lines →
        ∃ v ∈ s.dir.lines, v.num = l.num ∧ (s.entry v.didx).refcnt = 0 ∧ (s.entry v.didx).st ≠ .pinned := by
  unfold State.takeLine at line
  dsimp only at line
  rw [new] at line
  dsimp only at line
  split at line
  · next num free =>
    cases line
    obtain ⟨low, high⟩ := freeLine_range free
    exact ⟨⟨num, rfl, low, high⟩, fun l mem gone => absurd (List.mem_cons_of_mem _ mem) gone⟩
  · split at line
    · cases line
    · next v found =>
      cases line
      obtain ⟨mem, low, high, refs, pinned⟩ := State.victim_spec found
      refine ⟨⟨v.num, rfl, low, high⟩, fun l here gone => ⟨v, mem, ?_, refs, pinned⟩⟩
      by_contra other
      refine gone (List.mem_cons_of_mem _ (List.mem_filter.2 ⟨here, ?_⟩))
      simpa using Ne.symm other

/-- A wait for a line is off the list. -/
def State.waitGone (s : State) (w : LineWait) : State :=
  { s with dir := { s.dir with lineWaits := s.dir.lineWaits.erase w } }

theorem State.EntryBecomes.of_waitGone {s u : State} {w : LineWait} {c : DirCmd} {d : Nat} {e : DirEntry}
    (h : (s.waitGone w).EntryBecomes u c d e) : s.EntryBecomes u c d e := by
  obtain ⟨entry, others, works, rest⟩ := h
  exact ⟨entry, others, works, congrArg (fun x : State => { x with dir := s.dir }) rest⟩

/-- What a wait for a line comes to: a walk that fails, an entry in a line, or no line yet. -/
def State.lineStep (s : State) (d : Nat) (unread : State) (go : State → State) : Out :=
  if s.walkFails d then .next unread
  else match s.takeLine d with
    | some t => .next (go t)
    | none => .next s

section
variable {s : State} {d : Nat} {unread : State} {go : State → State}

theorem State.lineStep_fails (fails : s.walkFails d = true) : s.lineStep d unread go = .next unread := if_pos fails

theorem State.lineStep_some (walks : s.walkFails d = false) {t : State} (line : s.takeLine d = some t) :
    s.lineStep d unread go = .next (go t) := by
  rw [State.lineStep, walks, line]
  rfl

theorem State.lineStep_none (walks : s.walkFails d = false) (line : s.takeLine d = none) :
    s.lineStep d unread go = .next s := by
  rw [State.lineStep, walks, line]
  rfl

end

/-- The entry that a wait for a line is after. -/
def State.waitDidx (s : State) : LineWait → Nat
  | .ref i => daDidx (s.wk i).da
  | .cmd c => dcDidx c
  | .fill k i => (((s.lcore (k / 8) (k % 8)).slotA i).held.map fdDidx).getD 0

section
variable {s : State} {part : Fin 4} {w : LineWait} (first : s.dir.lineWaits.find? (fun x => s.lineWaitPart x = part.val) = some w)
include first

theorem exec_cacheLineAvailable_ref {i : Nat} (ref : w = .ref i) : exec (.cacheLineAvailable part) s =
    s.lineStep (s.waitDidx w) (((s.waitGone w).noteWalk (s.waitDidx w)).workFail i St.memoryUncorrectable)
      fun t => (t.waitGone w).refOutcome i (s.waitDidx w) := by
  subst ref
  show execCacheLineAvailable part s = _
  simp only [execCacheLineAvailable, first, State.waitGone]
  rfl

theorem exec_cacheLineAvailable_cmd {c : DirCmd} (cmd : w = .cmd c) : exec (.cacheLineAvailable part) s =
    s.lineStep (s.waitDidx w) (((s.waitGone w).noteWalk (s.waitDidx w)).endCmd c St.memoryUncorrectable)
      fun t => (t.waitGone w).dirOn c (s.waitDidx w) := by
  subst cmd
  show execCacheLineAvailable part s = _
  simp only [execCacheLineAvailable, first, State.waitGone]
  rfl

theorem exec_cacheLineAvailable_idle {k i : Nat} (fill : w = .fill k i) (none : ((s.lcore (k / 8) (k % 8)).slotA i).held = none) :
    exec (.cacheLineAvailable part) s = .next (s.waitGone w) := by
  subst fill
  show execCacheLineAvailable part s = _
  simp only [execCacheLineAvailable, first, none, State.waitGone]

theorem exec_cacheLineAvailable_fill {k i : Nat} {d : BitVec 256} (fill : w = .fill k i)
    (held : ((s.lcore (k / 8) (k % 8)).slotA i).held = some d) : exec (.cacheLineAvailable part) s =
    s.lineStep (s.waitDidx w) ((s.waitGone w).fillUnread (k / 8) (k % 8) i d)
      fun t => (t.waitGone w).fillBegin (k / 8) (k % 8) i d := by
  subst fill
  show execCacheLineAvailable part s = _
  rw [State.waitDidx, held]
  simp only [execCacheLineAvailable, first, held, State.waitGone]
  rfl

/-- What waits stays where its entry can have no line yet. -/
theorem exec_cacheLineAvailable_none (held : ∀ k i, w = .fill k i → ((s.lcore (k / 8) (k % 8)).slotA i).held ≠ none)
    (walks : s.walkFails (s.waitDidx w) = false) (line : s.takeLine (s.waitDidx w) = none) :
    exec (.cacheLineAvailable part) s = .next s := by
  cases kind : w with
  | ref i => exact (exec_cacheLineAvailable_ref first kind).trans (State.lineStep_none walks line)
  | cmd c => exact (exec_cacheLineAvailable_cmd first kind).trans (State.lineStep_none walks line)
  | fill k i =>
    obtain ⟨d, some⟩ := Option.ne_none_iff_exists'.1 (held k i kind)
    exact (exec_cacheLineAvailable_fill first kind some).trans (State.lineStep_none walks line)

end

/-- Who waits for a line is not told by one that is taken. -/
theorem State.lineWaits_takeLine {s t : State} {i : Nat} (line : s.takeLine i = some t) :
    t.dir.lineWaits = s.dir.lineWaits := by
  unfold State.takeLine at line
  dsimp only at line
  split at line
  · cases line
    rfl
  · split at line
    · cases line
      rfl
    · split at line
      · cases line
      · cases line
        rfl

@[simp] theorem State.wk_noteKey (s : State) (i d j : Nat) : (s.noteKey i d).wk j = s.wk j := rfl

/-- A work has its reference on an entry. -/
def State.withRef (s : State) (i d : Nat) : State :=
  ((s.modEntry d fun e => { e with refcnt := e.refcnt + 1 }).modWork i fun w => { w with ref := some d }).noteKey i d

theorem State.withRef_kept (s : State) (i d : Nat) : s.withRef i d = { s with
    dir := (s.withRef i d).dir
    work := { s.work with slots := (s.withRef i d).work.slots, batches := (s.withRef i d).work.batches } } := rfl

theorem State.lineWaits_withRef (s : State) (i d : Nat) : (s.withRef i d).dir.lineWaits = s.dir.lineWaits := rfl

theorem State.entry_withRef (s : State) (i d j : Nat) : (s.withRef i d).entry j =
    if j = d then { s.entry d with refcnt := (s.entry d).refcnt + 1 } else s.entry j :=
  s.entry_modEntry d j _

theorem State.wk_withRef (s : State) (i d j : Nat) :
    (s.withRef i d).wk j = if j = i then { s.wk i with ref := some d } else s.wk j :=
  (State.wk_noteKey ..).trans (State.wk_modWork ..)

theorem State.refOutcome_of_published {s : State} {i d : Nat} (gen : (s.entry d).gen.toNat = daGen (s.wk i).da)
    (published : (s.entry d).published = true) : s.refOutcome i d = s.withRef i d := by
  rw [State.refOutcome]
  dsimp only
  rw [if_neg (not_not.2 gen), State.withRef]
  revert published
  rw [DirEntry.published]
  cases (s.entry d).st <;> simp +contextual

/-- What waited for a line ends where the walker cannot read its entry. -/
theorem State.exists_unread {s : State} {d : Nat} (fails : s.walkFails d = true) (w : LineWait) :
    { (s.waitGone w).noteWalk d with ecc := s.ecc, out := s.out } = s.waitGone w ∧
      ((s.waitGone w).noteWalk d).ecc.losses.length = s.ecc.losses.length + 1 := by
  obtain ⟨kept, more⟩ := State.noteWalk_of_fails (s := s.waitGone w) fails
  refine ⟨?_, more⟩
  rw [kept]
  rfl

/-- A work that has got its line takes its reference. -/
theorem State.refTaken {s t : State} {d i : Nat} {w : LineWait} (line : s.takeLine d = some t)
    (gen : (t.entry d).gen.toNat = daGen (t.wk i).da) (published : (t.entry d).published = true) :
    let u := (t.waitGone w).refOutcome i d
    u.dir.lineWaits = s.dir.lineWaits.erase w ∧ u.entry d = { t.entry d with refcnt := (t.entry d).refcnt + 1 } ∧
      u.wk i = { t.wk i with ref := some d } ∧ (∀ j, j ≠ d → u.entry j = t.entry j) ∧ (∀ j, j ≠ i → u.wk j = t.wk j) ∧
      { u with dir := t.dir, work := { u.work with slots := s.work.slots, batches := s.work.batches } } = t := by
  have work : t.work = s.work := by rw [State.takeLine_kept line]
  have waits : t.dir.lineWaits = s.dir.lineWaits := State.lineWaits_takeLine line
  rw [State.refOutcome_of_published (s := t.waitGone w) gen published]
  refine ⟨congrArg (·.erase w) waits, (State.entry_withRef ..).trans (if_pos rfl), (State.wk_withRef ..).trans (if_pos rfl),
    fun j other => (State.entry_withRef ..).trans (if_neg other), fun j other => (State.wk_withRef ..).trans (if_neg other), ?_⟩
  rw [State.withRef_kept, ← work]
  rfl

/-- UNPIN that has got its line acts. -/
theorem State.unpinned {t : State} {c : DirCmd} {w : LineWait} (op : dcOp c = 5)
    (pinned : (t.entry (dcDidx c)).st = .pinned) (gen : (t.entry (dcDidx c)).gen.toNat = dcGen c)
    (idle : (t.entry (dcDidx c)).wait = false) (none : (t.entry (dcDidx c)).area = none) : ∃ u : State,
      (t.waitGone w).dirOn c (dcDidx c) = u.endCmd c St.ok ∧ u.dir.lineWaits = t.dir.lineWaits.erase w ∧
      t.EntryBecomes u c (dcDidx c) { t.entry (dcDidx c) with st := .resident } := by
  have on := State.dirOn_of (s := t.waitGone w) (c := c) (d := dcDidx c)
    (fun a area => by cases none.symm.trans area) (.inr gen) (.inr idle) (by rw [op]; exact decide_eq_true pinned)
  obtain ⟨u, ends, becomes, dir⟩ := State.ends_modEntry (t.waitGone w) (c' := c) rfl (dcDidx c) St.ok
    fun e => { e with st := .resident }
  refine ⟨u, ?_, ?_, becomes.of_waitGone⟩
  · rw [on, op]
    exact ends
  · exact congrArg Directory.lineWaits dir

theorem AdptSlot.filling_head (a : AdptSlot) (d : BitVec 256) (res : Except Status Rec) :
    (a.filling d res).st = .filling ∧ (a.filling d res).held = none ∧ (a.filling d res).desc = d := by
  unfold AdptSlot.filling
  cases fdGth d <;> cases res <;> exact ⟨rfl, rfl, rfl⟩

theorem State.dir_fillBegin (s : State) (sh c k : Nat) (d : BitVec 256) : (s.fillBegin sh c k d).dir = s.dir := by
  rw [s.fillBegin_eq, State.onCore, s.fillNoted_kept]
  split <;> rfl

theorem State.cores_fillNoted (s : State) (sh : Nat) (d : BitVec 256) : (s.fillNoted sh d).cores = s.cores := by
  rw [s.fillNoted_kept]

/-- A fill that has got its line starts. -/
theorem State.filledOn {s t : State} {k i q : Nat} {d : BitVec 256} {w : LineWait} (phys : s.phys (k / 8) (k % 8) = some q)
    (line : s.takeLine (fdDidx d) = some t) :
    let u := (t.waitGone w).fillBegin (k / 8) (k % 8) i d
    u.dir.lineWaits = s.dir.lineWaits.erase w ∧ ((u.core q).slotA i).st = .filling ∧ ((u.core q).slotA i).held = none ∧
      ((u.core q).slotA i).desc = d ∧ ∀ j, j ≠ q → u.core j = s.core j := by
  have kept := State.takeLine_kept line
  have cores : t.cores = s.cores := by rw [kept]
  have there : t.phys (k / 8) (k % 8) = some q := by rw [kept]; exact phys
  intro u
  have slot := State.slotBecomes_fillBegin (s := s) (x := t.waitGone w) cores there i d
  obtain ⟨st, held, desc⟩ := ((s.core q).slotA i).filling_head d ((t.waitGone w).fillResult (k / 8) d)
  refine ⟨?_, by rw [slot.slot, st], by rw [slot.slot, held], by rw [slot.slot, desc], fun j other => ?_⟩
  · show ((t.waitGone w).fillBegin _ _ i d).dir.lineWaits = _
    rw [State.dir_fillBegin, ← State.lineWaits_takeLine line]
    rfl
  · rw [slot.only.1 j other, State.core, State.cores_fillNoted]
    exact congrArg (tabGet {} · j) cores

/-- Settles O29. -/
theorem loadsRevocationsAndCacheLines : Obligations.LoadsRevocationsAndCacheLines := by
  refine ⟨fun s d fetched cmd loading idle one => ?_, fun s c s1 op block started => ?_,
    fun s part w first => ?_, fun s t i line new => State.takeLine_lines line new⟩
  · intro e p answers unloads
    have answered {u : State} {st : Status}
        (step : exec (.loadComplete d fetched) s = .next (u.loadAnswered cmd d st)) : answers u st := by
      cases cmd <;> exact step
    refine ⟨fun copy o img q cl fl built mayCopy mayImage => ?_, fun st failed => ?_⟩
    · obtain ⟨u, step, rest⟩ := exec_loadComplete_of_built loading idle one built mayCopy mayImage
      exact ⟨u, answered step, rest⟩
    · obtain ⟨u, step, rest⟩ := exec_loadComplete_of_failed loading idle one failed
      exact ⟨u, answered step, rest⟩
  · intro p hit waits loads waiters
    have quiet (j : Nat) (mine : s1.tenantHit p (dcTenant c) j) : s1.Quiet j :=
      ⟨fun w mem here => waits w mem (by rw [here]; exact mine), fun l mem here => loads l mem (by rw [here]; exact mine),
        waiters j mine⟩
    obtain ⟨u, step, hits, others, only⟩ := exec_revokeTenant_of_started op block started quiet
    refine ⟨u, step, hits, others, ?_⟩
    rw [only]
  · intro held d rest run gone
    have index : d = s.waitDidx w := by cases w <;> rfl
    clear_value d
    subst index
    refine ⟨fun k i fill none => exec_cacheLineAvailable_idle first fill none,
      fun busy walks line => exec_cacheLineAvailable_none first busy walks line, fun fails => ?_,
      fun t walks line => ⟨fun i ref gen published => ?_, fun c cmd op pinned gen idle none => ?_,
        fun k i q f fill phys held => ?_⟩⟩
    · obtain ⟨same, more⟩ := State.exists_unread fails w
      exact ⟨_, same, more, fun i ref => (exec_cacheLineAvailable_ref first ref).trans (State.lineStep_fails fails),
        fun c cmd => (exec_cacheLineAvailable_cmd first cmd).trans (State.lineStep_fails fails)⟩
    · exact ⟨_, (exec_cacheLineAvailable_ref first ref).trans (State.lineStep_some walks line),
        State.refTaken line gen published⟩
    · have step := (exec_cacheLineAvailable_cmd first cmd).trans (State.lineStep_some walks line)
      subst cmd
      obtain ⟨u, ends, waits, becomes⟩ := State.unpinned (w := .cmd c) op pinned gen idle none
      refine ⟨u, step.trans (congrArg _ ends), ?_, becomes⟩
      rw [waits, State.lineWaits_takeLine line]
    · have read : ((s.lcore (k / 8) (k % 8)).slotA i).held = some f := by rw [State.lcore_some phys, held]
      have step := (exec_cacheLineAvailable_fill first fill read).trans (State.lineStep_some walks line)
      have index : s.waitDidx w = fdDidx f := by rw [fill, State.waitDidx, read]; rfl
      rw [index] at line
      exact ⟨_, step, State.filledOn phys line⟩

end Sys2Proof.Machine
end

section
/-!
PROOF. TRAIN_BEGIN and TRAIN_END (R162, R183, R184, R228).
-/

namespace Sys2Proof.Machine

/-! ### TRAIN_BEGIN locks the base (R183) -/

/-- The listed entries of the region table are under BASE_RO. -/
def State.locked (s : State) (l : List Nat) : State :=
  { s with regions := l.foldl (fun t i => tabMod {} t i fun r => { r with baseRo := true }) s.regions }

theorem tabGet_foldl_baseRo (l : List Nat) (t : Tab Region) (i : Nat) :
    tabGet {} (l.foldl (fun t i => tabMod {} t i fun r => { r with baseRo := true }) t) i =
      if i ∈ l then { tabGet {} t i with baseRo := true } else tabGet {} t i := by
  induction l generalizing t with
  | nil => rfl
  | cons j l ih =>
    rw [List.foldl_cons, ih, tabGet_mod]
    by_cases here : i = j
    · subst here
      simp
    · simp [here]

/-- Every listed region of the partition can be locked. -/
def State.lockable (s : State) (p : Nat) : Prop :=
  s.baseList p ≠ [] ∧ ∀ i ∈ s.baseList p, 16 ≤ i ∧ (tabGet {} s.regions i).v = true ∧ (tabGet {} s.regions i).owner = p

section
variable (s : State) (c : DirCmd) (d : Nat)

theorem State.dirTrainBegin_of_lockable (h : s.lockable (s.didxPart d)) : s.dirTrainBegin c d =
    ((s.locked (s.baseList (s.didxPart d))).modEntry d fun e => { e with st := .training }).doneCmd c d St.ok := by
  obtain ⟨some, good⟩ := h
  rw [State.dirTrainBegin]
  refine if_neg ?_
  simpa [some] using good

theorem State.dirTrainBegin_of_not_lockable (h : ¬ s.lockable (s.didxPart d)) :
    s.dirTrainBegin c d = s.doneCmd c d St.adapterBaseUnlocked := by
  rw [State.dirTrainBegin]
  refine if_pos ?_
  rw [State.lockable] at h
  by_contra neither
  exact h (by simpa using neither)

theorem State.noteGen_locked (l : List Nat) : (s.locked l).noteGen c d = (s.noteGen c d).locked l := by
  unfold State.noteGen State.locked
  split <;> rfl

theorem State.lockable_noteGen (p : Nat) : (s.noteGen c d).lockable p ↔ s.lockable p := by
  rw [s.noteGen_kept c d]
  rfl

theorem State.baseList_noteGen (p : Nat) : (s.noteGen c d).baseList p = s.baseList p := by
  rw [s.noteGen_kept c d]
  rfl

end

theorem State.EntryBecomes.of_locked {s u : State} {l : List Nat} {c : DirCmd} {d : Nat} {e : DirEntry}
    (h : (s.locked l).EntryBecomes u c d e) : s.EntryBecomes { u with regions := s.regions } c d e ∧
      u.regions = (s.locked l).regions := by
  obtain ⟨entry, others, works, rest⟩ := h
  have same : ({ u with dir := (s.locked l).dir, work := { u.work with slots := (s.locked l).work.slots } } : State) =
    s.locked l := rest
  exact ⟨⟨entry, others, works, congrArg (fun x : State => { x with regions := s.regions }) same⟩,
    (congrArg State.regions same :)⟩

section
variable {s s1 : State} {c : DirCmd} (h : s.Directs c 6 s1)
include h

theorem exec_trainBegin_of_lockable (can : s1.lockable (s1.didxPart (dcDidx c))) : ∃ u : State,
    exec (.trainBegin c) s = .next (u.endCmd (s.carried c) St.ok) ∧
      s1.EntryBecomes { u with regions := s1.regions } c (dcDidx c) { s1.entry (dcDidx c) with st := .training } ∧
      { u.dir with entries := s1.dir.entries } = s1.dir ∧
      u.regions = (s1.locked (s1.baseList (s1.didxPart (dcDidx c)))).regions := by
  obtain ⟨u, ends, becomes, dir⟩ := (s1.locked (s1.baseList (s1.didxPart (dcDidx c)))).ends_modEntry (s.slot_carried c)
    (dcDidx c) St.ok fun e => { e with st := .training }
  obtain ⟨becomes, regions⟩ := becomes.of_locked
  refine ⟨u, exec_of_directs h (by simp [dirRows]) (by simp) ?_, becomes, dir, regions⟩
  rw [← ends, State.noteGen_locked, ← s1.baseList_noteGen (s.carried c) (dcDidx c),
    ← s1.didxPart_noteGen (s.carried c) (dcDidx c) (dcDidx c)]
  refine State.dirTrainBegin_of_lockable _ _ _ ?_
  rw [State.didxPart_noteGen, State.lockable_noteGen]
  exact can

theorem exec_trainBegin_of_not_lockable (cannot : ¬ s1.lockable (s1.didxPart (dcDidx c))) : ∃ u : State,
    exec (.trainBegin c) s = .next (u.endCmd (s.carried c) St.adapterBaseUnlocked) ∧
      s1.EntryBecomes u c (dcDidx c) (s1.entry (dcDidx c)) ∧ { u.dir with entries := s1.dir.entries } = s1.dir := by
  obtain ⟨u, ends, becomes⟩ := s1.ends_refused (s.slot_carried c) (dcDidx c) St.adapterBaseUnlocked
  refine ⟨u, exec_of_directs h (by simp [dirRows]) (by simp) ((State.dirTrainBegin_of_not_lockable _ _ _ ?_).trans ends), becomes⟩
  rw [State.didxPart_noteGen, State.lockable_noteGen]
  exact cannot

end

/-! ### The build of a TRAIN_END (R162, R184, R228) -/

/-- The restart of a record that is COMMITTED, with every shard at one of its epochs, changes nothing and ends OK. -/
theorem State.restartRecord_of_sound {s : State} {p a : Nat} (sound : s.recSound a = true) (notOpen : s.recState a ≠ 1)
    (notPrepared : s.recState a ≠ 2) : s.restartRecord p a = (s, St.ok) := by
  unfold State.restartRecord
  dsimp only
  rw [if_neg (by simp [sound])]
  split
  · next h => exact absurd h notOpen
  · next h => exact absurd h notPrepared
  · rfl

/-- The record of the entry is COMMITTED, or a job on the entry is alive. -/
def State.recordRests (s : State) (d a : Nat) : Prop :=
  s.training d = true ∨ (s.recState a ≠ 1 ∧ s.recState a ≠ 2 ∧ s.recSound a = true)

theorem State.restart_of_rests {s : State} {d a : Nat} (rests : s.recordRests d a) (p : Nat) :
    (if s.training d then (s, St.ok) else s.restartRecord p a) = (s, St.ok) := by
  split
  · rfl
  · next dead =>
    obtain live | ⟨notOpen, notPrepared, sound⟩ := rests
    · exact absurd live dead
    · exact State.restartRecord_of_sound sound notOpen notPrepared

/-- A build has ended without an image: its entry as it was. -/
structure State.BuildDropped (s u : State) (d : Nat) : Prop where
  entry : u.entry d = { s.entry d with wait := false }
  others : ∀ j, j ≠ d → u.entry j = s.entry j
  hbm : u.hbm = s.hbm
  alloc : u.dir.alloc = s.dir.alloc
  builds : ∀ x, x ∈ u.dir.builds ↔ x ∈ s.dir.builds ∧ x.didx ≠ d

/-- What a build that fails has counted and reported leaves the entry as it was. -/
theorem State.buildDropped_of_kept {s t : State} {d : Nat}
    (kept : t = { s.dropBuild d with ecc := t.ecc, out := t.out, stats := t.stats }) (c : DirCmd) :
    s.BuildDropped (t.noteGen c d) d := by
  have dir : (t.noteGen c d).dir = (s.dropBuild d).dir := by rw [State.dir_noteGen, kept]
  have entry (j : Nat) : (t.noteGen c d).entry j = if j = d then { s.entry d with wait := false } else s.entry j := by
    rw [State.entry_of_dir dir]
    exact s.entry_modEntry d j fun e => { e with wait := false }
  refine ⟨(entry d).trans (if_pos rfl), fun j other => (entry j).trans (if_neg other), ?_, ?_, fun x => ?_⟩
  · rw [State.hbm_noteGen, kept]
    rfl
  · rw [dir]
    rfl
  · rw [dir]
    show x ∈ s.dir.builds.filter (fun x => x.didx ≠ d) ↔ _
    simp

theorem State.foldl_postStat_kept {α : Type} (part tag : Nat) (f : α → Nat) (g : α → StatUpdate) (l : List α) (s : State) :
    l.foldl (fun s x => s.postStat false part tag (f x) (g x)) s =
      { s with stats := (l.foldl (fun s x => s.postStat false part tag (f x) (g x)) s).stats } := by
  induction l generalizing s with
  | nil => rfl
  | cons x l ih => exact ih (s.postStat false part tag (f x) (g x))

theorem State.noteFail_kept (s : State) (st : Status) (l : List (Nat × Nat)) :
    s.noteFail st l = { s with ecc := (s.noteFail st l).ecc, out := (s.noteFail st l).out } := by
  unfold State.noteFail
  split
  · exact s.noteReads_kept l
  · rw [s.noteCorrected_kept]

theorem State.CopyAndImage.of_hbm {s r u : State} {o q : Nat} {copy img : List Byte} (h : s.CopyAndImage u o copy q img)
    (hbm : r.hbm = s.hbm) : r.CopyAndImage u o copy q img := by
  rw [State.CopyAndImage, hbm]
  exact h

/-- The entry that the build of a TRAIN_END leaves. -/
def State.builtEntry (s : State) (p o q ep : Nat) (copy : List Byte) (e : DirEntry) : DirEntry := { e with
  st := .resident, pub := true, epoch := BitVec.ofNat 32 ep, loc := q / 4096
  digest := BitVec.ofNat 256 (leNat (sha256 copy)), src := s.hbmAddr p o, len := BitVec.ofNat 64 copy.length }

/-- The serving copy and the image of a build are the entry's: all that it held is free. -/
def State.builtOn (s : State) (p d o q ep : Nat) (copy img : List Byte) : State :=
  let s := s.freeAlloc fun x => x.2.2 ≠ d
  let s := { s with dir := { s.dir with alloc := s.dir.alloc ++ [(o, copy.length, d), (q, img.length, d)] } }
  s.modEntry d (s.builtEntry p o q ep copy)

section
variable {s x : State} {c : DirCmd} {d : Nat} (dropped : s.dropBuild d = x)
include dropped

theorem State.finishBuild_of_no_area (none : (x.entry d).area = none) :
    s.finishBuild c d = x.doneCmd c d St.shardHeaderInvalid := by
  rw [State.finishBuild, dropped]
  dsimp only
  rw [none]

variable {a : Nat} (area : (x.entry d).area = some a) (rests : x.recordRests d a)
include area rests

theorem State.finishBuild_of_serve_error {st : Status}
    (failed : x.serveAll (s.didxPart d) (x.entry d) (x.committedEpoch a) (x.shardTable a) = .error st) :
    s.finishBuild c d = (x.noteFail st (x.serveReads (s.didxPart d) (x.committedEpoch a) (x.shardTable a))).doneCmd c d st := by
  rw [State.finishBuild, dropped]
  dsimp only
  rw [area]
  dsimp only
  rw [State.restart_of_rests rests]
  dsimp only
  rw [if_neg (by decide), failed]

variable {parts : List (List Byte × Nat × EmitOut)}
  (served : x.serveAll (s.didxPart d) (x.entry d) (x.committedEpoch a) (x.shardTable a) = .ok parts) {y : State}
  (posted : parts.foldl (fun t o => t.postStat false (s.didxPart d) 0xFFF (codeSkim o.2.1) o.2.2.stat) x = y)
include served posted

theorem State.finishBuild_of_build_error {st : Status}
    (failed : y.trainEndBuild (s.didxPart d) d (parts.flatMap (·.1)) = .error st) :
    s.finishBuild c d = (y.noteFail st (y.baseReads (s.didxPart d) (y.entry d).pairs)).doneCmd c d st := by
  rw [State.finishBuild, dropped]
  dsimp only
  rw [area]
  dsimp only
  rw [State.restart_of_rests rests]
  dsimp only
  rw [if_neg (by decide), served]
  dsimp only
  rw [posted, failed]

theorem State.finishBuild_of_built {o q cl fl : Nat} {img : List Byte}
    (built : y.trainEndBuild (s.didxPart d) d (parts.flatMap (·.1)) = .ok (o, q, img, cl, fl))
    (mayCopy : y.FirmwareMay (s.didxPart d) o (parts.flatMap (·.1)).length) (mayImage : y.FirmwareMay (s.didxPart d) q img.length) :
    ∃ t, s.finishBuild c d =
        (t.builtOn (s.didxPart d) d o q (x.committedEpoch a) (parts.flatMap (·.1)) img).doneCmd c d St.ok ∧
      y.CopyAndImage t o (parts.flatMap (·.1)) q img ∧ t = { y with hbm := t.hbm, ecc := t.ecc, stats := t.stats } := by
  obtain ⟨z, noted⟩ : ∃ z, y.noteCorrected
    (y.serveReads (s.didxPart d) (x.committedEpoch a) (y.shardTable a) ++ y.baseReads (s.didxPart d) (y.entry d).pairs) = z :=
    ⟨_, rfl⟩
  have kept : z = { y with ecc := z.ecc } := by
    rw [← noted, y.noteCorrected_kept]
  have may {n a : Nat} (h : y.FirmwareMay (s.didxPart d) a n) : z.FirmwareMay (s.didxPart d) a n := by
    rw [← noted]
    exact h.noteCorrected _
  obtain ⟨t, wroteCopy, first⟩ :=
    (State.FirmwareMay.countSkim (q := s.didxPart d) (may mayCopy) (z.entry d).bcode cl fl).stores
  obtain ⟨u, wroteImage, second⟩ := (first.firmwareMay (State.FirmwareMay.countSkim (may mayImage) ..)).stores
  refine ⟨u, ?_, ?_, ?_⟩
  · rw [State.finishBuild, dropped]
    dsimp only
    rw [area]
    dsimp only
    rw [State.restart_of_rests rests]
    dsimp only
    rw [if_neg (by decide), served]
    dsimp only
    rw [posted, built]
    dsimp only
    rw [noted, wroteCopy]
    dsimp only
    rw [if_neg (by decide), wroteImage]
    rfl
  · have hbm : y.hbm = z.hbm := by rw [kept]
    have stores := State.copyAndImage_of_stores (x := t) first rfl second
    exact stores.of_hbm (by rw [hbm, State.countSkim])
  · rw [second.rest, first.rest, State.countSkim, kept]

end

theorem State.builtOn_kept (s : State) (p d o q ep : Nat) (copy img : List Byte) :
    s.builtOn p d o q ep copy img = { s with dir := (s.builtOn p d o q ep copy img).dir } := rfl

theorem State.entry_builtOn (s : State) (p d o q ep : Nat) (copy img : List Byte) (j : Nat) :
    (s.builtOn p d o q ep copy img).entry j = if j = d then s.builtEntry p o q ep copy (s.entry d) else s.entry j :=
  State.entry_modEntry ..

theorem State.alloc_builtOn (s : State) (p d o q ep : Nat) (copy img : List Byte) : (s.builtOn p d o q ep copy img).dir.alloc =
    s.dir.alloc.filter (fun x => x.2.2 ≠ d) ++ [(o, copy.length, d), (q, img.length, d)] := rfl

theorem State.builds_builtOn (s : State) (p d o q ep : Nat) (copy img : List Byte) :
    (s.builtOn p d o q ep copy img).dir.builds = s.dir.builds := rfl

theorem State.entry_dropBuild (s : State) (d j : Nat) :
    (s.dropBuild d).entry j = if j = d then { s.entry d with wait := false } else s.entry j :=
  s.entry_modEntry d j fun e => { e with wait := false }

theorem State.value_noteGen (s : State) (c : DirCmd) (d i : Nat) :
    { (s.noteGen c d).wk i with value := (s.wk i).value } = s.wk i := by
  rw [State.wk_noteGen]
  split <;> rfl

/-- A build whose copy and image have been written. -/
theorem State.built_of_written {s t : State} {d p o q ep : Nat} {copy img : List Byte} (c : DirCmd)
    (written : s.CopyAndImage t o copy q img)
    (kept : t = { s.dropBuild d with hbm := t.hbm, ecc := t.ecc, stats := t.stats }) :
    let u := (t.builtOn p d o q ep copy img).noteGen c d
    u.entry d = s.builtEntry p o q ep copy { s.entry d with wait := false } ∧ (∀ j, j ≠ d → u.entry j = s.entry j) ∧
      s.CopyAndImage u o copy q img ∧ (∀ x, x ∈ u.dir.builds ↔ x ∈ s.dir.builds ∧ x.didx ≠ d) ∧
      (∀ x, x ∈ u.dir.alloc ↔ (x ∈ s.dir.alloc ∧ x.2.2 ≠ d) ∨ x = (o, copy.length, d) ∨ x = (q, img.length, d)) ∧
      (∀ i, { u.wk i with value := (s.wk i).value } = s.wk i) ∧
      { u with dir := s.dir, hbm := s.hbm, ecc := s.ecc, stats := s.stats, work := { u.work with slots := s.work.slots } } = s := by
  intro u
  have dir : u.dir = (t.builtOn p d o q ep copy img).dir := State.dir_noteGen ..
  have before : t.dir = (s.dropBuild d).dir := by rw [kept]
  have work : t.work = s.work := by rw [kept]; rfl
  have entry (j : Nat) : u.entry j = _ := (State.entry_of_dir dir j).trans (t.entry_builtOn p d o q ep copy img j)
  have old (j : Nat) := (State.entry_of_dir before j).trans (s.entry_dropBuild d j)
  refine ⟨?_, fun j other => ?_, ?_, fun x => ?_, fun x => ?_, fun i => ?_, ?_⟩
  · rw [entry, if_pos rfl, old, if_pos rfl, kept]
    rfl
  · rw [entry, if_neg other, old, if_neg other]
  · have hbm : u.hbm = t.hbm := State.hbm_noteGen ..
    rw [State.CopyAndImage, hbm]
    exact written
  · rw [dir, State.builds_builtOn, before]
    show x ∈ s.dir.builds.filter (fun x => x.didx ≠ d) ↔ _
    simp
  · rw [dir, State.alloc_builtOn, before]
    show x ∈ s.dir.alloc.filter (fun x => x.2.2 ≠ d) ++ _ ↔ _
    simp
  · have same : (t.builtOn p d o q ep copy img).wk i = s.wk i := State.wk_of_work work i
    have gen := (t.builtOn p d o q ep copy img).value_noteGen c d i
    rw [same] at gen
    exact gen
  · show ({ (t.builtOn p d o q ep copy img).noteGen c d with
      dir := s.dir, hbm := s.hbm, ecc := s.ecc, stats := s.stats
      work := { ((t.builtOn p d o q ep copy img).noteGen c d).work with slots := s.work.slots } } : State) = s
    rw [State.noteGen_kept, State.builtOn_kept, kept]
    rfl

/-- Settles O28. -/
theorem directoryTraining : Obligations.DirectoryTraining := by
  refine ⟨fun s c s1 h => ?_, fun s d b fetched build => ?_⟩
  · intro d c' e p base lockable
    refine ⟨fun can => ?_, fun cannot => exec_trainBegin_of_not_lockable h cannot⟩
    obtain ⟨u, step, becomes, dir, regions⟩ := exec_trainBegin_of_lockable h can
    refine ⟨u, step, becomes, dir, fun i => ?_⟩
    rw [regions]
    exact tabGet_foldl_baseRo base s1.regions i
  · intro c e p s1 fails
    have step : exec (.loadComplete d fetched) s = .next (s.finishBuild c d) := by
      show execLoadComplete d fetched s = _
      rw [execLoadComplete, build]
    have entry : s1.entry d = e := (s.entry_dropBuild d d).trans (if_pos rfl)
    have failed {t : State} {st : Status} (ends : s.finishBuild c d = t.doneCmd c d st)
        (kept : t = { s1 with ecc := t.ecc, out := t.out, stats := t.stats }) : fails st := by
      obtain ⟨entry, others, hbm, alloc, builds⟩ := State.buildDropped_of_kept kept c
      exact ⟨_, step.trans (congrArg _ ends), entry, others, hbm, alloc, builds⟩
    refine ⟨fun none => failed (State.finishBuild_of_no_area rfl (by rw [← entry] at none; exact none)) rfl,
      fun a area rests => ?_⟩
    rw [← entry] at area
    intro ep
    refine ⟨fun st err => ?_, fun parts served => ?_⟩
    · rw [← entry] at err
      refine failed (State.finishBuild_of_serve_error rfl area rests err) ?_
      rw [State.noteFail_kept]
    · rw [← entry] at served
      intro s2 copy
      have posted : parts.foldl (fun t x => t.postStat false p 0xFFF (codeSkim x.2.1) x.2.2.stat) s1 = s2 := rfl
      clear_value s2
      have kept : s2 = { s1 with stats := s2.stats } := by
        rw [← posted]
        exact State.foldl_postStat_kept p 0xFFF _ _ parts s1
      have flat : s2 = { s with dir := s1.dir, stats := s2.stats } := by
        rw [kept, show s1 = _ from s.dirOnly_dropBuild d]
      have may {a n : Nat} (h : s.FirmwareMay p a n) : s2.FirmwareMay p a n := by
        rw [flat]
        exact h
      refine ⟨fun st err => failed (State.finishBuild_of_build_error rfl area rests served posted err) ?_,
        fun o q img cl fl built mayCopy mayImage => ?_⟩
      · rw [State.noteFail_kept, kept]
      · obtain ⟨t, ends, written, same⟩ :=
          State.finishBuild_of_built (c := c) rfl area rests served posted built (may mayCopy) (may mayImage)
        have hbm : s.hbm = s2.hbm := by rw [flat]
        obtain ⟨final, others, image, builds, alloc, works, frame⟩ :=
          State.built_of_written (p := p) (ep := ep) c (written.of_hbm hbm) (by rw [same, kept])
        refine ⟨_, step.trans (congrArg _ ends), final.trans ?_, others, image, builds, alloc, works, frame⟩
        rfl

end Sys2Proof.Machine
end

section
/-!
PROOF. SERVE work runs (R175, R238, R239, R243, R256): the sorter, a start, a unit and its outputs, a failure.
-/

namespace Sys2Proof.Machine

/-! ### The batch sorter (R175) -/

/-- Buckets below `n` hold, together, the elements whose key is below `n`. -/
theorem perm_buckets {α : Type} (f : α → Nat) (l : List α) (n : Nat) :
    ((List.range n).flatMap fun b => l.filter fun x => f x == b).Perm (l.filter fun x => decide (f x < n)) := by
  induction n with
  | zero => simp
  | succ n ih =>
    have split := filter_or_perm (fun x => decide (f x < n)) (fun x => f x == n) l fun x low => by
      simp only [decide_eq_true_eq] at low
      simp only [beq_eq_false_iff_ne]
      omega
    have same : (l.filter fun x => decide (f x < n + 1)) = l.filter fun x => decide (f x < n) || f x == n := by
      refine List.filter_congr fun x _ => ?_
      rw [Bool.eq_iff_iff]
      simp only [decide_eq_true_eq, Bool.or_eq_true, beq_iff_eq]
      omega
    rw [List.range_succ, List.flatMap_append, List.flatMap_singleton, same]
    exact (ih.append_right _).trans split.symm

theorem perm_bucketPass (lo : Nat) (l : List (BitVec 32)) : (bucketPass lo l).Perm l := by
  refine (perm_buckets (fun r : BitVec 32 => bits r.toNat (lo + 6) lo) l 128).trans ?_
  rw [List.filter_eq_self.2 fun r _ => ?_]
  rw [decide_eq_true_eq, bits, show lo + 6 + 1 - lo = 7 by omega]
  exact Nat.mod_lt _ (by decide)

/-- A pass is stable: within a bucket the order stays. -/
theorem pairwise_bucketPass {R : BitVec 32 → BitVec 32 → Prop} (lo : Nat) {l : List (BitVec 32)} (order : l.Pairwise R) :
    (bucketPass lo l).Pairwise fun x y => bits x.toNat (lo + 6) lo < bits y.toNat (lo + 6) lo ∨
      bits x.toNat (lo + 6) lo = bits y.toNat (lo + 6) lo ∧ R x y := by
  unfold bucketPass
  rw [List.pairwise_flatMap]
  refine ⟨fun b _ => ?_, (List.pairwise_lt_range).imp fun {a b} less x mx y my => ?_⟩
  · refine ((order.filter _).imp_of_mem fun {x y} mx my rel => ?_)
    have hx := (List.mem_filter.1 mx).2
    have hy := (List.mem_filter.1 my).2
    rw [beq_iff_eq] at hx hy
    exact .inr ⟨hx.trans hy.symm, rel⟩
  · have hx := (List.mem_filter.1 mx).2
    have hy := (List.mem_filter.1 my).2
    rw [beq_iff_eq] at hx hy
    exact .inl (by omega)

theorem perm_sortRecords (l : List (BitVec 32)) : (sortRecords l).Perm l :=
  (perm_bucketPass 19 _).trans (perm_bucketPass 12 l)

/-- Two passes of seven bits put the records in the order of KEY. -/
theorem pairwise_sortRecords (l : List (BitVec 32)) : (sortRecords l).Pairwise fun x y => recKey x ≤ recKey y := by
  have low : (bucketPass 12 l).Pairwise fun x y => bits x.toNat 18 12 ≤ bits y.toNat 18 12 :=
    (pairwise_bucketPass 12 (List.pairwise_of_forall fun _ _ => trivial : l.Pairwise fun _ _ => True)).imp
      fun h => h.elim Nat.le_of_lt fun h => Nat.le_of_eq h.1
  refine (pairwise_bucketPass 19 low).imp fun {x y} h => ?_
  simp only [bits, recKey] at h ⊢
  omega

/-! ### A SERVE work starts (R238, R239) -/

/-- What makes a SERVE work due on a shelf. -/
def State.serveDue (s : State) (i sh : Nat) : Prop :=
  (s.wk i).st = .held ∧ (s.wk i).handed = true ∧ s.refWaits i = false ∧ sh ∈ s.shelvesOf (s.slotPart i) ∧
    s.mayStart (s.slotPart i) = true ∧ s.firstHeld i = true

def Work.servesOn (sh : Nat) (w : Work) : Work := { w with st := .running, shelf := sh }

def Shelf.serves (h : Shelf) : Shelf := { h with serving := true }

/-- A SERVE work runs on a shelf, before its batch is sorted. -/
def State.serveOn (s : State) (i sh : Nat) : State := (s.modWork i (·.servesOn sh)).modShelf sh (·.serves)

section
variable {s : State} {slot : Fin 16384} (kind : (s.wk slot).kind = 1) (sh : Fin 16)
include kind

theorem exec_serveStart_of_not_due (wait : ¬ s.serveDue slot sh) : exec (.serveWork slot (.start sh)) s = .next s := by
  show execServeWork slot (.start sh) s = _
  rw [execServeWork, if_neg (not_not.2 kind), if_neg]
  intro due
  exact wait (by simpa [State.serveDue] using due)

theorem exec_serveStart_of_due (due : s.serveDue slot sh) :
    exec (.serveWork slot (.start sh)) s = .next ((s.serveOn slot sh).sortBatch slot sh) := by
  show execServeWork slot (.start sh) s = _
  rw [execServeWork, if_neg (not_not.2 kind), if_pos]
  · rfl
  · simpa [State.serveDue] using due

end

/-- The sorter has put each batch of the work in order. -/
theorem State.sorted_sortBatch (s : State) (i sh : Nat) {b : Batch} (mem : b ∈ s.work.batches) (mine : i ∈ b.reqs) :
    ∃ b' ∈ (s.sortBatch i sh).work.batches, b'.reqs = b.reqs ∧ b'.order.Perm b.records ∧
      b'.order.Pairwise (fun x y => recKey x ≤ recKey y) ∧ sh ∈ b'.shelves := by
  refine ⟨_, List.mem_map_of_mem mem, ?_⟩
  rw [if_pos (by simpa using mine)]
  refine ⟨rfl, perm_sortRecords b.records, pairwise_sortRecords b.records, ?_⟩
  show sh ∈ if b.shelves.contains sh = true then b.shelves else b.shelves ++ [sh]
  split
  · next there => simpa using there
  · simp

theorem State.sortBatch_kept (s : State) (i sh : Nat) :
    s.sortBatch i sh = { s with work := { s.work with batches := (s.sortBatch i sh).work.batches } } := rfl

theorem State.serveStarts (s : State) (i sh : Nat) :
    let t := (s.serveOn i sh).sortBatch i sh
    t.wk i = { s.wk i with st := .running, shelf := sh } ∧ (∀ j, j ≠ i → t.wk j = s.wk j) ∧
      t.shelf sh = { s.shelf sh with serving := true } ∧ (∀ q, q ≠ sh → t.shelf q = s.shelf q) ∧ s.Wakes t sh ∧
      { t.work with slots := s.work.slots, batches := s.work.batches } = s.work ∧
      { t with work := s.work, shelves := s.shelves, woken := s.woken } = s := by
  obtain ⟨others, kept, wakes⟩ := onlyShelf_modShelf (s.modWork i (·.servesOn sh)) sh (·.serves)
  refine ⟨State.wk_modWork_same s i (·.servesOn sh), fun j other => State.wk_modWork_other s (·.servesOn sh) other,
    State.shelf_modShelf_same (s.modWork i (·.servesOn sh)) sh (·.serves), others, wakes, rfl, ?_⟩
  exact congrArg (fun x : State => { x with work := s.work }) kept

/-! ### Messages and replica orders leave works and operations -/

/-- What an operation asks for, and who asks. -/
def RemOp.asked (o : RemOp) : Issuer × Nat × BitVec 64 × List Byte := (o.who, o.opc, o.remote, o.data)

/-- From `s` to `t` no work has changed, nor the time, nor which operations are listed and what they ask for. -/
structure State.Speaks (s t : State) : Prop where
  work : t.work = s.work
  tsc : t.tsc = s.tsc
  ops : t.ops.map RemOp.asked = s.ops.map RemOp.asked

theorem State.Speaks.refl (s : State) : s.Speaks s := ⟨rfl, rfl, rfl⟩

theorem State.Speaks.trans {s t u : State} (h : s.Speaks t) (g : t.Speaks u) : s.Speaks u :=
  ⟨g.work.trans h.work, g.tsc.trans h.tsc, g.ops.trans h.ops⟩

theorem State.Speaks.foldl {α : Type} {s e : State} {f : State → α → State} {l : List α} (h : s.Speaks e)
    (step : ∀ (u : State) (x : α), u.Speaks (f u x)) : s.Speaks (l.foldl f e) := by
  induction l generalizing e with
  | nil => exact h
  | cons x l ih => exact ih (h.trans (step e x))

theorem State.Speaks.ite {s t u : State} {c : Prop} [Decidable c] (yes : s.Speaks t) (no : s.Speaks u) :
    s.Speaks (if c then t else u) := by
  split
  · exact yes
  · exact no

theorem State.speaks_emit (s : State) (e : Emit) : s.Speaks (s.emit e) := ⟨rfl, rfl, rfl⟩

theorem State.speaks_modPeer (s : State) (p : Nat) (f : Peer → Peer) : s.Speaks (s.modPeer p f) := ⟨rfl, rfl, rfl⟩

theorem State.speaks_modReplica (s : State) (f : Replica → Replica) : s.Speaks (s.modReplica f) := ⟨rfl, rfl, rfl⟩

theorem State.speaks_modCtx (s : State) (c : Nat) (f : Ctx → Ctx) : s.Speaks (s.modCtx c f) := ⟨rfl, rfl, rfl⟩

theorem State.speaks_fillSlots (s : State) (p fuel : Nat) : s.Speaks (s.fillSlots p fuel) := by
  induction fuel generalizing s with
  | zero => exact .refl s
  | succ fuel ih =>
    unfold State.fillSlots
    dsimp only
    split
    · exact .refl s
    · split
      · exact (s.speaks_modPeer p _).trans ((State.speaks_emit _ _).trans (ih _))
      · exact (s.speaks_modPeer p _).trans ((State.speaks_emit _ _).trans (ih _))

theorem State.speaks_pumpPeer (s : State) (p : Nat) : s.Speaks (s.pumpPeer p) := s.speaks_fillSlots p _

theorem State.speaks_controlOf (s : State) (part : Option Nat) (p msgt : Nat) (args : List Nat) :
    s.Speaks (s.controlOf part p msgt args) :=
  .ite ((s.speaks_emit _).trans ((State.speaks_modPeer _ p _).trans (State.speaks_pumpPeer _ p))) (.refl s)

theorem State.speaks_addDown (s : State) (us k : Nat) : s.Speaks (s.addDown us k) := .ite ⟨rfl, rfl, rfl⟩ (.refl s)

theorem State.speaks_orderMember (s : State) (u : DigestUse) (m k : Nat) : s.Speaks (s.orderMember u m k) :=
  .ite (.refl s) (s.speaks_controlOf ..)

theorem State.speaks_quarantine (s : State) (m k : Nat) : s.Speaks (s.quarantine m k) :=
  .ite (.refl s) ((s.speaks_modReplica _).trans ((State.speaks_orderMember _ _ m k).trans ⟨rfl, rfl, rfl⟩))

theorem State.speaks_quarantines (s : State) (l : List Nat) (k : Nat) : s.Speaks (l.foldl (fun s m => s.quarantine m k) s) :=
  .foldl (.refl s) fun u m => u.speaks_quarantine m k

theorem State.speaks_quarantineEnds (s : State) (m : Nat) : s.Speaks (s.quarantineEnds m) := by
  unfold State.quarantineEnds
  split
  · exact (State.Speaks.ite (s.speaks_addDown _ _) (.refl s)).trans (State.speaks_modReplica _ _)
  · exact .refl s

theorem State.speaks_restoreMember (s : State) (m k : Nat) : s.Speaks (s.restoreMember m k) :=
  (State.Speaks.ite (s.speaks_quarantineEnds m) (.refl s)).trans
    ((State.speaks_modReplica _ _).trans ((State.speaks_orderMember _ _ m k).trans ⟨rfl, rfl, rfl⟩))

theorem State.speaks_refetched (s : State) (m k : Nat) (d : BitVec 256) : s.Speaks (s.refetched m k d) :=
  (s.speaks_quarantines _ k).trans (State.speaks_restoreMember _ m k)

theorem State.speaks_compareShard (s : State) (k : Nat) : s.Speaks (s.compareShard k) :=
  .ite (.refl s) ((s.speaks_modReplica _).trans (.ite (.refl _) (State.speaks_quarantines _ _ k)))

theorem State.speaks_endRound (s : State) (n : Nat) : s.Speaks (s.endRound n) := by
  refine .ite (.refl s) (State.Speaks.trans ?_ (State.speaks_modReplica _ _))
  split
  · exact .ite (.refl s) (s.speaks_emit _)
  · exact .refl s

theorem State.speaks_takeDigest (s : State) (after : Bool) (m k : Nat) (d : BitVec 256) (e : Nat) :
    s.Speaks (s.takeDigest after m k d e) := by
  have put : s.Speaks (s.putDigest m k d e) := s.speaks_modReplica _
  refine .ite (put.trans (.ite (State.speaks_refetched _ m k d) (.refl _))) (.ite (s.speaks_modReplica _) ?_)
  have compared := put.trans ((State.speaks_modReplica _ fun r => { r with
    fresh := r.fresh.filter (· ≠ (m, k)) ++ [(m, k)] }).trans (State.speaks_compareShard _ k))
  dsimp only
  split
  · exact compared.trans (State.speaks_endRound _ _)
  · exact compared

theorem State.speaks_sendDigest (s : State) (after : Bool) (m k : Nat) : s.Speaks (s.sendDigest after m k) := by
  unfold State.sendDigest
  dsimp only
  split
  · exact s.speaks_modReplica _
  · exact (s.speaks_modReplica _).trans (.ite (State.speaks_takeDigest _ after m k _ _) (State.speaks_controlOf _ _ _ _ _))

theorem State.speaks_digestRound (s : State) : s.Speaks s.digestRound :=
  .ite (s.speaks_modReplica _)
    (.foldl (s.speaks_modReplica _) fun u m => .foldl (.refl u) fun v k => v.speaks_sendDigest false m k)

theorem State.speaks_startRound (s : State) (a b : OutDigest) : s.Speaks (s.startRound a b) :=
  (State.Speaks.foldl (s.speaks_modReplica _) fun u d => u.speaks_controlOf none d _ _).trans (State.speaks_digestRound _)

theorem State.speaks_takeOutput (s : State) (x : OutDigest) : s.Speaks (s.takeOutput x) := by
  unfold State.takeOutput
  split
  · exact s.speaks_modReplica _
  · exact (s.speaks_modReplica _).trans (.ite (.refl _) (State.speaks_startRound _ _ _))

theorem State.speaks_compareOutput (s : State) (i : Nat) (gen : BitVec 32) (unit p utag : Nat) (outs : List Byte) :
    s.Speaks (s.compareOutput i gen unit p utag outs) := by
  refine .ite (.refl s) ?_
  dsimp only
  split
  · exact .refl s
  · exact .ite (s.speaks_takeOutput _) (s.speaks_controlOf _ _ _ _)

/-! ### Operations that are issued (R260, R261, R267) -/

theorem State.speaks_send (s : State) (c : Nat) (q : Bool) (p : TxPacket) : s.Speaks (s.send c q p) :=
  .ite (s.speaks_modCtx c _) ((s.speaks_modCtx c _).trans (State.speaks_emit _ _))

theorem State.speaks_sendMessage (s : State) (c : Nat) (typ : BitVec 8) (msn : BitVec 32) (ext : List Byte → List Byte)
    (data : List Byte) : s.Speaks (s.sendMessage c typ msn ext data) :=
  .foldl (.refl s) fun u _ => u.speaks_send c false _

/-- Operations that change, but not in what they ask for. -/
theorem State.speaks_ops (s : State) {f : RemOp → RemOp} (same : ∀ o, (f o).asked = o.asked) :
    s.Speaks { s with ops := s.ops.map f } := by
  refine ⟨rfl, rfl, ?_⟩
  show (s.ops.map f).map RemOp.asked = _
  rw [List.map_map]
  exact List.map_congr_left fun o _ => same o

theorem State.speaks_answerOp (s : State) (id : Nat) (a : Answer) (done : Bool) : s.Speaks (s.answerOp id a done) := by
  obtain ⟨work, tsc, ops⟩ := s.speaks_ops
    (f := fun o => if o.id = id ∧ o.answered.isNone then { o with answered := some a, done := done } else o) fun o => by
      split <;> rfl
  exact ⟨work, tsc, ops⟩

theorem State.speaks_launchHost (s : State) (o : RemOp) : s.Speaks (s.launchHost o) := by
  have fails (st : Status) : s.Speaks (s.answerOp o.id (failure st) true) := s.speaks_answerOp _ _ _
  refine .ite (fails _) (.ite (fails _) (.ite (fails _) (.ite (fails _) ?_)))
  refine State.Speaks.trans ?_ (State.speaks_sendMessage _ _ _ _ _ _)
  have numbered := s.speaks_ops (f := fun q => if q.id = o.id then { q with msn := (s.ctx (hostCtx o.remote)).msn } else q)
    fun q => by split <;> rfl
  exact ⟨rfl, rfl, numbered.ops⟩

theorem State.speaks_transmit (s : State) (o : RemOp) : s.Speaks (s.transmit o) := by
  have sent := s.speaks_ops (f := fun q => if q.id = o.id then { q with sent := true } else q) fun q => by split <;> rfl
  refine sent.trans (.ite (.refl _) (.ite (State.speaks_launchHost _ o) (.ite (.refl _) (.ite ?_
    (State.speaks_answerOp _ _ _ _)))))
  refine State.Speaks.trans (t := _) ?_ (State.speaks_pumpPeer _ _)
  exact .foldl ⟨rfl, rfl, rfl⟩ fun u _ => u.speaks_modPeer _ _

/-- An operation is issued: it is the last of the list, whatever becomes of it. -/
theorem State.speaks_issue (s : State) (o : RemOp) : (s.issue o).work = s.work ∧ (s.issue o).tsc = s.tsc ∧
    (s.issue o).ops.map RemOp.asked = s.ops.map RemOp.asked ++ [o.asked] := by
  have listed : ({ s with
      ops := s.ops ++ [{ o with id := s.nextOp, answered := none, done := false, sent := false }]
      nextOp := s.nextOp + 1 } : State).Speaks (s.issue o) := .ite (.refl _) (State.speaks_transmit _ _)
  obtain ⟨work, tsc, ops⟩ := listed
  exact ⟨work, tsc, ops.trans List.map_append⟩

/-! ### A commit unit (R243) -/

/-- The PUTs of a unit's outputs to OUT. -/
def State.outputs (s : State) (i : Nat) : List (Issuer × Nat × BitVec 64 × List Byte) :=
  (s.wk i).staged.map fun e => (.output i, 1, hostAddr (s.wk i).ctx ((s.wk i).outAt + e.1), e.2)

/-- Outputs are issued in their order, one operation each. -/
theorem State.speaks_outputs (s : State) (i part c : Nat) (at_ : Nat) (l : List (Nat × List Byte)) :
    let t := l.foldl (fun t e => (t.issue (firmOp (.output i) (t.slotPart part) 1 (hostAddr c (at_ + e.1)) e.2)).emit
      (.output i c (BitVec.ofNat 64 (at_ + e.1)) e.2)) s
    t.work = s.work ∧ t.tsc = s.tsc ∧
      t.ops.map RemOp.asked = s.ops.map RemOp.asked ++ l.map fun e => (.output i, 1, hostAddr c (at_ + e.1), e.2) := by
  induction l generalizing s with
  | nil => exact ⟨rfl, rfl, (List.append_nil _).symm⟩
  | cons e l ih =>
    obtain ⟨work, tsc, ops⟩ := s.speaks_issue (firmOp (.output i) (s.slotPart part) 1 (hostAddr c (at_ + e.1)) e.2)
    obtain ⟨work', tsc', ops'⟩ := ih ((s.issue (firmOp (.output i) (s.slotPart part) 1 (hostAddr c (at_ + e.1)) e.2)).emit
      (.output i c (BitVec.ofNat 64 (at_ + e.1)) e.2))
    refine ⟨work'.trans work, tsc'.trans tsc, ops'.trans ?_⟩
    show (s.issue _).ops.map RemOp.asked ++ _ = _
    rw [ops, List.append_assoc]
    rfl

/-- A unit whose outputs are on their way. -/
def Work.copies (w : Work) : Work := { w with ready := false, copying := true, copiedHeld := false, staged := [] }

theorem State.partCommit_spec {s : State} {i : Nat} (live : (s.wk i).live = true) (ready : (s.wk i).ready = true)
    (runs : (s.wk i).stopped = false) : (s.partCommit i).wk i = (s.wk i).copies ∧
      (∀ j, j ≠ i → (s.partCommit i).wk j = s.wk j) ∧ (s.partCommit i).tsc = s.tsc ∧
      (s.partCommit i).ops.map RemOp.asked = s.ops.map RemOp.asked ++ s.outputs i := by
  obtain ⟨work, tsc, ops⟩ := s.speaks_outputs i i (s.wk i).ctx (s.wk i).outAt (s.wk i).staged
  unfold State.partCommit
  dsimp only
  rw [if_pos ⟨live, ready, by simp [runs]⟩]
  generalize (s.wk i).staged.foldl _ s = t at work tsc ops ⊢
  have said : t.Speaks (if (s.wk i).kind = 1 then t.compareOutput i (s.wk i).gen (s.wk i).unit (t.slotPart i)
      ((s.wk i).at 0x28 63 0) ((s.wk i).staged.flatMap (·.2)) else t) := .ite (t.speaks_compareOutput ..) (.refl t)
  generalize (if (s.wk i).kind = 1 then _ else t) = u at said ⊢
  have same (j : Nat) : u.wk j = s.wk j := State.wk_of_work (said.work.trans work) j
  refine ⟨?_, fun j other => (u.wk_modWork_other _ other).trans (same j), said.tsc.trans tsc, said.ops.trans ops⟩
  rw [State.wk_modWork_same, same]
  rfl

/-- A SERVE work's unit is delivered: it counts as a token. -/
def Work.delivers (w : Work) : Work := { w with copying := false, copiedHeld := false, unit := w.unit + 1, tokens := w.tokens + 1 }

theorem State.copied_iff (s : State) (i : Nat) :
    s.copied i = true ↔ (s.wk i).copying = true ∧ ∀ a ∈ s.ops.map RemOp.asked, a.1 ≠ .output i := by
  simp [State.copied, RemOp.asked]

/-- An ungrouped work counts its tokens where it is delivered, not here. -/
theorem State.wk_afterCopy {t : State} {i : Nat} (alone : (t.wk i).group = 0) :
    (t.afterCopy i).wk i = { t.wk i with copying := false, copiedHeld := true, unit := (t.wk i).unit + 1 } := by
  rw [State.afterCopy, State.wk_modWork_same, if_pos (.inl alone)]

/-- A unit is complete in staging. -/
def Work.readies (last : Bool) (w : Work) : Work := { w with ready := true, last := last }

section
variable {s : State} {i : Nat} {last : Bool} (alone : (s.wk i).group = 0)
include alone

/-- The unit of an ungrouped work: it is copied, and delivered at once where it had no output. -/
theorem State.partReady_eq {t : State} (commit : (s.modWork i (·.readies last)).partCommit i = t) : s.partReady i last =
    if t.copied i then
      if last then ((t.afterCopy i).modWork i fun w => { w with tokens := w.tokens + 1, copiedHeld := false }).endWork i St.ok
      else (t.afterCopy i).modWork i fun w => { w with tokens := w.tokens + 1, copiedHeld := false }
    else t := by
  have here : (s.modWork i (·.readies last)).wk i = (s.wk i).readies last := s.wk_modWork_same i _
  rw [← commit]
  unfold State.partReady
  dsimp only
  rw [if_pos]
  · rfl
  · refine .inl ?_
    show ((s.modWork i (·.readies last)).wk i).group = 0
    rw [here]
    exact alone

variable (live : (s.wk i).live = true) (runs : (s.wk i).stopped = false)
include live runs
omit alone in
/-- The commit of a unit that is complete (R243). -/
theorem State.partCommit_readied : ∃ t : State, (s.modWork i (·.readies last)).partCommit i = t ∧
    t.wk i = ({ s.wk i with last := last } : Work).copies ∧ t.tsc = s.tsc ∧
    t.ops.map RemOp.asked = s.ops.map RemOp.asked ++ s.outputs i := by
  have here : (s.modWork i (·.readies last)).wk i = (s.wk i).readies last := s.wk_modWork_same i _
  obtain ⟨wk, -, tsc, ops⟩ := State.partCommit_spec (s := s.modWork i (·.readies last)) (i := i)
    (by rw [here]; exact live) (by rw [here]; rfl) (by rw [here]; exact runs)
  refine ⟨_, rfl, ?_, tsc, ?_⟩
  · rw [wk, here]
    rfl
  · rw [ops, State.outputs, here]
    rfl

theorem State.partReady_of_outputs (outs : (s.wk i).staged ≠ []) : (s.partReady i last).wk i =
      ({ s.wk i with last := last } : Work).copies ∧
    (s.partReady i last).ops.map RemOp.asked = s.ops.map RemOp.asked ++ s.outputs i := by
  obtain ⟨t, commit, wk, -, ops⟩ := State.partCommit_readied (last := last) live runs
  rw [State.partReady_eq alone commit, if_neg]
  · exact ⟨wk, ops⟩
  · rw [State.copied_iff, ops]
    rintro ⟨-, none⟩
    obtain ⟨e, l, cons⟩ := List.exists_cons_of_ne_nil outs
    refine none (.output i, 1, hostAddr (s.wk i).ctx ((s.wk i).outAt + e.1), e.2) (List.mem_append_right _ ?_) rfl
    rw [State.outputs, cons]
    exact List.mem_cons_self

theorem State.partReady_of_no_outputs (none : (s.wk i).staged = []) (idle : s.ops.all (fun o => o.who ≠ .output i) = true) :
    ∃ t : State, s.partReady i last = (if last then t.endWork i St.ok else t) ∧ t.tsc = s.tsc ∧
      t.wk i = ({ s.wk i with last := last } : Work).copies.delivers := by
  obtain ⟨t, commit, wk, tsc, ops⟩ := State.partCommit_readied (last := last) live runs
  refine ⟨(t.afterCopy i).modWork i fun w => { w with tokens := w.tokens + 1, copiedHeld := false }, ?_, tsc, ?_⟩
  · rw [State.partReady_eq alone commit, if_pos]
    rw [State.copied_iff, ops, wk, State.outputs, none, List.map_nil, List.append_nil]
    exact ⟨rfl, by simpa [RemOp.asked] using idle⟩
  · rw [State.wk_modWork_same, State.wk_afterCopy (by rw [wk]; exact alone), wk]
    rfl

end

/-! ### Ends and stops of works (R249) -/

/-- A work whose final status is fixed: what the record reports of it, and nothing that waits. -/
def Work.ended (w : Work) (st : Status) (fpart : Nat) (pstat : Status) (tend : Nat) : Work := { w with
  st := .ending, status := st, tend := tend, fpart := fpart, pstat := pstat, staged := [], gathering := false
  waitLoad := false, handed := false, copying := false, stopped := false, ready := false, copiedHeld := false
  aborting := false, alone := false, ref := none }

theorem State.wk_abandonLoad (s : State) (d j : Nat) : (s.abandonLoad d).wk j = s.wk j := by
  unfold State.abandonLoad
  split <;> rfl

theorem State.wk_dropRef (s : State) (i j : Nat) :
    (s.dropRef i).wk j = if j = i then { s.wk i with ref := none } else s.wk j := by
  unfold State.dropRef
  split
  · next none =>
    split
    · next here => rw [here, ← none]
    · rfl
  · rw [State.wk_abandonLoad]
    exact s.wk_modWork i j fun w => { w with ref := none }

theorem State.wk_foldl {α : Type} {f : State → α → State} (same : ∀ s x j, (f s x).wk j = s.wk j) (l : List α) (s : State)
    (j : Nat) : (l.foldl f s).wk j = s.wk j := by
  induction l generalizing s with
  | nil => rfl
  | cons x l ih => exact (ih (f s x)).trans (same s x j)

theorem State.wk_modEntry (s : State) (d : Nat) (f : DirEntry → DirEntry) (j : Nat) : (s.modEntry d f).wk j = s.wk j := rfl

theorem State.wk_dropDirWaits (s : State) (i j : Nat) : (s.dropDirWaits i).wk j = s.wk j := by
  unfold State.dropDirWaits
  dsimp only
  rw [State.wk_foldl fun s l j => s.wk_abandonLoad l.didx j, State.wk_foldl fun s (w : DirWait) j => s.wk_modEntry w.didx _ j]
  rfl

theorem State.wk_addDown (s : State) (us k j : Nat) : (s.addDown us k).wk j = s.wk j := by
  unfold State.addDown
  split <;> rfl

/-- The end of a live work changes no other. -/
theorem State.wk_endWork {s : State} {i : Nat} (live : (s.wk i).live = true) (st : Status) (fpart : Nat) (pstat : Status)
    (j : Nat) : (s.endWork i st fpart pstat).wk j =
      if j = i then (s.report_ i st (s.wk i)).ended st fpart pstat s.tsc else s.wk j := by
  unfold State.endWork
  dsimp only
  rw [if_pos live]
  show (if moduleFault st = true then State.addDown _ 10000 128 else _ : State).wk j = _
  have plain (t : State) : (if moduleFault st = true then t.addDown 10000 128 else t : State).wk j = t.wk j := by
    split
    · exact t.wk_addDown _ _ j
    · rfl
  rw [plain, State.wk_dropDirWaits, State.wk_dropRef, State.wk_modWork_same, State.wk_modWork]
  split <;> rfl

/-- A SERVE work reports the bytes that it has written. -/
theorem State.report_of_serve {s : State} {i : Nat} {st : Status} {w : Work} (kind : w.kind = 1) :
    s.report_ i st w = { w with value := BitVec.ofNat 64 w.bytes } := by
  unfold State.report_
  dsimp only
  rw [kind]
  rfl

/-- From `s` to `t` works have got flags at most. -/
structure State.WorksFlagged (s t : State) : Prop where
  same : ∀ j, { t.wk j with flags := (s.wk j).flags } = s.wk j

theorem State.WorksFlagged.of_wk {s t : State} (same : ∀ j, t.wk j = s.wk j) : s.WorksFlagged t := ⟨fun j => by rw [same j]⟩

theorem State.WorksFlagged.trans {s t u : State} (h : s.WorksFlagged t) (g : t.WorksFlagged u) : s.WorksFlagged u := by
  refine ⟨fun j => ?_⟩
  have first := h.same j
  rw [← g.same j] at first
  exact first

theorem State.WorksFlagged.foldl {α : Type} {s e : State} {f : State → α → State} {l : List α} (h : s.WorksFlagged e)
    (step : ∀ (u : State) (x : α), u.WorksFlagged (f u x)) : s.WorksFlagged (l.foldl f e) := by
  induction l generalizing e with
  | nil => exact h
  | cons x l ih => exact ih (h.trans (step e x))

theorem State.worksFlagged_refl (s : State) : s.WorksFlagged s := ⟨fun _ => rfl⟩

theorem State.WorksFlagged.ite {s t u : State} {c : Prop} [Decidable c] (yes : s.WorksFlagged t) (no : s.WorksFlagged u) :
    s.WorksFlagged (if c then t else u) := by
  split
  · exact yes
  · exact no

theorem State.worksFlagged_modCore (s : State) (p : Nat) (f : Core → Core) : s.WorksFlagged (s.modCore p f) := ⟨fun _ => rfl⟩

theorem State.worksFlagged_modShelf (s : State) (sh : Nat) (f : Shelf → Shelf) : s.WorksFlagged (s.modShelf sh f) :=
  ⟨fun _ => rfl⟩

theorem State.worksFlagged_abandonOps (s : State) (f : RemOp → Bool) : s.WorksFlagged (s.abandonOps f) := ⟨fun _ => rfl⟩

theorem State.worksFlagged_modWork (s : State) (i : Nat) (fl : BitVec 5) :
    s.WorksFlagged (s.modWork i fun w => { w with flags := w.flags ||| fl }) := by
  refine ⟨fun j => ?_⟩
  rw [State.wk_modWork]
  split
  · next here => rw [here]
  · rfl

theorem State.worksFlagged_flagWorks (s : State) (sh : Nat) (fl : BitVec 5) : s.WorksFlagged (s.flagWorks sh fl) := by
  unfold State.flagWorks
  split
  · exact s.worksFlagged_refl
  · exact .foldl s.worksFlagged_refl fun u i => u.worksFlagged_modWork i fl

theorem State.worksFlagged_endProgram (s : State) (sh p : Nat) (st : Status) : s.WorksFlagged (s.endProgram sh p st) :=
  (s.worksFlagged_modCore p _).trans (State.worksFlagged_flagWorks _ sh _)

theorem State.worksFlagged_discardCore (s : State) (sh p : Nat) : s.WorksFlagged (s.discardCore sh p) :=
  (s.worksFlagged_modCore p _).trans (State.worksFlagged_endProgram _ sh p _)

theorem State.worksFlagged_discardShelf (s : State) (sh : Nat) : s.WorksFlagged (s.discardShelf sh) := by
  refine .foldl s.worksFlagged_refl fun u c => ?_
  split
  · exact u.worksFlagged_discardCore sh _
  · exact u.worksFlagged_refl

theorem State.worksFlagged_stopShelf (s : State) (sh : Nat) : s.WorksFlagged (s.stopShelf sh) :=
  (s.worksFlagged_discardShelf sh).trans (State.worksFlagged_abandonOps _ _)

theorem State.worksFlagged_dropChurn (s : State) (i : Nat) : s.WorksFlagged (s.dropChurn i) :=
  .foldl s.worksFlagged_refl fun u sh => u.worksFlagged_modShelf sh _

theorem State.worksFlagged_stopPrograms (s : State) (i : Nat) : s.WorksFlagged (s.stopPrograms i) := by
  have shelves (t : State) (l : List Nat) : t.WorksFlagged (l.foldl State.stopShelf t) :=
    .foldl t.worksFlagged_refl State.worksFlagged_stopShelf
  have first : s.WorksFlagged (if (s.wk i).st = .running ∧ (s.wk i).handed ∧ s.aloneOnShelf i then s.stopShelf (s.wk i).shelf
      else s) := .ite (s.worksFlagged_stopShelf _) s.worksFlagged_refl
  unfold State.stopPrograms
  refine State.WorksFlagged.trans ?_ (State.worksFlagged_dropChurn _ i)
  exact .ite (first.trans (shelves _ _)) first

theorem State.worksFlagged_stopWork (s : State) (i : Nat) : s.WorksFlagged (s.stopWork i) :=
  (s.worksFlagged_stopPrograms i).trans (State.worksFlagged_abandonOps _ _)

theorem State.WorksFlagged.live {s t : State} (h : s.WorksFlagged t) (j : Nat) : (t.wk j).live = (s.wk j).live := by
  rw [← h.same j]
  rfl

/-- A live work that is stopped ends with its status; other works get flags at most. -/
theorem State.wk_stopEnd {s : State} {i : Nat} (live : (s.wk i).live = true) (st : Status) :
    ((s.stopEnd i st).wk i).st = .ending ∧ ((s.stopEnd i st).wk i).status = st ∧ ((s.stopEnd i st).wk i).staged = [] ∧
      ∀ j, j ≠ i → { (s.stopEnd i st).wk j with flags := (s.wk j).flags } = s.wk j := by
  have flagged := s.worksFlagged_stopWork i
  have still : ((s.stopWork i).wk i).live = true := (flagged.live i).trans live
  have ends := State.wk_endWork still st 0 0
  unfold State.stopEnd
  rw [if_pos live, ends, if_pos rfl]
  refine ⟨rfl, rfl, rfl, fun j other => ?_⟩
  rw [ends, if_neg other]
  exact flagged.same j

/-! ### O33 -/

theorem Work.live_of_running {w : Work} (run : w.st = .running) : w.live = true := by simp [Work.live, run]

/-- An ungrouped work that is not under abort fails with its own status. -/
theorem State.workFail_of_ungrouped {s : State} {i : Nat} (live : (s.wk i).live = true) (alone : (s.wk i).group = 0)
    (still : (s.wk i).aborting = false) (st : Status) : s.workFail i st = s.stopEnd i st := by
  unfold State.workFail
  dsimp only
  rw [if_neg (by simp [live]), if_neg (by simp [still]), if_pos (.inl alone)]

/-- A unit in staging, with the flags of its program. -/
def Work.stages (outs : List (Nat × List Byte)) (fl : BitVec 5) (w : Work) : Work := { w with staged := outs, flags := w.flags ||| fl }

section
variable {w : Work} (idle : w.ready = false) (outs : List (Nat × List Byte)) (fl : BitVec 5) (last : Bool)
include idle

theorem Work.copies_stages : ({ w.stages outs fl with last := last } : Work).copies =
    { w with flags := w.flags ||| fl, staged := [], last := last, copying := true, copiedHeld := false } := by
  cases w
  dsimp only at idle
  subst idle
  rfl

theorem Work.delivers_stages (quiet : w.copying = false) (more : w.last = false) :
    ({ w.stages outs fl with last := false } : Work).copies.delivers =
      { w with flags := w.flags ||| fl, staged := [], unit := w.unit + 1, tokens := w.tokens + 1, copiedHeld := false } := by
  cases w
  dsimp only at idle quiet more
  subst idle quiet more
  rfl

end

theorem State.outputs_stages {s : State} {i : Nat} {w : Work} {outs : List (Nat × List Byte)} {fl : BitVec 5}
    (here : s.wk i = w.stages outs fl) (kind : w.kind = 1) : s.outputs i =
      (outs.map fun o => (1, hostAddr w.ctx (w.body 0x18 + o.1), o.2)).map fun x => (.output i, x) := by
  have at_ : (w.stages outs fl).outAt = w.body 0x18 := by
    show (if w.kind = 4 then w.body 0x10 else w.body 0x18) = _
    rw [kind]
    rfl
  rw [State.outputs, here, at_, List.map_map]
  rfl

section
variable {s : State} {slot : Fin 16384} (kind : (s.wk slot).kind = 1) (run : (s.wk slot).st = .running)
  (stopped : (s.wk slot).stopped = false)
include kind run stopped

theorem exec_serveFail_of_known {st : Status} (known : St.known st = true) (some : st ≠ 0) :
    exec (.serveWork slot (.fail st)) s = .next (s.workFail slot st) := by
  show execServeWork slot (.fail st) s = _
  rw [execServeWork, if_neg (not_not.2 kind), if_pos ⟨run, by simp [stopped], known, some⟩]

omit run stopped in
theorem exec_serveFail_of_unknown {st : Status} (unknown : St.known st = false) :
    exec (.serveWork slot (.fail st)) s = .next s := by
  show execServeWork slot (.fail st) s = _
  rw [execServeWork, if_neg (not_not.2 kind), if_neg (by simp [unknown])]

variable (idle : (s.wk slot).ready = false) (quiet : (s.wk slot).copying = false) (more : (s.wk slot).last = false)
  (outs : List (Nat × List Byte)) (fl : BitVec 5) (last : Bool)
include idle quiet more

theorem exec_serveUnit_of_unfit (unfit : (s.wk slot).outsFit outs = false) :
    exec (.serveWork slot (.unit outs fl last)) s = .next (s.workFail slot St.addressInvalid) := by
  show execServeWork slot (.unit outs fl last) s = _
  rw [execServeWork, if_neg (not_not.2 kind), if_pos ⟨run, by simp [idle], by simp [quiet], by simp [stopped], by simp [more]⟩,
    if_pos (by simp [unfit])]

theorem exec_serveUnit_of_fit (fit : (s.wk slot).outsFit outs = true) : exec (.serveWork slot (.unit outs fl last)) s =
    .next ((s.modWork slot (·.stages outs fl)).partReady slot last) := by
  show execServeWork slot (.unit outs fl last) s = _
  rw [execServeWork, if_neg (not_not.2 kind), if_pos ⟨run, by simp [idle], by simp [quiet], by simp [stopped], by simp [more]⟩,
    if_neg (by simp [fit])]
  rfl

end

/-- The operations of a work's outputs, by what they ask for. -/
theorem State.outputs_of_asked {s t : State} {i : Nat} {l : List (Nat × BitVec 64 × List Byte)}
    (ops : t.ops.map RemOp.asked = s.ops.map RemOp.asked ++ l.map fun x => (.output i, x))
    (none : s.ops.all (fun o => o.who ≠ .output i) = true) :
    (t.ops.filter fun o => o.who = .output i).map (fun o => (o.opc, o.remote, o.data)) = l := by
  have by_asked (x : State) : (x.ops.filter fun o => o.who = .output i).map (fun o => (o.opc, o.remote, o.data)) =
      ((x.ops.map RemOp.asked).filter fun a => a.1 = .output i).map (·.2) := by
    rw [List.filter_map, List.map_map]
    rfl
  have before : (s.ops.map RemOp.asked).filter (fun a => a.1 = .output i) = [] := by
    rw [List.filter_eq_nil_iff]
    simpa [RemOp.asked] using none
  rw [by_asked, ops, List.filter_append, before, List.nil_append, List.filter_map, List.map_map]
  simp [Function.comp_def]

/-- Settles O33. -/
theorem serveWorkRuns : Obligations.ServeWorkRuns := by
  intro s slot kind i w p
  refine ⟨fun sh => ?_, fun outs fl last run idle quiet stopped more alone => ⟨fun unfit still => ?_, fun fit none => ?_⟩,
    fun st run stopped alone still => ⟨fun known some => ?_, fun unknown => exec_serveFail_of_unknown kind unknown⟩⟩
  · intro due
    refine ⟨fun wait => exec_serveStart_of_not_due kind sh wait, fun now => ?_⟩
    obtain ⟨wk, others, shelf, shelves, wakes, works, rest⟩ := s.serveStarts i sh
    exact ⟨_, exec_serveStart_of_due kind sh now, wk, others, shelf, shelves, wakes,
      fun b mem mine => State.sorted_sortBatch (s.serveOn i sh) i sh mem mine, works, rest⟩
  · rw [exec_serveUnit_of_unfit kind run stopped idle quiet more outs fl last unfit,
      State.workFail_of_ungrouped (Work.live_of_running run) alone still]
  · have step := exec_serveUnit_of_fit kind run stopped idle quiet more outs fl last fit
    obtain ⟨x, staged⟩ : ∃ x, s.modWork i (·.stages outs fl) = x := ⟨_, rfl⟩
    have here : x.wk i = w.stages outs fl := by rw [← staged]; exact s.wk_modWork_same i _
    have ops : x.ops = s.ops := by rw [← staged]; rfl
    have tsc : x.tsc = s.tsc := by rw [← staged]; rfl
    have alone' : (x.wk i).group = 0 := by rw [here]; exact alone
    have live : (x.wk i).live = true := by rw [here]; exact Work.live_of_running run
    have runs : (x.wk i).stopped = false := by rw [here]; exact stopped
    refine ⟨fun some => ?_, fun empty goes => ?_, fun empty ends => ?_⟩
    · obtain ⟨wk, asked⟩ := State.partReady_of_outputs (last := last) alone' live runs (by rw [here]; exact some)
      refine ⟨_, step.trans (by rw [staged]), ?_, ?_⟩
      · rw [wk, here]
        exact Work.copies_stages idle outs fl last
      · refine State.outputs_of_asked ?_ none
        rw [asked, ops, State.outputs_stages here kind]
    · obtain ⟨t, ready, -, wk⟩ := State.partReady_of_no_outputs (last := last) alone' live runs (by rw [here]; exact empty)
        (by rw [ops]; exact none)
      refine ⟨_, step.trans (by rw [staged, ready]), ?_⟩
      subst goes
      rw [if_neg Bool.false_ne_true, wk, here]
      exact Work.delivers_stages idle outs fl quiet more
    · obtain ⟨t, ready, time, wk⟩ := State.partReady_of_no_outputs (last := last) alone' live runs (by rw [here]; exact empty)
        (by rw [ops]; exact none)
      rw [here] at wk
      have serves : (t.wk i).kind = 1 := by rw [wk]; exact kind
      have final := State.wk_endWork (by rw [wk]; exact Work.live_of_running run) St.ok 0 0 i
      rw [if_pos rfl, State.report_of_serve serves, wk, time, tsc] at final
      refine ⟨t.endWork i St.ok, step.trans (by rw [staged, ready, ends, if_pos rfl]), ?_⟩
      rw [final]
      exact ⟨rfl, rfl, rfl, rfl, rfl⟩
  · obtain ⟨state, status, staged, others⟩ := State.wk_stopEnd (Work.live_of_running run) st
    refine ⟨_, ?_, state, status, staged, others⟩
    rw [exec_serveFail_of_known kind run stopped known some,
      State.workFail_of_ungrouped (Work.live_of_running run) alone still]

end Sys2Proof.Machine
end

section
/-!
PROOF. Training jobs start, and yield to serving (R183, R186, R201, R202, R237, R238).
-/

namespace Sys2Proof.Machine

/-! ### A job starts (R183, R186) -/

theorem State.wk_modShelf (s : State) (sh : Nat) (f : Shelf → Shelf) (j : Nat) : (s.modShelf sh f).wk j = s.wk j := rfl

theorem State.wk_abandonOps (s : State) (f : RemOp → Bool) (j : Nat) : (s.abandonOps f).wk j = s.wk j := rfl

theorem State.wk_dropChurn (s : State) (i j : Nat) : (s.dropChurn i).wk j = s.wk j :=
  State.wk_foldl (fun u sh j => u.wk_modShelf sh _ j) _ s j

/-- A work that does not run has no programs that stop. -/
theorem State.wk_stopWork_of_held {s : State} {i : Nat} (held : (s.wk i).st = .held) (j : Nat) :
    (s.stopWork i).wk j = s.wk j := by
  unfold State.stopWork State.stopPrograms
  dsimp only
  rw [if_neg (by simp [held]), if_neg (by simp [held])]
  rw [State.wk_abandonOps, State.wk_dropChurn]

/-- A held, ungrouped work that fails ends with its status, and no other work changes. -/
theorem State.wk_workFail_of_held {s : State} {i : Nat} (held : (s.wk i).st = .held) (alone : (s.wk i).group = 0)
    (still : (s.wk i).aborting = false) (st : Status) : ((s.workFail i st).wk i).st = .ending ∧
      ((s.workFail i st).wk i).status = st ∧ ∀ j, j ≠ i → (s.workFail i st).wk j = s.wk j := by
  have live : (s.wk i).live = true := by simp [Work.live, held]
  have same := State.wk_stopWork_of_held held
  have ends := State.wk_endWork (s := s.stopWork i) (i := i) (by rw [same, live]) st 0 0
  rw [State.workFail_of_ungrouped live alone still, State.stopEnd, if_pos live, ends, if_pos rfl]
  exact ⟨rfl, rfl, fun j other => by rw [ends, if_neg other, same]⟩

section
variable {s : State} {p d : Nat}

/-- The entry is in TRAINING, and the partition's own. -/
def State.trainsOwn (s : State) (p d : Nat) : Prop :=
  s.didxOk p d = true ∧ (s.entry d).st = .training ∧ (s.entry d).owner = p

/-- Every listed base region is under BASE_RO. -/
def State.listLocked (s : State) (p : Nat) : Prop :=
  s.baseList p ≠ [] ∧ ∀ r ∈ s.baseList p, (tabGet {} s.regions r).v = true ∧ (tabGet {} s.regions r).baseRo = true

theorem State.trainCheck_of_not_own (foreign : ¬ s.trainsOwn p d) : s.trainCheck p d = some St.adapterStateInvalid := by
  unfold State.trainCheck
  refine if_pos ?_
  by_contra own
  exact foreign (by simpa [State.trainsOwn] using own)

theorem State.trainCheck_of_not_locked (own : s.trainsOwn p d) (open_ : ¬ s.listLocked p) :
    s.trainCheck p d = some St.adapterBaseUnlocked := by
  obtain ⟨index, training, owner⟩ := own
  unfold State.trainCheck
  dsimp only
  rw [if_neg (by simp [index, training, owner]), if_pos]
  by_contra locked
  exact open_ (by simpa [State.listLocked] using locked)

theorem State.trainCheck_of_locked (own : s.trainsOwn p d) (locked : s.listLocked p) : s.trainCheck p d = none := by
  obtain ⟨index, training, owner⟩ := own
  obtain ⟨some, all⟩ := locked
  unfold State.trainCheck
  dsimp only
  rw [if_neg (by simp [index, training, owner]), if_neg]
  simpa [some] using all

end

/-- The job that a TRAIN work starts. -/
def State.newJob (s : State) (i : Nat) : Job :=
  let area := BitVec.ofNat 64 ((s.wk i).body 8)
  { slot := i, didx := daDidx (s.wk i).da, part := s.slotPart i, area := area
    restart := s.recState (gaOff area) != 0 || !s.recSound (gaOff area)
    sketched := !bit ((s.wk i).body 0x38) 0, borrow := s.odVal 0x605001 4096 }

/-- The job of a TRAIN work is there, and its entry knows the state area. -/
def State.jobStarted (s : State) (i : Nat) : State :=
  let t := (s.modWork i fun w => { w with st := .running }).modEntry (daDidx (s.wk i).da) fun e =>
    { e with area := some (gaOff (s.newJob i).area) }
  { t with work := { t.work with jobs := s.work.jobs ++ [s.newJob i] } }

section
variable {s : State} {i : Nat}

theorem State.startTrain_of_refused {st : Status} (check : s.trainCheck (s.slotPart i) (daDidx (s.wk i).da) = some st) :
    s.startTrain i = s.workFail i st := by
  rw [State.startTrain]
  dsimp only
  rw [check]

variable (check : s.trainCheck (s.slotPart i) (daDidx (s.wk i).da) = none)
include check

theorem State.startTrain_of_unread {st : Status}
    (area : s.areaStatus (s.slotPart i) (BitVec.ofNat 64 ((s.wk i).body 8)) = some st) :
    s.startTrain i = s.workFail i st := by
  rw [State.startTrain]
  dsimp only
  rw [check]
  dsimp only
  rw [area]

theorem State.startTrain_of_read (area : s.areaStatus (s.slotPart i) (BitVec.ofNat 64 ((s.wk i).body 8)) = none) :
    s.startTrain i = s.jobStarted i := by
  rw [State.startTrain]
  dsimp only
  rw [check]
  dsimp only
  rw [area]
  rfl

end

section
variable {s : State} {p : Nat} {area : BitVec 64}

theorem State.areaStatus_of_not_placed (out : ¬ (gaSpace area = 0 ∧ s.inJob p area 64 = true)) :
    s.areaStatus p area = some St.addressInvalid := by
  refine if_pos ?_
  by_contra placed
  exact out (by simpa using placed)

theorem State.areaStatus_of_placed (placed : gaSpace area = 0 ∧ s.inJob p area 64 = true) : s.areaStatus p area =
    match s.engineRead (Init.firmware p) area 64 with
    | .error st => some st
    | .ok _ => none := by
  refine if_neg ?_
  simpa using placed

end

/-! ### Jobs and cores that change together -/

section
variable {f : Job → Job} (keeps : ∀ j, (f j).slot = j.slot)
include keeps

theorem State.jobOf_modJob (s : State) (i k : Nat) :
    (s.modJob i f).jobOf k = if k = i then (s.jobOf k).map f else s.jobOf k := by
  show (s.work.jobs.map fun j => if j.slot = i then f j else j).find? (fun j => j.slot = k) = _
  have slot (j : Job) : (if j.slot = i then f j else j).slot = j.slot := by
    split
    · exact keeps j
    · rfl
  rw [List.find?_map]
  simp only [Function.comp_def, slot]
  show (s.jobOf k).map _ = _
  cases found : s.jobOf k with
  | none => simp
  | some j =>
    have mine : j.slot = k := by simpa using List.find?_some found
    simp only [Option.map_some, mine]
    split <;> rfl

theorem State.jobOf_foldl_modJob_other {l : List Nat} {k : Nat} (other : k ∉ l) (s : State) :
    (l.foldl (fun t i => t.modJob i f) s).jobOf k = s.jobOf k := by
  induction l generalizing s with
  | nil => rfl
  | cons i l ih =>
    rw [List.mem_cons, not_or] at other
    rw [List.foldl_cons, ih other.2, State.jobOf_modJob keeps, if_neg other.1]

/-- A job whose slot stands once in the list changes once. -/
theorem State.jobOf_foldl_modJob_once {l : List Nat} {k : Nat} (once : l.count k = 1) (s : State) :
    (l.foldl (fun t i => t.modJob i f) s).jobOf k = (s.jobOf k).map f := by
  induction l generalizing s with
  | nil => simp at once
  | cons i l ih =>
    rw [List.count_cons] at once
    rw [List.foldl_cons]
    by_cases here : k = i
    · subst here
      have rest : k ∉ l := List.count_eq_zero.1 (by simpa using once)
      rw [State.jobOf_foldl_modJob_other keeps rest, State.jobOf_modJob keeps, if_pos rfl]
    · rw [ih (by simpa [Ne.symm here] using once), State.jobOf_modJob keeps, if_neg here]

end

/-- From `s` to `t` only jobs, cores, shelves and met waits have changed. -/
structure State.JobsMove (s t : State) : Prop where
  kept : t = { s with
    cores := t.cores, shelves := t.shelves, woken := t.woken, work := { s.work with jobs := t.work.jobs } }

theorem State.JobsMove.refl (s : State) : s.JobsMove s := ⟨rfl⟩

theorem State.JobsMove.trans {s t u : State} (h : s.JobsMove t) (g : t.JobsMove u) : s.JobsMove u := by
  refine ⟨?_⟩
  rw [g.kept, h.kept]

theorem State.JobsMove.foldl {α : Type} {s e : State} {f : State → α → State} {l : List α} (h : s.JobsMove e)
    (step : ∀ (u : State) (x : α), u.JobsMove (f u x)) : s.JobsMove (l.foldl f e) := by
  induction l generalizing e with
  | nil => exact h
  | cons x l ih => exact ih (h.trans (step e x))

theorem State.jobsMove_modJob (s : State) (i : Nat) (f : Job → Job) : s.JobsMove (s.modJob i f) := ⟨rfl⟩

theorem State.jobsMove_modShelf (s : State) (sh : Nat) (f : Shelf → Shelf) : s.JobsMove (s.modShelf sh f) := ⟨rfl⟩

theorem State.jobsMove_onCore (s : State) (sh c : Nat) (f : Core → Core) : s.JobsMove (s.onCore sh c f) := by
  unfold State.onCore
  split
  · exact ⟨rfl⟩
  · exact ⟨rfl⟩

/-- What the statement says of all that stays. -/
theorem State.JobsMove.rest {s t : State} (h : s.JobsMove t) : { t with
    shelves := s.shelves, cores := s.cores, woken := s.woken, work := { t.work with jobs := s.work.jobs } } = s := by
  rw [h.kept]

/-- A change of jobs leaves cores and shelves. -/
theorem State.foldl_modJob_places (f : Job → Job) (l : List Nat) (s : State) :
    (l.foldl (fun t i => t.modJob i f) s).cores = s.cores ∧ (l.foldl (fun t i => t.modJob i f) s).shelves = s.shelves := by
  induction l generalizing s with
  | nil => exact ⟨rfl, rfl⟩
  | cons i l ih => exact ih (s.modJob i f)

/-- A job alone in its slot is the one that the slot names. -/
theorem State.jobOf_of_alone {s : State} {j : Job} (alone : s.work.jobs.filter (fun x => x.slot = j.slot) = [j]) :
    s.jobOf j.slot = some j := by
  rw [State.jobOf, ← List.head?_filter, alone]
  rfl

/-- Of the jobs that are picked, one alone in its slot is picked once. -/
theorem count_slot_of_alone {l : List Job} {j : Job} (alone : l.filter (fun x => x.slot = j.slot) = [j]) {p : Job → Bool}
    (picked : p j = true) : ((l.filter p).map (·.slot)).count j.slot = 1 := by
  rw [List.count, List.countP_map, List.countP_eq_length_filter, List.filter_filter]
  have same : (l.filter fun x => ((· == j.slot) ∘ (·.slot)) x && p x) = (l.filter fun x => x.slot = j.slot).filter p := by
    rw [List.filter_filter]
    refine List.filter_congr fun x _ => ?_
    simp only [Function.comp_apply, Bool.and_comm]
    rfl
  rw [same, alone, List.filter_cons, if_pos picked]
  rfl

/-- A change of cores leaves jobs and shelves. -/
theorem State.onCore_places (s : State) (sh c : Nat) (f : Core → Core) :
    (s.onCore sh c f).work = s.work ∧ (s.onCore sh c f).shelves = s.shelves := by
  unfold State.onCore
  split
  · exact ⟨rfl, rfl⟩
  · exact ⟨rfl, rfl⟩

theorem State.core_onCore (s : State) (sh c q : Nat) (f : Core → Core) :
    (s.onCore sh c f).core q = if s.phys sh c = some q then f (s.core q) else s.core q := by
  unfold State.onCore
  split
  · next p here =>
    rw [State.core_modCore, here]
    by_cases same : q = p
    · rw [if_pos same, if_pos (by rw [same]), same]
    · rw [if_neg same, if_neg (by simp [Ne.symm same])]
  · next none => rw [none, if_neg (by simp)]

theorem State.foldl_onCore_places {α : Type} (sh : Nat) (at_ : α → Nat) (f : α → Core → Core) (l : List α) (s : State) :
    (l.foldl (fun s x => s.onCore sh (at_ x) (f x)) s).work = s.work ∧
      (l.foldl (fun s x => s.onCore sh (at_ x) (f x)) s).shelves = s.shelves := by
  induction l generalizing s with
  | nil => exact ⟨rfl, rfl⟩
  | cons x l ih =>
    obtain ⟨work, shelves⟩ := s.onCore_places sh (at_ x) (f x)
    obtain ⟨work', shelves'⟩ := ih (s.onCore sh (at_ x) (f x))
    exact ⟨work'.trans work, shelves'.trans shelves⟩

/-- A core that a list names, always with one change, which does nothing the second time. -/
theorem State.core_foldl_onCore {α : Type} {sh q : Nat} {at_ : α → Nat} {f : α → Core → Core} {g : Core → Core}
    (twice : ∀ k, g (g k) = g k) {l : List α} {s : State} (same : ∀ x ∈ l, s.phys sh (at_ x) = some q → f x = g) :
    (l.foldl (fun s x => s.onCore sh (at_ x) (f x)) s).core q =
      if ∃ x ∈ l, s.phys sh (at_ x) = some q then g (s.core q) else s.core q := by
  induction l generalizing s with
  | nil => simp
  | cons x l ih =>
    have shelves := (s.onCore_places sh (at_ x) (f x)).2
    have phys (c : Nat) : (s.onCore sh (at_ x) (f x)).phys sh c = s.phys sh c := State.phys_congr shelves sh c
    rw [List.foldl_cons, ih fun y mem => by rw [phys]; exact same y (List.mem_cons_of_mem _ mem), State.core_onCore]
    simp only [phys, List.mem_cons, exists_eq_or_imp]
    by_cases here : s.phys sh (at_ x) = some q
    · rw [if_pos here, same x List.mem_cons_self here, twice]
      simp [here]
    · rw [if_neg here]
      simp [here]

/-! ### Serving takes a shelf (R201, R202) -/

theorem State.phys_modShelf (s : State) (sh a c : Nat) {f : Shelf → Shelf} (map : (f (s.shelf sh)).map = (s.shelf sh).map) :
    (s.modShelf sh f).phys a c = s.phys a c := by
  unfold State.phys
  rw [State.shelf_modShelf]
  by_cases here : a = sh
  · rw [if_pos here, map, here]
  · rw [if_neg here]

theorem State.lcore_modShelf (s : State) (sh a c : Nat) {f : Shelf → Shelf} (map : (f (s.shelf sh)).map = (s.shelf sh).map) :
    (s.modShelf sh f).lcore a c = s.lcore a c := by
  rw [State.lcore, State.phys_modShelf s sh a c map]
  rfl

theorem State.work_modShelf_eq (s : State) (sh : Nat) (f : Shelf → Shelf) : (s.modShelf sh f).work = s.work := rfl

theorem State.core_modShelf_eq (s : State) (sh q : Nat) (f : Shelf → Shelf) : (s.modShelf sh f).core q = s.core q := rfl

/-- A job whose state on the shelf is still to be saved. -/
def State.saves (s : State) (sh : Nat) (j : Job) : Bool :=
  (s.shelvesOf j.part).contains sh && j.saved.all fun e => e.1 / 8 ≠ sh

/-- What was placed on the shelf has run. -/
def State.shelfQuiet (s : State) (sh : Nat) : Prop := ∀ c, c < 8 → (s.lcore sh c).quiet = true

/-- Slots of the jobs that serving takes a shelf from. -/
def State.savedSlots (s : State) (sh : Nat) : List Nat := (s.work.jobs.filter (s.saves sh)).map (·.slot)

/-- The state of the jobs on a shelf is saved, and their flags are gathered. -/
def State.shelfSaved (s : State) (sh : Nat) : State :=
  ((s.savedSlots sh).foldl (fun t i => t.modJob i (·.saveShelf (s.modShelf sh (·.serves)) sh))
    (s.modShelf sh (·.serves))).gatherShelf (s.savedSlots sh) sh

section
variable {s : State} {sh : Fin 16}

theorem exec_servingPreempt_of_idle (idle : (∀ j ∈ s.work.jobs, s.saves sh j = false) ∨ ¬ s.shelfQuiet sh) :
    exec (.servingPreempt sh) s = .next (s.modShelf sh (·.serves)) := by
  have cores (c : Nat) := s.lcore_modShelf sh sh c (f := (·.serves)) rfl
  show execServingPreempt sh s = _
  refine if_pos (idle.imp (fun none => ?_) fun busy => ?_)
  · rw [List.isEmpty_iff]
    exact List.filter_eq_nil_iff.2 fun j mem => Bool.eq_false_iff.1 (none j mem)
  · rw [Bool.not_eq_true', ← Bool.not_eq_true, List.all_eq_true]
    intro all
    exact busy fun c low => (congrArg Core.quiet (cores c)).symm.trans (all c (List.mem_range.2 low))

theorem exec_servingPreempt_of_jobs (some : ∃ j ∈ s.work.jobs, s.saves sh j = true) (quiet : s.shelfQuiet sh) :
    exec (.servingPreempt sh) s = .next (s.shelfSaved sh) := by
  have cores (c : Nat) := s.lcore_modShelf sh sh c (f := (·.serves)) rfl
  show execServingPreempt sh s = _
  refine (if_neg (not_or.2 ⟨?_, ?_⟩)).trans ?_
  · rw [List.isEmpty_iff]
    intro none
    obtain ⟨j, mem, saves⟩ := some
    exact absurd (List.filter_eq_nil_iff.1 none j mem) (not_not.2 saves)
  · rw [Bool.not_eq_true, Bool.not_eq_false', List.all_eq_true]
    intro c low
    exact (congrArg Core.quiet (cores c)).trans (quiet c (List.mem_range.1 low))
  · rw [State.shelfSaved, State.savedSlots, List.foldl_map]
    rfl

end

theorem lookup_cons_eq_ite {α : Type} (e : Nat × α) (t : Tab α) (n : Nat) :
    List.lookup n (e :: t) = if n = e.1 then some e.2 else List.lookup n t := by
  by_cases here : n = e.1
  · rw [if_pos here, List.lookup_cons, beq_iff_eq.2 here]
  · rw [if_neg here, List.lookup_cons, beq_eq_false_iff_ne.2 here]

theorem lookup_tabPut {α : Type} (t : Tab α) (k n : Nat) (v : α) :
    (tabPut t k v).lookup n = if n = k then some v else t.lookup n := by
  induction t with
  | nil => exact lookup_cons_eq_ite (k, v) [] n
  | cons e t ih =>
    obtain ⟨j, w⟩ := e
    unfold tabPut
    split
    · exact lookup_cons_eq_ite (k, v) _ n
    · split
      · next same =>
        subst same
        rw [lookup_cons_eq_ite, lookup_cons_eq_ite]
        by_cases here : n = k
        · rw [if_pos here, if_pos here]
        · rw [if_neg here, if_neg here, if_neg here]
      · next differ =>
        rw [lookup_cons_eq_ite, ih, lookup_cons_eq_ite]
        by_cases here : n = k
        · subst here
          rw [if_neg differ, if_pos rfl, if_pos rfl]
        · rw [if_neg here, if_neg here]

/-- Several entries put in a table, whose places differ. -/
theorem lookup_foldl_tabPut {α : Type} (base : Nat) (v : Nat → α) (m : Nat) (t : Tab α) (n : Nat) :
    ((List.range m).foldl (fun t c => tabPut t (base + c) (v c)) t).lookup n =
      if base ≤ n ∧ n < base + m then some (v (n - base)) else t.lookup n := by
  induction m with
  | zero => rw [if_neg (by omega)]; rfl
  | succ m ih =>
    rw [List.range_succ, List.foldl_append, List.foldl_cons, List.foldl_nil, lookup_tabPut, ih]
    by_cases here : n = base + m
    · subst here
      rw [if_pos rfl, if_pos (by omega), Nat.add_sub_cancel_left]
    · rw [if_neg here]
      by_cases inside : base ≤ n ∧ n < base + m
      · rw [if_pos inside, if_pos (by omega)]
      · rw [if_neg inside, if_neg (by omega)]

/-- The registers of a shelf, as a step flag word. -/
def State.shelfFlags (s : State) (sh : Nat) : BitVec 64 :=
  (List.range 8).foldl (fun f c => stepFlagMerge f (s.lcore sh c).stepf) (s.shelf sh).churnFlags

/-- What serving makes of a job of the shelf that it takes. -/
def Job.yields (j : Job) (s : State) (sh : Nat) : Job := { j.saveShelf s sh with flags := stepFlagMerge j.flags (s.shelfFlags sh) }

theorem Job.saved_yields (j : Job) (s : State) (sh n : Nat) : (j.yields s sh).saved.lookup n =
    if n / 8 = sh then some (s.lcore sh (n % 8)).saveJob else j.saved.lookup n := by
  refine (lookup_foldl_tabPut (8 * sh) (fun c => (s.lcore sh c).saveJob) 8 j.saved n).trans ?_
  by_cases here : n / 8 = sh
  · rw [if_pos here, if_pos (by omega), show n - 8 * sh = n % 8 by omega]
  · rw [if_neg here, if_neg (by omega)]

theorem Job.savedChurn_yields (j : Job) (s : State) (sh n : Nat) : tabGet 0 (j.yields s sh).savedChurn n =
    if n = sh then (s.shelf sh).churnFlags else tabGet 0 j.savedChurn n := tabGet_set ..

theorem State.shelf_serves (s : State) (sh : Nat) : (s.modShelf sh (·.serves)).shelf sh = { s.shelf sh with serving := true } :=
  s.shelf_modShelf_same sh (·.serves)

/-- That serving is on the shelf changes nothing of what is saved. -/
theorem Job.saveShelf_serves (j : Job) (s : State) (sh : Nat) :
    j.saveShelf (s.modShelf sh (·.serves)) sh = j.saveShelf s sh := by
  have cores (c : Nat) : (s.modShelf sh (·.serves)).lcore sh c = s.lcore sh c := s.lcore_modShelf sh sh c rfl
  simp only [Job.saveShelf, cores, State.shelf_serves]

theorem State.phys_of_shelves {s t : State} {sh : Nat} (shelves : t.shelves = (s.modShelf sh (·.serves)).shelves) (c : Nat) :
    t.phys sh c = s.phys sh c := (State.phys_congr shelves sh c).trans (s.phys_modShelf sh sh c (f := (·.serves)) rfl)

theorem State.shelf_of_shelves {s t : State} {sh : Nat} (shelves : t.shelves = (s.modShelf sh (·.serves)).shelves) (q : Nat) :
    t.shelf q = if q = sh then { s.shelf sh with serving := true } else s.shelf q := by
  rw [State.shelf, shelves, ← State.shelf]
  exact s.shelf_modShelf sh q (·.serves)

/-- Jobs may change without what the flags of a shelf are gathered from. -/
theorem State.shelfFlags_of_places {s t : State} {sh : Nat} (cores : t.cores = s.cores)
    (shelves : t.shelves = (s.modShelf sh (·.serves)).shelves) : t.shelfFlags sh = s.shelfFlags sh := by
  have core (c : Nat) : t.lcore sh c = s.lcore sh c := by
    rw [State.lcore, State.phys_of_shelves shelves, State.lcore]
    simp only [State.core, cores]
  simp only [State.shelfFlags, core, State.shelf_of_shelves shelves, if_true]

/-- The jobs of the shelf, saved; and their words, with the shelf's flags. -/
def State.jobsSaved (s : State) (sh : Nat) : State :=
  (s.savedSlots sh).foldl (fun t i => t.modJob i (·.saveShelf s sh)) (s.modShelf sh (·.serves))

def Job.gathers (fl : BitVec 64) (j : Job) : Job := { j with flags := stepFlagMerge j.flags fl }

def State.flagsGathered (s : State) (sh : Nat) : State :=
  (s.savedSlots sh).foldl (fun t i => t.modJob i (·.gathers (s.shelfFlags sh))) (s.jobsSaved sh)

/-- The cores of the shelf have given their flags. -/
def State.stepfCleared (s : State) (sh : Nat) : State :=
  (List.range 8).foldl (fun s c => s.onCore sh c fun k => { k with stepf := 0 }) s

section
variable (s : State) (sh : Nat)

theorem State.jobsSaved_places :
    (s.jobsSaved sh).cores = s.cores ∧ (s.jobsSaved sh).shelves = (s.modShelf sh (·.serves)).shelves :=
  State.foldl_modJob_places (·.saveShelf s sh) (s.savedSlots sh) (s.modShelf sh (·.serves))

theorem State.flagsGathered_places :
    (s.flagsGathered sh).cores = s.cores ∧ (s.flagsGathered sh).shelves = (s.modShelf sh (·.serves)).shelves := by
  obtain ⟨cores, shelves⟩ := s.jobsSaved_places sh
  obtain ⟨cores', shelves'⟩ := State.foldl_modJob_places (·.gathers (s.shelfFlags sh)) (s.savedSlots sh) (s.jobsSaved sh)
  exact ⟨cores'.trans cores, shelves'.trans shelves⟩

theorem State.stepfCleared_places :
    (s.stepfCleared sh).work = s.work ∧ (s.stepfCleared sh).shelves = s.shelves :=
  State.foldl_onCore_places sh (fun c => c) (fun _ k => { k with stepf := 0 }) (List.range 8) s

theorem State.shelfSaved_eq : s.shelfSaved sh =
    ((s.flagsGathered sh).stepfCleared sh).modShelf sh fun h => { h with churnFlags := 0 } := by
  have saved : (s.savedSlots sh).foldl (fun t i => t.modJob i (·.saveShelf (s.modShelf sh (·.serves)) sh))
      (s.modShelf sh (·.serves)) = s.jobsSaved sh := by simp only [Job.saveShelf_serves, State.jobsSaved]
  obtain ⟨cores, shelves⟩ := s.jobsSaved_places sh
  have flags : (s.jobsSaved sh).shelfFlags sh = s.shelfFlags sh := State.shelfFlags_of_places cores shelves
  rw [State.shelfSaved, saved, State.flagsGathered, ← flags]
  rfl

/-- What is left to clear changes no job. -/
theorem State.work_shelfSaved : (s.shelfSaved sh).work = (s.flagsGathered sh).work := by
  rw [s.shelfSaved_eq sh, ← ((s.flagsGathered sh).stepfCleared_places sh).1]
  exact State.work_modShelf_eq _ sh _

theorem State.jobsMove_shelfSaved : s.JobsMove (s.shelfSaved sh) := by
  rw [s.shelfSaved_eq sh]
  have saved : s.JobsMove (s.jobsSaved sh) := .foldl (s.jobsMove_modShelf sh _) fun u i => u.jobsMove_modJob i _
  have gathered : s.JobsMove (s.flagsGathered sh) := .foldl saved fun u i => u.jobsMove_modJob i _
  have cleared : s.JobsMove ((s.flagsGathered sh).stepfCleared sh) := .foldl gathered fun u c => u.jobsMove_onCore sh c _
  exact cleared.trans (State.jobsMove_modShelf _ sh _)

/-- A job alone in its slot yields the shelf. -/
theorem State.jobOf_shelfSaved {j : Job} (alone : s.work.jobs.filter (fun x => x.slot = j.slot) = [j])
    (saves : s.saves sh j = true) : (s.shelfSaved sh).jobOf j.slot = some (j.yields s sh) := by
  have once : (s.savedSlots sh).count j.slot = 1 := count_slot_of_alone alone saves
  have here : (s.modShelf sh (·.serves)).jobOf j.slot = some j := State.jobOf_of_alone alone
  have final : (s.flagsGathered sh).jobOf j.slot = some (j.yields s sh) := by
    rw [State.flagsGathered, State.jobOf_foldl_modJob_once (f := (·.gathers (s.shelfFlags sh))) (fun _ => rfl) once,
      State.jobsSaved, State.jobOf_foldl_modJob_once (f := (·.saveShelf s sh)) (fun _ => rfl) once, here]
    rfl
  rw [← final, State.jobOf, s.work_shelfSaved sh, ← State.jobOf]

/-- The shelf serves, and its registers are clear. -/
theorem State.shelf_shelfSaved (q : Nat) : (s.shelfSaved sh).shelf q =
    if q = sh then { s.shelf sh with serving := true, churnFlags := 0 } else s.shelf q := by
  have before := State.shelf_of_shelves
    (((s.flagsGathered sh).stepfCleared_places sh).2.trans (s.flagsGathered_places sh).2)
  rw [s.shelfSaved_eq sh, State.shelf_modShelf, before, before, if_pos rfl]
  by_cases here : q = sh
  · rw [if_pos here, if_pos here]
  · rw [if_neg here, if_neg here, if_neg here]

theorem State.core_shelfSaved (q : Nat) : (s.shelfSaved sh).core q =
    if ((List.range 8).any fun c => s.phys sh c == some q) = true then { s.core q with stepf := 0 } else s.core q := by
  obtain ⟨cores, shelves⟩ := s.flagsGathered_places sh
  have core : (s.flagsGathered sh).core q = s.core q := by rw [State.core, cores, ← State.core]
  have cleared := State.core_foldl_onCore (sh := sh) (q := q) (at_ := fun c => c) (f := fun _ k => { k with stepf := 0 })
    (g := fun k => { k with stepf := 0 }) (fun _ => rfl) (l := List.range 8) (s := s.flagsGathered sh) fun _ _ _ => rfl
  rw [core, ← State.stepfCleared] at cleared
  rw [s.shelfSaved_eq sh, State.core_modShelf_eq, cleared]
  refine if_congr ?_ rfl rfl
  simp [State.phys_of_shelves shelves]

end

/-! ### Serving leaves a shelf (R202) -/

/-- A job whose state of the shelf is saved. -/
def Job.heldFor (sh : Nat) (j : Job) : Bool := j.saved.any fun e => e.1 / 8 = sh

/-- The job has its state of the shelf back. -/
def Job.resumes (sh : Nat) (j : Job) : Job :=
  let rest := j.saved.filter fun e => e.1 / 8 ≠ sh
  { j with saved := rest, savedChurn := tabSet 0 j.savedChurn sh 0, preempted := !rest.isEmpty }

/-- Serving is gone from the shelf. -/
def State.servingLeft (s : State) (sh : Nat) : State := s.modShelf sh fun h => { h with serving := false }

/-- The registers of a job are back in the cores of the shelf. -/
def State.coresRestored (s : State) (sh : Nat) (j : Job) : State :=
  (j.saved.filter fun e => e.1 / 8 = sh).foldl (fun s e => s.onCore sh (e.1 % 8) fun k => k.restoreJob e.2) (s.servingLeft sh)

/-- And its flags in the Churn unit. -/
def State.placesRestored (s : State) (sh : Nat) (j : Job) : State :=
  (s.coresRestored sh j).modShelf sh fun h =>
    { h with churnFlags := stepFlagMerge h.churnFlags (tabGet 0 j.savedChurn sh) }

/-- Slots of the jobs whose state of the shelf is saved. -/
def State.heldSlots (s : State) (sh : Nat) : List Nat := (s.work.jobs.filter (·.heldFor sh)).map (·.slot)

/-- The state of the shelf is the jobs' again. -/
def State.shelfResumed (s : State) (sh : Nat) (j : Job) : State :=
  (s.heldSlots sh).foldl (fun t i => t.modJob i (·.resumes sh)) (s.placesRestored sh j)

section
variable {s : State} {sh : Fin 16}

theorem exec_trainingResume_of_serving (serves : ∃ i ∈ s.worksOn sh, (s.wk i).kind = 1) :
    exec (.trainingResume sh) s = .next s := by
  show execTrainingResume sh s = _
  exact if_pos (by simpa using serves)

variable (left : ∀ i ∈ s.worksOn sh, (s.wk i).kind ≠ 1)
include left

theorem exec_trainingResume_of_left : exec (.trainingResume sh) s =
    match s.work.jobs.filter (·.heldFor sh) with
    | [] => .next (s.servingLeft sh)
    | j :: _ => .next (s.shelfResumed sh j) := by
  show execTrainingResume sh s = _
  refine (if_neg (by simpa using left)).trans ?_
  show (match s.work.jobs.filter (·.heldFor sh) with | [] => _ | j :: _ => _) = _
  cases held : s.work.jobs.filter (·.heldFor sh) with
  | nil => rfl
  | cons j l =>
    show _ = Host.Outcome.next (State.shelfResumed s sh j)
    rw [State.shelfResumed, State.heldSlots, List.foldl_map]
    rfl

theorem exec_trainingResume_of_none (none : s.work.jobs.find? (·.heldFor sh) = none) :
    exec (.trainingResume sh) s = .next (s.servingLeft sh) := by
  rw [← List.head?_filter, List.head?_eq_none_iff] at none
  rw [exec_trainingResume_of_left left, none]

theorem exec_trainingResume_of_held {j : Job} (some : s.work.jobs.find? (·.heldFor sh) = some j) :
    exec (.trainingResume sh) s = .next (s.shelfResumed sh j) := by
  rw [← List.head?_filter, List.head?_eq_some_iff] at some
  obtain ⟨l, held⟩ := some
  rw [exec_trainingResume_of_left left, held]

end

section
variable (s : State) (sh : Nat) (j : Job)

theorem State.coresRestored_places :
    (s.coresRestored sh j).work = s.work ∧ (s.coresRestored sh j).shelves = (s.servingLeft sh).shelves :=
  State.foldl_onCore_places sh (fun e : Nat × SavedCore => e.1 % 8) (fun e k => k.restoreJob e.2)
    (j.saved.filter fun e => e.1 / 8 = sh) (s.servingLeft sh)

theorem State.shelfResumed_places : (s.shelfResumed sh j).cores = (s.placesRestored sh j).cores ∧
    (s.shelfResumed sh j).shelves = (s.placesRestored sh j).shelves :=
  State.foldl_modJob_places (·.resumes sh) (s.heldSlots sh) (s.placesRestored sh j)

theorem State.jobsMove_shelfResumed : s.JobsMove (s.shelfResumed sh j) := by
  have left : s.JobsMove (s.servingLeft sh) := s.jobsMove_modShelf sh _
  have cores : s.JobsMove (s.coresRestored sh j) := .foldl left fun u e => u.jobsMove_onCore sh (e.1 % 8) _
  have places : s.JobsMove (s.placesRestored sh j) := cores.trans (State.jobsMove_modShelf _ sh _)
  exact .foldl places fun u i => u.jobsMove_modJob i _

/-- A job alone in its slot has nothing saved of the shelf any more. -/
theorem State.jobOf_shelfResumed {x : Job} (alone : s.work.jobs.filter (fun y => y.slot = x.slot) = [x])
    (held : x.heldFor sh = true) : (s.shelfResumed sh j).jobOf x.slot = some (x.resumes sh) := by
  have once : (s.heldSlots sh).count x.slot = 1 := count_slot_of_alone alone held
  have work : (s.placesRestored sh j).work = s.work :=
    ((s.coresRestored sh j).work_modShelf_eq sh _).trans (s.coresRestored_places sh j).1
  have here : (s.placesRestored sh j).jobOf x.slot = some x := by
    rw [State.jobOf, work, ← State.jobOf, State.jobOf_of_alone alone]
  rw [State.shelfResumed, State.jobOf_foldl_modJob_once (f := (·.resumes sh)) (fun _ => rfl) once, here]
  rfl

theorem State.shelf_servingLeft (q : Nat) :
    (s.servingLeft sh).shelf q = if q = sh then { s.shelf sh with serving := false } else s.shelf q := s.shelf_modShelf sh q _

theorem State.shelf_shelfResumed (q : Nat) : (s.shelfResumed sh j).shelf q =
    if q = sh then { s.shelf sh with
      serving := false, churnFlags := stepFlagMerge (s.shelf sh).churnFlags (tabGet 0 j.savedChurn sh) }
    else s.shelf q := by
  have cores (q : Nat) : (s.coresRestored sh j).shelf q = (s.servingLeft sh).shelf q := by
    rw [State.shelf, (s.coresRestored_places sh j).2, ← State.shelf]
  rw [State.shelf, (s.shelfResumed_places sh j).2, ← State.shelf, State.placesRestored, State.shelf_modShelf, cores, cores,
    State.shelf_servingLeft, State.shelf_servingLeft, if_pos rfl]
  by_cases here : q = sh
  · rw [if_pos here, if_pos here]
  · rw [if_neg here, if_neg here, if_neg here]

/-- A core that only one place of the shelf names gets the registers that the job saved there. -/
theorem State.core_shelfResumed {c p : Nat} {v : SavedCore} (mem : (8 * sh + c, v) ∈ j.saved)
    (one : ∀ v', (8 * sh + c, v') ∈ j.saved → v' = v) (low : c < 8) (here : s.phys sh c = some p)
    (only : ∀ c', c' < 8 → s.phys sh c' = some p → c' = c) : (s.shelfResumed sh j).core p = (s.core p).restoreJob v := by
  have phys (c : Nat) : (s.servingLeft sh).phys sh c = s.phys sh c := s.phys_modShelf sh sh c rfl
  have same : ∀ e ∈ j.saved.filter (fun e => e.1 / 8 = sh), (s.servingLeft sh).phys sh (e.1 % 8) = some p →
      (fun k : Core => k.restoreJob e.2) = (·.restoreJob v) := by
    rintro ⟨n, v'⟩ saved names
    obtain ⟨saved, place⟩ := List.mem_filter.1 saved
    have place : n / 8 = sh := by simpa using place
    have core : n % 8 = c := only (n % 8) (Nat.mod_lt n (by decide)) (by rw [← phys]; exact names)
    have where_ : n = 8 * sh + c := by omega
    subst where_
    rw [one v' saved]
  have restored := State.core_foldl_onCore (sh := sh) (q := p) (g := (·.restoreJob v)) (fun _ => rfl)
    (l := j.saved.filter fun e => e.1 / 8 = sh) (s := s.servingLeft sh) same
  have stands : ∃ e ∈ j.saved.filter (fun e => e.1 / 8 = sh), (s.servingLeft sh).phys sh (e.1 % 8) = some p :=
    ⟨(8 * sh + c, v), List.mem_filter.2 ⟨mem, by simp; omega⟩, by
      rw [phys, show (8 * sh + c) % 8 = c by omega, here]⟩
  rw [if_pos stands, ← State.coresRestored] at restored
  rw [State.core, (s.shelfResumed_places sh j).1, ← State.core, State.placesRestored, State.core_modShelf_eq, restored]
  rfl

end

/-! ### A TRAIN work's command -/

section
variable {s : State} {slot : Fin 16384}

/-- A held TRAIN work that is the next one to start. -/
def State.trainDue (s : State) (i : Nat) : Prop :=
  (s.wk i).kind = 2 ∧ (s.wk i).st = .held ∧ (s.wk i).stopped = false ∧ s.mayStart (s.slotPart i) = true ∧ s.firstHeld i = true

theorem exec_trainWork_of_not_due (wait : ¬ s.trainDue slot) : exec (.trainWork slot) s = .next s := by
  refine congrArg Host.Outcome.next (if_neg fun now => wait ?_)
  obtain ⟨kind, held, runs, may, first⟩ := now
  exact ⟨kind, held, by simpa using runs, may, first⟩

variable (due : s.trainDue slot)
include due

theorem exec_trainWork_of_due : exec (.trainWork slot) s = .next (s.startTrain slot) := by
  obtain ⟨kind, held, runs, may, first⟩ := due
  exact congrArg Host.Outcome.next (if_pos ⟨kind, held, by simp [runs], may, first⟩)

/-- A work whose start fails ends, and none of it runs. -/
theorem exec_trainWork_of_fail (alone : (s.wk slot).group = 0 ∧ (s.wk slot).aborting = false) {st : Status}
    (fails : s.startTrain slot = s.workFail slot st) : ∃ t, exec (.trainWork slot) s = .next t ∧ (t.wk slot).st = .ending ∧
      (t.wk slot).status = st ∧ ∀ j, j ≠ slot.val → t.wk j = s.wk j :=
  ⟨_, (exec_trainWork_of_due due).trans (congrArg Host.Outcome.next fails), State.wk_workFail_of_held due.2.1 alone.1 alone.2 st⟩

end

theorem State.wk_jobStarted (s : State) (i k : Nat) :
    (s.jobStarted i).wk k = if k = i then { s.wk i with st := .running } else s.wk k :=
  s.wk_modWork i k fun w => { w with st := .running }

theorem State.entry_jobStarted (s : State) (i k : Nat) : (s.jobStarted i).entry k =
    if k = daDidx (s.wk i).da then { s.entry k with area := some (gaOff (s.newJob i).area) } else s.entry k := by
  refine (State.entry_modEntry (s.modWork i fun w => { w with st := .running }) _ k _).trans ?_
  by_cases here : k = daDidx (s.wk i).da
  · rw [if_pos here, if_pos here, here]
    rfl
  · rw [if_neg here, if_neg here]
    rfl

/-- From `s` to `t` only works, jobs and entries have changed. -/
structure State.JobStarts (s t : State) : Prop where
  kept : t = { s with
    work := { s.work with slots := t.work.slots, jobs := t.work.jobs }, dir := { s.dir with entries := t.dir.entries } }

theorem State.jobStarts (s : State) (i : Nat) : s.JobStarts (s.jobStarted i) := ⟨rfl⟩

/-- What the statement says of all that stays. -/
theorem State.JobStarts.rest {s t : State} (h : s.JobStarts t) : { t with
    work := { t.work with slots := s.work.slots, jobs := s.work.jobs }, dir := { t.dir with entries := s.dir.entries } } = s := by
  rw [h.kept]

theorem State.area_newJob (s : State) (i : Nat) : (s.newJob i).area = BitVec.ofNat 64 ((s.wk i).body 8) := rfl

theorem State.restart_newJob {s : State} {i : Nat} (state : s.recState (gaOff (s.newJob i).area) ≠ 0) :
    (s.newJob i).restart = true := by
  exact Bool.or_eq_true_iff.2 (.inl (bne_iff_ne.2 state))

theorem State.sketched_newJob (s : State) (i : Nat) : (s.newJob i).sketched = true ↔ (s.wk i).body 0x38 % 2 = 0 := by
  show (!bit ((s.wk i).body 0x38) 0) = true ↔ _
  rw [bit, Nat.testBit_zero]
  simp

/-- Settles O53. -/
theorem trainingJobsStartAndYield : Obligations.TrainingJobsStartAndYield := by
  refine ⟨fun s slot => ⟨exec_trainWork_of_not_due, fun due alone foreign => ?_, fun due alone own open_ => ?_,
    fun due alone own locked out => ?_, fun st due alone own locked placed unread => ?_,
    fun bs due own locked placed read => ?_⟩, fun s sh => ⟨fun idle => ?_, fun some quiet => ?_,
    exec_trainingResume_of_serving, fun left none => ?_, fun left j0 some => ?_⟩⟩
  · exact exec_trainWork_of_fail due alone (State.startTrain_of_refused (State.trainCheck_of_not_own foreign))
  · exact exec_trainWork_of_fail due alone (State.startTrain_of_refused (State.trainCheck_of_not_locked own open_))
  · exact exec_trainWork_of_fail due alone
      (State.startTrain_of_unread (State.trainCheck_of_locked own locked) (State.areaStatus_of_not_placed out))
  · have area := State.areaStatus_of_placed placed
    rw [unread] at area
    exact exec_trainWork_of_fail due alone (State.startTrain_of_unread (State.trainCheck_of_locked own locked) area)
  · have area := State.areaStatus_of_placed placed
    rw [read] at area
    refine ⟨s.jobStarted slot, s.newJob slot, ?_, ?_, fun k other => ?_, ?_, fun k other => ?_, rfl, rfl, rfl, rfl, rfl, rfl,
      rfl, rfl, rfl, fun state => State.restart_newJob (by rcases state with state | state <;> rw [State.area_newJob, state] <;> decide),
      s.sketched_newJob slot, (s.jobStarts slot).rest⟩
    · rw [exec_trainWork_of_due due, State.startTrain_of_read (State.trainCheck_of_locked own locked) area]
    · rw [State.wk_jobStarted, if_pos rfl]
    · rw [State.wk_jobStarted, if_neg other]
    · rw [State.entry_jobStarted, if_pos rfl]
      rfl
    · rw [State.entry_jobStarted, if_neg other]
  · exact ⟨_, exec_servingPreempt_of_idle idle, onlyShelf_modShelf s sh _, s.shelf_serves sh⟩
  · refine ⟨_, exec_servingPreempt_of_jobs some quiet, fun q other => ?_, (s.jobsMove_shelfSaved sh).rest, ?_,
      s.core_shelfSaved sh, fun j alone saves => ⟨j.yields s sh, s.jobOf_shelfSaved sh alone saves, rfl, fun c low => ?_,
        fun n other => ?_, j.savedChurn_yields s sh, ?_, rfl⟩⟩
    · rw [State.shelf_shelfSaved, if_neg other]
    · rw [State.shelf_shelfSaved, if_pos rfl]
    · rw [Job.saved_yields, if_pos (by omega), show (8 * sh.val + c) % 8 = c by omega]
    · rw [Job.saved_yields, if_neg other]
    · rw [List.foldl_map]
      rfl
  · exact ⟨_, exec_trainingResume_of_none left none, onlyShelf_modShelf s sh _, s.shelf_modShelf_same sh _⟩
  · refine ⟨_, exec_trainingResume_of_held left some, fun q other => ?_, (s.jobsMove_shelfResumed sh j0).rest, ?_,
      fun j alone held => ⟨j.resumes sh, s.jobOf_shelfResumed sh j0 alone held, rfl, ?_,
        fun n => tabGet_set 0 j.savedChurn sh n 0, rfl⟩,
      fun c v p mem one low here only => s.core_shelfResumed sh j0 mem one low here only⟩
    · rw [State.shelf_shelfResumed, if_neg other]
    · rw [State.shelf_shelfResumed, if_pos rfl]
    · show (!List.isEmpty _) = true ↔ _
      simp [Job.resumes]

end Sys2Proof.Machine
end

section
/-!
PROOF. Thermal limits and supply resets (R184, R249, R376, R377, R382, R404): refuted.
-/

namespace Sys2Proof.Machine

/-- The table of slots, which is not in canonical form, holds slot 0 twice: a HELD work, which is what slot 0 reads as, and
behind it a RUNNING one. -/
def doubledSlot : State :=
  { boot := .ready, work := { slots := [(0, { st := .held }), (0, { st := .running })] } }

theorem doubledSlot_wk (k : Nat) : doubledSlot.wk k = if k = 0 then { st := .held } else {} := by
  show tabGet {} ([(0, { st := .held }), (0, { st := .running })] : Tab Work) k = _
  by_cases zero : k = 0
  · subst zero
    rfl
  · simp [tabGet, Ne.symm zero, zero]

/-- No work there is a part of a group. -/
theorem doubledSlot_group (k : Nat) : (doubledSlot.wk k).group = 0 := by
  rw [doubledSlot_wk]
  split
  · decide +kernel
  · decide +kernel

/-- State of slot 0 in the next state of an outcome; FREE where there is none. -/
def Out.firstSlot : Out → WState
  | .next t => (t.wk 0).st
  | .fault _ => .free
  | .refused _ => .free

/-- The supply reset counts slot 0 among the works that run, and ends the HELD one. -/
theorem supplyReset_doubledSlot_ends {t : State} (run : exec (.supplyReset 0) doubledSlot = .next t) :
    (t.wk 0).st = .ending := by
  have ends : Out.firstSlot (exec (.supplyReset 0) doubledSlot) = .ending := by decide +kernel
  rw [run] at ends
  exact ends

/-- Refutes O45: in `doubledSlot` the work of slot 0 is HELD and has no command that waits, so that the statement has it
stay; the supply reset ends it, since it takes the running works from the entries of the table, where the clause on HELD
works, unlike those on the restart, does not ask for one entry of each slot. -/
theorem not_thermalAndSupply : ¬ Obligations.ThermalAndSupply := by
  unfold Obligations.ThermalAndSupply
  intro claim
  obtain ⟨-, -, -, -, -, islands⟩ := claim doubledSlot
  obtain ⟨-, resets, -⟩ := islands 0
  obtain ⟨t, run, -, -, -, -, held, -⟩ := resets rfl rfl rfl fun k _ => .inl (doubledSlot_group k)
  have here : doubledSlot.wk 0 = { st := .held } := doubledSlot_wk 0
  have other : ¬ ((doubledSlot.wk 0).kind = 1 ∧ (doubledSlot.wk 0).handed = true ∧ doubledSlot.slotPart 0 = 0) :=
    fun ⟨_, handed, _⟩ => absurd handed (by rw [here]; decide)
  have stays : t.wk 0 = { st := .held } :=
    (held 0 (by rw [here]) (by simp [State.waitingCmds, doubledSlot])).trans ((if_neg other).trans here)
  have ends := supplyReset_doubledSlot_ends run
  rw [stays] at ends
  exact absurd ends (by decide)

end Sys2Proof.Machine
end
